-- ==== Sys2Proof/Word.lean ====
section
/-! DEFINITION. The byte, the 64-bit word, and the plain data helpers that every file uses: little-endian
fields (R7, R8), padding, and tables kept as lists in rising key order. -/

namespace Sys2Proof

/-- One byte of memory, of a packet or of a message. -/
abbrev Byte := BitVec 8

/-- A 64-bit register, packet field or GF(2^64) value (R8, R12). -/
abbrev Word := BitVec 64

/-- The value of a little-endian byte list (R7): the first byte holds bits [7:0]. -/
def leNat : List Byte → Nat
  | [] => 0
  | b :: bs => b.toNat + 256 * leNat bs

/-- `n` little-endian bytes of a number (R7); the number is taken modulo 256^n. -/
def leBytes : Nat → Nat → List Byte
  | 0, _ => []
  | n + 1, v => BitVec.ofNat 8 v :: leBytes n (v / 256)

/-- `n` bytes from offset `off`, zero beyond the list's end. -/
def slice (l : List Byte) (off n : Nat) : List Byte :=
  let d := (l.drop off).take n
  d ++ List.replicate (n - d.length) 0

/-- The little-endian number of `n` bytes at offset `off`. -/
def field (l : List Byte) (off n : Nat) : Nat := leNat (slice l off n)

/-- `l` with the bytes of `d` written from offset `off`; the length of `l` stays. -/
def overlay (l : List Byte) (off : Nat) (d : List Byte) : List Byte :=
  (l.take off ++ (d ++ l.drop (off + d.length)).take (l.length - off)).take l.length

/-- `l` cut or padded with zero bytes to length `n`. -/
def padTo (n : Nat) (l : List Byte) : List Byte := slice l 0 n

/-- Bytewise XOR of two lists; the longer one keeps its tail. -/
def xorBytes : List Byte → List Byte → List Byte
  | [], ys => ys
  | x :: xs, [] => x :: xs
  | x :: xs, y :: ys => (x ^^^ y) :: xorBytes xs ys

/-- Bitwise complement of every byte. -/
def invBytes (l : List Byte) : List Byte := l.map (fun b => ~~~b)

/-- Every byte of the list is zero. -/
def allZero (l : List Byte) : Bool := l.all (fun b => b == 0)

/-- 4,096 zero bytes: a never-written or virtual stitch (R108, R383). -/
def zeroPage : List Byte := List.replicate 4096 0

/-- 4,096 bytes of 0xFF: the poison pattern of one page (R384). -/
def poisonPage : List Byte := List.replicate 4096 0xFF

/-- The poison pattern of `n` bytes (R384). -/
def poison (n : Nat) : List Byte := List.replicate n 0xFF

/-- The addition of a saturating counter (R494). -/
def satAdd (bits c k : Nat) : Nat := Nat.min (c + k) (2 ^ bits - 1)

/-- `a / b` rounded up. -/
def ceilDiv (a b : Nat) : Nat := (a + b - 1) / b

/-- `a` rounded up to a multiple of `b`. -/
def roundUp (a b : Nat) : Nat := ceilDiv a b * b

/-- The value kept under key `k`. -/
def Tab.get {α : Type} : List (Nat × α) → Nat → Option α
  | [], _ => none
  | (j, v) :: l, k => if j = k then some v else Tab.get l k

/-- `l` with the value `v` under key `k`, keys kept rising. -/
def Tab.set {α : Type} : List (Nat × α) → Nat → α → List (Nat × α)
  | [], k, v => [(k, v)]
  | (j, w) :: l, k, v =>
    if k < j then (k, v) :: (j, w) :: l
    else if k = j then (k, v) :: l
    else (j, w) :: Tab.set l k v

/-- `l` without key `k`. -/
def Tab.del {α : Type} (l : List (Nat × α)) (k : Nat) : List (Nat × α) :=
  l.filter (fun p => p.1 != k)

/-- The value under key `k`, or `d` when no entry lists it. -/
def Tab.getD {α : Type} (l : List (Nat × α)) (k : Nat) (d : α) : α := (Tab.get l k).getD d

/-- The smallest number below `n` that the test passes, or `n`. -/
def leastBelow (n : Nat) (p : Nat → Bool) : Nat := ((List.range n).find? p).getD n

/-- Replace the first element that the test passes. -/
def updFirst {α : Type} (p : α → Bool) (f : α → α) : List α → List α
  | [] => []
  | x :: xs => if p x then f x :: xs else x :: updFirst p f xs

/-- Remove the first element that the test passes. -/
def delFirst {α : Type} (p : α → Bool) : List α → List α
  | [] => []
  | x :: xs => if p x then xs else x :: delFirst p xs

/-- Insert by rising key, after equal keys. -/
def insertOn {α : Type} (f : α → Nat) (x : α) : List α → List α
  | [] => [x]
  | y :: ys => if f x < f y then x :: y :: ys else y :: insertOn f x ys

/-- The list by rising key; equal keys keep their order. -/
def sortOn {α : Type} (f : α → Nat) (l : List α) : List α := l.foldl (fun acc x => insertOn f x acc) []

/-- Two numbers of one `Nat` key pair joined to a single table key. -/
def key2 (a b : Nat) : Nat := a * 2 ^ 40 + b

end Sys2Proof
end

