-- ==== Sys2Proof/Config.lean ====
section
/-! DEFINITION. What the manual fixes for every Padun (bounds and sizes, each with its rule), and the
free values: opaque constants for the numbers that the manual leaves open. -/

namespace Sys2Proof.Config

/-- A free value for a number that the manual leaves open (which free region number a mapping takes, R52).
Nothing constrains it; it is applied to `State.fresh`. -/
opaque freeNat : Nat → Nat

/-- Upper tier: 562.8 GiB addressable, taken as the whole pages of 12 stacks of 48 GiB less the record area
(R371): 576 GiB × 4,096 / 4,192, rounded down to 12 × 4 KiB. -/
def upperPages : Nat := (576 * 2 ^ 30 / 4192) / 12 * 12

/-- Lower tier: 2 TiB × 4,096 / 4,192, rounded down to 4 × 4 KiB (R371). -/
def lowerPages : Nat := (2 * 2 ^ 40 / 4192) / 4 * 4

/-- The page keys of the lower tier start here; upper-tier keys lie below. -/
def lowerKey : Nat := 2 ^ 51

def pairEntries : Nat := 2048        -- R75
def foldEntries : Nat := 1024        -- R153
def mergeEntries : Nat := 128        -- R388
def trackedMax : Nat := 4096         -- control hierarchy, R148
def repairMax : Nat := 64            -- R379
def keptKeys : Nat := 64             -- R431
def memberTimeout : Nat := 2000000   -- R193, ns
def resendTime : Nat := 250000       -- R434, ns
def remoteTime : Nat := 2000000      -- R439, ns
def watchdogTime : Nat := 10000000   -- R28, ns
def hatboxHold : Nat := 2000000000   -- R186, ns
def testHold : Nat := 700000         -- R186, ns
def ctrlReady : Nat := 100000000     -- R540, ns
def hwarnStuck : Nat := 10000000000  -- R564, ns
def hwarnClear : Nat := 1000000000   -- R564, ns
def testGap : Nat := 1000000         -- R556, ns
def overdueTime : Nat := 14400000000000 -- R558, 4 h in ns
def mergeIdle : Nat := 1000          -- R389, ns
def ceWindow : Nat := 1000000000     -- R368, ns
def loopMax : Nat := 64              -- messages to itself that one event passes on (R227; log entry 99)
def arenaMax : Nat := 288 * 2 ^ 30   -- R112
def palmMax : Nat := 96 * 2 ^ 30     -- R56
def groupsMax : Nat := 256 * 2 ^ 20  -- R56
def handAlign : Nat := 48 * 1024     -- R55, R109

end Sys2Proof.Config
end

