-- ==== Sys2Proof/Syntax.lean ====
section
/-! DEFINITION. The commands that the block takes from outside: one constructor of `Instr` for each row of
spec/opcode_table.json, with the packets, messages and requests they carry. -/

namespace Sys2Proof

/-- One 32-byte burst that a controller returned otherwise than clean and as stored (R36): status 01 corrected,
10 and 11 uncorrectable. Burst 0 to 127 lies in the page, 128 to 130 in its record (R371). -/
structure Burst where
  page : Nat
  index : Nat
  status : BitVec 2
  data : List Byte
  deriving DecidableEq, Repr

/-- What a glove's members give a chip that takes a seat or serves as witness (R219, R243, R312): the geometry and limits,
the tag key, the shape descriptor, the current cuff bank by member, the attempt number, the lost and hosted seats, each deal
as (member, deal unit, hosts in order, GROUPS count), the seats being filled with the (member, stripe) pairs filled already
and those that lack content (R197), and each running darn as (number, lost member, stand-in mode, BOOST). -/
structure SeatInfo where
  n : Nat
  m : Nat
  q : List Nat
  key : BitVec 128
  shape : List Byte
  bank : List (Nat × List Byte)
  attempt : Nat
  lost : BitVec 32
  standin : BitVec 32
  deals : List (Nat × Nat × List Nat × Nat)
  filling : BitVec 32
  filled : List (Nat × Nat)
  lacking : List (Nat × Nat)
  darns : List (Nat × Nat × Bool × Bool)
  deriving DecidableEq, Repr

/-- What another chip of the glove did that no message of the manual carries, but that this chip's rules act on
(R197, R221, R243, R318). Log entry 22 says why it is an input. -/
inductive News where
  /-- R221: the last fill bit of darn `darn` cleared at `stamp`; `failed` lists the stripes of the failed stitches. -/
  | darnEnded (ctx darn : Nat) (failed : List Nat) (stamp : Nat)
  /-- R197: another member's stitch has come to lack content. -/
  | lacking (ctx member stripe : Nat)
  /-- R197: another member's stitch that lacked content has been rebuilt. -/
  | rebuilt (ctx member stripe : Nat)
  /-- R243: every host reports no copy bit but those the crown set. -/
  | copiesClear (ctx : Nat)
  /-- R243: every host's last stitch flipped at T has been acknowledged. -/
  | handoverDone (ctx : Nat)
  /-- R318: the witness chip ended its fill with `failed` stitches that failed their checks. -/
  | fillEnded (ctx w failed : Nat)
  /-- R219, R243, R312: what the glove's members give the chip that takes a seat or witnesses. -/
  | seatInfo (ctx : Nat) (info : SeatInfo)
  deriving DecidableEq, Repr

/-- The error patterns of the lanes that compute one product (R402 to R405): the primary, its shadow, the
neighbour, and the neighbour's own shadow in a second round. A zero pattern is a correct result. -/
structure LaneError where
  primary : Byte
  shadow : Byte
  third : Byte
  again : Byte
  deriving DecidableEq, Repr

/-- What a lane computed at training (R403): the product of every coefficient with an all-ones byte, in order, and the
page-code parity of an all-ones page. -/
structure LaneRom where
  products : List Byte
  parity : List Byte
  deriving DecidableEq, Repr

/-- The circumstances of one event at Padun's input ports: the band count at which it happens (R47; in a band fault
the unit's own local count, R567), the controllers' answers that differ from stored content (R36), the lanes' errors,
and news. -/
structure Ev where
  t : Nat
  ctl : List Burst
  lane : Option LaneError
  news : List News
  deriving DecidableEq, Repr

/-- Torus coordinates of a chip (R125). -/
structure Coord where
  x : Nat
  y : Nat
  z : Nat
  deriving DecidableEq, Repr

/-- A command packet (R451) with the ring that carried it and its packet count (R444). -/
structure Cmd where
  ring : Nat
  count : Nat
  bytes : List Byte
  deriving DecidableEq, Repr

/-- A stitch message as it crosses the fabric (R410). -/
structure Wire where
  code : Byte
  context : Byte
  glove : BitVec 16
  member : Byte
  body : List Byte
  crc : BitVec 32
  payload : List Byte
  deriving DecidableEq, Repr

/-- A memory request at the network side (R32). `data` is empty for a read; `len` is its length in bytes. -/
structure Req where
  id : Nat
  src : Nat
  ctx : Nat
  tag : Nat
  final : Bool
  lower : Bool
  addr : Nat
  len : Nat
  data : List Byte
  deriving DecidableEq, Repr

/-- What the answer to a remote operation carries: its bytes, and the network's poison indication where they hold the poison pattern
(R384, R439). -/
structure RemoteData where
  bytes : List Byte
  mark : Bool
  deriving DecidableEq, Repr

/-- A Bexli remote-memory operation (R437): region number, offset, length and key, from the requesting chip. -/
structure RemoteOp where
  id : Nat
  src : Coord
  write : Bool
  region : Nat
  off : Nat
  len : Nat
  key : Word
  data : List Byte
  deriving DecidableEq, Repr

/-- The fabric's status as the CU sees it (R39 to R41): coordinates, flags, ports down, and for each chip one hop away
the optical ports whose cables end at it. -/
structure FabricStatus where
  coord : Coord
  verified : Bool
  swapped : Bool
  down : BitVec 48
  cables : List (Coord × BitVec 48)
  deriving DecidableEq, Repr

/-- The three holds of a crown vote (R186). -/
inductive Hold where
  | witness
  | hatbox
  | test
  deriving DecidableEq, Repr

/-- The key of a coding collective (R427). -/
structure CollKey where
  ctx : Nat
  step : Nat
  glove : Nat
  phase : Nat
  deriving DecidableEq, Repr

/-- The commands of the block: one constructor for each row of the opcode table, in the table's order. -/
inductive Instr where
  | chipReset (e : Ev) (powerLost : Bool)
  | resetRelease (e : Ev) (straps : BitVec 22)
  | firmwareRelease (e : Ev) (image : List Byte)
  | firmwareStart (e : Ev)
  | controllerReady (e : Ev) (i : Fin 16) (lpddr wordCode pseudo : Bool)
  | controllerReadyTimeout (e : Ev) (i : Fin 16)
  | laneTrainingDone (e : Ev) (i : Fin 16) (passed : BitVec 8) (encoded : List LaneRom)
  | bandAcquire (e : Ev)
  | bandFault (e : Ev) (bad : Nat) (validFell : Bool)
  | bandStall (e : Ev)
  | watchdogExpiry (e : Ev) (pc : Word)
  | watchdogService (e : Ev)
  | linkDown (e : Ev) (port : Fin 48)
  | coordVerifiedChange (e : Ev) (f : FabricStatus)
  | residueAlarm (e : Ev) (pulses : Nat)
  | hwarnEdgeFiltered (e : Ev) (n : Fin 8) (level : Bool)
  | hwarnGlitch (e : Ev) (n : Fin 8)
  | hwarnStuck (e : Ev) (n : Fin 8)
  | hwarnUnstuck (e : Ev) (n : Fin 8)
  | clampRise (e : Ev)
  | clampFall (e : Ev)
  | boostGrantRise (e : Ev)
  | boostGrantFall (e : Ev)
  | peakLimitReached (e : Ev)
  | peakLimitCleared (e : Ev)
  | ieee1687Write (e : Ev) (i : Fin 16) (instrument : Nat) (value : Word)
  | debugHaltRequest (e : Ev)
  | doorbell (e : Ev) (value : Word)
  | packetFetch (e : Ev) (ring : Nat)
  | commandAccept (e : Ev) (ring : Nat)
  | deferredStart (e : Ev) (ring count : Nat)
  | ctxOpen (e : Ev) (c : Cmd)
  | ctxClose (e : Ev) (c : Cmd)
  | regionMap (e : Ev) (c : Cmd)
  | regionUnmap (e : Ev) (c : Cmd)
  | regionFill (e : Ev) (c : Cmd)
  | gloveForm (e : Ev) (c : Cmd)
  | gloveDissolve (e : Ev) (c : Cmd)
  | gloveQuery (e : Ev) (c : Cmd)
  | stepOpen (e : Ev) (c : Cmd)
  | drainClose (e : Ev) (c : Cmd)
  | crown (e : Ev) (c : Cmd)
  | rollback (e : Ev) (c : Cmd)
  | witnessArm (e : Ev) (c : Cmd)
  | witnessVerdict (e : Ev) (c : Cmd)
  | darnStart (e : Ev) (c : Cmd)
  | darnStitch (e : Ev) (c : Cmd)
  | standinAssign (e : Ev) (c : Cmd)
  | evacuate (e : Ev) (c : Cmd)
  | evacuateSelf (e : Ev) (c : Cmd)
  | admission (e : Ev) (c : Cmd)
  | hatboxConfigure (e : Ev) (c : Cmd)
  | hatboxWrite (e : Ev) (c : Cmd)
  | hatboxRestore (e : Ev) (c : Cmd)
  | imageExport (e : Ev) (c : Cmd)
  | imageImport (e : Ev) (c : Cmd)
  | digestArm (e : Ev) (c : Cmd)
  | digestRead (e : Ev) (c : Cmd)
  | tallyArm (e : Ev) (c : Cmd)
  | tallyRead (e : Ev) (c : Cmd)
  | tilePromote (e : Ev) (c : Cmd)
  | tileEvict (e : Ev) (c : Cmd)
  | brimOpen (e : Ev) (c : Cmd)
  | brimAdvance (e : Ev) (c : Cmd)
  | brimClose (e : Ev) (c : Cmd)
  | quotaSet (e : Ev) (c : Cmd)
  | quotaSetPool (e : Ev) (c : Cmd)
  | scrubCtrl (e : Ev) (c : Cmd)
  | testRun (e : Ev) (c : Cmd)
  | measureGet (e : Ev) (c : Cmd)
  | sealSet (e : Ev) (c : Cmd)
  | fenceSignal (e : Ev) (c : Cmd)
  | nop (e : Ev) (c : Cmd)
  | faultClear (e : Ev) (u : Fin 17) (bits : Word) (raised : BitVec 34)
  | faultSet (e : Ev) (u : Fin 17) (bits : Word)
  | firstFaultRearm (e : Ev) (u : Fin 17)
  | hwarnLatchClear (e : Ev) (bits : Word)
  | laneDisable (e : Ev) (i : Fin 16) (k : Fin 8)
  | laneEnable (e : Ev) (i : Fin 16) (k : Fin 8)
  | instDisable (e : Ev) (i : Fin 16)
  | instEnable (e : Ev) (i : Fin 16)
  | laneStopDone (e : Ev) (i : Fin 16) (k : Fin 8)
  | instStopDone (e : Ev) (i : Fin 16)
  | handleWrite (e : Ev) (h : Fin 4096) (w : Fin 4) (value : Word)
  | cuffSnapshotRead (e : Ev) (k : Fin 4)
  | complementRegisterRead (e : Ev) (off : Nat)
  | sealedRegisterWrite (e : Ev) (off : Nat) (value : Word)
  | badRegisterAccess (e : Ev) (off : Nat) (write : Bool) (value : Word)
  | registerWrite (e : Ev) (off : Nat) (value : Word)
  | memoryRead (e : Ev) (r : Req)
  | memoryWrite (e : Ev) (r : Req)
  | updateRead (e : Ev) (r : Req)
  | updateWrite (e : Ev) (r : Req)
  | heldWriteApply (e : Ev) (i : Fin 16)
  | tierParityFold (e : Ev) (i : Fin 16)
  | remoteRequest (e : Ev) (h : Fin 4096) (r : Req)
  | remoteOperation (e : Ev) (op : RemoteOp)
  | remoteAnswer (e : Ev) (id : Nat) (status : Byte) (data : RemoteData)
  | remoteTimeout (e : Ev) (id : Nat)
  | governorUpdate (e : Ev) (i : Fin 16) (busy : Bool)
  | deltaSend (e : Ev) (i : Fin 16)
  | messageResend (e : Ev) (id : Nat)
  | memberTimeout (e : Ev) (id : Nat)
  | delta (e : Ev) (src : Coord) (m : Wire)
  | deltaAck (e : Ev) (src : Coord) (m : Wire)
  | chipDrained (e : Ev) (ctx : Nat)
  | drainDeadline (e : Ev) (ctx : Nat)
  | vote (e : Ev) (src : Coord) (m : Wire)
  | voteClose (e : Ev) (ctx : Nat)
  | crownMessage (e : Ev) (src : Coord) (m : Wire)
  | crownTakesEffect (e : Ev) (ctx : Nat)
  | flipSweepDone (e : Ev) (ctx : Nat)
  | undecidedTimeout (e : Ev) (ctx : Nat)
  | votingTimeout (e : Ev) (ctx : Nat)
  | holdBound (e : Ev) (ctx : Nat) (h : Hold)
  | discardDone (e : Ev) (ctx : Nat)
  | abort (e : Ev) (src : Coord) (m : Wire)
  | collectiveClose (e : Ev) (k : CollKey)
  | collectiveAloneTimeout (e : Ev) (k : CollKey)
  | keptKeyExpiry (e : Ev) (k : CollKey)
  | formPassSend (e : Ev) (ctx : Nat)
  | backgroundDarnChain (e : Ev) (ctx darn : Nat)
  | darnReq (e : Ev) (src : Coord) (m : Wire)
  | darnPart (e : Ev) (src : Coord) (m : Wire)
  | darnDone (e : Ev) (src : Coord) (m : Wire)
  | admitCopySend (e : Ev) (ctx : Nat)
  | hatboxPart (e : Ev) (src : Coord) (m : Wire)
  | hatboxPieceWrite (e : Ev) (ctx : Nat)
  | sealWrite (e : Ev) (ctx : Nat)
  | seal (e : Ev) (src : Coord) (m : Wire)
  | witnessDigest (e : Ev) (src : Coord) (m : Wire)
  | exportPart (e : Ev) (m : Wire)
  | storageTimeout (e : Ev) (ctx : Nat)
  | promotionCopyDone (e : Ev) (region tile : Nat)
  | promotionDeadline (e : Ev) (id : Nat)
  | frameFreed (e : Ev)
  | weightsScanDone (e : Ev) (slot : Nat)
  | mergeIdleEvict (e : Ev) (page : Nat)
  | wordCeWindow (e : Ev)
  | scrubRead (e : Ev) (i : Fin 16) (idle : Nat)
  | scrubLapLimit (e : Ev) (i : Fin 16)
  | testDue (e : Ev) (i : Fin 16)
  | testOverdue (e : Ev) (i : Fin 16)
  | testComplete (e : Ev) (i : Fin 16) (lbist mbist : Bool)
  | restorePieceWrite (e : Ev) (ctx : Nat)
  | exportPartSend (e : Ev) (ctx : Nat)
  | regionFillPageWrite (e : Ev) (region : Nat) (i : Fin 16)
  deriving DecidableEq, Repr

/-- The circumstances of a command: when it happens and what the surroundings then report. -/
def Instr.event : Instr → Ev
  | .chipReset e _ => e
  | .resetRelease e _ => e
  | .firmwareRelease e _ => e
  | .firmwareStart e => e
  | .controllerReady e _ _ _ _ => e
  | .controllerReadyTimeout e _ => e
  | .laneTrainingDone e _ _ _ => e
  | .bandAcquire e => e
  | .bandFault e _ _ => e
  | .bandStall e => e
  | .watchdogExpiry e _ => e
  | .watchdogService e => e
  | .linkDown e _ => e
  | .coordVerifiedChange e _ => e
  | .residueAlarm e _ => e
  | .hwarnEdgeFiltered e _ _ => e
  | .hwarnGlitch e _ => e
  | .hwarnStuck e _ => e
  | .hwarnUnstuck e _ => e
  | .clampRise e => e
  | .clampFall e => e
  | .boostGrantRise e => e
  | .boostGrantFall e => e
  | .peakLimitReached e => e
  | .peakLimitCleared e => e
  | .ieee1687Write e _ _ _ => e
  | .debugHaltRequest e => e
  | .doorbell e _ => e
  | .packetFetch e _ => e
  | .commandAccept e _ => e
  | .deferredStart e _ _ => e
  | .ctxOpen e _ => e
  | .ctxClose e _ => e
  | .regionMap e _ => e
  | .regionUnmap e _ => e
  | .regionFill e _ => e
  | .gloveForm e _ => e
  | .gloveDissolve e _ => e
  | .gloveQuery e _ => e
  | .stepOpen e _ => e
  | .drainClose e _ => e
  | .crown e _ => e
  | .rollback e _ => e
  | .witnessArm e _ => e
  | .witnessVerdict e _ => e
  | .darnStart e _ => e
  | .darnStitch e _ => e
  | .standinAssign e _ => e
  | .evacuate e _ => e
  | .evacuateSelf e _ => e
  | .admission e _ => e
  | .hatboxConfigure e _ => e
  | .hatboxWrite e _ => e
  | .hatboxRestore e _ => e
  | .imageExport e _ => e
  | .imageImport e _ => e
  | .digestArm e _ => e
  | .digestRead e _ => e
  | .tallyArm e _ => e
  | .tallyRead e _ => e
  | .tilePromote e _ => e
  | .tileEvict e _ => e
  | .brimOpen e _ => e
  | .brimAdvance e _ => e
  | .brimClose e _ => e
  | .quotaSet e _ => e
  | .quotaSetPool e _ => e
  | .scrubCtrl e _ => e
  | .testRun e _ => e
  | .measureGet e _ => e
  | .sealSet e _ => e
  | .fenceSignal e _ => e
  | .nop e _ => e
  | .faultClear e _ _ _ => e
  | .faultSet e _ _ => e
  | .firstFaultRearm e _ => e
  | .hwarnLatchClear e _ => e
  | .laneDisable e _ _ => e
  | .laneEnable e _ _ => e
  | .instDisable e _ => e
  | .instEnable e _ => e
  | .laneStopDone e _ _ => e
  | .instStopDone e _ => e
  | .handleWrite e _ _ _ => e
  | .cuffSnapshotRead e _ => e
  | .complementRegisterRead e _ => e
  | .sealedRegisterWrite e _ _ => e
  | .badRegisterAccess e _ _ _ => e
  | .registerWrite e _ _ => e
  | .memoryRead e _ => e
  | .memoryWrite e _ => e
  | .updateRead e _ => e
  | .updateWrite e _ => e
  | .heldWriteApply e _ => e
  | .tierParityFold e _ => e
  | .remoteRequest e _ _ => e
  | .remoteOperation e _ => e
  | .remoteAnswer e _ _ _ => e
  | .remoteTimeout e _ => e
  | .governorUpdate e _ _ => e
  | .deltaSend e _ => e
  | .messageResend e _ => e
  | .memberTimeout e _ => e
  | .delta e _ _ => e
  | .deltaAck e _ _ => e
  | .chipDrained e _ => e
  | .drainDeadline e _ => e
  | .vote e _ _ => e
  | .voteClose e _ => e
  | .crownMessage e _ _ => e
  | .crownTakesEffect e _ => e
  | .flipSweepDone e _ => e
  | .undecidedTimeout e _ => e
  | .votingTimeout e _ => e
  | .holdBound e _ _ => e
  | .discardDone e _ => e
  | .abort e _ _ => e
  | .collectiveClose e _ => e
  | .collectiveAloneTimeout e _ => e
  | .keptKeyExpiry e _ => e
  | .formPassSend e _ => e
  | .backgroundDarnChain e _ _ => e
  | .darnReq e _ _ => e
  | .darnPart e _ _ => e
  | .darnDone e _ _ => e
  | .admitCopySend e _ => e
  | .hatboxPart e _ _ => e
  | .hatboxPieceWrite e _ => e
  | .sealWrite e _ => e
  | .seal e _ _ => e
  | .witnessDigest e _ _ => e
  | .exportPart e _ => e
  | .storageTimeout e _ => e
  | .promotionCopyDone e _ _ => e
  | .promotionDeadline e _ => e
  | .frameFreed e => e
  | .weightsScanDone e _ => e
  | .mergeIdleEvict e _ => e
  | .wordCeWindow e => e
  | .scrubRead e _ _ => e
  | .scrubLapLimit e _ => e
  | .testDue e _ => e
  | .testOverdue e _ => e
  | .testComplete e _ _ _ => e
  | .restorePieceWrite e _ => e
  | .exportPartSend e _ => e
  | .regionFillPageWrite e _ _ => e

end Sys2Proof
end

