-- ==== Sys2Proof/Decode.lean ====
section
/-! DEFINITION. The commands that spec/opcode_table.json spells in bits. No row of the table has a fixed bit or a field,
so no word spells a command: a command comes as the operands of its constructor (log entry 1). -/

namespace Sys2Proof

/-- The command that a word spells by the table's bits: none, since the table gives no row a bit. -/
def decodeTableWord (_nbits _w : Nat) : Option Instr := none

end Sys2Proof
end

