-- ==== Sys2Proof/Machine/Crypto.lean ====
section
/-! DEFINITION. The public functions that the manual names and does not define: SHA-384 (R90, R119, R120, R127, R537),
AES-128 encryption (R114, R289, R299), and the two CRCs that it does define (R89, R374). SHA-384 follows FIPS 180-4 and
AES-128 follows FIPS 197. PRESUMED: log entry 6. -/

namespace Sys2Proof.Machine

/-- The first eighty primes: the numbers from 2 to 409 that no smaller number from 2 to 20 divides. -/
def primes80 : List Nat :=
  (List.range 410).filter (fun p => decide (2 ≤ p) && (List.range 21).all (fun d => decide (d < 2 ∨ p ≤ d ∨ p % d ≠ 0)))

/-- The largest number below `r + 2^n` whose power `e` does not pass `x`, found bit by bit from the top. -/
def rootFrom (e x : Nat) : Nat → Nat → Nat
  | 0, r => r
  | n + 1, r => rootFrom e x n (if (r + 2 ^ n) ^ e ≤ x then r + 2 ^ n else r)

/-- The first 64 bits of the fractional part of the root of order `e` of a prime below 512: FIPS 180-4 takes the
constants of SHA-384 so (PRESUMED: log entry 6). -/
def rootBits (e p : Nat) : Word := BitVec.ofNat 64 (rootFrom e (p * 2 ^ (64 * e)) 69 0)

/-- The round constants of SHA-384: cube roots of the first eighty primes. -/
def shaRoundWords : List Word := primes80.map (rootBits 3)

/-- The initial hash value of SHA-384: square roots of the ninth to the sixteenth prime. -/
def shaInit : List Word := ((primes80.drop 8).take 8).map (rootBits 2)

/-- The word at position `i` of a list, zero beyond its end. -/
def wordAt (l : List Word) (i : Nat) : Word := l.getD i 0

/-- One step of the message schedule; `w` lists the words so far, newest first. -/
def shaExtend (w : List Word) : List Word :=
  let x := wordAt w 1
  let y := wordAt w 14
  let s1 := (x.rotateRight 19) ^^^ (x.rotateRight 61) ^^^ (x >>> 6)
  let s0 := (y.rotateRight 1) ^^^ (y.rotateRight 8) ^^^ (y >>> 7)
  (s1 + wordAt w 6 + s0 + wordAt w 15) :: w

/-- `n` further words of the message schedule. -/
def shaSchedule : Nat → List Word → List Word
  | 0, w => w
  | n + 1, w => shaSchedule n (shaExtend w)

/-- One compression round on the eight working words. -/
def shaRound (v : List Word) (kw : Word) : List Word :=
  match v with
  | [a, b, c, d, e, f, g, h] =>
    let t1 := h + ((e.rotateRight 14) ^^^ (e.rotateRight 18) ^^^ (e.rotateRight 41)) + ((e &&& f) ^^^ (~~~e &&& g)) + kw
    let t2 := ((a.rotateRight 28) ^^^ (a.rotateRight 34) ^^^ (a.rotateRight 39)) + ((a &&& b) ^^^ (a &&& c) ^^^ (b &&& c))
    [t1 + t2, a, b, c, d + t1, e, f, g]
  | _ => v

/-- The big-endian 64-bit words of a byte list. -/
def beWords : Nat → List Byte → List Word
  | 0, _ => []
  | n + 1, l => BitVec.ofNat 64 (leNat (slice l 0 8).reverse) :: beWords n (l.drop 8)

/-- The compression of one 128-byte block into the hash value. -/
def shaBlock (h : List Word) (block : List Byte) : List Word :=
  let w := (shaSchedule 64 (beWords 16 block).reverse).reverse
  let kw := List.zipWith (· + ·) shaRoundWords w
  List.zipWith (· + ·) h (kw.foldl shaRound h)

/-- The hash of `n` blocks. -/
def shaBlocks : Nat → List Word → List Byte → List Word
  | 0, h, _ => h
  | n + 1, h, l => shaBlocks n (shaBlock h (l.take 128)) (l.drop 128)

/-- The padded message: a one bit, zeros, and the length in bits as 16 big-endian bytes. -/
def shaPad (l : List Byte) : List Byte :=
  l ++ [0x80] ++ List.replicate ((111 + 128 - l.length % 128) % 128) 0 ++ (leBytes 16 (8 * l.length)).reverse

/-- SHA-384 of a byte list: 48 bytes. -/
def sha384 (l : List Byte) : List Byte :=
  let p := shaPad l
  (((shaBlocks (p.length / 128) shaInit p).take 6).map (fun w => (leBytes 8 w.toNat).reverse)).flatten

/-- Bytes 0 to 7 of SHA-384, read as a little-endian word (R119, R120, R127, R169, R248). -/
def sha384Word (l : List Byte) : Word := BitVec.ofNat 64 (field (sha384 l) 0 8)

/-- Product in GF(2^8) with reduction polynomial `red` below x^8, by `n` shift-and-add steps. -/
def gf8Mul (red : Byte) : Nat → Byte → Byte → Byte
  | 0, _, _ => 0
  | n + 1, a, b =>
    (if b.getLsbD 0 then a else 0) ^^^
      gf8Mul red n (if a.getLsbD 7 then (a <<< 1) ^^^ red else a <<< 1) (b >>> 1)

/-- The AES byte substitution: inverse in the AES field, then the affine map. -/
def aesSub (x : Byte) : Byte :=
  let m := gf8Mul 0x1B 8
  let x2 := m x x
  let x4 := m x2 x2
  let x8 := m x4 x4
  let x16 := m x8 x8
  let x32 := m x16 x16
  let x64 := m x32 x32
  let x128 := m x64 x64
  let i := m x128 (m x64 (m x32 (m x16 (m x8 (m x4 x2)))))
  i ^^^ (i.rotateLeft 1) ^^^ (i.rotateLeft 2) ^^^ (i.rotateLeft 3) ^^^ (i.rotateLeft 4) ^^^ 0x63

/-- The byte at position `i`, zero beyond the end. -/
def byteAt (l : List Byte) (i : Nat) : Byte := l.getD i 0

/-- The next AES round key. -/
def aesKeyStep (rc : Byte) (k : List Byte) : List Byte :=
  let t := [aesSub (byteAt k 13) ^^^ rc, aesSub (byteAt k 14), aesSub (byteAt k 15), aesSub (byteAt k 12)]
  let w0 := xorBytes (slice k 0 4) t
  let w1 := xorBytes (slice k 4 4) w0
  let w2 := xorBytes (slice k 8 4) w1
  let w3 := xorBytes (slice k 12 4) w2
  w0 ++ w1 ++ w2 ++ w3

/-- The AES column mix of one column. -/
def aesMix (c : List Byte) : List Byte :=
  let d := gf8Mul 0x1B 2
  let two := fun x : Byte => d x 2
  let a := byteAt c 0
  let b := byteAt c 1
  let e := byteAt c 2
  let f := byteAt c 3
  [two a ^^^ two b ^^^ b ^^^ e ^^^ f, a ^^^ two b ^^^ two e ^^^ e ^^^ f,
   a ^^^ b ^^^ two e ^^^ two f ^^^ f, two a ^^^ a ^^^ b ^^^ e ^^^ two f]

/-- Byte substitution and row shift. -/
def aesSubShift (s : List Byte) : List Byte :=
  (List.range 16).map (fun i => aesSub (byteAt s ((i + 4 * (i % 4)) % 16)))

/-- Rounds 1 to 10 of AES-128: `rcs` lists the remaining round constants. -/
def aesRounds : List Byte → List Byte → List Byte → List Byte
  | [], _, s => s
  | rc :: rcs, k, s =>
    let k' := aesKeyStep rc k
    let t := aesSubShift s
    let u := if rcs.isEmpty then t
      else aesMix (slice t 0 4) ++ aesMix (slice t 4 4) ++ aesMix (slice t 8 4) ++ aesMix (slice t 12 4)
    aesRounds rcs k' (xorBytes u k')

/-- AES-128 encryption of a 16-byte block; the key's 16 bytes stand in ascending address order, so byte 0 of the key is
bits [7:0] of its little-endian value (R7). -/
def aes128 (key : BitVec 128) (block : List Byte) : List Byte :=
  let k := leBytes 16 key.toNat
  aesRounds [0x01, 0x02, 0x04, 0x08, 0x10, 0x20, 0x40, 0x80, 0x1B, 0x36] k (xorBytes (padTo 16 block) k)

/-- Bytes 0 to 7 of an AES-128 block as a GF(2^64) value, with zero replaced by 1 (R114, R289, R299). -/
def aesWeight (key : BitVec 128) (block : List Byte) : Word :=
  let w : Word := BitVec.ofNat 64 (field (aes128 key block) 0 8)
  if w = 0 then 1 else w

/-- `n` steps of the ECMA-182 CRC register, most significant bit first (R89). -/
def crc64Step : Nat → Word → Word
  | 0, r => r
  | n + 1, r => crc64Step n (if r.getLsbD 63 then (r <<< 1) ^^^ 0x42F0E1EBA9EA3693 else r <<< 1)

/-- CRC-64 by R89: register from zero, not reflected, not inverted. -/
def crc64 (l : List Byte) : Word :=
  l.foldl (fun r b => crc64Step 8 (r ^^^ ((b.setWidth 64 : Word) <<< (56 : Nat)))) 0

/-- `n` steps of the reflected CRC-32C register (R374). -/
def crc32Step : Nat → BitVec 32 → BitVec 32
  | 0, r => r
  | n + 1, r => crc32Step n (if r.getLsbD 0 then (r >>> 1) ^^^ 0x82F63B78 else r >>> 1)

/-- The CRC-32C register after the bytes of `l`, from register `r`. -/
def crc32Run (r : BitVec 32) (l : List Byte) : BitVec 32 :=
  l.foldl (fun r b => crc32Step 8 (r ^^^ b.setWidth 32)) r

/-- CRC-32C by R374: initial value and final XOR all ones. -/
def crc32c (l : List Byte) : BitVec 32 := ~~~(crc32Run 0xFFFFFFFF l)

/-- The zero-initial CRC-32C with no final XOR, R of R375. -/
def crc32Delta (l : List Byte) : BitVec 32 := crc32Run 0 l

end Sys2Proof.Machine
end

