-- ==== Sys2Proof/Machine/Galois.lean ====
section
/-! DEFINITION. The arithmetic of the glove code and of the stripe tags: GF(2^8) and GF(2^64) (R8, R99, R115), the
Cauchy coefficients (R100, R103), the weights (R114), and the linear systems that a rebuild solves (R117, R203, R208,
R209). -/

namespace Sys2Proof.Machine

/-- The product in GF(2^8) with reduction polynomial 0x11D (R99). -/
def gmul (a b : Byte) : Byte := gf8Mul 0x1D 8 a b

/-- `x` raised to 2^n, times the running product: the inverse as x^254. -/
def ginv (x : Byte) : Byte :=
  let x2 := gmul x x
  let x4 := gmul x2 x2
  let x8 := gmul x4 x4
  let x16 := gmul x8 x8
  let x32 := gmul x16 x16
  let x64 := gmul x32 x32
  let x128 := gmul x64 x64
  gmul x128 (gmul x64 (gmul x32 (gmul x16 (gmul x8 (gmul x4 x2)))))

/-- The coefficient of data index `d` in parity seat `j`: 1 / (d ⊕ (0xF0 + j)) (R100). -/
def coeff (j d : Nat) : Byte := ginv (BitVec.ofNat 8 d ^^^ BitVec.ofNat 8 (0xF0 + j))

/-- Every byte times one coefficient (R101, R102). -/
def gscale (a : Byte) (l : List Byte) : List Byte := l.map (gmul a)

/-- The product in GF(2^64) with reduction polynomial x^64 + x^4 + x^3 + x + 1 (R115, R289), by `n` steps. -/
def gf64Mul : Nat → Word → Word → Word
  | 0, _, _ => 0
  | n + 1, a, b =>
    (if b.getLsbD 0 then a else 0) ^^^
      gf64Mul n (if a.getLsbD 63 then (a <<< 1) ^^^ 0x1B else a <<< 1) (b >>> 1)

/-- The product in GF(2^64). -/
def wmul (a b : Word) : Word := gf64Mul 64 a b

/-- `n` squarings, each multiplied into the product: x^(2 + 4 + … + 2^n). -/
def wpowInv : Nat → Word → Word → Word
  | 0, _, p => p
  | n + 1, x, p => let y := wmul x x; wpowInv n y (wmul p y)

/-- The inverse in GF(2^64): x^(2^64 − 2). -/
def winv (x : Word) : Word := wpowInv 63 x 1

/-- The stripe-tag weight g(j, s, d) under a tag key (R114). -/
def tagWeight (key : BitVec 128) (j s d : Nat) : Word :=
  aesWeight key (leBytes 8 s ++ leBytes 1 j ++ leBytes 1 d ++ List.replicate 6 0)

/-! ### Linear systems of at most four unknowns -/

/-- The operations of a field of characteristic two, where addition is `add` and subtraction is the same. -/
structure Field2 (α : Type) where
  zero : α
  one : α
  add : α → α → α
  mul : α → α → α
  inv : α → α
  isZero : α → Bool

/-- GF(2^8) of R99. -/
def field8 : Field2 Byte := ⟨0, 1, (· ^^^ ·), gmul, ginv, (· == 0)⟩

/-- GF(2^64) of R115. -/
def field64 : Field2 Word := ⟨0, 1, (· ^^^ ·), wmul, winv, (· == 0)⟩

/-- One row with another row's multiple added. -/
def addRow {α : Type} (F : Field2 α) (k : α) (r p : List α) : List α :=
  List.zipWith (fun x y => F.add x (F.mul k y)) r p

/-- Gauss–Jordan elimination of the augmented rows on columns `c`, `c + 1`, … (`n` of them): `none` when the system is
singular, else the reduced rows in column order. -/
def gauss {α : Type} (F : Field2 α) : Nat → Nat → List (List α) → List (List α) → Option (List (List α))
  | 0, _, doneRows, _ => some doneRows
  | n + 1, c, doneRows, rows =>
    match rows.findIdx? (fun r => !(F.isZero (r.getD c F.zero))) with
    | none => none
    | some i =>
      let p := rows.getD i []
      let k := F.inv (p.getD c F.zero)
      let p' := p.map (F.mul k)
      let clear := fun r => addRow F (r.getD c F.zero) r p'
      gauss F n (c + 1) ((doneRows.map clear) ++ [p']) ((rows.eraseIdx i).map clear)

/-- The row μ with μ · W = r, where W has a row for each entry of `js` and a column for each entry of `xs`, and
`w j x` is its entry. `none` when W is singular. -/
def solveRow {α : Type} (F : Field2 α) (w : Nat → Nat → α) (js xs : List Nat) (r : Nat → α) : Option (List α) :=
  let rows := xs.map (fun x => js.map (fun j => w j x) ++ [r x])
  (gauss F xs.length 0 [] rows).map (fun sol => sol.map (fun row => row.getD js.length F.zero))

/-- A stitch of a stripe: a data index or a parity seat (R101). -/
inductive Seat where
  | data (d : Nat)
  | parity (j : Nat)
  deriving DecidableEq, Repr

/-- The contributors of a chain (R201): the surviving data stitches, and as many of the lowest-numbered parity seats with
content as data stitches are lost. `lost` and `bad` tell which data indices and which seats lack content. `none` when too
few seats have content. A parity target in a stripe with lost data stitches waits (R202): `none`. -/
def contributors (k m : Nat) (lost bad : Nat → Bool) (target : Seat) : Option (List Seat) :=
  let xs := (List.range k).filter lost
  let ds := ((List.range k).filter (fun d => !lost d)).map Seat.data
  match target with
  | .data _ =>
    let js := ((List.range m).filter (fun j => !bad j)).take xs.length
    if js.length = xs.length then some (ds ++ js.map Seat.parity) else none
  | .parity _ => if xs.isEmpty then some ds else none

/-- The coefficient of each data index and parity seat in the expression of a row over the contributors: `r x` is the
row's weight at each lost data index, `direct d` its weight at a data index (R203, R208, R209). -/
def expression {α : Type} (F : Field2 α) (w : Nat → Nat → α) (js xs : List Nat) (r : Nat → α) (direct : Nat → α) :
    Option (Seat → α) :=
  match solveRow F w js xs r with
  | none => none
  | some mu => some (fun s =>
      match s with
      | .parity j => mu.getD (js.idxOf j) F.zero
      | .data d => (List.zip mu js).foldl (fun a p => F.add a (F.mul p.1 (w p.2 d))) (direct d))

/-- The coefficients of the target over the contributors: a of R203 with the code's weights, b of R208 with the tag
weights. -/
def targetCoeffs {α : Type} (F : Field2 α) (w : Nat → Nat → α) (js xs : List Nat) (target : Seat) : Option (Seat → α) :=
  match target with
  | .data x => expression F w js xs (fun x' => if x' = x then F.one else F.zero) (fun _ => F.zero)
  | .parity j => some (fun s => match s with | .data d => w j d | .parity _ => F.zero)

/-- The coefficients b′ of the check seat's tag over the contributors (R209). -/
def checkCoeffs {α : Type} (F : Field2 α) (w : Nat → Nat → α) (js xs : List Nat) (j' : Nat) : Option (Seat → α) :=
  expression F w js xs (fun x => w j' x) (fun d => w j' d)

end Sys2Proof.Machine
end

