-- ==== Sys2Proof/Machine/State.lean ====
section
/-! DEFINITION. The state of one chip's Padun: the crown unit, the sixteen instances, memory with its page
records, and everything in flight. Every field cites the rule that names it; `State.reset` is the machine right
after chip reset. -/

namespace Sys2Proof.Machine

/-! ### Memory -/

/-- The 96-byte page record (R372). -/
structure PageRec where
  par1 : List Byte
  par0 : List Byte
  stepTag : Word
  stripeTag : Word
  foldMask : BitVec 32
  st : Byte
  stInv : Byte
  handGen : Byte
  attempt : Byte
  crc : BitVec 32
  deriving DecidableEq, Repr

/-- One merge-buffer entry (R388): the page, the bytes written to it by offset, and the time of the last write. -/
structure Merge where
  page : Nat
  bytes : List (Nat × Byte)
  last : Nat
  /-- Writes to a lower TIER page that complete only after its fold (R328). -/
  waiting : List Nat
  deriving DecidableEq, Repr

/-- Both tiers' memory with its page records (R371), the instances' merge buffers (R388) and repair queues (R379).
A byte's address is its tier offset, plus 2^63 in the lower tier; a page key is the tier page number, plus 2^51 in
the lower tier. Unlisted bytes read zero; an unlisted record is never-written. -/
structure Mem where
  bytes : List Host.Cell
  recs : List (Nat × PageRec)
  merge : List Merge
  repairQ : List Nat
  deriving DecidableEq, Repr

/-! ### Regions, stitches and their buffers -/

/-- What a mapped range holds: the five region types of R53, and the areas that commands map (R110, R224, R254, R331). -/
inductive Kind where
  | state | groups | tier | plain | pass
  | parity
  | hosting (member : Nat)
  | hatbox
  | pool
  deriving DecidableEq, Repr

/-- A REGION_FILL in progress (R386, R387): the pattern, the pages still to write in ascending order, and its command. -/
structure Fill where
  pattern : Word
  todo : List Nat
  written : Nat
  deriving DecidableEq, Repr

/-- A mapped region or area (R52). `len` is the hand length of a two-handed kind, the data length of a lower TIER
region, the length otherwise. The key is held with its complement (R399). -/
structure Region where
  num : Nat
  kind : Kind
  lower : Bool
  owner : Nat
  base : Nat
  len : Nat
  key : Word
  keyInv : Word
  share : Bool
  noticeRing : Nat
  unmapping : Bool
  fill : Option Fill
  deriving DecidableEq, Repr

/-- What the serving upper instance holds for one stitch of a two-handed area: the hand-map entry (R62), and its touch
(R65), fill (R211) and copy (R242) bits; `lacks` records that the crowned hand has no servable content (R69, R117, R381), and
`unres` that R69 left the stitch unresolved, so that it has no open hand until a darn writes it. -/
structure Stitch where
  hand : BitVec 2
  touch : Bool
  fill : Bool
  copy : Bool
  lacks : Bool
  unres : Bool
  deriving DecidableEq, Repr

/-- A pairing entry (R75, R76): tag, stitch, old data, the open hand's bytes so far, and the coverage mask. -/
structure Pair where
  ctx : Nat
  region : Nat
  idx : Nat
  tag : Nat
  old : List Byte
  cur : List Byte
  cover : BitVec 4096
  deriving DecidableEq, Repr

/-- A formed delta waiting in its lane's send queue (R79, R145): whose seat, its palm index, the seats not yet sent. -/
structure Delta where
  ctx : Nat
  inst : Nat
  member : Nat
  palm : Nat
  bytes : List Byte
  tauOld : Word
  step : Word
  form : Bool
  seats : List Nat
  deriving DecidableEq, Repr

/-- A fold-buffer entry (R153): the parity stitch, its bytes, stripe tag and fold mask. `form` marks the crowned hand
of a form pass (R151). The list's order is that of use, least recent first. -/
structure Fold where
  ctx : Nat
  region : Nat
  idx : Nat
  bytes : List Byte
  tag : Word
  mask : BitVec 32
  form : Bool
  deriving DecidableEq, Repr

/-- Why a request waits with back-pressure. -/
inductive Wait where
  | fill        -- a demand darn of the stitch runs (R212)
  | pairing (inst : Nat)  -- no pairing entry of this instance is free (R77)
  | test        -- the instance is under test (R557)
  | filling     -- REGION_FILL has not passed the page (R387)
  deriving DecidableEq, Repr

/-- A request held with back-pressure. -/
structure Held where
  req : Req
  write : Bool
  why : Wait
  deriving DecidableEq, Repr

/-- A delta of a lower TIER write on its way to the parity page (R328): the writes `reqs` complete after the fold. -/
structure TierFold where
  page : Nat
  delta : List Byte
  reqs : List Nat
  deriving DecidableEq, Repr

/-! ### Instances -/

/-- Enable state of a lane or an instance (R527). -/
inductive Enable where
  | off | on | stopping | deferred
  deriving DecidableEq, Repr

/-- One lane (R533, R368, R403, R404). -/
structure Lane where
  en : Enable
  retired : Bool
  flagged : Bool
  trained : Bool
  romOk : Bool
  wce : Nat
  window : Nat
  rated : Bool
  limit : Nat
  limitNext : Nat
  pairMiss : Nat
  foldMiss : Nat
  deriving DecidableEq, Repr

/-- One capture (R496, R503): code, unit, sequence number, stamp and the two detail words. -/
structure Capture where
  code : Nat
  unit : Nat
  seq : Nat
  stamp : Nat
  d0 : Word
  d1 : Word
  deriving DecidableEq, Repr

/-- The fault registers, first-fault capture and capture log of one unit (R501 to R505). -/
structure Faults where
  bits : BitVec 34
  mask : BitVec 34
  first : Option Capture
  log : List (Nat × Capture)
  seq : Nat
  deriving DecidableEq, Repr

/-- The drain governor of an upper instance (R158 to R162, R532), in bytes per second. -/
structure Gov where
  rate : Nat
  ceiling : Nat
  boosted : Bool
  clamped : Bool
  deriving DecidableEq, Repr

/-- The scrubber (R393 to R397, R532). -/
structure Scrub where
  idle : Nat
  lapLimit : Nat
  paused : Bool
  lapLate : Bool
  laps : Nat
  pos : Nat
  lapStart : Nat
  lastLap : Nat
  deriving DecidableEq, Repr

/-- The in-field test of an instance (R527, R554 to R561). `mode` selects the parts; `deferrals` counts deferring gaps;
`dueAt` is the band time at which the test fell due, and before the first test the end of start-up. -/
structure Test where
  lbist : Bool
  mbist : Bool
  running : Bool
  pending : Bool
  overdue : Bool
  cause : Nat
  last : Nat
  mode : Nat
  dueAt : Nat
  deferrals : Nat
  /-- TEST_RUN passed each part since reset (R217). -/
  okL : Bool
  okM : Bool
  deriving DecidableEq, Repr

/-- One Padun instance (R16, R527). -/
structure Inst where
  lower : Bool
  ctrlLower : Bool
  ready : Bool
  arraysAt : Nat
  active : Bool
  bypass : Bool
  /-- The instance has stopped its coding work (R405, R561). -/
  halted : Bool
  harvest : BitVec 8
  en : Enable
  enBusy : Bool
  enRefused : Bool
  lanes : Vector Lane 8
  faults : Faults
  gov : Gov
  scrub : Scrub
  test : Test
  pageCe : Nat
  pageUe : Nat
  uninit : Nat
  demand : Nat
  tierRepair : Nat
  partialInit : Nat
  guardRead : Nat
  deltaLate : Nat
  deltaStale : Nat
  /-- The last value written to each IEEE 1687 instrument (R49). -/
  instruments : List (Nat × Word)
  deriving DecidableEq, Repr

/-! ### Rings and commands -/

/-- What the CU holds of a ring: the descriptor fields of the last valid doorbell (R443, R577), its own HEAD and POSTED,
the packet fetched and not yet accepted (R452), and whether fetching has stopped until a later doorbell (R448). -/
structure Ring where
  base : Nat
  cqBase : Nat
  tail : Nat
  head : Nat
  cqHead : Nat
  posted : Nat
  log2 : Nat
  owner : Nat
  enable : Bool
  priv : Bool
  fenceLo : Nat
  fenceHi : Nat
  fetched : Option Cmd
  stalled : Bool
  deriving DecidableEq, Repr

/-- What an accepted command waits for. -/
inductive Job where
  | deferred                              -- R465: its object's shut-down
  | ctxClose (ctx : Nat)                  -- R471
  | regionFill (region : Nat)             -- R387
  | regionUnmap (region : Nat)            -- R473
  | gloveForm (ctx : Nat)                 -- R574
  | gloveDissolve (ctx : Nat)             -- R136
  | drainClose (ctx : Nat)                -- R165
  | crown (ctx : Nat)                     -- R181
  | rollback (ctx : Nat)                  -- R191
  | darn (ctx darn : Nat)                 -- R221
  | darnStitch (ctx region idx : Nat)     -- R236
  | standin (ctx : Nat)                   -- R222
  | admission (ctx : Nat)                     -- R243
  | hbConf (ctx : Nat)                    -- R247
  | hbWrite (ctx : Nat) (started : Bool)  -- R259
  | restore (ctx : Nat)                   -- R274
  | imageExport (ctx : Nat)               -- R283
  | imageImport (ctx : Nat)               -- R284
  | tallyRead (slot : Nat)                -- R305
  | witness (ctx w role : Nat)            -- R318
  | promote (region tile ctx : Nat)       -- R339
  | evict (region tile ctx : Nat)         -- R345
  | brim (brim seq : Nat)                 -- R356, R357: waits for promotion `seq`
  | advance (brim : Nat)                  -- R358: waits for the oldest group
  | test (inst : Nat)                     -- R486
  deriving DecidableEq, Repr

/-- An accepted command that has not posted its final completion. -/
structure Pend where
  cmd : Cmd
  job : Job
  at' : Nat
  /-- DEFERRED has been posted, so the next entry is FINAL (R466). -/
  second : Bool
  deriving DecidableEq, Repr

/-- A completion entry (R462). -/
structure Completion where
  ring : Nat
  index : Nat
  status : Byte
  opcode : Byte
  context : Byte
  flags : Byte
  fence : Nat
  inst : Byte
  tag : BitVec 32
  slot : Nat
  detail : Byte
  stamp : Nat
  result : Word
  deriving DecidableEq, Repr

/-! ### Contexts and coded contexts -/

/-- An open context (R470, R471, R347). -/
structure Ctx where
  closing : Bool
  coded : Bool
  upper : Nat
  lowerQ : Nat
  deriving DecidableEq, Repr

/-- The step phases (R138). -/
inductive Phase where
  | crowned | opened | closed | voting | voted | decided | undecided | discarding
  deriving DecidableEq, Repr

/-- The glove states (R133). -/
inductive GloveState where
  | none | forming | ready | degraded | standin | lost | dissolving
  deriving DecidableEq, Repr

/-- A stand-in deal (R222 to R224): the lost member, the deal unit, the survivors in order, this chip's hosting region,
its hosted palm count, and the lost member's GROUPS count. -/
structure Deal where
  member : Nat
  unit : Nat
  hosts : List Nat
  region : Nat
  palmSlots : Nat
  groups : Nat
  deriving DecidableEq, Repr

/-- A glove, or a hatbox group, as its member holds it (R132, R247): identifier, geometry, seat, tables and their
complements (R113, R121, R399), and what follows from them. Shape and placement are their byte layouts (R118, R125). -/
structure Group where
  id : Nat
  n : Nat
  m : Nat
  me : Nat
  q : List Nat
  tagKey : BitVec 128
  tagKeyInv : BitVec 128
  shape : List Byte
  shapeInv : List Byte
  place : List Byte
  placeInv : List Byte
  placeHash : Word
  geomHash : Word
  tmax : Nat
  base : Nat
  region : Nat
  noticeRing : Nat
  deriving DecidableEq, Repr

/-- A glove on this member (R133, R134). `filling` marks the seats that a darn is filling and `filled` lists the
(member, stripe) stitches of them known to be filled; `lacking` lists those of other chips known to lack content (R197). `lanes` is each member's LANES word. -/
structure Glove where
  g : Group
  state : GloveState
  lostMask : BitVec 32
  standinMask : BitVec 32
  filling : BitVec 32
  filled : List (Nat × Nat)
  lacking : List (Nat × Nat)
  deals : List Deal
  lanes : List Word
  deriving DecidableEq, Repr

/-- A darn on this chip (R216, R234). Role: 0 survivor, 1 the spare or a stand-in destination, 2 witness fill. -/
structure Darn where
  ctx : Nat
  num : Nat
  lost : Nat
  standin : Bool
  boost : Bool
  witness : Bool
  dest : Bool
  failed : Nat
  lastWrite : Nat
  deriving DecidableEq, Repr

/-- What a chain is issued for, and so what its end does. -/
inductive Purpose where
  | demand | background (darn : Nat) | stitch | restore | copy
  deriving DecidableEq, Repr

/-- A chain this chip has issued as destination (R201, R209). `holdStep` is the chain's step. -/
structure Chain where
  ctx : Nat
  hb : Bool
  stripe : Nat
  member : Nat
  erased : List Nat
  step : Nat
  darn : Nat
  region : Nat
  idx : Nat
  why : Purpose
  check : Option Word
  /-- A DARN_DONE that came before the check answer: its payload and accumulators. -/
  result : Option (List Byte × Word × Word)
  deriving DecidableEq, Repr

/-- Verdicts of a vote (R169). -/
inductive Verdict where
  | yes | hold | no
  deriving DecidableEq, Repr

/-- The crown vote of one attempt at this member, and at the tree node it may be (R166 to R174, R512). Crown-table
entries are (glove, head). `step` is the key step. `recs` are the 96-byte records of its members, with the SHARE records of
hosted members under 64 + 32 × host + member; `kids` are those of child entries; `parts` are the members that were not
lost at acceptance. -/
structure CrownVote where
  step : Word
  parts : List Nat
  entries : List (Nat × Coord)
  mine : Nat
  tableHash : Word
  base : Nat
  tmo : Nat
  d : Nat
  guard : Nat
  cast : Option Verdict
  /-- Since when the member holds, and the band time at which its witness hold ends (R186, R512). -/
  holdFrom : Option Nat
  witnessUntil : Nat
  testHold : Nat
  drainedAt : Nat
  recs : List (Nat × List Byte)
  kids : List (Nat × List Byte)
  sentUp : Option (List Byte)
  ended : Bool
  skew : Bool
  badTable : Bool
  deriving DecidableEq, Repr

/-- A crown decision in force in DECIDED (R176): T with its complement (R399), T as the message carried it (R401),
HB_START with its slot, and the cuff bank built for it (R182). -/
structure Decision where
  t : Word
  tInv : Word
  tMsg : Word
  msgOk : Bool
  /-- T with its complement as each upper instance holds it (R399). -/
  tInst : List (Word × Word)
  hbStart : Bool
  hbSlot : Bool
  bank : List (Nat × List Byte)
  deriving DecidableEq, Repr

/-- A hatbox copy in progress (R260 to R264). -/
structure HbCopy where
  slot : Bool
  step : Nat
  start : Nat
  next : Nat
  parity : Nat
  sealed : Bool
  seals : List Nat
  quorum : Bool
  deriving DecidableEq, Repr

/-- The hatbox group on this member and its slots (R245 to R258). -/
structure HbGroup where
  g : Group
  schedule : Nat
  minInterval : Nat
  seqLen : Nat
  copy : Option HbCopy
  deriving DecidableEq, Repr

/-- A restore in progress (R268 to R274). -/
structure Restore where
  want : Nat
  entries : List (Nat × Coord)
  mine : Nat
  report : Nat
  voteStart : Nat
  decided : Option Nat
  slot : Bool
  next : Nat
  recs : List (Nat × List Byte)
  kids : List (Nat × List Byte)
  sentUp : Bool
  lastWrite : Nat
  /-- The header stitch, read from the slot or rebuilt (R252, R272). -/
  header : Option (List Byte)
  deriving DecidableEq, Repr

/-- One entry of a tile table (R281). -/
structure TileEntry where
  tile : Nat
  region : Nat
  count : Nat
  first : Nat
  off : Nat
  deriving DecidableEq, Repr

/-- The parts of an image that a member sends or reads one at a time (R278 to R281). -/
inductive ImagePart where
  | header
  | cuff
  | digests
  | record (entry : Nat)
  | payload (entry chunk : Nat)
  deriving DecidableEq, Repr

/-- An export or import in progress (R281 to R285): its tile table, what is still to send or read, and the part that awaits an
answer as (image offset, bytes). `descriptor`, `digests` and the two bases serve an export; `header`, `record` and `got` are what
an import has read of the header, of the current record, and of its payload. -/
structure ImageJob where
  isImport : Bool
  step : Nat
  handle : Word
  port : Nat
  tiles : List TileEntry
  source : Nat
  todo : List ImagePart
  waiting : Option (Nat × Nat)
  sentAt : Nat
  outside : Nat
  descriptor : List Byte
  digests : List (Nat × Nat)
  cuffIndex : Nat
  cuffBase : Nat
  digestBase : Nat
  header : List Byte
  record : List Byte
  got : List Byte
  /-- An import's tiles as read, by table entry: they are placed when every check of R285 has passed. -/
  read : List (Nat × List Byte)
  /-- A record disagrees with its table entry or region, the last check of R285. -/
  misfit : Bool
  deriving DecidableEq, Repr

/-- A witness role on this chip (R311 to R323). `digests` holds the label entries of 0 suspect, 1 and 2 witnesses. -/
structure Witness where
  w : Nat
  role : Nat
  trail : Bool
  step : Nat
  suspect : Nat
  darn : Nat
  labels : List Word
  wcoord : Coord
  report : Nat
  place : List Byte
  /-- On the witness chip: the glove's geometry with the suspect's seat as its own (R312). -/
  geom : Option Group
  digests : List (Nat × List Byte)
  result : Option Nat
  verdict : Option Nat
  sent : Bool
  completed : Bool
  deriving DecidableEq, Repr

/-- An admission on this chip (R241 to R243): the seat, the glove, the new placement table, and on the new chip its parity
area and the newest step that a copy named. `handover` is T of the crown at which the handover began. -/
structure Admission where
  member : Nat
  isNew : Bool
  glove : Nat
  place : List Byte
  base : Nat
  region : Nat
  step : Nat
  handover : Option Nat
  deriving DecidableEq, Repr

/-- A coded-context block (R516) with the step, glove, hatbox, witness and darn state of its context. C, S and the
step and key port's step are held with their complements (R399). -/
structure Coded where
  ctx : Nat
  c : Word
  cInv : Word
  s : Word
  sInv : Word
  port : Word
  portInv : Word
  key : BitVec 128
  attempt : Nat
  phase : Phase
  stopped : Bool
  /-- The codes of R499 whose disagreement has been raised: each is raised once (R497). -/
  found : List Nat
  crownTime : Nat
  drainStart : Nat
  drainDeadline : Nat
  govTarget : Nat
  deadlinePast : Bool
  drained : Bool
  drainedAt : Nat
  /-- CROWNED was last entered by a crown: the governor expects the last step's bytes (R159). -/
  byCrown : Bool
  expect : List (Nat × Nat)
  sent : List (Nat × Nat)
  formed : List (Nat × Nat)
  /-- An open or needed crowned hand cannot be served: vote NO with INTERNAL (R170). -/
  badHand : Bool
  /-- Parity stitches whose darn failed while a DELTA of this step waited: their DELTAs are not folded (R572). -/
  unfolded : List (Nat × Nat)
  /-- A member was found lost since STEP_OPEN (R170). -/
  lostInStep : Bool
  /-- A stitch of this chip has come to lack content in this event (R69, R381): its glove is graded when the event ends (R198). -/
  lossSeen : Bool
  rolling : Bool
  /-- The open step's touched entries are served flipped, and the sweep runs (R180). -/
  sweeping : Bool
  vote : Option CrownVote
  decision : Option Decision
  /-- Cuff banks by step parity (R87): the record bytes of each member. -/
  bank0 : List (Nat × List Byte)
  bank1 : List (Nat × List Byte)
  current : Bool
  /-- The restored record that the first GLOVE_FORM must match (R274, R275). -/
  restored : Option (List Byte)
  /-- The slot and step that the last restore decided: chains of members still restoring read it (R272, R418). -/
  restoredSlot : Option (Bool × Nat)
  snapshot : List Byte
  lateCrown : Nat
  groupsHash : BitVec 192
  /-- The accumulated GROUPS_HASH change of hosted shares, by member (R229). -/
  hostedHash : List (Nat × BitVec 192)
  glove : Option Glove
  hb : Option HbGroup
  hbSlot : Bool
  hbLast : Nat
  hbOk : Bool
  hbReq : Bool
  forming : Bool
  witness : List Witness
  admission : Option Admission
  restore : Option Restore
  image : Option ImageJob
  deriving DecidableEq, Repr

/-! ### Messages and collectives in flight -/

/-- A message that awaits an answer (R434), with its identity for the timers, the sending unit (16 is the CU), the
addressee, its seat and the times of the first and the last send. -/
structure Sent where
  id : Nat
  unit : Nat
  ctx : Nat
  member : Nat
  dst : Coord
  msg : Wire
  first : Nat
  last : Nat
  deriving DecidableEq, Repr

/-- A stitch-channel message that waits for its turn, with its place in the order of R214 and R262: 2 background darn,
3 hatbox. -/
structure Queued where
  rank : Nat
  unit : Nat
  ctx : Nat
  member : Nat
  dst : Coord
  msg : Wire
  deriving DecidableEq, Repr

/-- A received message remembered so that a repeat is recognised (R435); `mute` marks one that was dropped and has no answer (R151). -/
structure Seen where
  src : Coord
  head : List Byte
  at' : Nat
  mute : Bool
  deriving DecidableEq, Repr

/-- A collective this chip has accepted (R427 to R433): its key, the participants' seats and coordinates, the gatherer,
the times, this chip's record, the records gathered, and whether its VOTE has left. -/
structure Coll where
  key : CollKey
  group : Nat
  me : Nat
  gatherer : Nat
  parts : List (Nat × Coord)
  acceptedAt : Nat
  timeout : Nat
  record : List Byte
  recs : List (Nat × List Byte)
  sent : Bool
  /-- The parameters of the command that the outcome acts on. -/
  cmd : Cmd
  /-- The packet byte of the field that this chip's own checks refused, or 0xFF (R462). -/
  detail : Nat
  /-- How this chip found a participant lost: a cause of R496. -/
  lostBy : Nat
  /-- Placement table bytes taken at acceptance (R524); in a WITNESS collective the label list, then the table. -/
  place : List Byte
  deriving DecidableEq, Repr

/-- A kept message for a key not accepted yet (R431). -/
structure Kept where
  key : CollKey
  src : Coord
  msg : Wire
  at' : Nat
  deriving DecidableEq, Repr

/-- A remote request that this chip sent and that is not answered (R437, R439). -/
structure Remote where
  id : Nat
  handle : Nat
  write : Bool
  off : Nat
  req : Req
  at' : Nat
  deriving DecidableEq, Repr

/-! ### Digests, tallies, tiers -/

/-- A digest slot (R287, R295, R298). -/
structure Digest where
  ctx : Nat
  kind : Nat
  root : Bool
  clearOnRead : Bool
  label : Word
  dkey : BitVec 128
  region : Nat
  tbase : Nat
  tlog : Nat
  expect : Nat
  first : Nat
  group : Nat
  stride : Nat
  hosted : Nat
  value : Word
  bytes : Nat
  tiles : Nat
  /-- The runs of the slot's bytes that FINAL writes have written, and whether one of them has been written twice (R293). -/
  written : List (Nat × Nat)
  twice : Bool
  late : Nat
  frozen : Option (Word × Nat)
  deriving DecidableEq, Repr

/-- A tally slot (R300 to R307): `acc` is the 640-bit accumulator, `crowned` and `inc` the two parts of a WEIGHTS
slot (R306). -/
structure Tally where
  ctx : Nat
  kind : Nat
  source : Nat
  format : Nat
  root : Bool
  clearOnRead : Bool
  label : Word
  hosted : Nat
  region : Nat
  counts : List Nat
  acc : Int
  inc : Int
  excluded : Nat
  incExcluded : Int
  overflow : Bool
  scanning : Bool
  late : Nat
  frozen : Option (Word × Nat)
  frozenAcc : Int
  deriving DecidableEq, Repr

/-- A holder of tile references (R337): a context's direct holding or a brim. -/
inductive Holder where
  | direct (ctx : Nat)
  | brim (b : Nat)
  deriving DecidableEq, Repr

/-- The states of a frame that holds a tile (R336); a frame not listed is FREE. -/
inductive FrameState where
  | copying | resident | idle
  deriving DecidableEq, Repr

/-- A frame of the tile pool (R336). -/
structure Frame where
  num : Nat
  state : FrameState
  region : Nat
  tile : Nat
  idleAt : Nat
  deriving DecidableEq, Repr

/-- A pending promotion (R339 to R342): it waits for a frame while its tile has none, and for the copy after that. -/
structure Promo where
  id : Nat
  holder : Holder
  region : Nat
  tile : Nat
  deadline : Nat
  order : Nat
  /-- Joined a copy that another holder started (R339). -/
  shared : Bool
  deriving DecidableEq, Repr

/-- A reference, by holder and tile (R337). -/
structure TileRef where
  holder : Holder
  region : Nat
  tile : Nat
  deriving DecidableEq, Repr

/-- A group of a brim's table (R351). -/
structure TileGroup where
  region : Nat
  first : Nat
  count : Nat
  deriving DecidableEq, Repr

/-- A group that a brim holds (R354, R357): its promotion number, group index, whether it is ready, and then how many of
its tiles lie in place, whether one is lost, and the first lost tile (R359). -/
structure BrimGroup where
  seq : Nat
  group : Nat
  ready : Bool
  inPlace : Nat
  lost : Bool
  lostTile : Nat
  deriving DecidableEq, Repr

/-- An open brim (R352 to R361): `held` lists the groups it holds, oldest first; `past` the groups of its BRIM_OPEN that were
retired while that command still waited for others. -/
structure Brim where
  num : Nat
  ctx : Nat
  depth : Nat
  wrap : Bool
  groups : List TileGroup
  slots : Nat
  tmax : Nat
  reserve : Nat
  seq : Nat
  held : List BrimGroup
  past : List BrimGroup
  deriving DecidableEq, Repr

/-- One remote handle (R525). -/
structure Handle where
  attr : Word
  target : Word
  key : Word
  keyInv : Word
  deriving DecidableEq, Repr

/-- One failure-domain entry (R522). -/
structure Domain where
  coord : Word
  domA : Word
  domB : Word
  deriving DecidableEq, Repr

/-- One change-log entry of the sealed settings (R520). -/
structure SealLog where
  stamp : Nat
  requester : Word
  change : Word
  deriving DecidableEq, Repr

/-! ### The crown unit -/

/-- The fuse array (R48, R519): identity, sealed settings with their counts, the harvest map and the change log. -/
structure Fuses where
  idLo : Word
  idHi : Word
  mMin : Nat
  witness : Bool
  mMinLeft : Nat
  witnessLeft : Nat
  harvest : List (BitVec 8)
  log : List SealLog
  deriving DecidableEq, Repr

/-- Firmware loading and running (R506, R537). -/
structure Firmware where
  state : Nat
  image : Option (List Byte)
  meas : List Byte
  service : Nat
  deriving DecidableEq, Repr

/-- The band input (R508, R542, R566). -/
structure Band where
  acquired : Bool
  valid : Bool
  fault : Bool
  good : Nat
  deriving DecidableEq, Repr

/-- The power port and the peak account (R508, R549, R550): intervals at the boosted ceiling, newest first. -/
structure Power where
  boostReq : Bool
  grant : Bool
  clamp : Bool
  limited : Bool
  spans : List (Nat × Nat)
  deriving DecidableEq, Repr

/-- One health input (R508, R562 to R564): filtered level, when it last changed, stuck mask, latch, missed edges. -/
structure Hwarn where
  level : Bool
  since : Nat
  stuck : Bool
  latch : Bool
  edges : Nat
  deriving DecidableEq, Repr

/-- The crown unit's own registers and inputs. -/
structure Cu where
  released : Bool
  straps : BitVec 22
  started : Bool
  evac : Bool
  fwFault : Bool
  debugHalted : Bool
  halted : Bool
  fuses : Fuses
  fw : Firmware
  fabric : FabricStatus
  band : Band
  power : Power
  hwarn : Vector Hwarn 8
  trigMask : BitVec 8
  suspicion : Nat
  faults : Faults
  irqRoute : BitVec 17
  noticeDrop : Nat
  drops : Vector Nat 6
  drainWindow : Nat
  drainTarget : Nat
  voteTimeout : Nat
  crownDist : Nat
  crownGuard : Nat
  witnessDeadline : Nat
  collTimeout : Nat
  boostEn : Bool
  /-- W as CU_GOV_CTRL holds it, with the time it was written; the weight that the governors use since a later drain start, and the
  one programmed into Bexli (R48, R511, R512). -/
  weight : BitVec 2
  weightAt : Nat
  govWeight : BitVec 2
  bexliWeight : BitVec 2
  /-- The stitch channel's weight in Bexli is the boosted 50 %, and the control channel's weight there in percent (R406). -/
  bexliBoost : Bool
  bexliControl : Nat
  testInterval : Nat
  ringTable : Nat
  ringOwner : Nat
  ringValid : Bool
  doorbells : List Nat
  fences : BitVec 8192
  domains : List (Nat × Domain)
  handles : List (Nat × Handle)
  /-- T of the chip's newest crown, and the observed gap of the previous crown interval once it has ended (R556). -/
  lastCrown : Option Nat
  gap : Option Nat
  gapOpen : Bool
  /-- Contexts that were stopped when they closed: they open stopped until chip reset (R400). -/
  stoppedCtxs : List Nat
  /-- When the correction windows last restarted (R368). -/
  ceWindow : Nat
  deriving DecidableEq, Repr

/-- What Padun sends outward. -/
inductive Out where
  | readData (id : Nat) (data : List Byte) (poisoned : Bool)   -- network response to a read
  | writeDone (id : Nat) (accepted : Bool)                     -- network response to a write
  | message (dst : Coord) (m : Wire)                           -- a stitch message (R410)
  | storage (port : Nat) (m : Wire)                            -- EXPORT_PART at a host or storage port
  | remoteOp (dst : Coord) (op : RemoteOp)                     -- R437
  | remoteReply (dst : Coord) (id : Nat) (status : Byte) (data : RemoteData)  -- R438
  | remoteDone (id : Nat) (status : Byte)                      -- a remote write completes to its requester (R440)
  | completion (c : Completion)                                -- R462
  | regValue (off : Nat) (v : Word)                            -- a register read's answer
  deriving DecidableEq, Repr

/-- The whole machine. -/
structure State where
  pending : List Instr
  clock : Nat
  ev : Ev
  /-- SEQ of each unit when the command began: the captures from there on are of one PCLK (R504). -/
  marks : Vector Nat 17
  fresh : Nat
  serial : Nat
  cu : Cu
  inst : Vector Inst 16
  mem : Mem
  regions : List Region
  stitches : List (Nat × Stitch)
  pairs : List Pair
  deltas : List Delta
  folds : List Fold
  heldReqs : List Held
  /-- Register writes held while their instance is under test (R557): offset and value, oldest first. -/
  heldRegs : List (Nat × Word)
  heldDeltas : List (Coord × Wire)
  tierFolds : List TierFold
  rings : List (Nat × Ring)
  pends : List Pend
  ctxs : List (Nat × Ctx)
  coded : List (Nat × Coded)
  darns : List Darn
  chains : List Chain
  sent : List Sent
  /-- Stitch-channel messages that wait behind others of their instance (R214, R262). -/
  stitchQ : List Queued
  /-- Messages of this chip to itself that the CU has not passed on yet, oldest first (R227). -/
  loop : List Wire
  seen : List Seen
  colls : List Coll
  kept : List Kept
  remotes : List Remote
  /-- Remote operations that this chip serves and has not answered, by the number of their request (R438). -/
  remoteIn : List (Nat × RemoteOp)
  /-- What the members gave this chip, by context, and it has not yet taken (R219, R243, R312). -/
  infos : List (Nat × SeatInfo)
  digests : List (Nat × Digest)
  tallies : List (Nat × Tally)
  frames : List Frame
  promos : List Promo
  tileRefs : List TileRef
  brims : List Brim
  /-- Lost pages of quarantined tiles (R364): region, tile and page of the data range. -/
  lostPages : List (Nat × Nat × Nat)
  /-- Lower TIER pages written while their instance was out of service, to rebuild when it returns (R329). -/
  stalePages : List Nat
  out : List Out
  deriving DecidableEq, Repr

/-- Why the machine could stop with a fault. No command of this block raises one: every request that the manual
refuses is answered with the poison pattern or a refusal of the write, and the block goes on (R70, R72). -/
inductive Fault where
  /-- Raised by no command: an access beyond both tiers, which the map of R19 and R325 does not hold. Safe. -/
  | outsideTiers (addr : Nat)
  deriving DecidableEq, Repr

/-- Why a command has no meaning in the model. -/
inductive Refusal where
  /-- Raised by an arm of `exec` whose command has no meaning yet. Safe: the machine stops. -/
  | notModelled (mnemonic : String)
  deriving DecidableEq, Repr

/-! ### Reset -/

/-- The fault registers of a unit after reset (R492, R501): PAGE_CE and PAIR_OVERFLOW masked. -/
def Faults.reset : Faults :=
  { bits := 0, mask := 0x84, first := none, log := [], seq := 0 }

/-- A lane after reset: out of service until lane training (R541). -/
def Lane.reset : Lane :=
  { en := .off, retired := false, flagged := false, trained := false, romOk := false, wce := 0, window := 0,
    rated := false, limit := 4096, limitNext := 4096, pairMiss := 0, foldMiss := 0 }

/-- An instance after reset, before its straps and fuses are read. -/
def Inst.reset : Inst :=
  { lower := false, ctrlLower := false, ready := false, arraysAt := 0, active := false, bypass := false,
    halted := false, harvest := 0, en := .off, enBusy := false, enRefused := false, lanes := Vector.replicate 8 Lane.reset,
    faults := Faults.reset, gov := { rate := 0, ceiling := 0, boosted := false, clamped := false },
    scrub := { idle := 64, lapLimit := 24, paused := false, lapLate := false, laps := 0, pos := 0, lapStart := 0,
               lastLap := 0 },
    test := { lbist := false, mbist := false, running := false, pending := false, overdue := false, cause := 0,
              last := 0, mode := 0, dueAt := 0, deferrals := 0, okL := false, okM := false },
    pageCe := 0, pageUe := 0, uninit := 0, demand := 0, tierRepair := 0, partialInit := 0, guardRead := 0,
    deltaLate := 0, deltaStale := 0, instruments := [] }

/-- The fuses of a shipped part (R519, R546): M_MIN 1, flag clear, all counts left, every lane enabled. The part
identity and the harvest map are the part's own: DESIGN CHOICE, log entry 7. -/
def Fuses.shipped : Fuses :=
  { idLo := 0, idHi := 0, mMin := 1, witness := false, mMinLeft := 8, witnessLeft := 4,
    harvest := List.replicate 16 0xFF, log := [] }

/-- The event circumstances before the first event: time zero, nothing reported. -/
def noEvent : Ev := { t := 0, ctl := [], lane := none, news := [] }

/-- The crown unit after chip reset (R492, R511, R539). -/
def Cu.reset : Cu :=
  { released := false, straps := 0, started := false, evac := false, fwFault := false, debugHalted := false,
    halted := false, fuses := Fuses.shipped, fw := { state := 0, image := none, meas := List.replicate 48 0, service := 0 },
    fabric := { coord := ⟨0, 0, 0⟩, verified := false, swapped := false, down := 0, cables := [] },
    band := { acquired := false, valid := false, fault := false, good := 0 },
    power := { boostReq := false, grant := false, clamp := false, limited := false, spans := [] },
    hwarn := Vector.replicate 8 { level := false, since := 0, stuck := false, latch := false, edges := 0 },
    trigMask := 0, suspicion := 0, faults := Faults.reset, irqRoute := 0x1FFFF, noticeDrop := 0,
    drops := Vector.replicate 6 0, drainWindow := 1000000000, drainTarget := 80, voteTimeout := 50000000,
    crownDist := 50000, crownGuard := 2000, witnessDeadline := 10000000000, collTimeout := 20000000,
    boostEn := true, weight := 0, weightAt := 0, govWeight := 0, bexliWeight := 0, bexliBoost := false,
    bexliControl := 0, testInterval := 86400, ringTable := 0, ringOwner := 0,
    ringValid := false, doorbells := [], fences := 0, domains := [], handles := [], lastCrown := none, gap := none,
    gapOpen := false, stoppedCtxs := [], ceWindow := 0 }

/-- The machine right after chip reset (R492, R539, R545): no context, no region, nothing in flight, memory with
nothing listed, and the queue of commands empty. -/
def State.reset : State :=
  { pending := [], clock := 0, ev := noEvent, marks := Vector.replicate 17 0, fresh := 0, serial := 0, cu := Cu.reset,
    inst := Vector.replicate 16 Inst.reset, mem := { bytes := [], recs := [], merge := [], repairQ := [] },
    regions := [], stitches := [], pairs := [], deltas := [], folds := [], heldReqs := [], heldRegs := [], heldDeltas := [],
    tierFolds := [], rings := [], pends := [], ctxs := [], coded := [], darns := [], chains := [], sent := [],
    stitchQ := [], loop := [], seen := [], colls := [], kept := [], remotes := [], remoteIn := [], infos := [], digests := [], tallies := [], frames := [], promos := [],
    tileRefs := [], brims := [], lostPages := [], stalePages := [], out := [] }

end Sys2Proof.Machine
end

