-- ==== Sys2Proof/Machine/Layout.lean ====
section
/-! DEFINITION. Where everything lies: pages on instances, channels and lanes (R19 to R24, R573), the declustered stripe
layout (R104 to R108), the shape descriptor (R118 to R120), the hosting deal (R223, R224), and the hatbox sequence and
slots (R251, R254). -/

namespace Sys2Proof.Machine

/-! ### Pages, instances, lanes -/

/-- The key of a tier page. -/
def pageKey (lower : Bool) (page : Nat) : Nat := if lower then Config.lowerKey + page else page

/-- The key's tier. -/
def keyLower (k : Nat) : Bool := Config.lowerKey ≤ k

/-- The tier page number of a key. -/
def keyPage (k : Nat) : Nat := if keyLower k then k - Config.lowerKey else k

/-- The memory address of byte `o` of a page: the tier offset, plus 2^63 in the lower tier. -/
def pageAddr (k o : Nat) : Nat := k * 4096 + o

/-- The page key of a tier offset. -/
def offKey (lower : Bool) (off : Nat) : Nat := pageKey lower (off / 4096)

/-- The instance that serves a page: U(p mod 12) (R19) or L(p mod 4) (R325). -/
def keyInst (k : Nat) : Fin 16 :=
  if keyLower k then ⟨12 + keyPage k % 4, by omega⟩ else ⟨k % 12, by omega⟩

/-- The instance page number: floor(p / 12), or floor(p / 4) in the lower tier (R19, R573). -/
def keyIpn (k : Nat) : Nat := if keyLower k then keyPage k / 4 else k / 12

/-- The page key of an instance page number at an instance. -/
def ipnKey (i : Fin 16) (q : Nat) : Nat :=
  if i.val < 12 then 12 * q + i.val else pageKey true (4 * q + (i.val - 12))

/-- The page identity of R374: the tier page number, with bit 63 set in the lower tier. -/
def pageIdent (k : Nat) : Word := BitVec.ofNat 64 (if keyLower k then 2 ^ 63 + keyPage k else k)

/-- The enabled lanes of an instance in ascending order (R21, R24). -/
def enabledLanes (i : Inst) : List Nat := (List.range 8).filter (fun k => i.harvest.getLsbD k)

/-- A lane that serves now: enabled by the map, trained, not retired, and ON. -/
def laneOn (i : Inst) (k : Nat) : Bool :=
  let l := i.lanes.getD k Lane.reset
  i.harvest.getLsbD k && l.trained && !l.retired && (l.en == .on)

/-- The next serving lane from lane `k` upward, `k` included, wrapping (R22, R24). -/
def nextLane (i : Inst) (k : Nat) : Nat :=
  (((List.range 8).map (fun j => (k + j) % 8)).find? (laneOn i)).getD (k % 8)

/-- The lane of a slot: the (s + 1)-th enabled lane, or the next serving lane after it (R21, R24). -/
def slotLane (i : Inst) (s : Nat) : Nat := nextLane i ((enabledLanes i).getD s 0)

/-- The lane that does the coding work of a page (R21, R61). -/
def workLane (i : Inst) (k : Nat) : Nat :=
  let e := (enabledLanes i).length
  slotLane i (if e = 0 then 0 else keyIpn k % e)

/-! ### Two-handed areas -/

/-- A kind kept in two hands with hand-map entries (R53, R110, R224). -/
def Kind.twoHanded : Kind → Bool
  | .state | .groups | .parity | .hosting _ => true
  | _ => false

/-- A kind with page records (page-coded area); PASS has none (R385). -/
def Kind.pageCoded : Kind → Bool
  | .pass => false
  | _ => true

/-- The bytes that a region occupies in its tier (R55, R326). -/
def Region.span (r : Region) : Nat :=
  if r.kind.twoHanded then 2 * r.len
  else if r.lower && r.kind == .tier then r.len / 3 * 4
  else r.len

/-- Ranges of one tier that share a byte. -/
def overlaps (a la b lb : Nat) : Bool := decide (a < b + lb ∧ b < a + la)

/-- The stitch count of one hand of an area. -/
def Region.stitchCount (r : Region) : Nat := r.len / 4096

/-- The page key of a stitch's hand: left from the base, right from base + L (R55). -/
def Region.handKey (r : Region) (idx : Nat) (right : Bool) : Nat :=
  offKey r.lower (r.base + (if right then r.len else 0) + idx * 4096)

/-- The stitch table key. -/
def stitchKey (region idx : Nat) : Nat := key2 region idx

/-! ### The stripe layout -/

/-- The period q = n / m (R94). -/
def Group.period (g : Group) : Nat := g.n / g.m

/-- Data stitches per stripe, k = n − m. -/
def Group.k (g : Group) : Nat := g.n - g.m

/-- What member `i` holds in stripe `s` of an n + m group: its seat, and the palm or parity index (R105 to R107). -/
def roleOf (n m i s : Nat) : Seat × Nat :=
  let q := n / m
  let t := s / q
  let r := s % q
  if i / m = r then (.parity (i - r * m), t)
  else (.data (if i < r * m then i else i - m), t * (q - 1) + (if r < i / m then r else r - 1))

/-- The stripe of palm index `p` of member `i` (R106). -/
def stripeOf (n m i p : Nat) : Nat :=
  let q := n / m
  let u := p % (q - 1)
  p / (q - 1) * q + (if u < i / m then u else u + 1)

/-- The member that holds parity seat `j` of stripe `s` (R104). -/
def parityHolder (n m s j : Nat) : Nat := (s * m + j) % n

/-- The member with data index `d` in stripe `s` (R105). -/
def dataHolder (n m s d : Nat) : Nat :=
  let r := s % (n / m)
  if d < r * m then d else d + m

/-- The member that holds a seat of stripe `s`. -/
def seatHolder (n m s : Nat) : Seat → Nat
  | .data d => dataHolder n m s d
  | .parity j => parityHolder n m s j

/-- The period count for the largest palm (R108). -/
def periodCount (n m palm : Nat) : Nat := ceilDiv palm (n / m - 1)

/-! ### Tables by bytes -/

/-- Member `i`'s coordinates in a placement table (R125). -/
def placeCoord (tab : List Byte) (i : Nat) : Coord :=
  ⟨field tab (32 + 8 * i) 2, field tab (34 + 8 * i) 2, field tab (36 + 8 * i) 2⟩

/-- Member `i`'s coordinates as the group records them. -/
def Group.coord (g : Group) (i : Nat) : Coord := placeCoord g.place i

/-- The shape descriptor of `slots` entries (R118: 32, magic PDGS; R248: 64, magic PDHG). -/
def shapeBytes (magic slots n m tmax : Nat) (palms layouts : List Nat) : List Byte :=
  leBytes 4 magic ++ leBytes 2 1 ++ leBytes 1 n ++ leBytes 1 m ++ leBytes 8 tmax ++
    ((List.range slots).map (fun i =>
      if i < n then leBytes 8 (palms.getD i 0) ++ leBytes 8 (layouts.getD i 0) else List.replicate 16 0)).flatten

/-- Member `i`'s PALM entry of a shape descriptor. -/
def Group.palmOf (g : Group) (i : Nat) : Nat := field g.shape (0x10 + 16 * i) 8

/-- Member `i`'s LAYOUT entry of a shape descriptor. -/
def Group.layoutOf (g : Group) (i : Nat) : Nat := field g.shape (0x18 + 16 * i) 8

/-- A palm position beyond the member's palm holds a virtual stitch (R108). -/
def Group.isVirtual (g : Group) (i p : Nat) : Bool := decide (g.palmOf i ≤ p)

/-- The coded arena in bytes of a palm with `t` parity stitches (R112). -/
def arenaBytes (palm t : Nat) : Nat := 2 * (palm + t) * 4192

/-! ### Hosting -/

/-- The host of the lost member's palm index `p` (R223). -/
def Deal.palmHost (d : Deal) (p : Nat) : Nat := d.hosts.getD (p / d.unit % d.hosts.length) 0

/-- The host of the lost member's parity index `t` (R223). -/
def Deal.parityHost (d : Deal) (t : Nat) : Nat := d.hosts.getD (t % d.hosts.length) 0

/-- The hosting slot of palm index `p` (R224). -/
def Deal.palmSlot (d : Deal) (p : Nat) : Nat := p / d.unit / d.hosts.length * d.unit + p % d.unit

/-- The hosting slot of parity index `t` (R224). -/
def Deal.paritySlot (d : Deal) (t : Nat) : Nat := d.palmSlots + t / d.hosts.length

/-- How many of `total` palm indices the host at position `pos` of `h` receives in units of `u` (R223). -/
def hostedPalm (total u h pos : Nat) : Nat :=
  let full := total / (u * h)
  let rest := total % (u * h)
  full * u + Nat.min u (rest - Nat.min rest (pos * u))

/-- How many of `total` parity indices the host at position `pos` of `h` receives (R223). -/
def hostedParity (total h pos : Nat) : Nat := total / h + (if pos < total % h then 1 else 0)

/-- Hosting slots that palm indices may reach at position `pos`: H of R224, the highest slot plus one. -/
def hostedSlots (total u h pos : Nat) : Nat := hostedPalm total u h pos

/-- The palm index at hosting slot `z` of the host at position `pos` (inverse of R224). -/
def slotPalm (u h pos z : Nat) : Nat := (z / u * h + pos) * u + z % u

/-! ### Hatbox sequence and slots -/

/-- The sum of the enabled lane counts of U0 to U11 in a LANES word (R251). -/
def lanesUpper (lanes : Word) : Nat := ((List.range 12).map (fun i => (lanes.toNat / 16 ^ i) % 16)).sum

/-- The sequence length of a palm: 1 + L × Q (R251). -/
def seqLength (l palm : Nat) : Nat := 1 + l * ceilDiv palm l

/-- The sequence position of palm index `p` (R251). -/
def seqPos (l palm p : Nat) : Nat := 1 + (p % l) * ceilDiv palm l + p / l

/-- The palm index at sequence position `w` > 0, or none at a gap (R251). -/
def seqPalm (l palm w : Nat) : Option Nat :=
  let q := ceilDiv palm l
  let p := (w - 1) % q * l + (w - 1) / q
  if w = 0 ∨ palm ≤ p then none else some p

/-- The length of one hatbox slot in bytes (R254). -/
def slotBytes (seqLen th : Nat) : Nat := roundUp ((seqLen + th + 1) * 4096) 65536

end Sys2Proof.Machine
end

