-- ==== Sys2Proof/Machine/Ops.lean ====
section
/-! DEFINITION. The named operations over the state: time, units and their faults (R496 to R505), memory bytes,
regions, contexts, fences, and outgoing messages. Every later file reads and writes the state through these. -/

namespace Sys2Proof

/-! ### The fields of a stitch message (R410) -/

/-- The bytes of a message that its CRC covers (R410). -/
def Wire.covered (w : Wire) : List Byte :=
  [w.code, w.context] ++ leBytes 2 w.glove.toNat ++ [w.member] ++ padTo 23 w.body ++ w.payload

/-- Give a message its CRC. -/
def Wire.seal (w : Wire) : Wire := { w with crc := Machine.crc32c w.covered }

/-- TYPE, SUB, LEN and LAST of the CODE byte (R410). -/
def Wire.type (w : Wire) : Nat := w.code.toNat % 16
def Wire.sub (w : Wire) : Nat := w.code.toNat / 16 % 4
def Wire.len (w : Wire) : Bool := w.code.getLsbD 6
def Wire.last (w : Wire) : Bool := w.code.getLsbD 7

/-- A CODE byte. -/
def codeByte (type sub : Nat) (len last : Bool) : Byte :=
  BitVec.ofNat 8 (type + 16 * sub + (if len then 64 else 0) + (if last then 128 else 0))

/-- Body fields by their message offset (from 0x05). -/
def Wire.bodyField (w : Wire) (off n : Nat) : Nat := field w.body (off - 5) n

/-- A message with its CRC. -/
def mkWire (type sub : Nat) (ctx glove member : Nat) (body payload : List Byte) : Wire :=
  Wire.seal { code := codeByte type sub (!payload.isEmpty) false, context := BitVec.ofNat 8 ctx,
              glove := BitVec.ofNat 16 glove, member := BitVec.ofNat 8 member, body := padTo 23 body, crc := 0,
              payload := payload }

/-- The answer to a message (R413): its own TYPE and SUB, bytes 0x01 to 0x1B repeated but MEMBER, LEN 0. -/
def Wire.answer (w : Wire) (type sub member : Nat) : Wire :=
  Wire.seal { w with code := codeByte type sub false false, member := BitVec.ofNat 8 member, payload := [] }

/-- Bytes 0x01 to 0x1B other than MEMBER agree, so one message answers the other (R413, R414). -/
def Wire.matches (a b : Wire) : Bool := (a.context == b.context) && (a.glove == b.glove) && (a.body == b.body)

end Sys2Proof

namespace Sys2Proof.Machine

/-! ### Time and small updates -/

/-- The instance of a number; numbers from 16 on name the instance modulo 16, and no caller passes one. -/
def instIdx (i : Nat) : Fin 16 := ⟨i % 16, by omega⟩

/-- The fault registers of a unit: an instance below 16, the CU at 16. -/
def State.faultsOf (s : State) (u : Nat) : Faults :=
  if u < 16 then (s.inst[instIdx u]).faults else s.cu.faults

/-- The event begins: the clock moves to its band count, never backward, its circumstances are at hand, and every unit's captures from
here on are this event's. -/
def State.at (s : State) (e : Ev) : State :=
  { s with clock := Nat.max s.clock e.t, ev := e, marks := Vector.ofFn (fun u => (s.faultsOf u.val).seq) }

/-- The stamp of an event now: the band count, or 0 before the band counter is acquired (R47, R542). -/
def State.now (s : State) : Nat := if s.cu.band.acquired then s.clock else 0

/-- Change one instance. -/
def State.modInst (s : State) (i : Fin 16) (f : Inst → Inst) : State :=
  { s with inst := s.inst.set i.val (f s.inst[i]) }

/-- The sixteen instance numbers in order. -/
def instNums : List (Fin 16) := (List.range 16).map instIdx

/-- The instance of a page is under test (R557). -/
def State.testing (s : State) (k : Nat) : Bool := s.inst[keyInst k].test.running

/-- Change every instance. -/
def State.modInsts (s : State) (f : Fin 16 → Inst → Inst) : State :=
  instNums.foldl (fun s i => s.modInst i (f i)) s

/-- Change every upper instance. -/
def State.modUppers (s : State) (f : Inst → Inst) : State :=
  s.modInsts (fun _ x => if x.lower then x else f x)

/-- Change the crown unit's registers. -/
def State.modCu (s : State) (f : Cu → Cu) : State := { s with cu := f s.cu }

/-- Change one lane of an instance. -/
def Inst.modLane (x : Inst) (k : Fin 8) (f : Lane → Lane) : Inst :=
  { x with lanes := x.lanes.set k.val (f x.lanes[k]) }

/-- Send something outward; the newest stands first. -/
def State.emit (s : State) (o : Out) : State := { s with out := o :: s.out }

/-- The next free value index (R52; log entry 9). -/
def State.bump (s : State) : State := { s with fresh := s.fresh + 1 }

/-! ### Faults and captures -/

/-- The faults of the fault table, by bit (R496). -/
def fWordCeRate : Nat := 0
def fWordUe : Nat := 1
def fPageCe : Nat := 2
def fPageUe : Nat := 3
def fUninit : Nat := 4
def fShadow : Nat := 5
def fHandmap : Nat := 6
def fPairOverflow : Nat := 7
def fDrainDeadline : Nat := 8
def fCrownAbort : Nat := 9
def fMemberLost : Nat := 10
def fDarnFail : Nat := 11
def fGloveLoss : Nat := 12
def fStepSkew : Nat := 13
def fGeometry : Nat := 14
def fLane : Nat := 15
def fSealFail : Nat := 16
def fDigest : Nat := 17
def fWitness : Nat := 18
def fTierDeadline : Nat := 19
def fTileLost : Nat := 20
def fQuota : Nat := 21
def fKeyReject : Nat := 22
def fRemote : Nat := 23
def fCollTimeout : Nat := 24
def fBand : Nat := 25
def fHealth : Nat := 26
def fScrubLap : Nat := 27
def fTest : Nat := 28
def fTestOverdue : Nat := 29
def fClamp : Nat := 30
def fFirmware : Nat := 31
def fSealReject : Nat := 32
def fAccess : Nat := 33

/-- The unit number of the CU in captures (R503). -/
def cuUnit : Nat := 16

/-- The length of a unit's capture log (R504). -/
def logLength (u : Nat) : Nat := if u < 16 then 16 else 64

/-- How many captures a unit has made since its SEQ was `start`. -/
def Faults.count (f : Faults) (start : Nat) : Nat := (f.seq + 2 ^ 31 - start) % 2 ^ 31

/-- The captures since SEQ was `start` that the log still holds, in SEQ order. -/
def Faults.since (f : Faults) (u start : Nat) : List Capture :=
  let n := Nat.min (f.count start) (logLength u)
  (List.range n).filterMap (fun i => Tab.get f.log ((f.seq + 2 ^ 31 - n + i) % logLength u))

/-- A capture takes its place among those of its PCLK: after every one of a lower or equal code (R504). -/
def placeCapture (c : Capture) (l : List Capture) : List Capture :=
  l.takeWhile (fun x => decide (x.code ≤ c.code)) ++ c :: l.dropWhile (fun x => decide (x.code ≤ c.code))

/-- The first-fault capture after capture `c`: it takes `c` while it is clear, or when it was filled in this PCLK by a higher code
(R505). -/
def Faults.firstWith (f : Faults) (start : Nat) (c : Capture) : Capture := match f.first with
  | none => c
  | some x => if (x.seq + 2 ^ 31 - start) % 2 ^ 31 < f.count start ∧ c.code < x.code then { c with seq := x.seq } else x

/-- Record one capture (R504, R505). `start` is the unit's SEQ when the command began: the captures since then take their SEQ numbers and
their log entries in ascending code. -/
def Faults.capture (f : Faults) (u start code stamp : Nat) (d0 d1 : Word) : Faults :=
  let c : Capture := { code := code, unit := u, seq := f.seq % 2 ^ 31, stamp := stamp, d0 := d0, d1 := d1 }
  let all := placeCapture c (f.since u start)
  let low := f.seq + 2 ^ 31 + 1 - all.length
  { f with first := some (f.firstWith start c),
           log := all.zipIdx.foldl (fun l p => Tab.set l ((low + p.2) % 2 ^ 31 % logLength u)
             { p.1 with seq := (low + p.2) % 2 ^ 31 }) f.log,
           seq := (f.seq + 1) % 2 ^ 31 }

/-- Raise fault `b` (R497): set the bit and capture it. -/
def Faults.raise (f : Faults) (u start b stamp : Nat) (d0 d1 : Word) : Faults :=
  { (f.capture u start b stamp d0 d1) with bits := f.bits ||| ((1 : BitVec 34) <<< b) }

/-- Change the fault registers of a unit: an instance below 16, the CU at 16. -/
def State.modFaults (s : State) (u : Nat) (g : Faults → Faults) : State :=
  if u < 16 then s.modInst (instIdx u) (fun x => { x with faults := g x.faults })
  else s.modCu (fun c => { c with faults := g c.faults })

/-- SEQ of a unit when the command began. -/
def State.mark (s : State) (u : Nat) : Nat := s.marks[min u 16]'(by omega)

/-- Raise a fault in a unit with a stamp (R497). -/
def State.raiseAt (s : State) (u b stamp : Nat) (d0 d1 : Word) : State :=
  s.modFaults u (fun f => f.raise u (s.mark u) b stamp d0 d1)

/-- Raise a fault in a unit, stamped now (R497). -/
def State.raise (s : State) (u b : Nat) (d0 d1 : Word) : State := s.raiseAt u b s.now d0 d1

/-- Record an event without a fault bit (R503). -/
def State.capture (s : State) (u code : Nat) (d0 d1 : Word) : State :=
  s.modFaults u (fun f => f.capture u (s.mark u) code s.now d0 d1)

/-- A word assembled from fields, each given as (lowest bit, value). -/
def packWord (fs : List (Nat × Nat)) : Word := BitVec.ofNat 64 (fs.map (fun p => p.2 * 2 ^ p.1)).sum

/-- ACCESS with its cause (R496, R500). -/
def State.access (s : State) (u cause src ctx : Nat) (d1 : Word) : State :=
  s.raise u fAccess (packWord [(0, cause), (4, src), (8, ctx)]) d1

/-- Bits of the source codes (R32): ENGINE, UPDATE, HOST, KMC, PADUN. -/
def srcEngine : Nat := 0
def srcUpdate : Nat := 1
def srcHost : Nat := 2
def srcKmc : Nat := 3
def srcPadun : Nat := 4

/-! ### Contexts -/

/-- The coded context of a context number. -/
def State.codedOf (s : State) (ctx : Nat) : Option Coded := (s.coded.find? (fun p => p.2.ctx == ctx)).map (·.2)

/-- Change the coded context of a context number; nothing where there is none. -/
def State.modCoded (s : State) (ctx : Nat) (f : Coded → Coded) : State :=
  { s with coded := s.coded.map (fun p => if p.2.ctx == ctx then (p.1, f p.2) else p) }

/-- Change the glove of a coded context. -/
def Coded.modGlove (k : Coded) (f : Glove → Glove) : Coded := { k with glove := k.glove.map f }

/-- Change the hatbox group of a coded context. -/
def Coded.modHb (k : Coded) (f : HbGroup → HbGroup) : Coded := { k with hb := k.hb.map f }

/-- Change the crown vote of a coded context. -/
def Coded.modVote (k : Coded) (f : CrownVote → CrownVote) : Coded := { k with vote := k.vote.map f }

/-- The context is open and not CLOSING (R469). -/
def State.ctxOpen (s : State) (ctx : Nat) : Bool :=
  match Tab.get s.ctxs ctx with
  | some c => !c.closing
  | none => false

/-- The glove of a context that belongs to one (R133: any state but NONE). -/
def State.gloveOf (s : State) (ctx : Nat) : Option Glove :=
  match s.codedOf ctx with
  | some k => match k.glove with
    | some g => if g.state = .none then none else some g
    | none => none
  | none => none

/-- C and its complement agree, and S and its complement (R399). -/
def Coded.stepsOk (k : Coded) : Bool := (k.cInv == ~~~k.c) && (k.sInv == ~~~k.s)

/-- Set C with its complement (R83, R84). -/
def Coded.setC (k : Coded) (c : Word) : Coded := { k with c := c, cInv := ~~~c }

/-- Set S with its complement, and drive it on the step and key port (R37, R85). -/
def Coded.setS (k : Coded) (x : Word) : Coded := { k with s := x, sInv := ~~~x, port := x, portInv := ~~~x }

/-- The CU stops a coded context (R400): the value is captured, every vote is NO, and new work completes INTERNAL. A value whose
disagreement has been raised is not raised again (R497). -/
def State.stopCtx (s : State) (ctx value : Nat) : State := match s.codedOf ctx with
  | none => s
  | some k => if k.found.contains value then s
    else (s.raise cuUnit fHandmap (packWord [(0, value), (8, ctx), (17, 1), (32, ctx)]) 0).modCoded ctx
      (fun k => { k with stopped := true, found := value :: k.found })

/-- The step and its complement agree on the step and key port (R38). -/
def Coded.portOk (k : Coded) : Bool := k.portInv == ~~~k.port

/-- The step and key port of a context: a step that disagrees with its complement there stops the context with value 3 (R38, R399). -/
def State.checkPort (s : State) (ctx : Nat) : State := match s.codedOf ctx with
  | some k => if k.portOk then s else s.stopCtx ctx 3
  | none => s

/-- A read of C and S by the CU (R399): a pair that disagrees stops the context with value 2. -/
def State.checkSteps (s : State) (ctx : Nat) : State := match s.codedOf ctx with
  | some k => if k.stepsOk then s else s.stopCtx ctx 2
  | none => s

/-- The CU stops every coded context of the chip (R405, R561). -/
def State.stopAll (s : State) : State :=
  { s with coded := s.coded.map (fun p => (p.1, { p.2 with stopped := true })) }

/-- The step field of a coded context's messages: S in bits [55:0], A in bits [63:56] (R140). -/
def Coded.stepField (k : Coded) : Word := packWord [(0, k.s.toNat % 2 ^ 56), (56, k.attempt)]

/-- Check the complement pairs of a group's tables (R399): tag key, shape and placement. -/
def Group.tablesOk (g : Group) : Bool := (g.shapeInv == invBytes g.shape) && (g.placeInv == invBytes g.place)

/-- The tag key's pair agrees (R399). -/
def Group.keyOk (g : Group) : Bool := g.tagKeyInv == ~~~g.tagKey

/-- A use of a group's tables and tag key (R399): a pair that disagrees stops the context, with value 5 or 6. -/
def State.useGroup (s : State) (ctx : Nat) (g : Group) : State :=
  let s := if g.tablesOk then s else s.stopCtx ctx 5
  if g.keyOk then s else s.stopCtx ctx 6

/-- What the CU holds of one coded context in complement pairs: C, S, what the port shows, and the tables and tag keys of its glove
and its hatbox group (R38, R399). -/
def State.checkCoded (s : State) (k : Coded) : State :=
  let s := (s.checkSteps k.ctx).checkPort k.ctx
  let s := match k.glove with
    | some g => s.useGroup k.ctx g.g
    | none => s
  match k.hb with
  | some h => s.useGroup k.ctx h.g
  | none => s

/-- The CU checks the pairs of its coded contexts whenever it acts, so before every use (R399; log entry 84). -/
def State.checkPairs (s : State) : State := s.coded.foldl (fun s p => s.checkCoded p.2) s

/-! ### Fences -/

/-- Set a fence (R454). -/
def State.setFence (s : State) (n : Nat) : State :=
  s.modCu (fun c => { c with fences := c.fences ||| ((1 : BitVec 8192) <<< n) })

/-- Clear a fence (R455). -/
def State.clearFence (s : State) (n : Nat) : State :=
  s.modCu (fun c => { c with fences := c.fences &&& ~~~((1 : BitVec 8192) <<< n) })

/-- The fence is SET. -/
def State.fenceSet (s : State) (n : Nat) : Bool := s.cu.fences.getLsbD n

/-! ### Memory bytes -/

/-- The byte at an address; an unlisted address reads zero. -/
def Mem.byte (m : Mem) (a : Nat) : Byte := Tab.getD m.bytes a 0

/-- `n` bytes from address `a`. -/
def Mem.read (m : Mem) (a n : Nat) : List Byte :=
  let w := m.bytes.filter (fun c => decide (a ≤ c.1 ∧ c.1 < a + n))
  (List.range n).map (fun i => Tab.getD w (a + i) 0)

/-- The nonzero cells of a byte list placed at address `a`. -/
def cellsFrom : Nat → List Byte → List Host.Cell
  | _, [] => []
  | a, b :: bs => if b = 0 then cellsFrom (a + 1) bs else (a, b) :: cellsFrom (a + 1) bs

/-- Memory with the bytes of `d` at address `a`. -/
def Mem.write (m : Mem) (a : Nat) (d : List Byte) : Mem :=
  { m with bytes := m.bytes.filter (fun c => decide (c.1 < a)) ++ cellsFrom a d ++
      m.bytes.filter (fun c => decide (a + d.length ≤ c.1)) }

/-- Addresses strictly rise from `lo` on, and no byte is zero: the canonical form of the cell list. -/
def cellsWf : Nat → List Host.Cell → Bool
  | _, [] => true
  | lo, (a, b) :: l => decide (lo ≤ a) && (b != 0) && cellsWf (a + 1) l

/-- The memory's canonical form. -/
def Mem.wf (m : Mem) : Bool := cellsWf 0 m.bytes

/-! ### Regions -/

/-- The region of a number. -/
def State.region? (s : State) (n : Nat) : Option Region := s.regions.find? (fun r => r.num == n)

/-- Change the region of a number. -/
def State.modRegion (s : State) (n : Nat) (f : Region → Region) : State :=
  { s with regions := s.regions.map (fun r => if r.num == n then f r else r) }

/-- The region or area that holds a tier offset. -/
def State.regionAt (s : State) (lower : Bool) (off : Nat) : Option Region :=
  s.regions.find? (fun r => (r.lower == lower) && decide (r.base ≤ off ∧ off < r.base + r.span))

/-- The region or area that holds a page. -/
def State.regionOfKey (s : State) (k : Nat) : Option Region := s.regionAt (keyLower k) (keyPage k * 4096)

/-- The stitch and hand of a page of a two-handed area: (index, right hand). -/
def Region.stitchOf (r : Region) (k : Nat) : Nat × Bool :=
  let o := keyPage k * 4096 - r.base
  if o < r.len then (o / 4096, false) else ((o - r.len) / 4096, true)

/-- A range overlaps a mapped region or area of the tier, other than those the test passes over. -/
def State.rangeTaken (s : State) (lower : Bool) (base len : Nat) (skip : Region → Bool) : Bool :=
  s.regions.any (fun r => (r.lower == lower) && !(skip r) && overlaps base len r.base r.span)

/-- The size of a tier in bytes (R371). -/
def tierBytes (lower : Bool) : Nat := 4096 * (if lower then Config.lowerPages else Config.upperPages)

/-- The STATE and GROUPS regions of a context in palm order: GROUPS by region number, then STATE (R60). -/
def State.palmRegions (s : State) (ctx : Nat) : List Region :=
  let own := s.regions.filter (fun r => (r.owner == ctx))
  let sorted := fun (p : Kind) => sortOn (·.num) (own.filter (fun r => r.kind == p))
  sorted .groups ++ sorted .state

/-- The palm stitch count of a context (R56, R60). -/
def State.palmCount (s : State) (ctx : Nat) : Nat := ((s.palmRegions ctx).map Region.stitchCount).sum

/-- The region and stitch of a palm index in a list of regions in palm order. -/
def locatePalm : List Region → Nat → Option (Region × Nat)
  | [], _ => none
  | r :: rs, p => if p < r.stitchCount then some (r, p) else locatePalm rs (p - r.stitchCount)

/-- The palm index of stitch `idx` of region `num` in a list of regions in palm order. -/
def palmIndex : List Region → Nat → Nat → Nat
  | [], _, _ => 0
  | r :: rs, num, idx => if r.num = num then idx else r.stitchCount + palmIndex rs num idx

/-- A member's layout hash input (R119): 16 bytes for each region of the palm. -/
def layoutBytes (rs : List Region) : List Byte :=
  (rs.map (fun r => leBytes 8 (if r.kind = .state then 1 else 2) ++ leBytes 8 r.stitchCount)).flatten

/-- The layout hash of a context (R119). -/
def State.layoutHash (s : State) (ctx : Nat) : Word := sha384Word (layoutBytes (s.palmRegions ctx))

/-- The chip's LANES word: the enabled lane count of instance i in bits [4i + 3 : 4i] (R88). -/
def State.lanesWord (s : State) : Word :=
  BitVec.ofNat 64 ((List.range 16).map (fun i => (enabledLanes s.inst[instIdx i]).length * 16 ^ i)).sum

/-- The region number that a mapping takes: a free one, which is the free value of R52 where it is free, and otherwise
the lowest free; none when all 4,096 are taken. -/
def State.freeRegion (s : State) : Option Nat :=
  let taken := fun n => s.regions.any (fun r => r.num == n)
  let pick := Config.freeNat s.fresh % 4096
  if taken pick then (List.range 4096).find? (fun n => !taken n) else some pick

/-! ### Stitches -/

/-- The entry that mapping gives a stitch (R63): left hand crowned, no bit set. -/
def Stitch.mapped : Stitch := { hand := 2, touch := false, fill := false, copy := false, lacks := false, unres := false }

/-- The entry of a stitch. -/
def State.stitch (s : State) (region idx : Nat) : Stitch := Tab.getD s.stitches (stitchKey region idx) Stitch.mapped

/-- Change the entry of a stitch; an entry equal to the mapped one is not listed. -/
def State.modStitch (s : State) (region idx : Nat) (f : Stitch → Stitch) : State :=
  let v := f (s.stitch region idx)
  { s with stitches := if v = Stitch.mapped then Tab.del s.stitches (stitchKey region idx)
      else Tab.set s.stitches (stitchKey region idx) v }

/-- Forget every entry of a region (R64). -/
def State.dropStitches (s : State) (region : Nat) : State :=
  { s with stitches := s.stitches.filter (fun p => p.1 / 2 ^ 40 != region) }

/-! ### Outgoing stitch messages -/

/-- Types of R411. -/
def tDelta : Nat := 1
def tDeltaAck : Nat := 2
def tDarnReq : Nat := 3
def tDarnPart : Nat := 4
def tDarnDone : Nat := 5
def tVote : Nat := 6
def tCrown : Nat := 7
def tAbort : Nat := 8
def tHatbox : Nat := 9
def tSeal : Nat := 10
def tWitness : Nat := 11
def tExport : Nat := 12

/-- The control channel carries DELTA_ACK, VOTE, CROWN, ABORT, WITNESS_DIGEST and every message whose SUB is ACK; the stitch channel
every other message (R406). -/
def onControl (w : Wire) : Bool := w.sub == 1 || decide (w.type ∈ [tDeltaAck, tVote, tCrown, tAbort, tWitness])

/-- The Bexli virtual channel of a message (R406). -/
def channelOf (w : Wire) : Nat := if onControl w then 7 else 4

/-- A message leaves for a chip. One for this chip itself the CU passes on inside (R227). -/
def State.carry (s : State) (dst : Coord) (w : Wire) : State :=
  if dst = s.cu.fabric.coord then { s with loop := s.loop ++ [w] } else s.emit (.message dst w)

/-- A message that expects an answer leaves: it is sent and remembered for the timers (R434). EVAC stops every
stitch-channel message of the chip (R239). -/
def State.send (s : State) (unit ctx member : Nat) (dst : Coord) (w : Wire) : State :=
  if s.cu.evac && !onControl w then s
  else
    { (s.carry dst w) with
      serial := s.serial + 1,
      sent := s.sent ++ [{ id := s.serial, unit := unit, ctx := ctx, member := member, dst := dst, msg := w,
                           first := s.now, last := s.now }] }

/-- The commands of an instance whose work moves pages, and so need one of its tracked transfers (R461): REGION_FILL, TILE_PROMOTE,
BRIM_OPEN and BRIM_ADVANCE. DEDUCED: log entry 55. -/
def movesPages (opcode : Nat) : Bool := decide (opcode ∈ [0x05, 0x60, 0x62, 0x63])

/-- Tracked transfers of an instance in use: its DELTAs from send until the acknowledgement (R148), and the accepted commands of its
rings that move pages and have not ended (R461). -/
def State.tracked (s : State) (i : Fin 16) : Nat :=
  (s.sent.filter (fun x => (x.unit == i.val) && (x.msg.type == tDelta))).length +
    (s.pends.filter (fun p => p.cmd.ring / 4096 == i.val && movesPages (field p.cmd.bytes 0 1))).length

/-- The ranks of R214 and R262 that wait: background darn, then hatbox. -/
def rankDarn : Nat := 2
def rankHatbox : Nat := 3

/-- A unit, or with `all` some unit of the chip, has a delta that can leave now: one is queued and a tracked transfer is free (R148). -/
def State.deltaReady (s : State) (all : Bool) (unit : Nat) : Bool :=
  s.deltas.any (fun d => (all || d.inst == unit) && decide (s.tracked (instIdx d.inst) < Config.trackedMax))

/-- A message of rank `r` waits while its instance has a delta that can leave, or a waiting message of a rank up to its own (R214); a
hatbox message waits for those of every instance (R262), and a demand darn's, of rank 0, never. -/
def State.mustWait (s : State) (unit r : Nat) : Bool :=
  let all := r == rankHatbox
  r != 0 && (s.deltaReady all unit || s.stitchQ.any (fun q => (all || q.unit == unit) && decide (q.rank ≤ r)))

/-- A message of the stitch channel leaves in the order of R214 and R262. -/
def State.sendRanked (s : State) (r unit ctx member : Nat) (dst : Coord) (w : Wire) : State :=
  if s.mustWait unit r then { s with stitchQ := s.stitchQ ++
    [{ rank := r, unit := unit, ctx := ctx, member := member, dst := dst, msg := w }] }
  else s.send unit ctx member dst w

/-- Waiting messages leave once no delta can leave before them, background-darn messages first (R214, R262). -/
def State.sendWaiting (s : State) : State :=
  (sortOn (·.rank) s.stitchQ).foldl (fun s q =>
    if s.mustWait q.unit q.rank then { s with stitchQ := s.stitchQ ++ [q] }
    else s.send q.unit q.ctx q.member q.dst q.msg) { s with stitchQ := [] }

/-- An answer or a message that expects none leaves. -/
def State.reply (s : State) (dst : Coord) (w : Wire) : State := s.carry dst w

/-- The first sent message that the test passes. -/
def State.findSent (s : State) (p : Sent → Bool) : Option Sent := s.sent.find? p

/-- A sent message has been answered or given up. -/
def State.dropSent (s : State) (p : Sent → Bool) : State := { s with sent := s.sent.filter (fun x => !p x) }

/-- Messages that wait for their turn are given up. -/
def State.dropQueued (s : State) (p : Queued → Bool) : State := { s with stitchQ := s.stitchQ.filter (fun x => !p x) }

end Sys2Proof.Machine
end

