-- ==== Sys2Proof/Machine/Flags.lean ====
section
/-! DEFINITION. The status values (R489), and the flags that the block shows of its faults: unmasked faults, the interrupt
level and its summary (R42, R501, R502). -/

namespace Sys2Proof.Machine

/-! ### Statuses (R489) -/

def stOk : Nat := 0x00
def stOkShared : Nat := 0x01
def stDeferred : Nat := 0x02
def stPartial : Nat := 0x03
def stBadPacket : Nat := 0x10
def stBadOpcode : Nat := 0x11
def stBadParam : Nat := 0x12
def stBadContext : Nat := 0x13
def stBusy : Nat := 0x14
def stAccessDenied : Nat := 0x15
def stKeyReject : Nat := 0x16
def stQuota : Nat := 0x17
def stGeometry : Nat := 0x20
def stLane : Nat := 0x21
def stDomain : Nat := 0x22
def stSkew : Nat := 0x23
def stNotCrowned : Nat := 0x24
def stCrownAbort : Nat := 0x30
def stDrainLate : Nat := 0x31
def stMemberLost : Nat := 0x32
def stGloveLoss : Nat := 0x33
def stDarnFail : Nat := 0x34
def stSealIncomplete : Nat := 0x35
def stWitnessDisagree : Nat := 0x36
def stWitnessUnresolved : Nat := 0x37
def stDeadlineMissed : Nat := 0x40
def stTileLost : Nat := 0x41
def stUninit : Nat := 0x42
def stRemoteTimeout : Nat := 0x43
def stCollTimeout : Nat := 0x44
def stTestFail : Nat := 0x50
def stSealLimit : Nat := 0x51
def stPowerLimited : Nat := 0x52
def stInternal : Nat := 0xFF

/-! ### Interrupt -/

/-- A unit holds an unmasked fault: a bit whose MASK bit is clear, with the unit's ROUTE bit set (R502). -/
def State.unitPending (s : State) (u : Nat) : Bool :=
  let f := s.faultsOf u
  s.cu.irqRoute.getLsbD u && ((f.bits &&& ~~~f.mask) != 0)

/-- CU_IRQ_SUMMARY: bit `u` for each unit that holds an unmasked fault (R501). -/
def State.irqSummary (s : State) : Nat :=
  ((List.range 17).map (fun u => if s.unitPending u then 2 ^ u else 0)).sum

/-- The interrupt level (R42). -/
def State.irq (s : State) : Bool := (List.range 17).any s.unitPending

end Sys2Proof.Machine
end

