-- ==== Sys2Proof/Machine/Operands.lean ====
section
/-! DEFINITION. The operand forms: the fields of a command packet (R451), the opcode list with scope and privilege (R453,
R468), the reserved bits of every opcode (R451), 64-bit addresses, and the tables and buffers that commands name
(R469). -/

namespace Sys2Proof

/-! ### Packet fields (R451) -/

def Cmd.u8 (c : Cmd) (o : Nat) : Nat := field c.bytes o 1
def Cmd.u16 (c : Cmd) (o : Nat) : Nat := field c.bytes o 2
def Cmd.u32 (c : Cmd) (o : Nat) : Nat := field c.bytes o 4
def Cmd.u64 (c : Cmd) (o : Nat) : Nat := field c.bytes o 8

def Cmd.opcode (c : Cmd) : Nat := c.u8 0
def Cmd.waits (c : Cmd) : Bool := c.u8 1 % 2 == 1
def Cmd.signals (c : Cmd) : Bool := c.u8 1 / 2 % 2 == 1
def Cmd.barrier (c : Cmd) : Bool := c.u8 1 / 4 % 2 == 1
def Cmd.ctx (c : Cmd) : Nat := c.u8 2
def Cmd.mode (c : Cmd) : Nat := c.u8 3
def Cmd.waitFence (c : Cmd) : Nat := c.u16 4
def Cmd.signalFence (c : Cmd) : Nat := c.u16 6
def Cmd.tag (c : Cmd) : Nat := c.u32 8

/-- One bit of MODE. -/
def Cmd.modeBit (c : Cmd) (b : Nat) : Bool := c.mode / 2 ^ b % 2 == 1

/-- The packet's CRC (R451): CRC-32C over the 64 bytes with bytes 12 to 15 zero. -/
def Cmd.crcOk (c : Cmd) : Bool :=
  (Machine.crc32c (overlay c.bytes 12 [0, 0, 0, 0])).toNat == c.u32 12

end Sys2Proof

namespace Sys2Proof.Machine

/-! ### Opcodes (R468) -/

/-- One opcode: its value, CU scope, privilege, and whether it acts on CONTEXT (R453). EVACUATE is privileged and acts on
no context only with SELF. -/
structure Opcode where
  value : Nat
  cu : Bool
  priv : Bool
  onCtx : Bool
  deriving DecidableEq, Repr

def opcodes : List Opcode :=
  [⟨0x01, true, true, true⟩, ⟨0x02, true, true, true⟩, ⟨0x03, false, false, true⟩, ⟨0x04, false, false, true⟩,
   ⟨0x05, false, false, true⟩, ⟨0x10, true, false, true⟩, ⟨0x11, true, false, true⟩, ⟨0x12, true, false, true⟩,
   ⟨0x20, true, false, true⟩, ⟨0x21, true, false, true⟩, ⟨0x22, true, false, true⟩, ⟨0x23, true, false, true⟩,
   ⟨0x24, true, false, true⟩, ⟨0x25, true, false, true⟩, ⟨0x30, true, false, true⟩, ⟨0x31, true, false, true⟩,
   ⟨0x32, true, false, true⟩, ⟨0x33, true, false, true⟩, ⟨0x34, true, false, true⟩, ⟨0x40, true, false, true⟩,
   ⟨0x41, true, false, true⟩, ⟨0x42, true, false, true⟩, ⟨0x43, true, false, true⟩, ⟨0x50, false, false, true⟩,
   ⟨0x51, true, false, true⟩, ⟨0x52, false, false, true⟩, ⟨0x53, true, false, true⟩] ++
  [⟨0x60, false, false, true⟩, ⟨0x61, false, false, true⟩, ⟨0x62, false, false, true⟩, ⟨0x63, false, false, true⟩,
   ⟨0x64, false, true, false⟩, ⟨0x70, false, true, false⟩, ⟨0x71, false, true, false⟩, ⟨0x72, true, false, true⟩,
   ⟨0x73, true, true, false⟩, ⟨0x74, true, false, false⟩, ⟨0x7F, false, false, false⟩]

/-- The entry of an opcode value. -/
def opcodeOf (v : Nat) : Option Opcode := opcodes.find? (fun o => o.value == v)

/-- EVACUATE with SELF set (R453). -/
def isSelfEvac (c : Cmd) : Bool := c.opcode == 0x33 && c.modeBit 0

/-- The command is executed by the CU (R25, R468). -/
def cuScope (c : Cmd) : Bool := match opcodeOf c.opcode with
  | some o => o.cu
  | none => false

/-- The command is accepted only from a ring with PRIV set (R453). -/
def privileged (c : Cmd) : Bool := match opcodeOf c.opcode with
  | some o => o.priv || isSelfEvac c
  | none => false

/-- The command acts on CONTEXT (R453). -/
def actsOnCtx (c : Cmd) : Bool := match opcodeOf c.opcode with
  | some o => o.onCtx && !isSelfEvac c
  | none => false

/-! ### Reserved bits (R451) -/

/-- Byte numbers from `a` to `b`. -/
def span (a b : Nat) : List Nat := (List.range (b + 1 - a)).map (· + a)

/-- The MODE bits that an opcode lists, and the parameter bytes from 16 on that it lists, under the packet's own conditions
(R451 and the opcode tables). -/
def listed (c : Cmd) : Nat × List Nat :=
  match c.opcode with
  | 0x01 => (0x01, span 16 39)
  | 0x03 => (0x1F, span 16 41)
  | 0x04 => (0, span 16 17)
  | 0x05 => (0, span 16 17 ++ span 24 31)
  | 0x10 => (0, span 16 24 ++ span 26 27 ++ span 32 47)
  | 0x12 => (0, span 16 23)
  | 0x20 => (0, span 16 31)
  | 0x21 => (0, span 16 23)
  | 0x22 => (0, span 16 39)
  | 0x24 => (0x07, span 16 35 ++ span 40 63)
  | 0x25 => (0, span 16 24)
  | 0x30 => (0x03, span 16 19 ++ span 24 39)
  | 0x31 => (0x01, [16] ++ span 24 31)
  | 0x32 => (0, span 16 17 ++ span 24 39)
  | 0x33 => (0x01, [16])
  | 0x34 => (0x01, [16] ++ span 18 19 ++ span 24 39)
  | 0x40 => if c.mode % 4 = 0 then (0x03, []) else (0x07, span 16 24 ++ span 28 55)
  | 0x41 => (0, span 16 47)
  | 0x42 => (0x07, span 16 63)
  | 0x43 => (0, span 16 44)
  | 0x50 => if c.modeBit 1 then (0x02, span 16 17) else (0x07, span 16 22 ++ span 24 51 ++ span 56 63)
  | 0x51 => (0, span 16 17 ++ span 24 31)
  | 0x52 => if c.modeBit 1 then (0x02, span 16 17) else (0x07, span 16 31)
  | 0x53 => (0, span 16 17 ++ span 24 31)
  | 0x60 => (0, span 16 17 ++ span 20 31)
  | 0x61 => (0, span 16 17 ++ span 20 23)
  | 0x62 => (0x01, span 16 17 ++ span 24 47)
  | 0x63 => if c.modeBit 0 then (0x01, [16]) else (0x01, [16] ++ span 24 31)
  | 0x64 => (0x01, [16] ++ span 24 47)
  | 0x70 => (0x03, [])
  | 0x71 => (0x03, [])
  | 0x72 => (0, span 16 23)
  | 0x73 => (0x03, [16] ++ span 24 31)
  | 0x74 => (0x01, span 16 17)
  | _ => (0, [])

/-- The first byte of the packet that holds a nonzero reserved bit, or a fence number from 8,192 on (R451, R452). -/
def firstReserved (c : Cmd) : Option Nat :=
  let l := listed c
  let bad := fun (o : Nat) =>
    if o = 1 then decide (8 ≤ c.u8 1)
    else if o = 3 then (List.range 8).any (fun b => c.modeBit b && l.1 / 2 ^ b % 2 == 0)
    else if o = 4 ∨ o = 5 then !c.waits && c.u8 o != 0
    else if o = 6 ∨ o = 7 then !c.signals && c.u8 o != 0
    else decide (16 ≤ o) && c.u8 o != 0 && !(l.2.contains o)
  let fence := fun (o : Nat) =>
    (o == 4 && c.waits && decide (8192 ≤ c.waitFence)) || (o == 6 && c.signals && decide (8192 ≤ c.signalFence)) ||
      (o == 16 && c.opcode == 0x74 && decide (8192 ≤ c.u16 16))
  (List.range 64).find? (fun o => bad o || fence o)

/-- Every fence that a packet names (R453). -/
def fencesNamed (c : Cmd) : List Nat :=
  (if c.waits then [c.waitFence] else []) ++ (if c.signals then [c.signalFence] else []) ++
    (if c.opcode == 0x74 then [c.u16 16] else [])

/-! ### Addresses -/

/-- A 64-bit address of a command, descriptor or table: bit 63 names the lower tier and bits [62:0] the offset
(DEDUCED, log entry 5). -/
def addrLower (a : Nat) : Bool := a / 2 ^ 63 % 2 == 1
def addrOff (a : Nat) : Nat := a % 2 ^ 63

/-- The address of a tier offset. -/
def mkAddr (lower : Bool) (off : Nat) : Nat := (if lower then 2 ^ 63 else 0) + off

/-- The range of `n` bytes at an address lies in one region that the test passes. -/
def State.inRegion (s : State) (a n : Nat) (p : Region → Bool) : Bool :=
  match s.regionAt (addrLower a) (addrOff a) with
  | some r => p r && decide (addrOff a + n ≤ r.base + r.span)
  | none => false

/-- The range of `n` bytes at offset `off` lies wholly inside regions that the test passes, one after another; the fuel
bounds the number of regions. -/
def State.coveredBy (s : State) (lower : Bool) (p : Region → Bool) : Nat → Nat → Nat → Bool
  | 0, _, n => n == 0
  | fuel + 1, off, n =>
    if n = 0 then true
    else match s.regionAt lower off with
      | some r => p r && s.coveredBy lower p fuel (r.base + r.span) (n - Nat.min n (r.base + r.span - off))
      | none => false

/-- A range inside PLAIN regions of a context (R442, R446). -/
def State.plainOf (s : State) (ctx a n : Nat) : Bool :=
  s.coveredBy (addrLower a) (fun r => r.kind == .plain && r.owner == ctx) 4096 (addrOff a) n

/-- A range inside one region that passes the test (R469). -/
def State.inOne (s : State) (p : Region → Bool) (a n : Nat) : Bool :=
  n == 0 || match s.regionAt (addrLower a) (addrOff a) with
    | some r => p r && decide (addrOff a + n ≤ r.base + r.span)
    | none => false

/-- A table inside one PLAIN region of a context (R469). -/
def State.plainTable (s : State) (ctx a n : Nat) : Bool := s.inOne (fun r => r.kind == .plain && r.owner == ctx) a n

end Sys2Proof.Machine
end

