-- ==== Sys2Proof/Machine/Page.lean ====
section
/-! DEFINITION. The local protection of pages and products: the page record and its CRC (R372, R374, R375), the page code
(R373, R377, R378), the reading order (R376), the correction counters (R368 to R370, R379), the shadow encoder (R402 to
R405), and the reading and writing of one whole page. -/

namespace Sys2Proof.Machine

/-! ### The page code -/

/-- The 128 rows of 32 bytes of a page: row `j` holds byte `j` of every interleave (R373). -/
def pageRows (d : List Byte) : List (List Byte) := (List.range 128).map (fun j => slice d (32 * j) 32)

/-- One step of the parity register (p1, p0) by g(x) = x² + 0x03 x + 0x02 (R373). -/
def parityStep (r : List Byte × List Byte) (row : List Byte) : List Byte × List Byte :=
  let f := xorBytes r.1 row
  (xorBytes r.2 (gscale 3 f), gscale 2 f)

/-- PAR1 and PAR0 of a page (R372, R373). -/
def pageParity (d : List Byte) : List Byte × List Byte :=
  (pageRows d).foldl parityStep (List.replicate 32 0, List.replicate 32 0)

/-- 0x02 to the power `l` in the field of R99. -/
def pow2 : Nat → Byte
  | 0 => 1
  | l + 1 => gmul 2 (pow2 l)

/-- The logarithm base 0x02 of a nonzero element; none above the 129 positions of a codeword (R377). -/
def log2Pos (x : Byte) : Option Nat := (List.range 130).find? (fun l => pow2 l == x)

/-- The corrections (position, magnitude) of one interleave with syndromes `s0`, `s1` and erasures at positions `er`;
none when the interleave is uncorrectable (R377, R378). -/
def solveColumn (er : List Nat) (s0 s1 : Byte) : Option (List (Nat × Byte)) :=
  match er with
  | [] =>
    if s0 = 0 ∧ s1 = 0 then some []
    else if s0 = 0 then none
    else (log2Pos (gmul s1 (ginv s0))).map (fun l => [(l, s0)])
  | [l] => if s1 = gmul (pow2 l) s0 then some [(l, s0)] else none
  | [l, n] =>
    let e := gmul (s1 ^^^ gmul (pow2 n) s0) (ginv (pow2 l ^^^ pow2 n))
    some [(l, e), (n, s0 ^^^ e)]
  | _ => none

/-- All or nothing over a list of columns. -/
def allSome {α : Type} : List (Option α) → Option (List α)
  | [] => some []
  | none :: _ => none
  | some x :: xs => (allSome xs).map (fun l => x :: l)

/-- The 130 rows of a codeword, corrected, and whether a byte counts as corrected (R377 to R379); none when an interleave
is uncorrectable. Position `l` is row 129 − l. -/
def decodeRows (rows : List (List Byte)) (er : List Nat) : Option (List (List Byte) × Bool) :=
  let z := List.replicate 32 (0 : Byte)
  let s0 := rows.foldl xorBytes z
  let s1 := rows.foldl (fun s row => xorBytes (gscale 2 s) row) z
  match allSome ((List.range 32).map (fun i => solveColumn er (byteAt s0 i) (byteAt s1 i))) with
  | none => none
  | some fixes =>
    let fixed := (rows.zip (List.range 130)).map (fun p =>
      xorBytes p.1 (fixes.map (fun f => (f.filter (fun e => e.1 + p.2 == 129)).foldl (fun a e => a ^^^ e.2) 0)))
    some (fixed, !er.isEmpty || fixes.any (fun f => f.any (fun e => e.2 != 0)))

/-! ### The page record -/

/-- Record bytes 0x40 to 0x5B (R372). -/
def PageRec.metaBytes (r : PageRec) : List Byte :=
  leBytes 8 r.stepTag.toNat ++ leBytes 8 r.stripeTag.toNat ++ leBytes 4 r.foldMask.toNat ++
    [r.st, r.stInv, r.handGen, r.attempt, 0, 0, 0, 0]

/-- The CRC of a page and its metadata (R374). -/
def pageCrc (k : Nat) (data meta28 : List Byte) : BitVec 32 := crc32c (leBytes 8 (pageIdent k).toNat ++ data ++ meta28)

/-- The tags that a page is written with. -/
structure Tags where
  step : Word
  stripe : Word
  mask : BitVec 32
  hand : Byte
  attempt : Byte
  deriving DecidableEq, Repr

/-- The tags of a page outside every two-handed area (R372). -/
def noTags : Tags := { step := 0, stripe := 0, mask := 0, hand := 0, attempt := 0 }

/-- A record of the given state with tags and parity, and its CRC (R372, R374). -/
def mkRec (k : Nat) (data : List Byte) (st : Byte) (t : Tags) (par : List Byte × List Byte) : PageRec :=
  let r : PageRec := { par1 := par.1, par0 := par.2, stepTag := t.step, stripeTag := t.stripe, foldMask := t.mask,
                       st := st, stInv := ~~~st, handGen := t.hand, attempt := t.attempt, crc := 0 }
  { r with crc := pageCrc k data r.metaBytes }

/-- STATE values (R372). -/
def stWritten : Byte := 1
def stNever : Byte := 2
def stPoisoned : Byte := 3

/-- The record that mapping writes (R382). -/
def neverRec : PageRec :=
  { par1 := List.replicate 32 0, par0 := List.replicate 32 0, stepTag := 0, stripeTag := 0, foldMask := 0, st := 2,
    stInv := 0xFD, handGen := 0, attempt := 0, crc := 0 }

/-- The stored record of a page; an unlisted one is never-written. -/
def Mem.record (m : Mem) (k : Nat) : PageRec := Tab.getD m.recs k neverRec

/-- The record with new metadata, its CRC changed by R375 without reading the page. -/
def PageRec.withMeta (r n : PageRec) : PageRec :=
  { n with crc := r.crc ^^^ crc32Delta (xorBytes r.metaBytes n.metaBytes) }

/-- Change the metadata of a listed record by R375; a never-written page has no record to change. -/
def State.modMeta (s : State) (k : Nat) (f : PageRec → PageRec) : State :=
  match Tab.get s.mem.recs k with
  | none => s
  | some r => { s with mem := { s.mem with recs := Tab.set s.mem.recs k (r.withMeta (f r)) } }

/-- A page is marked poisoned (R364): the metadata burst is written, and a page that was never written becomes listed. -/
def State.markPoisoned (s : State) (k : Nat) : State :=
  let r := s.mem.record k
  let n := { r with st := stPoisoned, stInv := ~~~stPoisoned }
  { s with mem := { s.mem with recs := Tab.set s.mem.recs k (r.withMeta n) } }

/-- Every page of `n` from page key `k` becomes never-written (R382). -/
def State.neverPages (s : State) (k n : Nat) : State :=
  { s with mem := { s.mem with recs := s.mem.recs.filter (fun p => !decide (k ≤ p.1 ∧ p.1 < k + n)),
                               merge := s.mem.merge.filter (fun m => !decide (k ≤ m.page ∧ m.page < k + n)),
                               repairQ := s.mem.repairQ.filter (fun q => !decide (k ≤ q ∧ q < k + n)) } }

/-! ### Shadow encoder -/

/-- Working lanes of an instance: enabled, trained and not retired (R405). -/
def workingLanes (x : Inst) : Nat :=
  ((List.range 8).filter (fun k => x.harvest.getLsbD k && (x.lanes.getD k Lane.reset).trained &&
    !(x.lanes.getD k Lane.reset).retired)).length

/-- The lane after lane `k` in ascending order, wrapping, that is enabled and unretired (R404). -/
def neighbourLane (x : Inst) (k : Nat) : Nat := nextLane x ((k + 1) % 8)

/-- Lane number as an index. -/
def laneIdx (k : Nat) : Fin 8 := ⟨k % 8, by omega⟩

/-- The instance stops its coding work, raises TEST_FAIL with cause 7, and the CU stops every coded context (R405). -/
def State.haltCoding (s : State) (i : Fin 16) (lane : Nat) : State :=
  (((s.modInst i (fun x => { x with halted := true })).raise i.val fTest 7 (BitVec.ofNat 64 lane)).modCu
    (fun c => { c with halted := true })).stopAll

/-- Retire a lane; retirements that leave fewer than four working lanes halt the instance (R405). -/
def State.retireLane (s : State) (i : Fin 16) (lane : Nat) : State :=
  let t := s.modInst i (fun x => x.modLane (laneIdx lane) (fun l => { l with retired := true }))
  if workingLanes t.inst[i] < 4 then t.haltCoding i lane else t

/-- What a lane's ROM holds (R403): the 256 products a · 0xFF, and K of the page code, the parity of an all-ones page (R402). -/
def romImage : LaneRom :=
  { products := (List.range 256).map (fun a => gmul (BitVec.ofNat 8 a) 0xFF),
    parity := (pageParity (List.replicate 4096 0xFF)).1 ++ (pageParity (List.replicate 4096 0xFF)).2 }

/-- The product codes of SHADOW_MISMATCH (R496). -/
def pDelta : Nat := 0
def pChain : Nat := 1
def pPage : Nat := 2

/-- Record a shadow mismatch with its outcome (R404, R496). -/
def State.shadowFault (s : State) (i : Fin 16) (lane nb outcome product : Nat) : State :=
  s.raise i.val fShadow (packWord [(0, lane), (4, nb), (8, outcome)]) (BitVec.ofNat 64 product)

/-- One checked product on a lane (R402 to R405). `y` is the correct product; the event's lane errors say what the lane,
its shadow and the neighbour computed instead. The answer is what leaves the lane, or none when nothing may leave; from an instance
that has stopped its coding work no DELTA product and no chain sum leaves (R405). -/
def State.checked (s : State) (i : Fin 16) (lane product : Nat) (y : List Byte) : State × Option (List Byte) :=
  if s.inst[i].halted && product != pPage then (s, none)
  else match s.ev.lane with
  | none => (s, some y)
  | some e =>
    let s := { s with ev := { s.ev with lane := none } }
    let out := fun (p : Byte) => some (y.map (fun b => b ^^^ p))
    if e.primary = e.shadow then (s, out e.primary)
    else
      let nb := neighbourLane s.inst[i] lane
      if e.third = e.primary then
        let s := s.shadowFault i lane nb 1 product
        let again := (s.inst[i].lanes.getD lane Lane.reset).flagged
        let s := s.modInst i (fun x => x.modLane (laneIdx lane) (fun l => { l with flagged := true }))
        (if again then s.retireLane i lane else s, out e.primary)
      else if e.third = e.shadow then ((s.shadowFault i lane nb 2 product).retireLane i lane, out e.third)
      else
        let s := (s.shadowFault i lane nb 3 product).retireLane i lane
        if e.third = e.again then (s, out e.third) else (s.haltCoding i lane, none)

/-! ### Locators -/

/-- The locator of a page of a region (R496). -/
def State.locator (s : State) (r : Region) (k : Nat) : Word :=
  let idx := (r.stitchOf k).1
  match r.kind with
  | .state | .groups =>
    packWord [(0, r.num), (16, 1), (20, palmIndex (s.palmRegions r.owner) r.num idx)]
  | .parity | .hosting _ => packWord [(0, r.num), (16, 1), (17, 1), (20, idx)]
  | _ => packWord [(0, r.num)]

/-- The locator of a page, zero where no region holds it. -/
def State.pageLocator (s : State) (k : Nat) : Word :=
  match s.regionOfKey k with
  | some r => s.locator r k
  | none => 0

/-! ### Correction counters -/

/-- Count `n` corrected bursts on a lane (R368) and raise WORD_CE_RATE once in a window (R369). -/
def State.countCe (s : State) (i : Fin 16) (lane n : Nat) : State :=
  if n = 0 then s
  else
    let l := s.inst[i].lanes[laneIdx lane]
    let w := satAdd 32 l.window n
    let hit := decide (l.limit < w) && !l.rated
    let s := s.modInst i (fun x => x.modLane (laneIdx lane) (fun l =>
      { l with wce := satAdd 32 l.wce n, window := w, rated := l.rated || hit }))
    if hit then s.raise i.val fWordCeRate (packWord [(0, lane), (32, w)]) 0 else s

/-- The 4 KiB unit of its controller that holds burst `j` of a page: the page's own unit, or the unit of the record area
at the top of the memory (R371, R573). The record area's base is DEDUCED: log entry 8. -/
def burstUnit (k j : Nat) : Nat :=
  if j < 128 then keyIpn k
  else
    let pages := if keyLower k then Config.lowerPages / 4 else Config.upperPages / 12
    let size := if keyLower k then 2 ^ 39 else 48 * 2 ^ 30
    (size - pages * 96 + keyIpn k * 96 + (j - 128) * 32) / 4096

/-- The lane that serves the channel of a burst (R20, R22, R573). -/
def burstLane (x : Inst) (k j : Nat) : Nat :=
  nextLane x (if keyLower k then burstUnit k j % 24 / 3 else burstUnit k j % 64 / 8)

/-- The word-code statuses of the bursts that a read of page `k` meets (R36, R368, R370). -/
def State.countBursts (s : State) (k : Nat) (bs : List Burst) (pass : Bool) : State :=
  let i := keyInst k
  bs.foldl (fun s b =>
    let lane := burstLane s.inst[i] k b.index
    if b.status = 1 then s.countCe i lane 1
    else if b.status.getLsbD 1 then
      s.raise i.val fWordUe (pageIdent k) (packWord [(0, lane), (8, b.index), (16, if pass then 1 else 0)])
    else s) s

/-! ### Reading a page -/

/-- What a read of a page of a page-coded area finds (R376). -/
inductive Got where
  | never
  | poisoned
  | bad
  | page (data : List Byte) (rec : PageRec)
  deriving DecidableEq, Repr

/-- The controllers' reports of this event for a page (R36). -/
def State.reports (s : State) (k : Nat) : List Burst := s.ev.ctl.filter (fun b => b.page == k)

/-- The metadata burst of a record as read: the fields of R372 and the stored CRC. -/
def metaOf (r : PageRec) (b : List Byte) : PageRec :=
  { r with stepTag := BitVec.ofNat 64 (field b 0 8), stripeTag := BitVec.ofNat 64 (field b 8 8),
           foldMask := BitVec.ofNat 32 (field b 16 4), st := byteAt b 20, stInv := byteAt b 21,
           handGen := byteAt b 22, attempt := byteAt b 23, crc := BitVec.ofNat 32 (field b 28 4) }

/-- The bytes of the metadata burst (R371, R372). -/
def PageRec.metaBurst (r : PageRec) : List Byte := r.metaBytes ++ leBytes 4 r.crc.toNat

/-- The counters and PAGE_CE of a corrected page (R379); the page joins its instance's repair queue while that has
room. -/
def State.corrected (s : State) (k : Nat) : State :=
  let i := keyInst k
  let s := s.modInst i (fun x => { x with pageCe := satAdd 32 x.pageCe 1 })
  let s := s.raise i.val fPageCe (BitVec.ofNat 64 (keyPage k)) (s.pageLocator k)
  let q := s.mem.repairQ
  if k ∈ q ∨ Config.repairMax ≤ (q.filter (fun j => keyInst j = i)).length then s
  else { s with mem := { s.mem with repairQ := q ++ [k] } }

/-- The counter and PAGE_UE of an uncorrectable page (R380). -/
def State.uncorrectable (s : State) (k : Nat) : State :=
  let i := keyInst k
  let s := s.modInst i (fun x => { x with pageUe := satAdd 32 x.pageUe 1 })
  s.raise i.val fPageUe (BitVec.ofNat 64 (keyPage k)) (s.pageLocator k)

/-- Read a page and its record and decide by R376; the answer says too whether the decode corrected a byte (R379). -/
def State.decodePage (s : State) (k : Nat) : State × Got × Bool :=
  let rs := s.reports k
  let r0 := s.mem.record k
  let burst := fun (n : Nat) (d : List Byte) => match rs.find? (fun b => b.index == n) with
    | some b => b.data
    | none => d
  let mb := burst 130 r0.metaBurst
  let r := metaOf r0 mb
  if r.stInv ≠ ~~~r.st ∨ (r.st ≠ stWritten ∧ r.st ≠ stNever ∧ r.st ≠ stPoisoned) then
    ((s.countBursts k rs false).uncorrectable k, .bad, false)
  else if r.st = stNever then (s.countBursts k (rs.filter (fun b => decide (128 ≤ b.index))) false, .never, false)
  else
    let s := s.countBursts k rs false
    if r.st = stPoisoned then (s, .poisoned, false)
    else if rs.any (fun b => b.index == 130 && b.status.getLsbD 1) then (s.uncorrectable k, .bad, false)
    else
      let rows := (pageRows (s.mem.read (pageAddr k 0) 4096)).zip (List.range 128) |>.map (fun p => burst p.2 p.1)
      let er := (rs.filter (fun b => b.status.getLsbD 1 && b.index != 130)).map (fun b => 129 - b.index)
      if rs.isEmpty ∧ r.par1 ++ r.par0 = (pageParity rows.flatten).1 ++ (pageParity rows.flatten).2 ∧
          r.crc = pageCrc k rows.flatten r.metaBytes then (s, .page rows.flatten r, false)
      else
        match decodeRows (rows ++ [burst 128 r.par1, burst 129 r.par0]) er with
        | none => (s.uncorrectable k, .bad, false)
        | some (fixed, touched) =>
          let d := (fixed.take 128).flatten
          if r.crc = pageCrc k d (mb.take 28) then (if touched then s.corrected k else s, .page d r, touched)
          else (s.uncorrectable k, .bad, false)

/-- Read a page and its record and decide by R376. -/
def State.fetchPage (s : State) (k : Nat) : State × Got := ((s.decodePage k).1, (s.decodePage k).2.1)

/-- The bytes of a PASS page for a read of `n` of them from `off`: a flagged burst that the read touches reads as
poison, and the response is marked (R370, R385); the controller reports the bursts that are read (R36). -/
def State.fetchPass (s : State) (k off n : Nat) : State × List Byte × Bool :=
  let rs := (s.reports k).filter (fun b => decide (off < 32 * (b.index + 1)) && decide (32 * b.index < off + n))
  let s := s.countBursts k rs true
  let d := rs.foldl (fun d b => overlay d (32 * b.index)
    (if b.index < 128 then (if b.status.getLsbD 1 then poison 32 else b.data) else [])) (s.mem.read (pageAddr k 0) 4096)
  (s, d, rs.any (fun b => decide (b.index < 128) && b.status.getLsbD 1))

/-! ### Writing a page -/

/-- The lane that codes a page: by the left hand's page in a two-handed area (R21, R61). -/
def State.codeLane (s : State) (k : Nat) : Nat :=
  let k' := match s.regionOfKey k with
    | some r => if r.kind.twoHanded then r.handKey (r.stitchOf k).1 false else k
    | none => k
  workLane s.inst[keyInst k] k'

/-- Areas that hold stitches: STATE, GROUPS, parity, hosting and hatbox areas. -/
def Kind.stateArea : Kind → Bool
  | .state | .groups | .parity | .hosting _ | .hatbox => true
  | _ => false

/-- The page's instance has stopped its coding work (R405), and the page is a stitch, whose page coding is such work (R21). -/
def State.codingStopped (s : State) (k : Nat) : Bool :=
  s.inst[keyInst k].halted && match s.regionOfKey k with
    | some r => r.kind.stateArea
    | none => false

/-- Write a whole page with a fresh record (R373, R374); its parity is a checked product (R402). Errors that the
controllers reported for the page are gone. An instance that has stopped its coding work writes no stitch (R405). -/
def State.storePage (s : State) (k : Nat) (data : List Byte) (t : Tags) : State :=
  let d := padTo 4096 data
  let par := pageParity d
  if s.codingStopped k then s
  else match s.checked (keyInst k) (s.codeLane k) pPage (par.1 ++ par.2) with
  | (s, none) => s
  | (s, some y) =>
    let m := s.mem.write (pageAddr k 0) d
    { s with mem := { m with recs := Tab.set m.recs k (mkRec k d stWritten t (y.take 32, y.drop 32)),
                             repairQ := m.repairQ.filter (fun q => q != k) },
             ev := { s.ev with ctl := s.ev.ctl.filter (fun b => b.page != k) } }

/-- Write bytes of a PASS page: data only (R386). -/
def State.storePass (s : State) (k off : Nat) (data : List Byte) : State :=
  { s with mem := s.mem.write (pageAddr k off) data }

/-- Drop a page's merge entry. -/
def State.dropMerge (s : State) (k : Nat) : State :=
  { s with mem := { s.mem with merge := s.mem.merge.filter (fun m => m.page != k) } }

/-- A page's merge entry. -/
def State.mergeOf (s : State) (k : Nat) : Option Merge := s.mem.merge.find? (fun m => m.page == k)

/-- Every one of `n` bytes from `off` lies inside the entry's mask (R390). -/
def Merge.holds (m : Merge) (off n : Nat) : Bool := (List.range n).all (fun i => (Tab.get m.bytes (off + i)).isSome)

/-- Put bytes into a page's merge entry, made when there is none; the entry becomes the most recently written (R388). Room is made
when the event ends. -/
def State.mergeInto (s : State) (k off : Nat) (d : List Byte) (reqs : List Nat) : State :=
  let old := match s.mergeOf k with
    | some m => m
    | none => { page := k, bytes := [], last := 0, waiting := [] }
  let bytes := (d.zip (List.range d.length)).foldl (fun l p => Tab.set l (off + p.2) p.1) old.bytes
  let s := s.dropMerge k
  { s with mem := { s.mem with merge := s.mem.merge ++
    [{ page := k, bytes := bytes, last := s.now, waiting := old.waiting ++ reqs }] } }

/-! ### A fill in progress (R386, R387) -/

/-- A page that a REGION_FILL has still to write (R387). -/
def State.fillPending (_s : State) (r : Region) (k : Nat) : Bool := match r.fill with
  | some f => f.todo.contains k
  | none => false

/-- A page of the pattern (R386). -/
def patternPage (p : Word) : List Byte := ((List.range 512).map (fun _ => leBytes 8 p.toNat)).flatten

/-- The fill of a region writes one of its pages: data only in a PASS region, and a lost page is lost no longer (R365, R386). The
parity page of three equal pages is the pattern too. -/
def State.fillOne (s : State) (r : Region) (f : Fill) (k : Nat) : State :=
  let page := patternPage f.pattern
  let s := if r.kind.pageCoded then s.storePage k page noTags else s.storePass k 0 page
  let s := { s with lostPages := s.lostPages.filter (fun p => !(p.1 == r.num && pageKey true (r.base / 4096 + p.2.2) == k)) }
  s.modRegion r.num (fun r => { r with fill := r.fill.map (fun f =>
    { f with todo := f.todo.filter (fun q => q != k), written := f.written + 4096 }) })

/-- Padun's own access to a page that a fill has still to write waits until the instance's fill has passed it (R387): the pages up to
it are written first. -/
def State.fillTo (s : State) (k : Nat) : State := match s.regionOfKey k with
  | none => s
  | some r => match r.fill with
    | none => s
    | some f =>
      if f.todo.contains k then
        (f.todo.filter (fun q => decide (keyInst q = keyInst k ∧ keyIpn q ≤ keyIpn k))).foldl (fun s q => s.fillOne r f q) s
      else s

/-- The bytes of a merge entry laid over a page. -/
def Merge.over (m : Merge) (d : List Byte) : List Byte :=
  m.bytes.foldl (fun d p => d.set p.1 p.2) d

end Sys2Proof.Machine
end

