-- ==== Sys2Proof/Machine/Complete.lean ====
section
/-! DEFINITION. Padun's own reads and writes of one-handed memory, and what it posts: completion entries (R462, R463),
fences (R454), DEFERRED and FINAL entries (R466), notices (R464), and the commands that wait for their end. -/

namespace Sys2Proof.Machine

/-! ### Padun's own accesses -/

/-- Count a partial initialisation (R391). -/
def State.partialInit (s : State) (k : Nat) : State :=
  s.modInst (keyInst k) (fun x => { x with partialInit := satAdd 32 x.partialInit 1 })

/-- Raise UNINIT_READ for a page (R383, R496) and count it. -/
def State.uninitRead (s : State) (k src ctx : Nat) : State :=
  let reg := match s.regionOfKey k with
    | some r => r.num
    | none => 0
  let s := s.modInst (keyInst k) (fun x => { x with uninit := satAdd 32 x.uninit 1 })
  s.raise (keyInst k).val fUninit (BitVec.ofNat 64 (keyPage k)) (packWord [(0, reg), (16, src), (24, ctx)])

/-- Read-modify-write of a one-handed page outside the lower TIER code (R389, R391): a never-written page takes 0xFF
outside the bytes, an uncorrectable or a poisoned one drops them. -/
def State.patchPage (s : State) (k : Nat) (f : List Byte → List Byte) : State :=
  match s.fetchPage k with
  | (s, .never) => (s.partialInit k).storePage k (f poisonPage) noTags
  | (s, .poisoned) => s.partialInit k
  | (s, .bad) => s
  | (s, .page d _) => s.storePage k (f d) noTags

/-- Evict a page's merge entry by read-modify-write. -/
def State.evictPlain (s : State) (k : Nat) : State :=
  match s.mergeOf k with
  | none => s
  | some m => (s.dropMerge k).patchPage k m.over

/-- Padun reads a page of PLAIN memory, its merge entry written first. -/
def State.readPlain (s : State) (k ctx : Nat) : State × Option (List Byte) :=
  match (s.evictPlain k).fetchPage k with
  | (s, .never) => (s.uninitRead k srcPadun ctx, none)
  | (s, .page d _) => (s, some d)
  | (s, _) => (s, none)

/-- The parts (page key, offset in the page, start in the data, length) of `n` bytes from a tier offset; the fuel bounds
their number. -/
def pageParts (lower : Bool) : Nat → Nat → Nat → Nat → List (Nat × Nat × Nat × Nat)
  | 0, _, _, _ => []
  | fuel + 1, off, at', n =>
    if n = 0 then []
    else
      let m := Nat.min n (4096 - off % 4096)
      (offKey lower off, off % 4096, at', m) :: pageParts lower fuel (off + m) (at' + m) (n - m)

/-- The parts of a range. -/
def rangeParts (lower : Bool) (off n : Nat) : List (Nat × Nat × Nat × Nat) := pageParts lower (n / 4096 + 2) off 0 n

/-- Padun writes bytes into PLAIN memory: a whole page at once, and less into the page's merge entry (R388), which an instance under
test does not have (R557). Bytes outside every region are dropped. -/
def State.padunWrite (s : State) (a : Nat) (data : List Byte) : State :=
  (rangeParts (addrLower a) (addrOff a) data.length).foldl (fun s p =>
    let (k, o, i, n) := p
    let d := slice data i n
    let s := s.fillTo k
    match s.regionOfKey k with
    | none => s
    | some r =>
      if !r.kind.pageCoded then s.storePass k o d
      else if n = 4096 then (s.dropMerge k).storePage k d noTags
      else if s.inst[keyInst k].test.running then (s.evictPlain k).patchPage k (fun page => overlay page o d)
      else s.mergeInto k o d []) s

/-- One page's bytes for Padun's own read of PLAIN memory (R390); none where the read returns the poison pattern. -/
def State.padunPage (s : State) (k off n ctx : Nat) : State × Option (List Byte) :=
  let s := s.fillTo k
  match s.regionOfKey k with
  | none => (s, none)
  | some r =>
    if r.kind.pageCoded then
      match s.mergeOf k with
      | some m =>
        if m.holds off n then (s, some (m.over zeroPage))
        else s.readPlain k ctx
      | none => s.readPlain k ctx
    else match s.fetchPass k off n with
      | (s, d, false) => (s, some d)
      | (s, _, true) => (s, none)

/-- Padun reads `n` bytes; none when any of them reads as poison. -/
def State.padunRead (s : State) (a n ctx : Nat) : State × Option (List Byte) :=
  (rangeParts (addrLower a) (addrOff a) n).foldl (fun acc p =>
    let (k, o, _, m) := p
    match acc with
    | (s, none) => (s, none)
    | (s, some d) => match s.padunPage k o m ctx with
      | (s, some page) => (s, some (d ++ slice page o m))
      | (s, none) => (s, none)) (s, some [])

/-! ### Rings -/

/-- The descriptor's address of a ring (R441). -/
def State.descAddr (s : State) (ring : Nat) : Nat := s.cu.ringTable + 64 * ring

/-- Change what the CU holds of a ring. -/
def State.modRing (s : State) (ring : Nat) (f : Ring → Ring) : State :=
  match Tab.get s.rings ring with
  | some r => { s with rings := Tab.set s.rings ring (f r) }
  | none => s

/-- Write one of the counts that Padun keeps into the descriptor (R443, R577). -/
def State.writeCount (s : State) (ring off v : Nat) : State :=
  s.padunWrite (s.descAddr ring + off) (leBytes 4 v)

/-- The 32 bytes of a completion entry (R462). -/
def Completion.toBytes (c : Completion) : List Byte :=
  [c.status, c.opcode, c.context, c.flags] ++ leBytes 2 c.fence ++ [c.inst, 0] ++ leBytes 4 c.tag.toNat ++
    leBytes 2 c.slot ++ [c.detail, 0] ++ leBytes 8 c.stamp ++ leBytes 8 c.result.toNat

/-- PHASE of the entry with POSTED count `i` (R462). -/
def phaseBit (i log2 : Nat) : Nat := if i / 2 ^ log2 % 2 = 0 then 0x80 else 0

/-- One entry reaches a completion ring and POSTED advances, in the descriptor and where the CU holds the ring (R463, R577). -/
def State.putEntry (s : State) (c : Completion) (cqBase log2 posted : Nat) : State :=
  let c := { c with index := posted, flags := c.flags + BitVec.ofNat 8 (phaseBit posted log2) }
  let s := s.padunWrite (cqBase + 32 * (posted % 2 ^ log2)) c.toBytes
  let n := (posted + 1) % 2 ^ 32
  ((s.modRing c.ring (fun r => { r with posted := n })).writeCount c.ring 0x1C n).emit (.completion c)

/-- One entry reaches the completion ring of a command's ring (R463); on a ring that the CU does not hold, the entry only
leaves. -/
def State.writeEntry (s : State) (c : Completion) : State :=
  match Tab.get s.rings c.ring with
  | none => s.emit (.completion c)
  | some r => s.putEntry c r.cqBase r.log2 r.posted

/-! ### Completions -/

/-- The pending command of a packet. -/
def State.pendOf (s : State) (c : Cmd) : Option Pend :=
  s.pends.find? (fun p => p.cmd.ring == c.ring && p.cmd.count == c.count)

/-- Remove the pending command of a packet. -/
def State.dropPend (s : State) (c : Cmd) : State :=
  { s with pends := s.pends.filter (fun p => !(p.cmd.ring == c.ring && p.cmd.count == c.count)) }

/-- The unit number that a command's completion carries (R25, R462). -/
def cmdUnit (c : Cmd) : Nat := if cuScope c then cuUnit else c.ring / 4096

/-- The completion entry of a command. -/
def cmdEntry (c : Cmd) (inst status result detail stamp : Nat) (fence : Option Nat) (setNow final : Bool) : Completion :=
  { ring := c.ring, index := 0, status := BitVec.ofNat 8 status, opcode := BitVec.ofNat 8 c.opcode,
    context := BitVec.ofNat 8 c.ctx,
    flags := BitVec.ofNat 8 ((if setNow && fence.isSome then 2 else 0) + (if final then 4 else 0)),
    fence := fence.getD 0xFFFF, inst := BitVec.ofNat 8 inst, tag := BitVec.ofNat 32 c.tag, slot := c.count % 65536,
    detail := BitVec.ofNat 8 detail, stamp := stamp, result := BitVec.ofNat 64 result }

/-- The fence that a command's final completion sets (R454). -/
def fenceOf (c : Cmd) : Option Nat := if c.signals && decide (c.signalFence < 8192) then some c.signalFence else none

/-- The final completion of a command with a stamp of its own: the entry, then POSTED, then the fence (R454, R463, R466).
Under FW_FAULT a CU-scope command posts nothing and sets no fence (R31). -/
def State.postAt (s : State) (c : Cmd) (status result detail stamp : Nat) : State :=
  let final := match s.pendOf c with
    | some p => p.second
    | none => false
  let s := s.dropPend c
  if s.cu.fwFault && cuScope c then s
  else
    let s := s.writeEntry (cmdEntry c (cmdUnit c) status result detail stamp (fenceOf c) true final)
    match fenceOf c with
    | some n => s.setFence n
    | none => s

/-- The final completion of a command, stamped now. -/
def State.post (s : State) (c : Cmd) (status result : Nat) : State := s.postAt c status result 0xFF s.now

/-- BAD_PARAM with DETAIL naming the packet byte (R462). -/
def State.badParam (s : State) (c : Cmd) (byte : Nat) : State := s.postAt c stBadParam 0 byte s.now

/-- An accepted command waits for its end. -/
def State.hold (s : State) (c : Cmd) (j : Job) : State :=
  match s.pendOf c with
  | some p => { s with pends := s.pends.map (fun (q : Pend) =>
      if q.cmd.ring == p.cmd.ring && q.cmd.count == p.cmd.count then { q with job := j } else q) }
  | none => { s with pends := s.pends ++ [{ cmd := c, job := j, at' := s.now, second := false }] }

/-- The first entry of a command that waits for a shut-down or a scan: DEFERRED, no fence set (R305, R466). -/
def State.postDeferred (s : State) (c : Cmd) (j : Job) : State :=
  let s := s.hold c j
  let s := { s with pends := s.pends.map (fun (q : Pend) =>
    if q.cmd.ring == c.ring && q.cmd.count == c.count then { q with second := true } else q) }
  s.writeEntry (cmdEntry c (cmdUnit c) stDeferred 0 0xFF s.now (fenceOf c) false false)

/-- The pending commands whose job passes the test. -/
def State.jobs (s : State) (p : Job → Bool) : List Pend := s.pends.filter (fun q => p q.job)

/-- A job of the kind is pending. -/
def State.hasJob (s : State) (p : Job → Bool) : Bool := s.pends.any (fun q => p q.job)

/-- Every pending command whose job passes the test completes, in order of acceptance. -/
def State.endJobs (s : State) (p : Job → Bool) (status result stamp : Nat) : State :=
  (s.jobs p).foldl (fun s q => s.postAt q.cmd status result 0xFF stamp) s

/-! ### Notices (R464) -/

/-- The fields of a descriptor (R443) by offset and size. -/
def descField (d : List Byte) (o n : Nat) : Nat := field d o n

/-- Every check of R446 over a descriptor and the counts that apply. -/
def State.descOk (s : State) (d : List Byte) (head posted : Nat) : Bool :=
  let e := descField d 0x20 1
  let owner := descField d 0x21 1
  decide (6 ≤ e ∧ e ≤ 16) && descField d 0 8 % 64 == 0 && descField d 8 8 % 32 == 0 && s.ctxOpen owner &&
    s.plainOf owner (descField d 0 8) (64 * 2 ^ e) && s.plainOf owner (descField d 8 8) (32 * 2 ^ e) &&
    decide (descField d 0x24 2 ≤ descField d 0x26 2) && decide (descField d 0x26 2 ≤ 8191) &&
    decide ((descField d 0x10 4 + 2 ^ 32 - head) % 2 ^ 32 ≤ 2 ^ e) &&
    decide ((posted + 2 ^ 32 - descField d 0x18 4) % 2 ^ 32 ≤ 2 ^ e)

/-- The descriptor of a ring as it stands in memory: none where no table is set, where it lies outside PLAIN regions of the
ring-owner context (R442), or where it reads as poison. -/
def State.readDesc (s : State) (ring : Nat) : State × Option (List Byte) :=
  if s.cu.ringValid && s.plainOf s.cu.ringOwner (s.descAddr ring) 64 then s.padunRead (s.descAddr ring) 64 s.cu.ringOwner
  else (s, none)

/-- The ring as a valid descriptor gives it, with the counts that apply (R577) and nothing fetched. -/
def ringOf (d : List Byte) (head posted : Nat) : Ring :=
  { base := descField d 0 8, cqBase := descField d 8 8, tail := descField d 0x10 4, head := head,
    cqHead := descField d 0x18 4, posted := posted, log2 := descField d 0x20 1, owner := descField d 0x21 1,
    enable := descField d 0x22 1 % 2 == 1, priv := descField d 0x22 1 / 2 % 2 == 1, fenceLo := descField d 0x24 2,
    fenceHi := descField d 0x26 2, fetched := none, stalled := false }

/-- The notice finds no free entry: it is counted and captured (R464, R503). -/
def State.dropNotice (s : State) (ring status result : Nat) : State :=
  (s.modCu (fun c => { c with noticeDrop := satAdd 32 c.noticeDrop 1 })).capture cuUnit 0x1FE
    (packWord [(0, ring), (16, status)]) (BitVec.ofNat 64 result)

/-- Post a notice on a ring; 0xFFFF names none (R464). On a ring that the CU holds, POSTED is the CU's own, on any other it is the
descriptor's, and the ring stays unheld (R577). A completion ring that lies outside PLAIN regions of its owner is none (R442). -/
def State.notice (s : State) (ring status ctx result : Nat) : State :=
  if ring = 0xFFFF then s
  else match s.readDesc ring with
    | (s, none) => s.dropNotice ring status result
    | (s, some d) =>
      let r := (Tab.get s.rings ring).getD (ringOf d (descField d 0x14 4) (descField d 0x1C 4))
      if s.plainOf r.owner r.cqBase (32 * 2 ^ r.log2) &&
          decide ((r.posted + 2 ^ 32 - descField d 0x18 4) % 2 ^ 32 < 2 ^ r.log2) then
        s.putEntry { ring := ring, index := 0, status := BitVec.ofNat 8 status, opcode := 0, context := BitVec.ofNat 8 ctx,
                     flags := 1, fence := 0xFFFF, inst := 0x10, tag := 0, slot := 0xFFFF, detail := 0xFF,
                     stamp := s.now, result := BitVec.ofNat 64 result } r.cqBase r.log2 r.posted
      else s.dropNotice ring status result

end Sys2Proof.Machine
end

