-- ==== Sys2Proof/Machine/Pool.lean ====
section
/-! DEFINITION. The tile pool: frames (R331, R332, R336), holders and references (R337), quotas and charges (R347 to R349),
pending promotions (R339 to R342), and the groups and slots of brims (R351 to R361). -/

namespace Sys2Proof.Machine

/-- The bytes of a tile and of a frame (R326, R331). -/
def tileBytes : Nat := 262144

/-- The tile pool's region (R331). -/
def State.pool (s : State) : Option Region := s.regions.find? (fun r => r.kind == .pool)

/-- How many frames the pool has. -/
def State.poolFrames (s : State) : Nat := match s.pool with
  | some r => r.len / tileBytes
  | none => 0

/-- The upper-tier address of a frame (R332). -/
def State.frameAddr (s : State) (f : Nat) : Nat := match s.pool with
  | some r => r.base + f * tileBytes
  | none => 0

/-- The frame that holds a tile (R336: at most one). -/
def State.frameOf (s : State) (region tile : Nat) : Option Frame :=
  s.frames.find? (fun f => f.region == region && f.tile == tile)

/-- The region is a lower TIER region. -/
def Region.lowerTier (r : Region) : Bool := r.lower && r.kind == .tier

/-- A tile is quarantined while one of its pages is lost (R364, R365). -/
def State.quarantined (s : State) (region tile : Nat) : Bool :=
  s.lostPages.any (fun p => p.1 == region && p.2.1 == tile)

/-! ### Charges (R347 to R349) -/

/-- The lower-tier charge of a context. -/
def State.lowerCharge (s : State) (ctx : Nat) : Nat :=
  ((s.regions.filter (fun r => r.owner == ctx && r.lowerTier)).map (fun r => r.len / tileBytes)).sum

/-- The references of a context's direct holding. -/
def State.directRefs (s : State) (ctx : Nat) : Nat := (s.tileRefs.filter (fun r => r.holder == .direct ctx)).length

/-- The upper-tier charge of a context. -/
def State.upperCharge (s : State) (ctx : Nat) : Nat :=
  ((s.regions.filter (fun r => r.owner == ctx && r.kind == .tier && !r.lower)).map (fun r => r.len / tileBytes)).sum +
    s.directRefs ctx + ((s.brims.filter (fun b => b.ctx == ctx)).map (·.reserve)).sum

/-- The upper quota of a context. -/
def State.upperQuota (s : State) (ctx : Nat) : Nat := match Tab.get s.ctxs ctx with
  | some c => c.upper
  | none => 0

/-- The lower quota of a context. -/
def State.lowerQuota (s : State) (ctx : Nat) : Nat := match Tab.get s.ctxs ctx with
  | some c => c.lowerQ
  | none => 0

/-- QUOTA with the command's opcode and context, the tier and the charge it asked for (R349, R496). -/
def State.quotaFault (s : State) (c : Cmd) (ctx : Nat) (upper : Bool) (asked : Nat) : State :=
  s.raise (c.ring / 4096 % 16) fQuota
    (packWord [(0, c.opcode), (8, ctx), (16, if upper then 1 else 0), (32, ctx)]) (BitVec.ofNat 64 asked)

/-! ### References -/

/-- The holder holds a reference to the tile. -/
def State.holds (s : State) (h : Holder) (region tile : Nat) : Bool :=
  s.tileRefs.any (fun r => r.holder == h && r.region == region && r.tile == tile)

/-- Some holder references the tile. -/
def State.referenced (s : State) (region tile : Nat) : Bool :=
  s.tileRefs.any (fun r => r.region == region && r.tile == tile)

/-- The context holds a reference, by its direct holding or by one of its brims (R337). -/
def State.ctxHolds (s : State) (ctx region tile : Nat) : Bool :=
  s.tileRefs.any (fun r => r.region == region && r.tile == tile && match r.holder with
    | .direct c => c == ctx
    | .brim b => s.brims.any (fun x => x.num == b && x.ctx == ctx))

/-- Add a reference. -/
def State.addRef (s : State) (h : Holder) (region tile : Nat) : State :=
  if s.holds h region tile then s else { s with tileRefs := s.tileRefs ++ [⟨h, region, tile⟩] }

/-- Drop a frame: it becomes FREE. -/
def State.freeFrame (s : State) (region tile : Nat) : State :=
  { s with frames := s.frames.filter (fun f => !(f.region == region && f.tile == tile)) }

/-- Release a reference (R341, R345): with none left, a RESIDENT frame becomes IDLE and a COPYING one is freed. -/
def State.dropRef (s : State) (h : Holder) (region tile : Nat) : State :=
  let s := { s with tileRefs := s.tileRefs.filter (fun r => !(r.holder == h && r.region == region && r.tile == tile)) }
  if s.referenced region tile then s
  else match s.frameOf region tile with
    | some f =>
      if f.state = .copying then s.freeFrame region tile
      else if f.state = .resident then
        { s with frames := s.frames.map (fun (g : Frame) =>
          if g.num == f.num then { g with state := FrameState.idle, idleAt := s.now } else g) }
      else s
    | none => s

/-! ### Frames and pending promotions -/

/-- A free frame's number: the free value of log entry 9 where that frame is free, otherwise the lowest free one. -/
def State.pickFrame (s : State) : Option Nat :=
  let n := s.poolFrames
  let taken := fun f => s.frames.any (fun g => g.num == f)
  let pick := Config.freeNat s.fresh % n
  if n = 0 then none else if taken pick then (List.range n).find? (fun f => !taken f) else some pick

/-- The IDLE frame that became IDLE earliest (R340). -/
def earliestIdle (fs : List Frame) : Option Frame :=
  (sortOn (·.idleAt) (fs.filter (fun f => f.state = .idle))).head?

/-- Allocate a frame for a tile by R340: a FREE one, else the longest IDLE one; the copy is then pending. -/
def State.allocFrame (s : State) (region tile : Nat) : Option State :=
  let add := fun (s : State) (n : Nat) =>
    { s with frames := s.frames ++ [{ num := n, state := FrameState.copying, region := region, tile := tile, idleAt := 0 }] }
  match s.pickFrame with
  | some n => some (add s.bump n)
  | none => match earliestIdle s.frames with
    | some f => some (add (s.freeFrame f.region f.tile) f.num)
    | none => none

/-- The place of a promotion in the order of R342: deadline (none last), then order of acceptance. -/
def Promo.before (a b : Promo) : Bool :=
  let d := fun (p : Promo) => if p.deadline = 0 then 2 ^ 64 else p.deadline
  decide (d a < d b) || (d a == d b && decide (a.order < b.order))

/-- The first promotion of a list in the order of R342. -/
def firstPromo : List Promo → Option Promo
  | [] => none
  | p :: ps => match firstPromo ps with
    | none => some p
    | some q => if q.before p then some q else some p

/-- The promotions that wait for a frame (R340). -/
def State.waiters (s : State) : List Promo := s.promos.filter (fun p => (s.frameOf p.region p.tile).isNone)

/-- Give free frames to the waiting promotions in the order of R342 (R340); the fuel bounds their number. -/
def serveWaiters : Nat → State → State
  | 0, s => s
  | n + 1, s => match firstPromo s.waiters with
    | none => s
    | some p => match s.allocFrame p.region p.tile with
      | none => s
      | some t => serveWaiters n t

/-- The tile whose copy is served first (R342), among tiles with a COPYING frame. -/
def State.nextCopy (s : State) : Option (Nat × Nat) :=
  (firstPromo (s.promos.filter (fun p => match s.frameOf p.region p.tile with
    | some f => f.state == .copying
    | none => false))).map (fun p => (p.region, p.tile))

/-- Remove a holder's pending promotion of a tile. -/
def State.dropPromo (s : State) (h : Holder) (region tile : Nat) : State :=
  { s with promos := s.promos.filter (fun p => !(p.holder == h && p.region == region && p.tile == tile)) }

/-! ### Brims -/

/-- The brim of a number. -/
def State.brimOf (s : State) (b : Nat) : Option Brim := s.brims.find? (fun x => x.num == b)

/-- Change a brim. -/
def State.modBrim (s : State) (b : Nat) (f : Brim → Brim) : State :=
  { s with brims := s.brims.map (fun x => if x.num == b then f x else x) }

/-- The tiles of a brim's group, as (region, tile). -/
def Brim.tiles (b : Brim) (g : Nat) : List (Nat × Nat) := match b.groups[g]? with
  | some t => (List.range t.count).map (fun i => (t.region, t.first + i))
  | none => []

/-- The slot's tile entry (R354). -/
def State.slotEntry (s : State) (b : Nat) (rt : Nat × Nat) : Nat :=
  let inPool := match s.frameOf rt.1 rt.2 with
    | some f => if s.holds (.brim b) rt.1 rt.2 && f.state == .resident then some f.num else none
    | none => none
  let addr := match inPool with
    | some f => s.frameAddr f
    | none => match s.region? rt.1 with
      | some r => mkAddr true (r.base + rt.2 * tileBytes)
      | none => 0
  (if inPool.isSome then 1 else 0) + (if s.quarantined rt.1 rt.2 then 2 else 0) + addr / 2 ^ 18 * 2 ^ 18

/-- The slot of R354 for a group that has become ready: header and one entry for each tile. -/
def State.slotBytesOf (s : State) (b : Brim) (g : BrimGroup) : List Byte :=
  let ts := b.tiles g.group
  let st := if g.lost then 3 else if g.inPlace = 0 then 0 else if g.inPlace = ts.length then 2 else 1
  leBytes 8 g.seq ++ leBytes 2 g.group ++ leBytes 1 st ++ [0] ++ leBytes 4 g.inPlace ++
    (ts.map (fun rt => leBytes 8 (s.slotEntry b.num rt))).flatten

/-- A group is ready when none of its tiles has a pending promotion by the brim (R356). -/
def State.groupReady (s : State) (b : Brim) (g : Nat) : Bool :=
  (b.tiles g).all (fun rt => !(s.promos.any (fun p => p.holder == .brim b.num && p.region == rt.1 && p.tile == rt.2)))

/-- The status and the RESULT part of the groups that a command made ready (R359). -/
def worstStatus (gs : List BrimGroup) : Nat :=
  if gs.any (·.lost) then stTileLost else if gs.any (fun g => g.inPlace != 0) then stDeadlineMissed else stOk

/-- The faults of a command that made groups ready: TILE_LOST with the first tile that was lost when its group became ready, or
TIER_DEADLINE once (R359, R496). -/
def State.brimFaults (s : State) (b : Brim) (c : Cmd) (gs : List BrimGroup) : State :=
  let i := c.ring / 4096 % 16
  let region := fun (p : BrimGroup → Bool) => match gs.find? p with
    | some g => match b.groups[g.group]? with
      | some t => t.region
      | none => 0
    | none => 0
  if gs.any (·.lost) then
    s.raise i fTileLost (BitVec.ofNat 64 (region (·.lost))) (BitVec.ofNat 64 (match gs.find? (·.lost) with
      | some g => g.lostTile
      | none => 0))
  else if gs.any (fun g => g.inPlace != 0) then
    s.raise i fTierDeadline (packWord [(0, region (fun g => g.inPlace != 0)), (16, b.num), (32, b.ctx)])
      (BitVec.ofNat 64 ((gs.map (·.inPlace)).sum))
  else s

/-- Mark the groups of a brim that have become ready and write their slots (R354 to R356). -/
def State.readyGroups (s : State) (b : Brim) : State :=
  (b.held.filter (fun g => !g.ready && s.groupReady b g.group)).foldl (fun s g =>
    let ts := b.tiles g.group
    let inPool := fun (rt : Nat × Nat) => match s.frameOf rt.1 rt.2 with
      | some f => s.holds (.brim b.num) rt.1 rt.2 && f.state == .resident
      | none => false
    let lost := ts.find? (fun rt => s.quarantined rt.1 rt.2)
    let g' := { g with ready := true, inPlace := (ts.filter (fun rt => !(inPool rt))).length, lost := lost.isSome,
                       lostTile := (lost.map (·.2)).getD 0 }
    let s := s.modBrim b.num (fun x => { x with held := x.held.map (fun h => if h.seq == g.seq then g' else h) })
    s.padunWrite (b.slots + g.seq % b.depth * (16 + 8 * b.tmax)) (s.slotBytesOf b g')) s

/-- One tile of a group is promoted by a brim under a deadline (R339, R340, R356): an IDLE or complete frame serves at once,
a copying one is joined, and a tile without a frame takes one, waits with a deadline, or stays in place. Promotions that waited for a
frame come first, and one of them may have taken a frame for this very tile (R336). -/
def State.promoteForBrim (s : State) (b deadline : Nat) (rt : Nat × Nat) : State :=
  if s.quarantined rt.1 rt.2 then s
  else
    let s := s.addRef (.brim b) rt.1 rt.2
    let pend := fun (s : State) (shared : Bool) =>
      { s with serial := s.serial + 1,
               promos := s.promos ++ [{ id := s.serial, holder := Holder.brim b, region := rt.1, tile := rt.2,
                                        deadline := deadline, order := s.serial, shared := shared }] }
    match s.frameOf rt.1 rt.2 with
    | some f =>
      if f.state = .copying then pend s true
      else { s with frames := s.frames.map (fun (g : Frame) =>
        if g.num == f.num then { g with state := FrameState.resident } else g) }
    | none =>
      let s := serveWaiters s.promos.length s
      if (s.frameOf rt.1 rt.2).isSome then pend s true
      else match s.allocFrame rt.1 rt.2 with
        | some t => pend t false
        | none => if deadline = 0 then s.dropRef (.brim b) rt.1 rt.2 else pend s false

/-- A brim promotes its next group `g` (R356, R357). -/
def State.promoteGroup (s : State) (b : Brim) (g deadline : Nat) : State :=
  match s.brimOf b.num with
  | none => s
  | some cur =>
    let s := s.modBrim b.num (fun x => { x with seq := x.seq + 1, held := x.held ++
      [{ seq := cur.seq, group := g, ready := false, inPlace := 0, lost := false, lostTile := 0 }] })
    (b.tiles g).foldl (fun s rt => s.promoteForBrim b.num deadline rt) s

/-- The brim releases every reference and pending promotion of a group's tiles (R357). -/
def State.retireGroup (s : State) (b : Brim) (g : BrimGroup) : State :=
  let s := (b.tiles g.group).foldl (fun s rt =>
    (s.dropPromo (.brim b.num) rt.1 rt.2).dropRef (.brim b.num) rt.1 rt.2) s
  s.modBrim b.num (fun x => { x with held := x.held.filter (fun h => h.seq != g.seq),
                                     past := if g.seq < x.depth then x.past ++ [g] else x.past })

/-- The group that follows a retired one (R357): `d` places ahead, modulo the count with WRAP. -/
def Brim.nextGroup (b : Brim) (g : Nat) : Option Nat :=
  let n := g + b.depth
  if b.wrap then some (n % b.groups.length) else if n < b.groups.length then some n else none

/-- A waiting BRIM_ADVANCE takes its turn: the oldest group, once ready, is retired and the next one promoted (R357,
R358). -/
def State.applyAdvance (s : State) (p : Pend) (b : Brim) : State :=
  match b.held.head? with
  | none => s.badParam p.cmd 16
  | some g =>
    if !g.ready then s
    else
      let s := s.retireGroup b g
      match b.nextGroup g.group with
      | none => s.post p.cmd stOk (0xFFFF * 2 ^ 32)
      | some n => (s.hold p.cmd (.brim b.num b.seq)).promoteGroup b n (p.cmd.u64 24)

/-- Complete a BRIM_OPEN or a BRIM_ADVANCE whose groups are all ready (R356, R357, R359, R468). -/
def State.finishBrimCmd (s : State) (p : Pend) (b : Brim) (seq : Nat) : State :=
  let isOpen := p.cmd.opcode == 0x62
  let gs := if isOpen then b.past ++ b.held.filter (fun g => decide (g.seq < b.depth)) else b.held.filter (fun g => g.seq == seq)
  if gs.all (·.ready) && !gs.isEmpty then
    let s := s.brimFaults b p.cmd gs
    let inPlace := (gs.map (·.inPlace)).sum
    let hi := if isOpen then b.reserve else match gs.head? with
      | some g => g.group
      | none => 0xFFFF
    s.post p.cmd (worstStatus gs) (inPlace + hi * 2 ^ 32)
  else s

/-- One round over the brims: ready groups, then the commands that wait on them, oldest first. -/
def State.brimRound (s : State) : State :=
  let s := s.brims.foldl (fun s b => s.readyGroups b) s
  s.pends.foldl (fun s p =>
    match p.job with
    | .brim n seq => match s.brimOf n with
      | some b => s.finishBrimCmd p b seq
      | none => s
    | .advance n => match s.brimOf n with
      | some b =>
        if (s.pends.filter (fun q => q.job == .advance n)).head?.map (·.cmd) == some p.cmd then s.applyAdvance p b else s
      | none => s
    | _ => s) s

/-- Rounds until what can follow at once has followed: an advance may find its new group ready at once. -/
def settleBrims : Nat → State → State
  | 0, s => s
  | n + 1, s => settleBrims n s.brimRound

/-- Brim commands settle: each waiting command can make at most one further round useful. -/
def State.settle (s : State) : State := settleBrims (s.pends.length + 1) s

/-- BRIM_ADVANCE with CLOSE, and CTX_CLOSE, close a brim (R350, R361): every group retired, pending copies cancelled, and the
brim's pending commands completed with BUSY. -/
def State.closeBrim (s : State) (n : Nat) : State :=
  match s.brimOf n with
  | none => s
  | some b =>
    let s := b.held.foldl (fun s g => s.retireGroup b g) s
    let s := { s with brims := s.brims.filter (fun x => x.num != n) }
    s.endJobs (fun j => match j with
      | .brim m _ => m == n
      | .advance m => m == n
      | _ => false) stBusy 0 s.now

end Sys2Proof.Machine
end

