-- ==== Sys2Proof/Machine/TierPage.lean ====
section
/-! DEFINITION. Pages of lower TIER regions: code groups (R327), the fold of a write (R328), service without one instance
(R329), repair and quarantine (R362 to R366), write-through to frames (R344), and frame pages (R343, R367). -/

namespace Sys2Proof.Machine

/-- An instance is in service: its start-up checks passed and it is not OFF (R329, R530). -/
def inService (x : Inst) : Bool := x.active && x.en != .off

/-- The instance that serves a page is in service. -/
def State.served (s : State) (k : Nat) : Bool := inService s.inst[keyInst k]

/-! ### Code groups (R327) -/

/-- The data page number in its region of a data page's key. -/
def Region.dataPage (r : Region) (k : Nat) : Nat := keyPage k - r.base / 4096

/-- The key of data page `p` of a lower TIER region. -/
def Region.dataKey (r : Region) (p : Nat) : Nat := pageKey true (r.base / 4096 + p)

/-- The key of the parity page of code group `g`. -/
def Region.parityKey (r : Region) (g : Nat) : Nat :=
  pageKey true ((r.base + r.len) / 4096 + 4 * (g / 4) + (3 * g + 3) % 4)

/-- The code group of a page of a lower TIER region, from a data page or from its parity page. -/
def Region.groupOf (r : Region) (k : Nat) : Nat :=
  let p := r.dataPage k
  if p < r.len / 4096 then p / 3
  else
    let q := p - r.len / 4096
    (((List.range 4).map (fun i => q / 4 * 4 + i)).find? (fun g => (3 * g + 3) % 4 == q % 4)).getD 0

/-- The four pages of a code group: three data pages and the parity page. -/
def Region.groupKeys (r : Region) (g : Nat) : List Nat :=
  [r.dataKey (3 * g), r.dataKey (3 * g + 1), r.dataKey (3 * g + 2), r.parityKey g]

/-- The page is a data page of its region. -/
def Region.isData (r : Region) (k : Nat) : Bool := decide (r.dataPage k < r.len / 4096)

/-- The tile of a data page (R326). -/
def Region.tileOf (r : Region) (k : Nat) : Nat := r.dataPage k / 64

/-- The frame page that mirrors a data page. -/
def State.framePage (s : State) (r : Region) (k : Nat) (f : Frame) : Nat :=
  pageKey false (s.frameAddr f.num / 4096 + r.dataPage k % 64)

/-! ### Reading without repair -/

/-- A page as a fold or a repair reads it: a never-written page is zero (R328, R383); none where it is uncorrectable, lost
or on an instance out of service (R364). A page that a fill has still to write is written first (R387). -/
def State.rawTier (s : State) (k : Nat) : State × Option (List Byte) :=
  if !s.served k then (s, none)
  else match (s.fillTo k).fetchPage k with
    | (s, .never) => (s, some zeroPage)
    | (s, .page d _) => (s, some d)
    | (s, _) => (s, none)

/-- The frame that holds a complete copy of a page's tile: RESIDENT or IDLE (R362). -/
def State.completeFrame (s : State) (r : Region) (k : Nat) : Option Frame :=
  (s.frameOf r.num (r.tileOf k)).filter (fun f => f.state != .copying)

/-- What the complete frame holds of a data page. -/
def State.fromFrame (s : State) (r : Region) (k : Nat) : State × Got := match s.completeFrame r k with
  | some f => s.fetchPage (s.framePage r k f)
  | none => (s, .bad)

/-- Count a repair on the instance (R362). -/
def State.countRepair (s : State) (i : Fin 16) : State :=
  s.modInst i (fun x => { x with tierRepair := satAdd 32 x.tierRepair 1 })

/-- Write a repaired page with a fresh record, where its instance is in service (R362). -/
def State.putRepaired (s : State) (k : Nat) (d : List Byte) : State :=
  if s.served k then (s.storePage k d noTags).countRepair (keyInst k) else s

/-- A page of a code group as the repair of another page reads it: a data page that cannot be read is repaired from the complete frame of
its tile, where there is one (R362, R364). -/
def State.sourcePage (s : State) (r : Region) (k : Nat) : State × Option (List Byte) := match s.rawTier k with
  | (s, some d) => (s, some d)
  | (s, none) =>
    if !r.isData k then (s, none)
    else match s.fromFrame r k with
      | (s, .page d _) => (s.putRepaired k d, some d)
      | (s, .never) => (if s.served k then s.neverPages k 1 else s, some zeroPage)
      | (s, _) => (s, none)

/-- Several pages of a code group as a repair reads them. -/
def State.sources (s : State) (r : Region) (ks : List Nat) : State × List (Nat × Option (List Byte)) :=
  ks.foldl (fun acc k => match acc.1.sourcePage r k with
    | (s, d) => (s, acc.2 ++ [(k, d)])) (s, [])

/-- The XOR of pages, none where one of them could not be read. -/
def xorSources (l : List (Nat × Option (List Byte))) : Option (List Byte) :=
  (allSome (l.map (·.2))).map (fun ds => ds.foldl xorBytes zeroPage)

/-- The data pages among the sources that are uncorrectable: they could not be read though their instance is in service. -/
def State.unreadable (s : State) (r : Region) (l : List (Nat × Option (List Byte))) : List Nat :=
  (l.filter (fun p => p.2.isNone && r.isData p.1 && s.served p.1)).map (·.1)

/-! ### Quarantine (R364 to R366) -/

/-- A tile becomes quarantined: the CU's record and notice (R366, R503), the waiting promotions, and its frame: a COPYING one (R364), or
one whose own page is uncorrectable too (R367). -/
def State.quarantineTile (s : State) (r : Region) (tile i : Nat) : State :=
  let s := s.raise i fTileLost (BitVec.ofNat 64 r.num) (BitVec.ofNat 64 tile)
  let s := s.capture cuUnit 0x141 (BitVec.ofNat 64 r.num) (BitVec.ofNat 64 tile)
  let s := s.notice r.noticeRing stTileLost r.owner (packWord [(0, r.num), (32, tile)]).toNat
  let waiting := s.promos.filter (fun p => p.region == r.num && p.tile == tile)
  let s := waiting.foldl (fun s p => (s.dropPromo p.holder r.num tile).dropRef p.holder r.num tile) s
  let s := s.freeFrame r.num tile
  let s := s.endJobs (fun j => match j with
    | .promote rn t _ => rn == r.num && t == tile
    | _ => false) stTileLost 0 s.now
  s.settle

/-- Pages of a group are lost (R364): each is marked poisoned, and each of their tiles is quarantined once. -/
def State.losePages (s : State) (r : Region) (ks : List Nat) (i : Nat) : State :=
  ks.foldl (fun s k =>
    let t := r.tileOf k
    let fresh := !s.quarantined r.num t
    let entry := (r.num, t, r.dataPage k)
    let s := s.markPoisoned k
    let s := if entry ∈ s.lostPages then s else { s with lostPages := s.lostPages ++ [entry] }
    if fresh then s.quarantineTile r t i else s) s

/-- The group of a page has a lost data page. -/
def State.groupLost (s : State) (r : Region) (k : Nat) : Bool :=
  s.lostPages.any (fun p => p.1 == r.num && p.2.2 / 3 == r.groupOf k)

/-! ### Folds in flight -/

/-- Writes that waited for a fold complete. -/
def State.writesDone (s : State) (reqs : List Nat) : State := reqs.foldl (fun s id => s.emit (.writeDone id true)) s

/-- The parity page of a group is made anew from its three data pages (R362, R365). The data pages hold every write already, so the deltas
that wait for the page are folded with it. Where a data page cannot be read the group is lost (R364). -/
def State.makeParity (s : State) (r : Region) (g : Nat) : State × Option (List Byte) :=
  let pk := r.parityKey g
  match s.sources r [r.dataKey (3 * g), r.dataKey (3 * g + 1), r.dataKey (3 * g + 2)] with
  | (s, l) => match xorSources l with
    | none => (s.losePages r (s.unreadable r l) (keyInst pk).val, none)
    | some d =>
      let mine := s.tierFolds.filter (fun f => f.page == pk)
      let s := { s with tierFolds := s.tierFolds.filter (fun f => f.page != pk) }
      ((s.storePage pk d noTags).writesDone (mine.map (·.reqs)).flatten, some d)

/-- An uncorrectable parity page is repaired from its group, and the repair counted (R362). -/
def State.repairParity (s : State) (k : Nat) : State × Option (List Byte) :=
  match s.regionOfKey k with
  | none => (s, none)
  | some r => match s.makeParity r (r.groupOf k) with
    | (s, some d) => (s.countRepair (keyInst k), some d)
    | (s, none) => (s, none)

/-- The parity instance folds one queued delta (R328): the parity page is read, never-written as zero, changed and written;
then the writes that waited complete. A parity page that cannot be read is repaired, and then holds the delta already. -/
def State.applyFold (s : State) (f : TierFold) : State :=
  let s := match s.rawTier f.page with
    | (s, some d) => s.storePage f.page (xorBytes d f.delta) noTags
    | (s, none) => if s.served f.page then (s.repairParity f.page).1 else s
  s.writesDone f.reqs

/-- Fold at once every queued delta of a parity page, before the group is used for a repair. -/
def State.foldNow (s : State) (pk : Nat) : State :=
  (s.tierFolds.filter (fun f => f.page == pk)).foldl (fun s f =>
    if s.tierFolds.contains f then ({ s with tierFolds := delFirst (fun x => x == f) s.tierFolds }).applyFold f else s) s

/-! ### Repair (R362, R364, R367) -/

/-- The other three pages of a page's code group, every queued delta folded. -/
def State.groupSources (s : State) (r : Region) (k : Nat) : State × List (Nat × Option (List Byte)) :=
  let g := r.groupOf k
  (s.foldNow (r.parityKey g)).sources r ((r.groupKeys g).filter (fun q => q != k))

/-- Repair an uncorrectable data page from the rest of its group. `bad` says that the tile's complete frame holds no good copy either:
its page is rewritten with the repaired one (R367). A repair that fails loses the page (R364). -/
def State.repairData (s : State) (r : Region) (k : Nat) (bad : Bool) : State × Got :=
  match s.groupSources r k with
  | (s, l) => match xorSources l with
    | none => (s.losePages r (k :: s.unreadable r l) (keyInst k).val, .bad)
    | some d =>
      let s := s.putRepaired k d
      (match s.completeFrame r k, bad with
        | some f, true => s.storePage (s.framePage r k f) d noTags
        | _, _ => s, .page d neverRec)

/-- Repair an uncorrectable page of a lower TIER region (R362): a data page from its complete frame, which `frame` allows, or from the rest
of its group, a parity page from the three data pages. `.bad` where the repair fails. -/
def State.repairPage (s : State) (r : Region) (k : Nat) (frame : Bool) : State × Got :=
  if !r.isData k then match s.repairParity k with
    | (s, some d) => (s, .page d neverRec)
    | (s, none) => (s, .bad)
  else if !frame then s.repairData r k false
  else match s.fromFrame r k with
    | (s, .page d _) => (s.putRepaired k d, .page d neverRec)
    | (s, .never) => (s.neverPages k 1, .never)
    | (s, _) => s.repairData r k true

/-- Read one page of a lower TIER region itself, as the old value of a write is read (R328, R389): an absent instance's page comes from the
other three, or else from its frame (R329, R364); an uncorrectable page is repaired (R362), `.bad` where that fails. -/
def State.tierOld (s : State) (r : Region) (k : Nat) (frame : Bool) : State × Got :=
  if s.served k then match s.fetchPage k with
    | (s, .bad) => s.repairPage r k frame
    | x => x
  else match s.groupSources r k with
    | (s, l) => match xorSources l with
      | some d => (s.countRepair (keyInst (r.parityKey (r.groupOf k))), .page d neverRec)
      | none => match s.fromFrame r k with
        | (s, .page d rec) => (s, .page d rec)
        | (s, .never) => (s, .never)
        | (s, _) => (s.losePages r (if r.isData k then k :: s.unreadable r l else s.unreadable r l)
            (keyInst (r.parityKey (r.groupOf k))).val, .bad)

/-- A read of a page of a lower TIER region: a quarantined tile reads as poison (R365). -/
def State.tierRead (s : State) (r : Region) (k : Nat) : State × Got :=
  if r.isData k && s.quarantined r.num (r.tileOf k) then (s, .poisoned) else s.tierOld r k true

/-! ### Writing -/

/-- Write-through (R344): a RESIDENT frame's page takes the new bytes, an IDLE frame is freed. A tile that is still being
copied takes them with its copy. -/
def State.writeThrough (s : State) (r : Region) (k : Nat) (data : List Byte) : State :=
  match s.frameOf r.num (r.tileOf k) with
  | some f =>
    if f.state = .resident then s.storePage (s.framePage r k f) data noTags
    else if f.state = .idle then s.freeFrame r.num f.tile
    else s
  | none => s

/-- A page is to be rebuilt when its instance returns (R329). -/
def State.markStale (s : State) (k : Nat) : State :=
  if k ∈ s.stalePages then s else { s with stalePages := s.stalePages ++ [k] }

/-- A lost page has been written whole (R365): it is lost no longer, and with the last lost page of its group the parity is
made anew. -/
def State.recoverPage (s : State) (r : Region) (k : Nat) : State :=
  let g := r.groupOf k
  let s := { s with lostPages := s.lostPages.filter (fun p => !(p.1 == r.num && p.2.2 == r.dataPage k)) }
  if s.groupLost r k then s
  else if s.served (r.parityKey g) then (s.makeParity r g).1
  else s.markStale (r.parityKey g)

/-- Write a data page of a lower TIER region whose old value has been read as `old` (R328, R329, R344, R365): its delta is queued for the
parity page and the writes of `reqs` complete after the fold; without a fold they complete at once. A page of an absent instance in a
group that has lost a page has nowhere to stand: it is lost too, and the writes are refused. -/
def State.tierStore (s : State) (r : Region) (k : Nat) (old : List Byte) (data : List Byte) (reqs : List Nat) : State :=
  let pk := r.parityKey (r.groupOf k)
  let queue : State → State := fun s =>
    { s with tierFolds := s.tierFolds ++ [{ page := pk, delta := xorBytes old (padTo 4096 data), reqs := reqs }] }
  if s.groupLost r k then
    if s.served k then (((s.storePage k data noTags).recoverPage r k).writesDone reqs).writeThrough r k data
    else reqs.foldl (fun s id => s.emit (.writeDone id false)) (s.losePages r [k] (keyInst pk).val)
  else if !s.served k then ((queue s).markStale k).writeThrough r k data
  else if !s.served pk then (((s.storePage k data noTags).markStale pk).writesDone reqs).writeThrough r k data
  else (queue (s.storePage k data noTags)).writeThrough r k data

/-- Write a whole data page of a lower TIER region (R328): its old value is read where a delta is to be folded. -/
def State.tierWrite (s : State) (r : Region) (k : Nat) (data : List Byte) (reqs : List Nat) : State :=
  if s.groupLost r k || (s.served k && !s.served (r.parityKey (r.groupOf k))) then s.tierStore r k zeroPage data reqs
  else match s.tierOld r k true with
    | (s, .page old _) => s.tierStore r k old data reqs
    | (s, _) => s.tierStore r k zeroPage data reqs

/-- The groups written while an instance was out of service are rebuilt when it returns, before it serves (R329). -/
def State.rebuildStale (s : State) (i : Fin 16) : State :=
  let mine := s.stalePages.filter (fun k => keyInst k = i)
  let s := { s with stalePages := s.stalePages.filter (fun k => keyInst k ≠ i) }
  mine.foldl (fun s k => match s.regionOfKey k with
    | none => s
    | some r => match s.groupSources r k with
      | (s, l) => match xorSources l with
        | some d => s.storePage k d noTags
        | none => s.losePages r (if r.isData k then k :: s.unreadable r l else s.unreadable r l) i.val) s

/-! ### Frame pages -/

/-- What was read of a resident page goes to its frame page (R343): a never-written page stays never-written. False when the resident
page is lost. -/
def State.toFrame (s : State) (r : Region) (f : Frame) (k : Nat) (got : Got) : State × Bool := match got with
  | .page d _ => (s.storePage (s.framePage r k f) d noTags, true)
  | .never => (s.neverPages (s.framePage r k f) 1, true)
  | _ => (s, false)

/-- The frame that a pool page lies in. -/
def State.frameAt (s : State) (k : Nat) : Option Frame := match s.pool with
  | some r => s.frames.find? (fun f => f.num == (keyPage k * 4096 - r.base) / tileBytes)
  | none => none

/-- Read a frame page: an uncorrectable one is fetched again from the resident copy, repaired where it needs it, and rewritten; where
that fails the frame is freed (R367). A page of a quarantined tile reads as poison (R365). -/
def State.poolRead (s : State) (f : Frame) (k : Nat) : State × Got :=
  if s.quarantined f.region f.tile then (s, .poisoned)
  else match s.fetchPage k with
    | (s, .bad) => match s.region? f.region with
      | none => (s, .poisoned)
      | some r =>
        let res := r.dataKey (64 * f.tile + keyPage k % 64)
        match s.tierOld r res false with
        | (s, got) => match s.toFrame r f res got with
          | (s, true) => s.fetchPage k
          | (s, false) => (s.freeFrame f.region f.tile, .poisoned)
    | x => x

end Sys2Proof.Machine
end

