-- ==== Sys2Proof/Machine/Stitch.lean ====
section
/-! DEFINITION. The hands of a stitch: looking an entry up (R62, R66), the step-tag check (R67), resolving (R68, R69),
reading the crowned hand (R380, R381, R383), and discarding open hands (R81). -/

namespace Sys2Proof.Machine

/-- The two-handed regions and areas of a context. -/
def State.handed (s : State) (ctx : Nat) : List Region :=
  s.regions.filter (fun r => r.owner == ctx && r.kind.twoHanded)

/-- The entry of a touched stitch is served flipped while the sweep of its crown runs (R180). -/
def State.servedFlipped (s : State) (r : Region) (idx : Nat) : Bool :=
  match s.codedOf r.owner with
  | some k => k.sweeping && (s.stitch r.num idx).touch
  | none => false

/-- The entry that names a hand (R62). -/
def handBits (right : Bool) : BitVec 2 := if right then 1 else 2

/-- Set the stored entry so that the stitch is served from the given hand. -/
def State.setHand (s : State) (r : Region) (idx : Nat) (right : Bool) : State :=
  let stored := handBits (right != s.servedFlipped r idx)
  s.modStitch r.num idx (fun x => { x with hand := stored })

/-- The record of a page as R69 reads it: its step tag, zero when never-written (R383), none when it is uncorrectable. The read counts
and reports the word code's status of the metadata burst (R368, R370). -/
def State.recordTag (s : State) (k : Nat) : State × Option Nat :=
  let rs := (s.reports k).filter (fun b => b.index == 130)
  let r := match rs.head? with
    | some b => metaOf (s.mem.record k) b.data
    | none => s.mem.record k
  (s.countBursts k rs false,
    if r.stInv ≠ ~~~r.st then none
    else if r.st = stNever then some 0
    else if r.st = stWritten ∧ !rs.any (fun b => b.status.getLsbD 1) then some r.stepTag.toNat
    else none)

/-- The hand that R69 chooses: the larger step tag not exceeding C, none when the records do not decide. -/
def chooseHand (c : Nat) (left right : Option Nat) : Option Bool :=
  match left, right with
  | some l, some r =>
    if l ≤ c then (if r ≤ c then (if l = r then none else some (decide (l < r))) else some false)
    else (if r ≤ c then some true else none)
  | _, _ => none

/-- The crowned step of a region's context. -/
def State.crownedStep (s : State) (ctx : Nat) : Nat := match s.codedOf ctx with
  | some k => k.c.toNat
  | none => 0

/-- An open or needed hand of the context cannot be served: the step's vote is NO with INTERNAL (R69, R76, R380). -/
def State.spoilStep (s : State) (ctx : Nat) : State := s.modCoded ctx (fun k => { k with badHand := true })

/-- The stitch lacks content until a darn writes it (R69, R381); a stitch that the open step has touched spoils the
step. -/
def State.lackStitch (s : State) (r : Region) (idx : Nat) : State :=
  let touched := (s.stitch r.num idx).touch
  let s := (s.modStitch r.num idx (fun x => { x with lacks := true })).modCoded r.owner (fun k => { k with lossSeen := true })
  if touched then s.spoilStep r.owner else s

/-- HANDMAP_MISMATCH of an entry, with the outcome of R69 (R68, R496, R499). -/
def State.handFault (s : State) (r : Region) (idx : Nat) (resolved : Bool) : State :=
  s.raise (keyInst (r.handKey idx false)).val fHandmap
    (packWord [(0, 1), (8, r.owner), (16, if resolved then 1 else 0), (32, r.owner)])
    (s.locator r (r.handKey idx false))

/-- R69 leaves the stitch unresolved: it lacks content and has no open hand until a darn writes it. -/
def State.unresolve (s : State) (r : Region) (idx : Nat) : State :=
  (s.modStitch r.num idx (fun x => { x with unres := true })).lackStitch r idx

/-- The hand that R69 takes as crowned, from the page records of both hands. -/
def State.recordHand (s : State) (r : Region) (idx : Nat) : State × Option Bool :=
  match s.recordTag (r.handKey idx false) with
  | (s, left) => match s.recordTag (r.handKey idx true) with
    | (s, right) => (s, chooseHand (s.crownedStep r.owner) left right)

/-- Resolve a stitch by R69 after a failed check. -/
def State.resolve (s : State) (r : Region) (idx : Nat) : State × Option Bool :=
  match s.recordHand r idx with
  | (s, some right) => ((s.handFault r idx true).setHand r idx right, some right)
  | (s, none) => ((s.handFault r idx false).unresolve r idx, none)

/-- The crowned hand of a stitch: right or left, by its checked entry (R62, R66); none where R69 leaves it unresolved. -/
def State.crownedHand (s : State) (r : Region) (idx : Nat) : State × Option Bool :=
  let x := s.stitch r.num idx
  if x.unres then (s, none)
  else if x.hand = 2 then (s, some (false != s.servedFlipped r idx))
  else if x.hand = 1 then (s, some (true != s.servedFlipped r idx))
  else s.resolve r idx

/-- Read one hand of a stitch; an uncorrectable page lacks content (R381). -/
def State.fetchHand (s : State) (r : Region) (idx : Nat) (right : Bool) : State × Got :=
  match s.fetchPage (r.handKey idx right) with
  | (s, .bad) => (s.lackStitch r idx, .bad)
  | x => x

/-- An uncorrectable crowned hand (R380): a STATE or GROUPS stitch is resolved by R69, which may name the other hand; in every other
case the stitch lacks content (R381). -/
def State.badCrowned (s : State) (r : Region) (idx : Nat) (right : Bool) : State × Got :=
  if r.kind = .state ∨ r.kind = .groups then match s.recordHand r idx with
    | (s, some other) =>
      if other = right then (s.lackStitch r idx, .bad)
      else ((s.handFault r idx true).setHand r idx other).fetchHand r idx other
    | (s, none) => (s.unresolve r idx, .bad)
  else (s.lackStitch r idx, .bad)

/-- Read the crowned hand with the checks of R66 and R67 and the resolution of R69: `.bad` where the poison pattern is
served, as it is of a stitch that lacks content. -/
def State.readCrowned (s : State) (r : Region) (idx : Nat) : State × Got :=
  if (s.stitch r.num idx).lacks then (s, .bad)
  else match s.crownedHand r idx with
  | (s, none) => (s, .bad)
  | (s, some right) => match s.fetchPage (r.handKey idx right) with
    | (s, .page d rec) =>
      if rec.stepTag.toNat ≤ s.crownedStep r.owner then (s, .page d rec)
      else match s.resolve r idx with
        | (s, none) => (s, .bad)
        | (s, some other) => s.fetchHand r idx other
    | (s, .bad) => s.badCrowned r idx right
    | x => x

/-- The crowned content where a never-written hand counts as zero with tag 0 (R383); none where it cannot be served. -/
def State.crownedOrZero (s : State) (r : Region) (idx : Nat) : State × Option (List Byte × PageRec) :=
  match s.readCrowned r idx with
  | (s, .page d rec) => (s, some (d, rec))
  | (s, .never) => (s, some (zeroPage, neverRec))
  | (s, _) => (s, none)

/-- A palm index of a context: its region and the stitch within it (R60). -/
def State.palmAt (s : State) (ctx palm : Nat) : Option (Region × Nat) := locatePalm (s.palmRegions ctx) palm

/-- The palm index of a stitch of a STATE or GROUPS region. -/
def State.palmOf (s : State) (r : Region) (idx : Nat) : Nat := palmIndex (s.palmRegions r.owner) r.num idx

/-- The HANDGEN value of a hand (R372). -/
def handGen (right : Bool) : Byte := if right then 2 else 1

/-- The page content of a stitch is crowned and written (R90). -/
def State.crownedWritten (s : State) (r : Region) (idx : Nat) : Bool :=
  match s.crownedHand r idx with
  | (_, some right) => (s.mem.record (r.handKey idx right)).st == stWritten
  | (_, none) => false

/-- The term of a GROUPS stitch (R90): the first 24 bytes of SHA-384(P ∥ D). -/
def groupsTerm (palm : Nat) (d : List Byte) : BitVec 192 :=
  BitVec.ofNat 192 (field (sha384 (leBytes 8 palm ++ d)) 0 24)

/-- GROUPS_HASH over every written GROUPS stitch of the context's crowned hands (R90). -/
def State.groupsHashNow (s : State) (ctx : Nat) : BitVec 192 :=
  let gs := (s.palmRegions ctx).filter (fun r => r.kind == .groups)
  let cells := (gs.map (fun r => (List.range r.stitchCount).map (fun i => (r, i)))).flatten
  (cells.filter (fun p => s.crownedWritten p.1 p.2)).foldl (fun h p =>
    match s.readCrowned p.1 p.2 with
    | (_, .page d _) => h ^^^ groupsTerm (s.palmOf p.1 p.2) d
    | _ => h) 0

/-! ### Discard (R81) -/

/-- Drop one touched stitch's open hand: the tags of its record go to zero by R375; a stitch that cannot be resolved has no
record written and lacks content. -/
def State.discardStitch (s : State) (r : Region) (idx : Nat) : State :=
  match s.crownedHand r idx with
  | (s, none) => ((s.dropMerge (r.handKey idx false)).dropMerge (r.handKey idx true)).modStitch r.num idx (fun x =>
      { x with touch := false })
  | (s, some right) =>
    let k := r.handKey idx (!right)
    let s := (s.modMeta k (fun rec => { rec with stepTag := 0, stripeTag := 0, foldMask := 0 })).dropMerge k
    s.modStitch r.num idx (fun x => { x with touch := false })

/-- The touched stitches of a context's two-handed areas. -/
def State.touched (s : State) (ctx : Nat) : List (Region × Nat) :=
  ((s.handed ctx).map (fun r =>
    ((s.stitches.filter (fun p => p.1 / 2 ^ 40 == r.num && p.2.touch)).map (fun p => (r, p.1 % 2 ^ 40))))).flatten

/-- Discard the context's open hands (R81): tags zeroed, touch map cleared, pairing entries, queued deltas and fold entries
of the step released. -/
def State.discardOpen (s : State) (ctx : Nat) : State :=
  let s := (s.touched ctx).foldl (fun s p => s.discardStitch p.1 p.2) s
  { s with pairs := s.pairs.filter (fun p => p.ctx != ctx), deltas := s.deltas.filter (fun d => d.ctx != ctx || d.form),
           folds := s.folds.filter (fun f => f.ctx != ctx || f.form) }

end Sys2Proof.Machine
end

