-- ==== Sys2Proof/Machine/Memory.lean ====
section
/-! DEFINITION. The merge buffer (R388 to R392) and the reading and writing of pages by region kind (R70, R328, R333, R343,
R383). -/

namespace Sys2Proof.Machine

/-- The tags of an open hand written in the open step (R67, R372). -/
def State.openTags (s : State) (ctx : Nat) (right : Bool) : Tags :=
  match s.codedOf ctx with
  | some k => { step := k.s, stripe := 0, mask := 0, hand := handGen right, attempt := BitVec.ofNat 8 k.attempt }
  | none => { noTags with hand := handGen right }

/-- The pairing entry with writes of a stitch (R76). -/
def State.pairOf (s : State) (region idx : Nat) : Option Pair :=
  s.pairs.find? (fun p => p.region == region && p.idx == idx && p.cover != 0)

/-- Write the merge entry of an open hand whole, the bytes outside its mask from the stitch's pairing entry (R392). -/
def State.evictOpen (s : State) (r : Region) (k : Nat) (m : Merge) : State :=
  let st := r.stitchOf k
  let s := s.dropMerge k
  match s.pairOf r.num st.1 with
  | some p => s.storePage k (m.over p.cur) (s.openTags r.owner st.2)
  | none => s

/-- Write a page of a one-handed page-coded area whole; the writes of `reqs` complete with it, or after the fold of R328. -/
def State.commitPage (s : State) (r : Region) (k : Nat) (data : List Byte) (reqs : List Nat) : State :=
  if r.lowerTier then s.tierWrite r k data reqs
  else (s.storePage k data noTags).writesDone reqs

/-- Read a page of a one-handed page-coded area from memory. -/
def State.readCoded (s : State) (r : Region) (k : Nat) : State × Got :=
  if r.lowerTier then s.tierRead r k
  else if r.kind = .pool then match s.frameAt k with
    | some f => s.poolRead f k
    | none => s.fetchPage k
  else s.fetchPage k

/-- Evict a page's merge entry (R389, R391, R392). Of a lower TIER page, the one read is the old-value read of R328. -/
def State.evict (s : State) (k : Nat) : State :=
  match s.mergeOf k, s.regionOfKey k with
  | none, _ => s
  | some _, none => s.dropMerge k
  | some m, some r =>
    if r.kind.twoHanded then s.evictOpen r k m
    else
      let put := fun (s : State) (old data : List Byte) =>
        if r.lowerTier then s.tierStore r k old data m.waiting else s.commitPage r k data m.waiting
      match (if r.lowerTier then (s.dropMerge k).tierOld r k true else (s.dropMerge k).fetchPage k) with
      | (s, .never) => put (s.partialInit k) zeroPage (m.over poisonPage)
      | (s, .poisoned) => (s.partialInit k).writesDone m.waiting
      | (s, .bad) => s.writesDone m.waiting
      | (s, .page d _) => put s d (m.over d)

/-- The least recently written entry of an instance that holds more entries than its buffer has (R388, R389). -/
def State.mergeVictim (s : State) (i : Fin 16) : Option Nat :=
  let own := s.mem.merge.filter (fun m => keyInst m.page = i)
  if Config.mergeEntries < own.length then own.head?.map (·.page) else none

/-- A full entry is written at once (R389). -/
def State.commitFull (s : State) (k : Nat) : State := match s.mergeOf k, s.regionOfKey k with
  | some m, some r =>
    if m.bytes.length = 4096 ∧ !r.kind.twoHanded then (s.dropMerge k).commitPage r k (m.bytes.map (·.2)) m.waiting else s
  | _, _ => s

/-- The buffers settle when an event ends: full entries are written, and where an instance took more entries than its buffer has, the
least recently written ones have gone (R389). The fuel bounds their number. -/
def settleEntries : Nat → State → State
  | 0, s => s
  | n + 1, s => match instNums.findSome? (fun i => s.mergeVictim i) with
    | some v => settleEntries n (s.evict v)
    | none => s

/-- The merge buffers at the end of an event. -/
def State.settleMerge (s : State) : State :=
  let s := (s.mem.merge.map (·.page)).foldl (fun s k => s.commitFull k) s
  settleEntries s.mem.merge.length s

/-- A write of `d` at offset `off` of a one-handed page-coded page (R388, R389): a whole page is written at once, any other
write is merged, and a full entry is written. `ids` names the request when its last part is this one. -/
def State.writeCoded (s : State) (r : Region) (k off : Nat) (d : List Byte) (ids : List Nat) : State :=
  if d.length = 4096 then (s.dropMerge k).commitPage r k d ids
  else
    let s := s.mergeInto k off d (if r.lowerTier then ids else [])
    let s := if r.lowerTier then s else s.writesDone ids
    s.commitFull k

/-- Read a one-handed page-coded page for a request (R390): from its merge entry when every wanted byte lies there, else
after the entry has been evicted. -/
def State.readOneHanded (s : State) (r : Region) (k off n : Nat) : State × Got :=
  match s.mergeOf k with
  | none => s.readCoded r k
  | some m =>
    if m.holds off n then (s, .page (m.over zeroPage) neverRec)
    else (s.evict k).readCoded r k

end Sys2Proof.Machine
end

