-- ==== Sys2Proof/Machine/Seats.lean ====
section
/-! DEFINITION. The seats of a glove on this chip: where a member's stitch lies here (R107, R223, R224), which seats lack
content (R197), the erasure count, and the moves between glove states (R198). -/

namespace Sys2Proof.Machine

/-! ### Where a seat's stitch lies -/

/-- The deal of a hosted member. -/
def Glove.dealOf (gl : Glove) (member : Nat) : Option Deal := gl.deals.find? (fun d => d.member == member)

/-- This chip's position among a deal's hosts. -/
def Deal.pos (d : Deal) (me : Nat) : Nat := leastBelow d.hosts.length (fun i => d.hosts.getD i 255 == me)

/-- A member is hosted by stand-ins in force (R228). -/
def Glove.hosted (gl : Glove) (member : Nat) : Bool := gl.standinMask.getLsbD member && (gl.dealOf member).isSome

/-- The member whose chip holds `member`'s stitch of role (parity, index): the member, or its host (R223). -/
def Glove.chipOf (gl : Glove) (member : Nat) (parity : Bool) (index : Nat) : Nat :=
  match gl.dealOf member with
  | some d => if parity then d.parityHost index else d.palmHost index
  | none => member

/-- The region and stitch that hold `member`'s stitch of role (parity, index) on this chip; none when it lies elsewhere, or
nowhere because it is virtual. -/
def State.seatAt (s : State) (ctx : Nat) (gl : Glove) (member : Nat) (parity : Bool) (index : Nat) :
    Option (Region × Nat) :=
  if member = gl.g.me ∧ (gl.dealOf member).isNone then
    if parity then (s.region? gl.g.region).map (fun r => (r, index)) else s.palmAt ctx index
  else match gl.dealOf member with
    | none => none
    | some d =>
      if gl.chipOf member parity index ≠ gl.g.me then none
      else if !parity && gl.g.isVirtual member index then none
      else (s.region? d.region).map (fun r => (r, if parity then d.paritySlot index else d.palmSlot index))

/-- The member, role and index of a stitch of a two-handed area (inverse of `seatAt`). -/
def State.seatOf (s : State) (gl : Glove) (r : Region) (idx : Nat) : Nat × Bool × Nat :=
  match r.kind with
  | .hosting i => match gl.dealOf i with
    | some d =>
      let pos := d.pos gl.g.me
      if idx < d.palmSlots then (i, false, slotPalm d.unit d.hosts.length pos idx)
      else (i, true, (idx - d.palmSlots) * d.hosts.length + pos)
    | none => (i, false, idx)
  | .parity => (gl.g.me, true, idx)
  | _ => (gl.g.me, false, s.palmOf r idx)

/-- The stripe of a member's stitch. -/
def Group.stripeFor (g : Group) (member : Nat) (parity : Bool) (index : Nat) : Nat :=
  if parity then index * g.period + member / g.m else stripeOf g.n g.m member index

/-- The role (parity, index) of a member in a stripe (R104 to R107). -/
def Group.roleIn (g : Group) (member stripe : Nat) : Bool × Nat :=
  match roleOf g.n g.m member stripe with
  | (.parity _, t) => (true, t)
  | (.data _, p) => (false, p)

/-- The seat of a member in a stripe. -/
def Group.seatIn (g : Group) (member stripe : Nat) : Seat := (roleOf g.n g.m member stripe).1

/-- The coordinates of the chip that holds a member's stitch of a stripe. -/
def Glove.chipCoord (gl : Glove) (member stripe : Nat) : Coord :=
  let role := gl.g.roleIn member stripe
  gl.g.coord (gl.chipOf member role.1 role.2)

/-- The members whose seats the chip at some coordinates holds or hosts. -/
def Glove.seatsOfCoord (gl : Glove) (c : Coord) : List Nat :=
  let own := (List.range gl.g.n).filter (fun i => gl.g.coord i == c && (gl.dealOf i).isNone)
  let hosted := (gl.deals.filter (fun d => d.hosts.any (fun h => gl.g.coord h == c))).map (·.member)
  own ++ hosted

/-- The member whose place in the placement table is at some coordinates. -/
def Group.memberAt (g : Group) (c : Coord) : Option Nat := (List.range g.n).find? (fun i => g.coord i == c)

/-- Members not marked lost, in ascending order. -/
def Glove.live (gl : Glove) : List Nat := (List.range gl.g.n).filter (fun i => !gl.lostMask.getLsbD i)

/-- The members that hold this chip's step in place of a lost one: the head of the glove (R168). -/
def Glove.head (gl : Glove) : Nat := gl.live.head?.getD 0

/-! ### Content (R197) -/

/-- This chip's stitch lacks content: its fill bit is set, or R69, R117 or R381 left it without. -/
def State.localLacks (s : State) (r : Region) (idx : Nat) : Bool :=
  let x := s.stitch r.num idx
  x.fill || x.lacks

/-- A darn of the seat runs, or ran until the glove was lost, and has not filled its stitch in the stripe, as this chip knows it (R197).
A virtual stitch is none (R108). -/
def Glove.unfilled (gl : Glove) (member stripe : Nat) : Bool :=
  let role := gl.g.roleIn member stripe
  gl.filling.getLsbD member && !gl.filled.contains (member, stripe) && (role.1 || !gl.g.isVirtual member role.2)

/-- The seat of `member` in a stripe lacks content (R197). -/
def State.lacksSeat (s : State) (ctx : Nat) (gl : Glove) (stripe member : Nat) : Bool :=
  let role := gl.g.roleIn member stripe
  let here := s.seatAt ctx gl member role.1 role.2
  let chip := gl.chipOf member role.1 role.2
  if (gl.dealOf member).isSome then
    if gl.lostMask.getLsbD chip then true
    else if chip = gl.g.me then match here with
      | some (r, i) => s.localLacks r i
      | none => false
    else gl.unfilled member stripe || !gl.standinMask.getLsbD member || gl.lacking.contains (member, stripe)
  else if gl.lostMask.getLsbD member then true
  else if member = gl.g.me then match here with
    | some (r, i) => s.localLacks r i
    | none => false
  else gl.unfilled member stripe || gl.lacking.contains (member, stripe)

/-- The members whose seats lack content in a stripe: its erasure set (R201). -/
def State.erased (s : State) (ctx : Nat) (gl : Glove) (stripe : Nat) : List Nat :=
  (List.range gl.g.n).filter (s.lacksSeat ctx gl stripe)

/-- The number of stripes of a glove (R108). -/
def Group.stripes (g : Group) : Nat := g.tmax * g.period

/-- The erasure count (R197). -/
def State.erasures (s : State) (ctx : Nat) (gl : Glove) : Nat :=
  if gl.g.tmax = 0 then
    ((List.range gl.g.n).filter (fun i => gl.lostMask.getLsbD i && !gl.standinMask.getLsbD i)).length
  else ((List.range gl.g.stripes).map (fun st => (s.erased ctx gl st).length)).foldl Nat.max 0

/-! ### Glove states (R133, R198) -/

/-- The codes of R133. -/
def GloveState.code : GloveState → Nat
  | .none => 0
  | .forming => 1
  | .ready => 2
  | .degraded => 3
  | .standin => 4
  | .lost => 5
  | .dissolving => 6

/-- The glove is in one of the four states of R198. -/
def GloveState.formed : GloveState → Bool
  | .ready | .degraded | .standin | .lost => true
  | _ => false

/-- A glove may step: READY, DEGRADED or STANDIN (R98). -/
def GloveState.steps : GloveState → Bool
  | .ready | .degraded | .standin => true
  | _ => false

/-- Change the glove of a context. -/
def State.modGlove (s : State) (ctx : Nat) (f : Glove → Glove) : State := s.modCoded ctx (fun k => k.modGlove f)

/-- A message of a chain over a glove (R411). -/
def gloveChain (w : Wire) : Bool := decide (w.type ∈ [tDarnReq, tDarnPart, tDarnDone]) && field w.body 0 7 / 2 ^ 54 % 2 == 0

/-- The chains of a context's glove stop: those this chip issued, and the chain messages that wait for their turn or an answer
(R137, R233). -/
def State.stopChains (s : State) (ctx : Nat) : State :=
  let s := { s with chains := s.chains.filter (fun c => c.ctx != ctx || c.hb) }
  (s.dropSent (fun x => x.ctx == ctx && gloveChain x.msg)).dropQueued (fun x => x.ctx == ctx && gloveChain x.msg)

/-- The command still runs its collective. -/
def State.inColl (s : State) (c : Cmd) : Bool := s.colls.any (fun x => x.cmd.ring == c.ring && x.cmd.count == c.count)

/-- The stitches of a context that no darn has filled lack content from now on. -/
def State.endFills (s : State) (ctx : Nat) : State :=
  (s.handed ctx).foldl (fun s r =>
    (s.stitches.filter (fun p => p.1 / 2 ^ 40 == r.num && p.2.fill)).foldl (fun s p =>
      s.modStitch r.num (p.1 % 2 ^ 40) (fun x => { x with fill := false, lacks := true })) s) s

/-- The glove enters LOST: GLOVE_LOSS and its notice (R198, R464); its darns, assignments and single stitches end with
GLOVE_LOSS and its chains stop (R233), but for a command whose collective still runs, which R235 ends; a stitch that no darn has
filled lacks content from then on. -/
def State.loseGlove (s : State) (ctx : Nat) (gl : Glove) (count : Nat) : State :=
  let s := (s.modGlove ctx (fun g => { g with state := .lost })).endFills ctx
  let s := s.raise cuUnit fGloveLoss (packWord [(0, gl.g.id), (16, count), (32, ctx)])
    (BitVec.ofNat 64 gl.lostMask.toNat)
  let s := s.notice gl.g.noticeRing stGloveLoss ctx (gl.g.id * 65536)
  let s := ({ s with darns := s.darns.filter (fun d => d.ctx != ctx || d.witness) }).stopChains ctx
  let ends := (s.jobs (fun j => match j with
    | .darn c _ => c == ctx
    | .darnStitch c _ _ => c == ctx
    | .standin c => c == ctx
    | _ => false)).filter (fun p => !s.inColl p.cmd)
  ends.foldl (fun s p => s.post p.cmd stGloveLoss 0) s

/-- After a loss or a failed check (R198): above m erasures the glove is LOST; one that leaves 1 to m makes a READY or
STANDIN glove DEGRADED. -/
def State.regradeLoss (s : State) (ctx : Nat) : State :=
  match s.gloveOf ctx with
  | none => s
  | some gl =>
    let e := s.erasures ctx gl
    if !gl.state.formed || gl.state == .lost then s
    else if gl.g.m < e then s.loseGlove ctx gl e
    else if decide (1 ≤ e) && gl.state != .degraded then s.modGlove ctx (fun g => { g with state := .degraded })
    else s

/-- The gloves whose content this chip lost in this event are graded (R198). -/
def State.gradeLosses (s : State) : State :=
  (s.coded.filter (fun p => p.2.lossSeen)).foldl (fun s p =>
    (s.modCoded p.2.ctx (fun k => { k with lossSeen := false })).regradeLoss p.2.ctx) s

/-- After content has come back (R198): a DEGRADED glove with no erasure is READY, or STANDIN while a seat is hosted. -/
def State.regradeGain (s : State) (ctx : Nat) : State :=
  match s.gloveOf ctx with
  | none => s
  | some gl =>
    if gl.state == .degraded && s.erasures ctx gl == 0 then
      s.modGlove ctx (fun g => { g with state := if gl.standinMask = 0 then .ready else .standin })
    else s

/-- The glove that a chip makes of what its members gave it (R219, R243): the seat's own fields are this chip's. -/
def seatGlove (x : SeatInfo) (id me : Nat) (place : List Byte) (hash : Word) (base region : Nat) : Glove :=
  let lanes := (List.range x.n).map (fun i => BitVec.ofNat 64 (field (Tab.getD x.bank i []) 0x28 8))
  let deals := x.deals.map (fun (d : Nat × Nat × List Nat × Nat) =>
    ({ member := d.1, unit := d.2.1, hosts := d.2.2.1, region := 0xFFFF, palmSlots := 0, groups := d.2.2.2 } : Deal))
  let g : Group :=
    { id := id, n := x.n, m := x.m, me := me, q := x.q, tagKey := x.key, tagKeyInv := ~~~x.key, shape := x.shape,
      shapeInv := invBytes x.shape, place := place, placeInv := invBytes place, placeHash := hash,
      geomHash := sha384Word x.shape, tmax := field x.shape 8 8, base := base, region := region, noticeRing := 0xFFFF }
  { g := g, state := .degraded, lostMask := x.lost, standinMask := x.standin, filling := x.filling, filled := x.filled,
    lacking := x.lacking, deals := deals,
    lanes := lanes }

/-- The darns of the glove that run already: the chip that joins contributes to them (R201, R234). -/
def seatDarns (x : SeatInfo) (ctx now : Nat) : List Darn :=
  x.darns.map (fun (d : Nat × Nat × Bool × Bool) =>
    { ctx := ctx, num := d.1, lost := d.2.1, standin := d.2.2.1, boost := d.2.2.2, witness := false, dest := false, failed := 0,
      lastWrite := now })

end Sys2Proof.Machine
end

