-- ==== Sys2Proof/Machine/Fabric.lean ====
section
/-! DEFINITION. What arrives over the fabric: which messages a chip accepts (R411, R414), how it recognises a repeat (R435)
and an answer (R413), the bodies of R415 to R422, and finding a member lost (R193, R194). -/

namespace Sys2Proof
open Machine

/-! ### Fields of received messages (R411 to R422) -/

/-- Fields of the chain body. The receiver ignores bit 55, which is reserved, and sends it as zero (R11, R416). -/
def Wire.chain (w : Wire) : Nat := w.bodyField 0x05 7 % 2 ^ 55

def Wire.chStripe (w : Wire) : Nat := w.chain % 2 ^ 26

def Wire.chSeat (w : Wire) (i : Nat) : Nat := w.chain / 2 ^ (26 + 6 * i) % 64

def Wire.chStep (w : Wire) : Nat := w.chain / 2 ^ 50 % 4

def Wire.chDarn (w : Wire) : Nat := w.chain / 2 ^ 52 % 4

def Wire.chHb (w : Wire) : Bool := w.chain / 2 ^ 54 % 2 == 1

def Wire.solve (w : Wire) : Word := BitVec.ofNat 64 (w.bodyField 0x0C 8)

def Wire.checkAcc (w : Wire) : Word := BitVec.ofNat 64 (w.bodyField 0x14 8)

/-- The erasure set that a chain body names. -/
def Wire.chErased (w : Wire) : List Nat := ((List.range 4).map w.chSeat).eraseDups

def Wire.cMember (w : Wire) : Nat := w.member.toNat

def Wire.cCtx (w : Wire) : Nat := w.context.toNat

def Wire.cGlove (w : Wire) : Nat := w.glove.toNat

/-- The step field at body offset 0x05 (R415, R420, R421, R422). -/
def Wire.stepField (w : Wire) : Nat := w.bodyField 0x05 8

def Wire.phase (w : Wire) : Nat := w.bodyField 0x0D 1

def Wire.entry (w : Wire) : Nat := w.bodyField 0x0E 2

/-- The collective key that a VOTE or CROWN belongs to (R427): job-wide phases have GLOVE 0xFFFF. -/
def Wire.key (w : Wire) : CollKey :=
  { ctx := w.cCtx, step := w.stepField, glove := if w.phase = 1 ∨ w.phase = 7 then 0xFFFF else w.cGlove,
    phase := w.phase }

/-- TYPE, SUB, LEN and LAST form one of the rows of R411. -/
def Wire.legal (w : Wire) : Bool :=
  let one := fun (l : List (Nat × Bool)) => l.contains (w.sub, w.len)
  let last := !w.last || (w.type == tHatbox && w.sub == 0)
  last && (w.len == !w.payload.isEmpty) &&
  (if w.type = tDelta then one [(0, true), (0, false), (2, true), (2, false)]
   else if w.type = tDeltaAck then one [(0, false)]
   else if w.type = tDarnReq then one [(0, false), (3, false)]
   else if w.type = tDarnPart then one [(0, true), (1, false), (2, false), (3, false)]
   else if w.type = tDarnDone then one [(0, true)]
   else if w.type = tVote ∨ w.type = tCrown ∨ w.type = tHatbox ∨ w.type = tSeal then one [(0, true), (1, false)]
   else if w.type = tAbort then one [(0, false), (1, false)]
   else if w.type = tWitness then one [(0, true), (0, false), (1, false)]
   else if w.type = tExport then one [(0, true), (1, false), (2, false)]
   else false)

/-- The message is an answer (R413), which the MEMBER check does not meet. -/
def Wire.isAnswer (w : Wire) : Bool := w.type == tDeltaAck || (w.sub == 1 && w.type != tDelta)

/-- Bytes 0x00 to 0x1F of a message. -/
def Wire.head (w : Wire) : List Byte :=
  [w.code, w.context] ++ leBytes 2 w.glove.toNat ++ [w.member] ++ padTo 23 w.body ++ leBytes 4 w.crc.toNat

end Sys2Proof

namespace Sys2Proof.Machine

/-! ### The glove that a context's chains run over -/

/-- The witness role of a context on the witness chip. -/
def Coded.asWitness (k : Coded) : Option Witness := k.witness.find? (fun w => w.role == 2 && w.geom.isSome && !w.completed)

/-- A glove seen from the suspect's seat, for a witness fill (R312, R313). -/
def Witness.view (w : Witness) : Option Glove := w.geom.map (fun g =>
  { g := g, state := .ready, lostMask := 0, standinMask := 0, filling := 0, filled := [], lacking := [], deals := [], lanes := [] })

/-- The glove as the new chip of an admission sees it before the handover (R242). -/
def State.admitView (s : State) (k : Coded) : Option Glove := match k.admission, Tab.get s.infos k.ctx with
  | some a, some x => if a.isNew then some (seatGlove x a.glove a.member a.place 0 a.base a.region) else none
  | _, _ => none

/-- The glove of a context, or the view that a witness or a new chip has of it. -/
def State.chainGlove (s : State) (ctx : Nat) : Option Glove := match s.gloveOf ctx with
  | some g => some g
  | none => match s.codedOf ctx with
    | some k => match k.asWitness with
      | some w => w.view
      | none => s.admitView k
    | none => none

/-- The hatbox group of a context. -/
def State.hbOf (s : State) (ctx : Nat) : Option HbGroup := match s.codedOf ctx with
  | some k => k.hb
  | none => none

/-! ### Message bodies -/

/-- The step body of DELTA (R415). -/
def stepBody (step : Word) (stripe seat dindex : Nat) (tauOld : Word) : List Byte :=
  leBytes 8 step.toNat ++ leBytes 4 stripe ++ leBytes 1 seat ++ leBytes 1 dindex ++ leBytes 8 tauOld.toNat

/-- The CHAIN word (R416): stripe, target seat and further erased seats, step modulo 4, darn number, HB. -/
def chainWord (stripe : Nat) (erased : List Nat) (step darn : Nat) (hb : Bool) : Nat :=
  let e := fun (i : Nat) => erased.getD i (erased.headD 0)
  stripe % 2 ^ 26 + e 0 * 2 ^ 26 + e 1 * 2 ^ 32 + e 2 * 2 ^ 38 + e 3 * 2 ^ 44 + step % 4 * 2 ^ 50 + darn % 4 * 2 ^ 52 +
    (if hb then 2 ^ 54 else 0)

/-- The chain body (R416). -/
def chainBody (word : Nat) (solve check : Word) : List Byte :=
  leBytes 7 word ++ leBytes 8 solve.toNat ++ leBytes 8 check.toNat

/-- The collective body (R420). -/
def collBody (step phase entry : Nat) : List Byte := leBytes 8 step ++ leBytes 1 phase ++ leBytes 2 entry

/-- The abort body (R421). -/
def abortBody (step phase status lost time : Nat) : List Byte :=
  leBytes 8 step ++ leBytes 1 phase ++ leBytes 1 status ++ leBytes 1 lost ++ leBytes 8 time

/-! ### Accepting a message (R411, R414) -/

/-- The witness roles armed for a context. -/
def State.witnesses (s : State) (ctx : Nat) : List Witness := match s.codedOf ctx with
  | some k => k.witness
  | none => []

/-- The admission of a context names new coordinates for a member. -/
def State.admitCoord (s : State) (ctx : Nat) (c : Coord) : Option Nat := match s.codedOf ctx with
  | some k => match k.admission with
    | some a => if placeCoord a.place a.member = c then some a.member else none
    | none => none
  | none => none

/-- The seats for which a chip may speak in a glove (R412): those it holds or hosts, and a seat that it is being admitted
to. -/
def State.seatsOf (s : State) (ctx : Nat) (gl : Glove) (c : Coord) : List Nat :=
  gl.seatsOfCoord c ++ (s.admitCoord ctx c).toList

/-- A chip is marked lost in a glove that this chip is a member of (R195). -/
def State.chipLost (s : State) (src : Coord) : Bool := s.coded.any (fun p => match p.2.glove with
  | some gl => gl.state != .none && match gl.g.memberAt src with
    | some i => gl.lostMask.getLsbD i
    | none => false
  | none => false)

/-- Why a message of a party is dropped: the number of its drop counter (CU_DROP), or none (R414). `known` says that the receiver records
the source chip, `lost` that it is marked lost, `seats` lists the seats it holds or hosts, and `exempt` that the MEMBER check does not
apply. -/
def partyDrop (w : Wire) (known lost : Bool) (seats : List Nat) (exempt : Bool) : Option Nat :=
  if !known then some 2
  else if lost then some 3
  else if w.isAnswer || exempt || seats.contains w.cMember then none
  else some 4

/-- A message to a hatbox group: HATBOX_PART, SEAL, a chain message with HB set, and the ABORT of phases RESTORE and HATBOX. -/
def Wire.toHatbox (w : Wire) : Bool :=
  w.type == tHatbox || w.type == tSeal || (decide (w.type ∈ [tDarnReq, tDarnPart, tDarnDone]) && w.chHb) ||
    (w.type == tAbort && (w.phase == 8 || w.phase == 7))

/-- The drop counter of a message to a glove or hatbox group that this chip holds, or none where it is accepted (R414). -/
def State.dropReason (s : State) (src : Coord) (w : Wire) : Option Nat :=
  if w.seal.crc != w.crc then some 0
  else if !w.legal then some 1
  else if Wire.toHatbox w then match s.hbOf w.cCtx with
    | none => some 4
    | some h =>
      let own := (List.range h.g.n).filter (fun i => h.g.coord i == src)
      if h.g.id ≠ w.cGlove then some 4 else partyDrop w (!own.isEmpty) (s.chipLost src) own false
  else match s.chainGlove w.cCtx with
    | none => some 4
    | some gl =>
      if gl.g.id ≠ w.cGlove then some 4
      else
        let seats := s.seatsOf w.cCtx gl src
        let witness := (s.witnesses w.cCtx).any (fun x => x.wcoord == src)
        let lost := match gl.g.memberAt src with
          | some i => gl.lostMask.getLsbD i && (s.admitCoord w.cCtx src).isNone
          | none => false
        let fill := decide (w.type ∈ [tDarnPart, tDarnDone]) && !seats.isEmpty &&
          (s.witnesses w.cCtx).any (fun x => x.role == 2 && x.suspect == w.cMember)
        partyDrop w (witness || !seats.isEmpty) lost seats ((witness && w.cMember == 0xFE) || fill)

/-- Count a dropped message (R414). -/
def State.countDrop (s : State) (i : Nat) : State :=
  s.modCu (fun c => { c with drops := c.drops.set (i % 6) (satAdd 32 c.drops[i % 6] 1) (by omega) })

/-! ### Repeats and answers -/

/-- The message repeats one that was acted on within the member timeout (R435). -/
def State.repeated (s : State) (src : Coord) (w : Wire) : Bool :=
  s.seen.any (fun x => !x.mute && (x.src == src) && (x.head == w.head) && decide (s.now < x.at' + Config.memberTimeout))

/-- The message repeats one that was dropped without an answer: its drop is neither counted nor raised a second time, and it is folded
where R151 has come to fold it (R151, R435; log entry 105). -/
def State.muteRepeat (s : State) (src : Coord) (w : Wire) : Bool :=
  s.seen.any (fun x => x.mute && (x.src == src) && (x.head == w.head) && decide (s.now < x.at' + Config.memberTimeout))

/-- Remember a message, answered or dropped without an answer; older ones than the member timeout are forgotten. -/
def State.note (s : State) (mute : Bool) (src : Coord) (w : Wire) : State :=
  { s with seen := s.seen.filter (fun x => decide (s.now < x.at' + Config.memberTimeout)) ++
      [{ src := src, head := w.head, at' := s.now, mute := mute }] }

/-- Remember a message that has been acted on. -/
def State.remember (s : State) (src : Coord) (w : Wire) : State := s.note false src w

/-- Drop the sent messages that an answer answers (R413, R414): same bytes 0x01 to 0x1B but MEMBER, sent to its source. -/
def State.answered (s : State) (src : Coord) (w : Wire) (types : List (Nat × Nat)) : State :=
  s.dropSent (fun x => (x.dst == src) && types.contains (x.msg.type, x.msg.sub) && x.msg.matches w)

/-- The seat that this chip's answers name (R412). -/
def State.myMember (s : State) (ctx : Nat) (hb : Bool) : Nat :=
  if hb then match s.hbOf ctx with
    | some h => h.g.me
    | none => 0xFF
  else match s.gloveOf ctx with
    | some g => g.g.me
    | none => 0xFE

/-! ### Finding a member lost (R193, R194) -/

/-- The causes of MEMBER_LOST (R496). -/
def lostLink : Nat := 1
def lostTimeout : Nat := 2
def lostNotice : Nat := 3
def lostEvacuated : Nat := 4

/-- This chip's ABORT to every live member of a glove but itself and the named one. -/
def State.tellMembers (s : State) (ctx : Nat) (gl : Glove) (body : List Byte) (except : Nat) : State :=
  (gl.live.filter (fun i => i != gl.g.me && i != except)).foldl (fun s i =>
    s.send cuUnit ctx i (gl.g.coord i) (mkWire tAbort 0 ctx gl.g.id gl.g.me body [])) s

/-- The seats of a queued delta whose holder is not lost (R199). -/
def State.trimDelta (s : State) (d : Delta) : Delta :=
  match s.gloveOf d.ctx with
  | none => d
  | some gl =>
    let stripe := gl.g.stripeFor d.member false d.palm
    { d with seats := d.seats.filter (fun j =>
        let h := parityHolder gl.g.n gl.g.m stripe j
        let role := gl.g.roleIn h stripe
        !(gl.lostMask.getLsbD (gl.chipOf h role.1 role.2))) }

/-- Queued deltas lose the seats of lost holders; one with no seat left counts as sent and acknowledged (R199). -/
def State.trimDeltas (s : State) (ctx : Nat) : State :=
  { s with deltas := ((s.deltas.map (fun (d : Delta) => if d.ctx == ctx then s.trimDelta d else d)).filter
      (fun d => !d.seats.isEmpty)) }

/-- Mark a member lost (R194): the mask, the fault and the notice, the ABORT to the others when the loss was found here,
the messages that wait for the lost chip dropped (R199), and the move of R198. A member already lost is not marked
again. -/
def State.markLost (s : State) (ctx member cause : Nat) : State :=
  match s.gloveOf ctx, s.codedOf ctx with
  | some gl, some k =>
    if gl.g.n ≤ member ∨ gl.lostMask.getLsbD member then s
    else
      let bit : BitVec 32 := (1 : BitVec 32) <<< member
      let s := s.modCoded ctx (fun k => { (k.modGlove (fun g =>
        { g with lostMask := g.lostMask ||| bit, filling := g.filling &&& ~~~bit,
                 filled := g.filled.filter (fun (p : Nat × Nat) => p.1 != member) })) with lostInStep := true })
      let s := s.raise cuUnit fMemberLost (packWord [(0, gl.g.id), (16, member), (24, cause), (32, ctx)]) k.stepField
      let s := s.notice gl.g.noticeRing stMemberLost ctx (member + gl.g.id * 65536)
      let s := s.dropSent (fun x => x.ctx == ctx && x.member == member && x.msg.glove.toNat == gl.g.id)
      let s := s.dropQueued (fun x => x.ctx == ctx && x.member == member && x.msg.glove.toNat == gl.g.id)
      let s := s.trimDeltas ctx
      let s := if cause = lostNotice then s
        else s.tellMembers ctx gl (abortBody 0 0 stMemberLost member s.now) member
      s.regradeLoss ctx
  | _, _ => s

end Sys2Proof.Machine
end

