-- ==== Sys2Proof/Machine/Chain.lean ====
section
/-! DEFINITION. The partial-sum chain: hatbox pieces as chain terms (R253, R254), the contributors and coefficients of a
chain (R201 to R203, R208, R209), issuing one (R204, R205, R417), contributing to one (R204 to R206), and taking its
result (R210). -/

namespace Sys2Proof.Machine

/-! ### Hatbox pieces (R254) -/

/-- The offset of a slot in the hatbox area. -/
def HbGroup.slotBase (h : HbGroup) (slot : Bool) : Nat :=
  h.g.base + (if slot then slotBytes h.seqLen h.g.tmax else 0)

/-- The page key of a data piece (sequence position), of a parity piece, and of the seal page of a slot. -/
def HbGroup.pieceKey (h : HbGroup) (slot parity : Bool) (i : Nat) : Nat :=
  offKey true (h.slotBase slot + (if parity then h.seqLen + i else i) * 4096)
def HbGroup.sealKey (h : HbGroup) (slot : Bool) : Nat := offKey true (h.slotBase slot + (h.seqLen + h.g.tmax) * 4096)

/-- The tags of a piece: the step tag of the stitch it copies, or the stripe tag of a parity piece (R253). -/
def pieceTags (parity : Bool) (tag : Word) : Tags :=
  { noTags with step := if parity then 0 else tag, stripe := if parity then tag else 0 }

/-- A piece as a chain term: its bytes and its tag; none where its page does not read. -/
def State.readPiece (s : State) (h : HbGroup) (slot parity : Bool) (i : Nat) : State × Option (List Byte × Word) :=
  match s.fetchPage (h.pieceKey slot parity i) with
  | (s, .page d rec) => (s, some (d, if parity then rec.stripeTag else rec.stepTag))
  | (s, .never) => (s, some (zeroPage, 0))
  | (s, _) => (s, none)

/-- A piece as a restore, an export or a digest of the hatbox reads it: a never-written page is none of the exceptions of R383, so it raises
UNINIT_READ and gives nothing. -/
def State.readStored (s : State) (ctx : Nat) (h : HbGroup) (slot : Bool) (i : Nat) : State × Option (List Byte × Word) :=
  let k := h.pieceKey slot false i
  match s.fetchPage k with
  | (s, .page d rec) => (s, some (d, rec.stepTag))
  | (s, .never) => (s.uninitRead k srcPadun ctx, none)
  | (s, _) => (s, none)

/-! ### The plan of a chain -/

/-- What a stripe's erasure set leaves for a target: contributing members in ascending order, the parity seats among them,
the lost data indices, and the check seat's member. -/
structure Plan where
  members : List Nat
  js : List Nat
  xs : List Nat
  check : Option Nat
  deriving DecidableEq, Repr

/-- Data indices (or parity seats) of a stripe that a set of members holds. -/
def Group.lostData (g : Group) (stripe : Nat) (erased : List Nat) : List Nat :=
  (List.range g.k).filter (fun d => erased.contains (dataHolder g.n g.m stripe d))
def Group.lostParity (g : Group) (stripe : Nat) (erased : List Nat) : List Nat :=
  (List.range g.m).filter (fun j => erased.contains (parityHolder g.n g.m stripe j))

/-- The plan of the chain for a member's stitch (R201, R202, R209): none while it has too few contributors. -/
def Group.plan (g : Group) (stripe target : Nat) (erased : List Nat) : Option Plan :=
  let xs := g.lostData stripe erased
  let bad := g.lostParity stripe erased
  match contributors g.k g.m (fun d => xs.contains d) (fun j => bad.contains j) (g.seatIn target stripe) with
  | none => none
  | some seats =>
    let js := seats.filterMap (fun x => match x with | .parity j => some j | .data _ => none)
    let spare := (List.range g.m).filter (fun j => !bad.contains j && !js.contains j)
    some { members := sortOn (fun i => i) (seats.map (seatHolder g.n g.m stripe)), js := js,
           xs := match g.seatIn target stripe with | .data _ => xs | .parity _ => [],
           check := spare.head? }

/-- The coefficient a of a seat in the target's bytes (R203). -/
def Group.byteCoeff (g : Group) (stripe target : Nat) (p : Plan) (x : Seat) : Byte :=
  match targetCoeffs field8 (fun j d => coeff j d) p.js p.xs (g.seatIn target stripe) with
  | some f => f x
  | none => 0

/-- The coefficient b of a seat's tag in the target's tag (R208). -/
def Group.tagCoeff (g : Group) (stripe target : Nat) (p : Plan) (x : Seat) : Word :=
  match targetCoeffs field64 (fun j d => tagWeight g.tagKey j stripe d) p.js p.xs (g.seatIn target stripe) with
  | some f => f x
  | none => 0

/-- The system of R115 has a solution for the target (R117). -/
def Group.solvable (g : Group) (stripe target : Nat) (p : Plan) : Bool :=
  (targetCoeffs field64 (fun j d => tagWeight g.tagKey j stripe d) p.js p.xs (g.seatIn target stripe)).isSome

/-- The coefficient b′ of a seat's tag in the check seat's tag (R209); zero with no check seat. -/
def Group.checkCoeff (g : Group) (stripe : Nat) (p : Plan) (x : Seat) : Word :=
  match p.check with
  | none => 0
  | some j => match checkCoeffs field64 (fun j d => tagWeight g.tagKey j stripe d) p.js p.xs j with
    | some f => f x
    | none => 0

/-! ### This chip's terms -/

/-- This chip holds or hosts a member's stitch of a stripe. -/
def Glove.mine (gl : Glove) (member stripe : Nat) : Bool :=
  let role := gl.g.roleIn member stripe
  gl.chipOf member role.1 role.2 == gl.g.me

/-- The fold-buffer entry of a parity stitch. -/
def State.foldOf (s : State) (region idx : Nat) : Option Fold :=
  s.folds.find? (fun f => f.region == region && f.idx == idx)

/-- Between a crown and its sweep, a touched parity stitch's crowned content still stands in its fold-buffer entry (R155,
R180). -/
def State.crownedFold (s : State) (r : Region) (idx : Nat) : Option Fold :=
  if s.servedFlipped r idx then s.foldOf r.num idx else none

/-- A seat's stitch as a glove chain's term: bytes and tag of its crowned hand, zero where it is virtual or never-written
(R206); none where it cannot be served. -/
def State.gloveTerm (s : State) (ctx : Nat) (gl : Glove) (member stripe : Nat) :
    State × Option (List Byte × Word × Option Nat) :=
  let role := gl.g.roleIn member stripe
  if !role.1 && gl.g.isVirtual member role.2 then (s, some (zeroPage, 0, none))
  else match s.seatAt ctx gl member role.1 role.2 with
    | none => (s, none)
    | some (r, i) =>
      if s.localLacks r i then (s, none)
      else match s.crownedFold r i with
      | some f => (s, some (f.bytes, f.tag, some (r.handKey i false)))
      | none => match s.crownedOrZero r i with
        | (s, some (d, rec)) => (s, some (d, if role.1 then rec.stripeTag else rec.stepTag, some (r.handKey i false)))
        | (s, none) => (s, none)

/-- A seat's piece as a hatbox chain's term. -/
def State.pieceTerm (s : State) (h : HbGroup) (slot : Bool) (member stripe : Nat) :
    State × Option (List Byte × Word × Option Nat) :=
  let role := h.g.roleIn member stripe
  if !role.1 && h.g.isVirtual member role.2 then (s, some (zeroPage, 0, none))
  else match s.readPiece h slot role.1 role.2 with
    | (s, some (d, t)) => (s, some (d, t, some (h.pieceKey slot role.1 role.2)))
    | (s, none) => (s, none)

/-- The slot that a hatbox chain reads and the step it holds (R418): the restore's, which is none until its step is decided, else the
copy's, else that of the last restore, whose other members may still rebuild. -/
def State.hbSlotStep (s : State) (ctx : Nat) : Option (Bool × Nat) :=
  match s.codedOf ctx with
  | none => none
  | some k => match k.restore, k.hb.bind (fun h => h.copy) with
    | some r, _ => r.decided.map (fun x => (r.slot, x))
    | none, some c => some (c.slot, c.step)
    | none, none => k.restoredSlot

/-! ### Issuing a chain -/

/-- The darn that fills a member's stitches on this chip, and its number; 0 where none runs. -/
def State.darnNumber (s : State) (ctx member : Nat) : Nat :=
  match s.darns.find? (fun d => d.ctx == ctx && d.dest && d.lost == member) with
  | some d => d.num
  | none => 0

/-- The chain that fills a stitch. -/
def State.chainFor (s : State) (region idx : Nat) : Option Chain :=
  s.chains.find? (fun c => c.region == region && c.idx == idx && !c.hb)

/-- Forget a chain and its requests. -/
def State.dropChain (s : State) (c : Chain) : State :=
  { s with chains := s.chains.filter (fun x => x != c),
           sent := s.sent.filter (fun x => !(x.ctx == c.ctx && x.msg.type == tDarnReq && x.msg.chHb == c.hb &&
             x.msg.chStripe == c.stripe && x.msg.chSeat 0 == c.member)) }

/-- A stitch of a chain is not written (R210, R417): it lacks content, and DARN_FAIL counts it in its darn. -/
def State.failStitch (s : State) (ctx id stripe member darn region idx : Nat) : State :=
  let s := s.modStitch region idx (fun x => { x with fill := false, lacks := true })
  let own := fun (d : Darn) => d.ctx == ctx && d.dest && d.lost == member && d.num == darn
  let s := { s with darns := s.darns.map (fun (d : Darn) => if own d then { d with failed := d.failed + 1 } else d) }
  let n := match s.darns.find? own with
    | some d => d.failed
    | none => 1
  let s := s.raise cuUnit fDarnFail (packWord [(0, id), (16, member), (24, darn), (32, ctx)])
    (packWord [(0, stripe % 2 ^ 26), (32, n % 2 ^ 32)])
  s.regradeLoss ctx

/-- The rank of a chain's messages (R214, R262): a demand darn's leave first, and those of a hatbox chain come after background darns. -/
def chainRank (hb : Bool) (why : Purpose) : Nat :=
  if hb then rankHatbox else match why with
    | .background _ => rankDarn
    | _ => 0

/-- The requests of a chain leave: DARN_REQ to the first contributor, and CHECK to the check seat's holder (R204, R209). -/
def State.sendRequests (s : State) (rank unit ctx : Nat) (g : Group) (coordOf : Nat → Coord) (chipOf : Nat → Nat) (me : Nat) (p : Plan)
    (word : Nat) (stripe : Nat) : State :=
  let req := fun (s : State) (sub i : Nat) =>
    s.sendRanked rank unit ctx (chipOf i) (coordOf i) (mkWire tDarnReq sub ctx g.id me (chainBody word 0 0) [])
  let s := match p.members.head? with
    | some i => req s 0 i
    | none => s
  match p.check with
  | some j => req s 3 (parityHolder g.n g.m stripe j)
  | none => s

/-- The chip of a member in a stripe, as a member index. -/
def Glove.chipIn (gl : Glove) (member stripe : Nat) : Nat :=
  let role := gl.g.roleIn member stripe
  gl.chipOf member role.1 role.2

/-- Issue the glove chain that fills a stitch of this chip (R201 to R205, R417). A parity stitch of a stripe that has lost
data waits (R202). After FW_FAULT none starts (R30). -/
def State.issueChain (s : State) (ctx : Nat) (r : Region) (idx : Nat) (why : Purpose) : State :=
  if s.cu.fwFault then s
  else match s.chainGlove ctx, s.codedOf ctx with
  | some gl, some k =>
    let s := s.useGroup ctx gl.g
    let (member, parity, index) := s.seatOf gl r idx
    let stripe := gl.g.stripeFor member parity index
    let erased := member :: (s.erased ctx gl stripe).filter (· != member)
    let darn := s.darnNumber ctx member
    if 4 < erased.length then s.failStitch ctx gl.g.id stripe member darn r.num idx
    else match gl.g.plan stripe member erased with
      | none => s
      | some p =>
        let speaker := if (s.gloveOf ctx).isNone then 0xFE else member
        let c : Chain := { ctx := ctx, hb := false, stripe := stripe, member := member, erased := erased,
                           step := k.c.toNat, darn := darn, region := r.num, idx := idx, why := why, check := none,
                           result := none }
        let s := { s with chains := s.chains ++ [c] }
        s.sendRequests (chainRank false why) (keyInst (r.handKey idx false)).val ctx gl.g (fun i => gl.chipCoord i stripe) (fun i => gl.chipIn i stripe) speaker p
          (chainWord stripe erased k.c.toNat darn false) stripe
  | _, _ => s

/-- Issue the hatbox chain that rebuilds an absent piece of a restore (R272). -/
def State.issuePiece (s : State) (ctx : Nat) (h : HbGroup) (pos : Nat) (absent : List Nat) (x : Nat) : State :=
  let s := s.useGroup ctx h.g
  let stripe := stripeOf h.g.n h.g.m h.g.me pos
  let erased := h.g.me :: absent.filter (· != h.g.me)
  if 4 < erased.length ∨ s.cu.fwFault then s
  else match h.g.plan stripe h.g.me erased with
    | none => s
    | some p =>
      let c : Chain := { ctx := ctx, hb := true, stripe := stripe, member := h.g.me, erased := erased, step := x,
                         darn := 0, region := h.g.region, idx := pos, why := .restore, check := none, result := none }
      let s := { s with chains := s.chains ++ [c] }
      s.sendRequests rankHatbox (keyInst (h.pieceKey false false pos)).val ctx h.g h.g.coord (fun i => i) h.g.me p (chainWord stripe erased x 0 true) stripe

/-- A demand darn of a stitch (R212): joins the chain that runs for it, else issues one and counts it once it runs. -/
def State.demandDarn (s : State) (ctx : Nat) (r : Region) (idx : Nat) : State :=
  if (s.chainFor r.num idx).isSome then s
  else
    let s := s.issueChain ctx r idx .demand
    if (s.chainFor r.num idx).isSome then
      s.modInst (keyInst (r.handKey idx false)) (fun x => { x with demand := satAdd 32 x.demand 1 })
    else s

/-- Issue a chain again (R205, R231): at the current crowned step and over the erasure set that now holds. -/
def State.reissue (s : State) (c : Chain) : State :=
  if c.hb then s
  else match s.region? c.region with
    | some r => (s.dropChain c).issueChain c.ctx r c.idx c.why
    | none => s.dropChain c

/-! ### Contributing -/

/-- The member that acts on a chain message: the first contributor on a request, else the one after the sender's seat. -/
def Plan.next (p : Plan) (w : Wire) : Option Nat :=
  if w.type = tDarnReq then p.members.head?
  else p.members.find? (fun i => decide (w.cMember < i))

/-- A witness fill's chain as a contributor sees it (R313): its darn number is that of an armed witness of the target. -/
def State.fillWitness (s : State) (ctx target darn : Nat) : Option Witness :=
  if s.darns.any (fun d => d.ctx == ctx && d.witness && d.num == darn) then
    (s.witnesses ctx).find? (fun x => x.role != 2 && x.suspect == target && x.darn == darn && !x.completed)
  else none

/-- Where a chain's result goes: the destination's chip and coordinates. -/
def State.chainDest (s : State) (gl : Glove) (w : Wire) : Nat × Coord :=
  match s.fillWitness w.cCtx (w.chSeat 0) w.chDarn with
  | some x => (0xFE, x.wcoord)
  | none =>
    let member := w.chSeat 0
    (gl.chipIn member w.chStripe, gl.chipCoord member w.chStripe)


/-- One contribution: the product of the own term, checked (R402), joins the sums, and the message goes on (R204, R208,
R209). A message does not say whether its chain is a demand darn's, so a contributor sends a glove's chain messages on with the rank of
a background darn's, and a hatbox group's after them (R214, R262). DESIGN CHOICE: log entry 27. -/
def State.passOn (s : State) (w : Wire) (g : Group) (p : Plan) (me : Nat) (d : List Byte) (tag : Word)
    (key : Option Nat) (next : Option (Nat × Coord)) (dest : Nat × Coord) : State :=
  let stripe := w.chStripe
  let target := w.chSeat 0
  let seat := g.seatIn me stripe
  let y := gscale (g.byteCoeff stripe target p seat) d
  let (s, out) := match key with
    | some k => s.checked (keyInst k) (s.codeLane k) pChain y
    | none => (s, some y)
  match out with
  | none => s
  | some y =>
    let sum := xorBytes (padTo 4096 w.payload) y
    let solve := w.solve ^^^ wmul (g.tagCoeff stripe target p seat) tag
    let check := w.checkAcc ^^^ wmul (g.checkCoeff stripe p seat) tag
    let unit := match key with
      | some k => (keyInst k).val
      | none => cuUnit
    let body := chainBody w.chain solve check
    let rank := if w.chHb then rankHatbox else rankDarn
    match next with
    | some (chip, c) => s.sendRanked rank unit w.cCtx chip c (mkWire tDarnPart 0 w.cCtx g.id me body sum)
    | none => s.sendRanked rank unit w.cCtx dest.1 dest.2 (mkWire tDarnDone 0 w.cCtx g.id me body sum)

/-- The contributor after `me`. -/
def Plan.after (p : Plan) (me : Nat) : Option Nat := p.members.find? (fun i => decide (me < i))

/-- A contributor acts on DARN_REQ or DARN_PART of a glove chain (R204 to R206, R418). In a LOST glove its chains have stopped (R233). -/
def State.contribute (s : State) (w : Wire) : State :=
  match s.gloveOf w.cCtx, s.codedOf w.cCtx with
  | some gl, some k =>
    let s := s.useGroup w.cCtx gl.g
    let dest := s.chainDest gl w
    match gl.g.plan w.chStripe (w.chSeat 0) w.chErased with
    | none => s
    | some p => match p.next w with
      | none => s
      | some me =>
        if !gl.mine me w.chStripe ∨ gl.state = .lost then s
        else if k.c.toNat % 4 ≠ w.chStep then
          s.reply dest.2 (mkWire tDarnPart 2 w.cCtx gl.g.id me (chainBody w.chain 0 0) [])
        else match s.gloveTerm w.cCtx gl me w.chStripe with
          | (s, none) => s
          | (s, some (d, t, key)) =>
            s.passOn w gl.g p me d t key ((p.after me).map (fun i => (gl.chipIn i w.chStripe, gl.chipCoord i w.chStripe))) dest
  | _, _ => s

/-- A contributor acts on DARN_REQ or DARN_PART of a hatbox chain. -/
def State.contributePiece (s : State) (w : Wire) : State :=
  match s.hbOf w.cCtx with
  | none => s
  | some h =>
    let s := s.useGroup w.cCtx h.g
    match h.g.plan w.chStripe (w.chSeat 0) w.chErased with
    | none => s
    | some p => match p.next w, s.hbSlotStep w.cCtx with
      | some me, some (slot, x) =>
        if me ≠ h.g.me then s
        else if x % 4 ≠ w.chStep then
          s.reply (h.g.coord (w.chSeat 0)) (mkWire tDarnPart 2 w.cCtx h.g.id me (chainBody w.chain 0 0) [])
        else match s.pieceTerm h slot me w.chStripe with
          | (s, none) => s
          | (s, some (d, t, key)) =>
            s.passOn w h.g p me d t key ((p.after me).map (fun i => (i, h.g.coord i))) (w.chSeat 0, h.g.coord (w.chSeat 0))
      | _, _ => s

/-- The holder of the check seat answers a CHECK request with its stripe tag (R209); at another step it answers STALE. -/
def State.answerCheck (s : State) (src : Coord) (w : Wire) : State :=
  let go := fun (s : State) (g : Group) (me : Nat) (stepOk : Bool)
      (t : State → State × Option (List Byte × Word × Option Nat)) =>
    if !stepOk then s.reply src (mkWire tDarnPart 2 w.cCtx g.id me (chainBody w.chain 0 0) [])
    else match t s with
      | (s, some (_, tag, _)) => s.reply src (mkWire tDarnPart 3 w.cCtx g.id me (chainBody w.chain tag 0) [])
      | (s, none) => s
  if w.chHb then match s.hbOf w.cCtx, s.hbSlotStep w.cCtx with
    | some h, some (slot, x) =>
      go s h.g h.g.me (x % 4 == w.chStep) (fun s => s.pieceTerm h slot h.g.me w.chStripe)
    | _, _ => s
  else match s.gloveOf w.cCtx, s.codedOf w.cCtx with
    | some gl, some k => match gl.g.plan w.chStripe (w.chSeat 0) w.chErased with
      | some p => match p.check with
        | some j =>
          let me := parityHolder gl.g.n gl.g.m w.chStripe j
          if gl.mine me w.chStripe then
            go s gl.g me (k.c.toNat % 4 == w.chStep) (fun s => s.gloveTerm w.cCtx gl me w.chStripe)
          else s
        | none => s
      | none => s
    | _, _ => s

/-- In the crown guard of a context Padun's own reads of crowned state pause (R178, R206). -/
def State.inGuard (s : State) (ctx : Nat) : Bool := match s.codedOf ctx with
  | some k => match k.decision with
    | some d =>
      let g := match k.vote with
        | some v => v.guard
        | none => s.cu.crownGuard
      k.phase == .decided && decide (d.t.toNat - g ≤ s.now ∧ s.now < d.t.toNat)
    | none => false
  | none => false

/-! ### The result -/

/-- The checks of R117 and R210 on a result. -/
def Chain.accepts (c : Chain) (g : Group) (p : Plan) (data : List Byte) (tag checkAcc : Word) : Bool :=
  let isData := match g.seatIn c.member c.stripe with
    | .data _ => true
    | .parity _ => false
  let bound := !isData || ((tag == 0 && allZero data) || (tag != 0 && decide (tag.toNat ≤ c.step)))
  let check := match p.check with
    | some _ => c.check == some checkAcc
    | none => true
  g.solvable c.stripe c.member p && bound && check

/-- The crowned hand that a darn writes (R210): the hand that the checked entry names (R66), or the left hand, with the right hand
never-written, of a stitch that R69 leaves unresolved and that has no open hand. -/
def State.rebuiltHand (s : State) (r : Region) (idx : Nat) : State × Bool := match s.crownedHand r idx with
  | (s, some right) => (s, right)
  | (s, none) => (((s.setHand r idx false).neverPages (r.handKey idx true) 1).modStitch r.num idx (fun x =>
      { x with touch := false }), false)

/-- Write a rebuilt stitch into its crowned hand (R210); zero content with tag 0 leaves it never-written. -/
def State.writeRebuilt (s : State) (ctx : Nat) (r : Region) (idx : Nat) (parity : Bool) (step : Nat) (data : List Byte)
    (tag : Word) : State :=
  let (s, right) := s.rebuiltHand r idx
  let key := r.handKey idx right
  let attempt := match s.codedOf ctx with
    | some k => BitVec.ofNat 8 k.attempt
    | none => 0
  let s := if tag = 0 ∧ allZero data then s.neverPages key 1
    else s.storePage key data { step := if parity then BitVec.ofNat 64 step else tag, stripe := if parity then tag else 0,
                                mask := 0, hand := handGen right, attempt := attempt }
  s.modStitch r.num idx (fun x => { x with fill := false, lacks := false, unres := false })

/-- What became of a chain: written with its tag, or failed. -/
inductive ChainEnd where
  | wrote (tag : Word)
  | failed
  deriving DecidableEq, Repr

/-- The result of a glove chain is complete (R210): checked, and written or failed. -/
def State.endChain (s : State) (c : Chain) (data : List Byte) (tag checkAcc : Word) : State × ChainEnd :=
  match s.chainGlove c.ctx, s.region? c.region with
  | some gl, some r =>
    match gl.g.plan c.stripe c.member c.erased with
    | none => (s.dropChain c, .failed)
    | some p =>
      let s := s.dropChain c
      let parity := (gl.g.roleIn c.member c.stripe).1
      if c.accepts gl.g p data tag checkAcc then
        let s := s.writeRebuilt c.ctx r c.idx parity c.step data tag
        let s := { s with darns := s.darns.map (fun (d : Darn) =>
          if d.ctx == c.ctx && d.dest && d.lost == c.member then { d with lastWrite := s.now } else d) }
        (s, .wrote tag)
      else (s.failStitch c.ctx gl.g.id c.stripe c.member c.darn c.region c.idx, .failed)
  | _, _ => (s.dropChain c, .failed)

/-- The chain that a DARN_DONE, STALE or CHECK answer belongs to. -/
def State.chainOfMsg (s : State) (w : Wire) : Option Chain :=
  s.chains.find? (fun c => c.ctx == w.cCtx && c.hb == w.chHb && c.stripe == w.chStripe && c.member == w.chSeat 0)

end Sys2Proof.Machine
end

