-- ==== Sys2Proof/Machine/Digest.lean ====
section
/-! DEFINITION. Digest slots (R287 to R299) and tally slots (R300 to R309): tile keys and terms, element formats, the exact
accumulator, what a write and a delta add, freezing, and the two roots. -/

namespace Sys2Proof.Machine

/-! ### Digest arithmetic -/

/-- `k` to the power `n` in GF(2^64), by binary digits; the fuel bounds their number. -/
def wpow : Nat → Word → Nat → Word
  | 0, _, _ => 1
  | f + 1, k, n =>
    let h := wpow f (wmul k k) (n / 2)
    if n % 2 = 1 then wmul k h else h

/-- The tile key (R289). -/
def tileKey (dkey : BitVec 128) (t : Nat) : Word := aesWeight dkey (leBytes 8 t ++ List.replicate 8 0)

/-- The label weight (R299). -/
def labelWeight (dkey : BitVec 128) (label : Word) : Word := aesWeight dkey (leBytes 8 label.toNat ++ List.replicate 8 0xFF)

/-- The tile hash H(t, x) of a tile's bytes (R289). -/
def tileHash (dkey : BitVec 128) (t : Nat) (x : List Byte) : Word :=
  let k := tileKey dkey t
  ((List.range (ceilDiv x.length 8)).foldl (fun acc i =>
    let kp := wmul acc.1 k
    (kp, acc.2 ^^^ wmul (BitVec.ofNat 64 (field x (8 * i) 8)) kp)) ((1 : Word), (0 : Word))).2

/-- The slot position of a region offset: (logical tile index, byte of the tile), or none outside the slot (R288). -/
def Digest.place (g : Digest) (len off : Nat) : Option (Nat × Nat) :=
  if off < g.tbase then none
  else
    let j := (off - g.tbase) / 2 ^ g.tlog
    let inside := if g.expect = 0 then decide (g.tbase + (j + 1) * 2 ^ g.tlog ≤ len) else decide (j < g.expect)
    if inside then some (g.first + j / g.group * g.stride + j % g.group, (off - g.tbase) % 2 ^ g.tlog) else none

/-- The term of one byte of a write. -/
def Digest.term (g : Digest) (p : Nat × Nat) (b : Byte) : Word :=
  wmul (BitVec.ofNat 64 (b.toNat * 256 ^ (p.2 % 8))) (wpow 32 (tileKey g.dkey p.1) (p.2 / 8 + 1))

/-- The bytes of a write at slot positions, with their places. -/
def Digest.placed (g : Digest) (len off : Nat) (d : List Byte) : List ((Nat × Nat) × Byte) :=
  (d.zip (List.range d.length)).filterMap (fun q => (g.place len (off + q.2)).map (fun p => (p, q.1)))

/-- A run of bytes, from its first to past its last, joined to the runs that it meets or touches. -/
def addRun (l : List (Nat × Nat)) (a b : Nat) : List (Nat × Nat) :=
  let meets := fun (x : Nat × Nat) => decide (x.1 ≤ b ∧ a ≤ x.2)
  let own := l.filter meets
  sortOn (·.1) ((own.foldl (fun m x => Nat.min m x.1) a, own.foldl (fun m x => Nat.max m x.2) b) :: l.filter (fun x => !meets x))

/-- The slot records which of its bytes a FINAL write has written: a byte written twice leaves it incomplete for good (R293). -/
def Digest.cover (g : Digest) (off n : Nat) : Digest :=
  let a := Nat.max off g.tbase - g.tbase
  { g with twice := g.twice || g.written.any (fun x => decide (x.1 < a + n ∧ a < x.2)), written := addRun g.written a (a + n) }

/-- A slot's counts and value at the start. -/
def Digest.cleared (g : Digest) : Digest :=
  { g with value := 0, bytes := 0, tiles := 0, written := [], twice := false, late := 0 }

/-- A WRITE slot meets an accepted FINAL write (R290, R298). -/
def Digest.onWrite (g : Digest) (len off : Nat) (d : List Byte) : Digest :=
  let ps := g.placed len off d
  if ps.isEmpty then g
  else if g.frozen.isSome then { g with late := satAdd 32 g.late 1 }
  else { (g.cover off ps.length) with
    value := ps.foldl (fun v p => v ^^^ g.term p.1 p.2) g.value, bytes := g.bytes + ps.length }

/-- A DELTA slot meets a delta of its palm (R291). -/
def Digest.onDelta (g : Digest) (palm : Nat) (delta : List Byte) : Digest :=
  if g.frozen.isSome then g
  else { g with value := g.value ^^^ tileHash g.dkey palm delta, tiles := g.tiles + 1, bytes := g.bytes + 4096 }

/-- Counted tiles (R292). -/
def Digest.counted (g : Digest) : Nat := if g.kind = 1 then g.bytes / 2 ^ g.tlog else g.tiles

/-- RESULT of R295: 0 complete, 1 DIGEST_INCOMPLETE, 2 unchecked (R292, R293). -/
def Digest.result (g : Digest) : Nat :=
  if g.kind = 2 ∨ g.expect = 0 then 2
  else if g.bytes = g.expect * 2 ^ g.tlog ∧ !g.twice then 0 else 1

/-! ### Element formats (R301) -/

/-- Exponent bits, mantissa bits and size of a floating format. -/
def fmtBits (f : Nat) : Nat × Nat × Nat :=
  match f with
  | 1 => (8, 23, 4)
  | 2 => (8, 7, 2)
  | 3 => (5, 10, 2)
  | 4 => (4, 3, 1)
  | 5 => (5, 2, 1)
  | _ => (0, 7, 1)

/-- Size of an element in bytes. -/
def fmtSize (f : Nat) : Nat := (fmtBits f).2.2

/-- What an element is: the flags of R302 and its value times 2^160; no value for NaN and Inf. -/
structure Elem where
  nan : Bool
  inf : Bool
  max : Bool
  sub : Bool
  zero : Bool
  value : Option Int
  deriving DecidableEq, Repr

/-- An INT8 element. -/
def intElem (x : Nat) : Elem :=
  let v : Int := if x < 128 then (x : Int) else (x : Int) - 256
  { nan := false, inf := false, max := x == 127 || x == 128, sub := false, zero := x == 0, value := some (v * 2 ^ 160) }

/-- An element of a format (R301, R302, R303). -/
def elemOf (f x : Nat) : Elem :=
  if f = 6 then intElem x
  else
    let (eb, mb, _) := fmtBits f
    let m := x % 2 ^ mb
    let e := x / 2 ^ mb % 2 ^ eb
    let top := 2 ^ eb - 1
    let nan := if f = 4 then e == top && m == 7 else e == top && m != 0
    let inf := f != 4 && e == top && m == 0
    let max := if f = 4 then e == top && m == 6 else e == top - 1 && m == 2 ^ mb - 1
    let bias := 2 ^ (eb - 1) - 1
    let mag := (if e = 0 then m else m + 2 ^ mb) * 2 ^ (Nat.max e 1 + 160 - bias - mb)
    let neg := x / 2 ^ (mb + eb) % 2 == 1
    { nan := nan, inf := inf, max := max, sub := e == 0 && m != 0, zero := e == 0 && m == 0,
      value := if nan || inf then none else some (if neg then -(mag : Int) else (mag : Int)) }

/-- The whole elements of a byte run that starts at offset `off` (R301). -/
def elemsAt (f off : Nat) (d : List Byte) : List Nat :=
  let z := fmtSize f
  let skip := (z - off % z) % z
  (List.range ((d.length - skip) / z)).map (fun i => field d (skip + i * z) z)

/-! ### Tally arithmetic -/

/-- A 640-bit two's-complement value, wrapped (R303, R304). -/
def wrap640 (a : Int) : Int := (a + 2 ^ 639) % 2 ^ 640 - 2 ^ 639

/-- Add to the accumulator; the flag tells that the range was passed (R304). -/
def addAcc (a x : Int) : Int × Bool :=
  let y := a + x
  (wrap640 y, decide (y < -(2 ^ 639) ∨ 2 ^ 639 ≤ y))

/-- Add to a slot's accumulator. -/
def Tally.add (t : Tally) (x : Int) : Tally :=
  let (a, o) := addAcc t.acc x
  { t with acc := a, overflow := t.overflow || o }

/-- The six CENSUS counters after an element (R302). -/
def censusStep (c : List Nat) (e : Elem) : List Nat :=
  let hit := [true, e.nan, e.inf, e.max, e.sub, e.zero]
  (List.range 6).map (fun i => if hit.getD i false then satAdd 64 (c.getD i 0) 1 else c.getD i 0)

/-- A slot meets the elements of an accepted FINAL write (R300, R298). -/
def Tally.onWrite (t : Tally) (off : Nat) (d : List Byte) : Tally :=
  let xs := (elemsAt t.format off d).map (elemOf t.format)
  if xs.isEmpty then t
  else if t.frozen.isSome then { t with late := satAdd 32 t.late 1 }
  else if t.kind = 1 then { t with counts := xs.foldl censusStep t.counts }
  else xs.foldl (fun t e => match e.value with
    | some v => t.add (v * v)
    | none => { t with excluded := satAdd 64 t.excluded 1 }) t

/-- The square of a value, or zero where there is none. -/
def sqr (v : Option Int) : Int := match v with
  | some x => x * x
  | none => 0

/-- A slot meets a stitch at delta formation (R300, R303, R306). -/
def Tally.onDelta (t : Tally) (old new : List Byte) : Tally :=
  let xs := (elemsAt t.format 0 old).map (elemOf t.format)
  let ys := (elemsAt t.format 0 new).map (elemOf t.format)
  if t.source = 1 then
    (xs.zip ys).foldl (fun t p =>
      { t with inc := t.inc + sqr p.2.value - sqr p.1.value,
               incExcluded := t.incExcluded + (if p.2.value.isNone then 1 else 0) - (if p.1.value.isNone then 1 else 0) }) t
  else if t.frozen.isSome then t
  else if t.kind = 1 then { t with counts := ys.foldl censusStep t.counts }
  else (xs.zip ys).foldl (fun t p => match p.1.value, p.2.value with
    | some a, some b => t.add ((b - a) * (b - a))
    | _, _ => { t with excluded := satAdd 64 t.excluded 1 }) t

/-- The value that a WEIGHTS slot freezes (R306), or the accumulator of any other. -/
def Tally.frozenValue (t : Tally) : Int := if t.source = 1 then wrap640 (t.acc + t.inc) else t.acc

/-- A × 2^−320 as FP64, to nearest, ties to even (R307). -/
def roundFp64 (a : Int) : Nat :=
  let n := a.natAbs
  if n = 0 then 0
  else
    let l := n.log2
    let sign := if a < 0 then 2 ^ 63 else 0
    let q := if l ≤ 52 then n * 2 ^ (52 - l) else
      let sh := 2 ^ (l - 52)
      let r := n % sh
      n / sh + (if sh < 2 * r ∨ (sh = 2 * r ∧ n / sh % 2 = 1) then 1 else 0)
    sign + (l + 1023 - 320 - 1) * 2 ^ 52 + q

/-! ### What the chip's traffic adds to its slots -/

/-- Change every digest slot, and every tally slot. -/
def State.mapDigests (s : State) (f : Digest → Digest) : State :=
  { s with digests := s.digests.map (fun p => (p.1, f p.2)) }
def State.mapTallies (s : State) (f : Tally → Tally) : State :=
  { s with tallies := s.tallies.map (fun p => (p.1, f p.2)) }

/-- An accepted FINAL write to a region, from region offset `off` (R290, R300). -/
def State.finalWrite (s : State) (r : Region) (off : Nat) (d : List Byte) : State :=
  let s := s.mapDigests (fun g => if g.kind = 1 ∧ g.region = r.num then g.onWrite r.len off d else g)
  s.mapTallies (fun t => if t.source = 0 ∧ t.region = r.num then t.onWrite off d else t)

/-- A delta of a member's palm stitch is formed (R145, R291, R300, R306): `hosted` is 0xFF for the chip's own palm, `state`
tells a STATE stitch from a GROUPS stitch. -/
def State.tallyDelta (s : State) (ctx hosted palm : Nat) (state : Bool) (old new : List Byte) : State :=
  let s := s.mapDigests (fun g =>
    if g.kind = 2 ∧ g.ctx = ctx ∧ g.hosted = hosted then g.onDelta palm (xorBytes old new) else g)
  s.mapTallies (fun t =>
    if t.source ≠ 0 ∧ t.ctx = ctx ∧ t.hosted = hosted ∧ (state ∨ t.kind = 1) then t.onDelta old new else t)

/-- GROUPS_HASH changes by a GROUPS stitch's delta (R90): the old term goes where the crowned stitch was written, the new
term comes. -/
def State.groupsDelta (s : State) (ctx hosted palm : Nat) (wasWritten : Bool) (old new : List Byte) : State :=
  let x := (if wasWritten then groupsTerm palm old else 0) ^^^ groupsTerm palm new
  s.modCoded ctx (fun k =>
    if hosted = 0xFF then { k with groupsHash := k.groupsHash ^^^ x }
    else { k with hostedHash := Tab.set k.hostedHash hosted (Tab.getD k.hostedHash hosted 0 ^^^ x) })

/-- Rooted slots restart at STEP_OPEN (R298); a WEIGHTS slot keeps its crowned value (R306). -/
def State.restartRooted (s : State) (ctx : Nat) : State :=
  let s := s.mapDigests (fun g => if g.root ∧ g.ctx = ctx then
    { g.cleared with frozen := none } else g)
  s.mapTallies (fun t => if t.root ∧ t.ctx = ctx then
    (if t.source = 1 then { t with late := 0, frozen := none }
     else { t with counts := List.replicate 6 0, acc := 0, excluded := 0, overflow := false, late := 0, frozen := none })
    else t)

/-- Rooted slots freeze at the chip's first vote, or at a witness's DRAIN_CLOSE (R298, R316). -/
def State.freezeRooted (s : State) (ctx : Nat) : State :=
  let step := match s.codedOf ctx with
    | some k => k.s
    | none => 0
  let at' := some (step, s.now)
  let s := s.mapDigests (fun g => if g.root ∧ g.ctx = ctx ∧ g.frozen.isNone then { g with frozen := at' } else g)
  s.mapTallies (fun t => if t.root ∧ t.ctx = ctx ∧ t.frozen.isNone then
    { t with frozen := at', frozenAcc := t.frozenValue } else t)

/-- A crown adds the open increments of WEIGHTS slots to their crowned values (R306). -/
def State.crownWeights (s : State) (ctx : Nat) : State :=
  s.mapTallies (fun t => if t.source = 1 ∧ t.ctx = ctx then
    { (t.add t.inc) with inc := 0, incExcluded := 0, excluded := (t.excluded + t.incExcluded : Int).toNat } else t)

/-- A discard clears the open increments (R306). -/
def State.discardWeights (s : State) (ctx : Nat) : State :=
  s.mapTallies (fun t => if t.source = 1 ∧ t.ctx = ctx then { t with inc := 0, incExcluded := 0 } else t)

/-! ### Roots -/

/-- DIGEST_ROOT over the rooted slots of a HOSTED value (R299, R309). -/
def State.digestRoot (s : State) (ctx hosted : Nat) : List Byte :=
  let gs := (s.digests.map (·.2)).filter (fun (g : Digest) => g.root && g.ctx == ctx && g.hosted == hosted)
  leBytes 8 (gs.foldl (fun v g => v ^^^ wmul (labelWeight g.dkey g.label) g.value) (0 : Word)).toNat ++
    leBytes 8 ((gs.map Digest.counted).sum % 2 ^ 64)

/-- The modulus of R308. -/
def rootMod : Nat := 2 ^ 127 - 1

/-- A tally slot's part of TALLY_ROOT (R308). -/
def Tally.rootTerm (t : Tally) : Nat :=
  let v := fun (c : Nat) (x : Int) => (x % rootMod).toNat * 2 ^ ((t.label.toNat + c) % 127) % rootMod
  if t.kind = 1 then ((List.range 6).map (fun c => v c (t.counts.getD c 0))).sum
  else v 0 (if t.frozen.isSome then t.frozenAcc else t.frozenValue)

/-- TALLY_ROOT over the rooted slots of a HOSTED value (R308, R309). -/
def State.tallyRoot (s : State) (ctx hosted : Nat) : List Byte :=
  let ts := (s.tallies.map (·.2)).filter (fun (t : Tally) => t.root && t.ctx == ctx && t.hosted == hosted)
  leBytes 16 ((ts.map Tally.rootTerm).sum % rootMod)

/-- A rooted NORMS slot that is negative or overflowed raises DIGEST_MISMATCH at the vote (R308, R496). -/
def State.rootFaults (s : State) (ctx : Nat) : State :=
  let bad := (s.tallies.map (·.2)).filter (fun (t : Tally) =>
    t.root && t.ctx == ctx && t.kind == 2 && (decide (t.frozenValue < 0) || t.overflow))
  let (id, me) := match s.gloveOf ctx with
    | some g => (g.g.id, g.g.me)
    | none => (0xFFFF, 0)
  bad.foldl (fun s t => s.raise cuUnit fDigest (packWord [(0, id), (16, me), (24, 2), (32, ctx)]) t.label) s

/-- Two shares of a member's roots combined (R309). -/
def addRoots (a b : List Byte) : List Byte :=
  leBytes 8 ((BitVec.ofNat 64 (field a 0 8)) ^^^ (BitVec.ofNat 64 (field b 0 8))).toNat ++
    leBytes 8 ((field a 8 8 + field b 8 8) % 2 ^ 64)
def addTally (a b : List Byte) : List Byte := leBytes 16 ((leNat a + leNat b) % rootMod)

end Sys2Proof.Machine
end

