-- ==== Sys2Proof/Machine/Drain.lean ====
section
/-! DEFINITION. From a completed stitch to its parity: forming a delta (R79, R145), sending it (R145 to R150), folding it at
the holder (R151 to R156, R572, R574), acknowledgement, and when an instance is drained (R157). -/

namespace Sys2Proof.Machine

/-! ### Forming deltas -/

/-- The bytes of one DELTA message: the header, and the payload unless it is all zero (R146, R159). -/
def deltaBytes (d : List Byte) : Nat := if allZero d then 32 else 4128

/-- Add to a per-instance byte count of a coded context. -/
def addCount (l : List (Nat × Nat)) (i n : Nat) : List (Nat × Nat) := Tab.set l i (Tab.getD l i 0 + n)

/-- The lane agent waits: no tracked transfer is free, so it forms no further delta (R148). -/
def State.agentWaits (s : State) (i : Fin 16) : Bool := decide (Config.trackedMax ≤ s.tracked i)

/-- Every byte of the stitch is written (R79). -/
def Pair.full (p : Pair) : Bool := p.cover == BitVec.allOnes 4096

/-- The hosted member of a region, or 0xFF for the chip's own palm (R287). -/
def Region.hostedMember (r : Region) : Nat := match r.kind with
  | .hosting i => i
  | _ => 0xFF

/-- A palm stitch of this area is a GROUPS stitch: by its region, or by its hosted palm index (R229). -/
def State.isGroups (s : State) (r : Region) (palm : Nat) : Bool := match r.kind with
  | .groups => true
  | .hosting i => match s.gloveOf r.owner with
    | some g => match g.dealOf i with
      | some d => decide (palm < d.groups)
      | none => false
    | none => false
  | _ => false

/-- Form the delta of a paired stitch (R79, R145): its open hand is written whole, the digests, tallies and GROUPS_HASH take
it, it joins its lane's queue, and the entry is released. A witness sends none (R314). -/
def State.formDelta (s : State) (p : Pair) : State :=
  match s.region? p.region, s.codedOf p.ctx with
  | some r, some k =>
    match s.crownedHand r p.idx with
    | (s, none) => { ((s.dropMerge (r.handKey p.idx false)).dropMerge (r.handKey p.idx true)) with
        pairs := s.pairs.filter (fun q => q != p) }
    | (s, some right) =>
      let old := s.mem.record (r.handKey p.idx right)
      let written := old.st == stWritten
      let openKey := r.handKey p.idx (!right)
      let s := (s.dropMerge openKey).storePage openKey p.cur (s.openTags p.ctx (!right))
      let view := s.chainGlove p.ctx
      let (member, palm) := match view with
        | some gl => let x := s.seatOf gl r p.idx; (x.1, x.2.2)
        | none => (0, s.palmOf r p.idx)
      let groups := s.isGroups r palm
      let hosted := r.hostedMember
      let s := s.tallyDelta p.ctx hosted palm (!groups) p.old p.cur
      let s := if groups then s.groupsDelta p.ctx hosted palm written p.old p.cur else s
      let s := { s with pairs := s.pairs.filter (fun q => q != p) }
      match s.gloveOf p.ctx with
      | none => s
      | some gl =>
        let i := keyInst (r.handKey p.idx false)
        let bytes := xorBytes p.old p.cur
        let d : Delta := { ctx := p.ctx, inst := i.val, member := member, palm := palm, bytes := bytes,
                           tauOld := if written then old.stepTag else 0, step := k.stepField, form := false,
                           seats := List.range gl.g.m }
        let d := s.trimDelta d
        let s := s.modCoded p.ctx (fun k => { k with formed := addCount k.formed i.val (gl.g.m * deltaBytes bytes) })
        if d.seats.isEmpty then s else { s with deltas := s.deltas ++ [d] }
  | _, _ => { s with pairs := s.pairs.filter (fun q => q != p) }

/-- The step of a context is open for writes (R70). -/
def State.stepOpen (s : State) (ctx : Nat) : Bool := match s.codedOf ctx with
  | some k => k.phase == .opened
  | none => false

/-- Form the deltas that are ready at an instance: fully written stitches, and every written one after DRAIN_CLOSE, while the
lane agent does not wait (R79, R148). -/
def State.formReady (s : State) (i : Fin 16) : State :=
  (s.pairs.filter (fun p => p.cover != 0)).foldl (fun s p =>
    match s.region? p.region with
    | none => s
    | some r =>
      if keyInst (r.handKey p.idx false) = i ∧ !s.agentWaits i ∧ (p.full ∨ !s.stepOpen p.ctx) then s.formDelta p else s) s

/-- Form what is ready at every instance. -/
def State.formAll (s : State) : State := instNums.foldl (fun s i => s.formReady i) s

/-! ### Sending deltas -/

/-- Send one seat's DELTA of a queued delta (R145 to R148, R226): the product is checked before it leaves, and one that fails the check is
not sent (R147). The answer says whether the seat's DELTA has left. -/
def State.sendSeat (s : State) (gl : Glove) (d : Delta) (j : Nat) : State × Bool :=
  let stripe := gl.g.stripeFor d.member false d.palm
  match gl.g.seatIn d.member stripe with
  | .parity _ => (s, true)
  | .data x =>
    let holder := parityHolder gl.g.n gl.g.m stripe j
    let i := instIdx d.inst
    let lane := match s.seatAt d.ctx gl d.member false d.palm with
      | some (r, idx) => s.codeLane (r.handKey idx false)
      | none => 0
    match s.checked i lane pDelta (gscale (coeff j x) d.bytes) with
    | (s, none) => (s, false)
    | (s, some y) =>
      let payload := if allZero d.bytes then [] else y
      let w := mkWire tDelta (if d.form then 2 else 0) d.ctx gl.g.id d.member
        (stepBody d.step stripe j x d.tauOld) payload
      let s := s.modCoded d.ctx (fun k => { k with sent := addCount k.sent d.inst (deltaBytes d.bytes) })
      (s.send d.inst d.ctx (gl.chipIn holder stripe) (gl.chipCoord holder stripe) w, true)

/-- The lane agents of an instance send the first queued delta, one DELTA for each seat while tracked transfers are free
(R145, R148). A halted instance sends nothing (R405). -/
def State.sendDelta (s : State) (i : Fin 16) : State :=
  match s.deltas.find? (fun d => d.inst == i.val) with
  | none => s
  | some d =>
    if s.inst[i].halted ∨ s.agentWaits i then s
    else match s.gloveOf d.ctx with
      | none => { s with deltas := delFirst (fun x => x == d) s.deltas }
      | some gl =>
        let s := s.useGroup d.ctx gl.g
        let go := fun (acc : State × List Nat) (j : Nat) =>
          if acc.1.agentWaits i ∨ acc.1.inst[i].halted then (acc.1, acc.2 ++ [j])
          else match acc.1.sendSeat gl d j with
            | (s, gone) => (s, if gone then acc.2 else acc.2 ++ [j])
        let r := (s.trimDelta d).seats.foldl go (s, [])
        { r.1 with deltas := if r.2.isEmpty then delFirst (fun x => x == d) r.1.deltas
            else updFirst (fun x => x == d) (fun x => { x with seats := r.2 }) r.1.deltas }

/-! ### Drained (R157) -/

/-- An instance's drain conditions for a context hold (R157, R392). -/
def State.drainedAt (s : State) (ctx : Nat) (i : Nat) : Bool :=
  !(s.deltas.any (fun d => d.ctx == ctx && d.inst == i && !d.form)) &&
  !(s.sent.any (fun x => x.ctx == ctx && x.unit == i && x.msg.type == tDelta)) &&
  !(s.pairs.any (fun p => p.ctx == ctx && match s.region? p.region with
    | some r => (keyInst (r.handKey p.idx false)).val == i
    | none => false)) &&
  !(s.mem.merge.any (fun m => (keyInst m.page).val == i && match s.regionOfKey m.page with
    | some r => r.owner == ctx && r.kind.twoHanded
    | none => false))

/-- Every upper instance is drained for the step, after DRAIN_CLOSE. -/
def State.drainedNow (s : State) (ctx : Nat) : Bool :=
  !s.stepOpen ctx && (List.range 12).all (fun i => s.drainedAt ctx i)

/-! ### Folding -/

/-- Write a fold-buffer entry to its hand (R153, R154): the open hand with the step it folds, C + 1, which is S from the STEP_OPEN on
(R84, R151); while the sweep of its crown runs (R180), the crowned hand with C; and that hand too of a form pass. -/
def State.writeFold (s : State) (f : Fold) : State :=
  let s := { s with folds := s.folds.filter (fun x => !(x.region == f.region && x.idx == f.idx)) }
  match s.region? f.region, s.codedOf f.ctx with
  | some r, some k => match s.crownedHand r f.idx with
    | (s, none) => s
    | (s, some right) =>
      let hand := if f.form || k.sweeping then right else !right
      s.storePage (r.handKey f.idx hand) f.bytes
        { step := if f.form || k.sweeping then k.c else k.c + 1, stripe := f.tag, mask := f.mask, hand := handGen hand,
          attempt := BitVec.ofNat 8 k.attempt }
  | _, _ => s

/-- The least recently folded entry of an instance, when its fold buffer is full (R153). -/
def State.foldVictim (s : State) (i : Fin 16) : Option Fold :=
  let own := s.folds.filter (fun f => match s.region? f.region with
    | some r => decide (keyInst (r.handKey f.idx false) = i)
    | none => false)
  if Config.foldEntries ≤ own.length then own.head? else none

/-- Put a fold-buffer entry in, as the most recently folded. -/
def State.putFold (s : State) (i : Fin 16) (f : Fold) : State :=
  let s := match s.foldVictim i, s.foldOf f.region f.idx with
    | some v, none => s.writeFold v
    | _, _ => s
  { s with folds := s.folds.filter (fun x => !(x.region == f.region && x.idx == f.idx)) ++ [f] }

/-- The entry that a DELTA folds into, or why there is none. -/
inductive FoldGot where
  | entry (f : Fold)
  | wait         -- the crowned hand cannot be served; a demand darn runs (R572)
  | drop         -- the stitch cannot be folded in this step; the DELTA is acknowledged
  deriving DecidableEq, Repr

/-- The fold-buffer entry of a parity stitch: as it stands, by copy-forward on the first DELTA of the step (R152), or loaded
again (R153). A form pass uses the crowned hand (R151). -/
def State.getFold (s : State) (ctx : Nat) (r : Region) (idx : Nat) (form : Bool) : State × FoldGot :=
  match s.foldOf r.num idx with
  | some f => (s, .entry f)
  | none =>
    let x := s.stitch r.num idx
    let i := keyInst (r.handKey idx false)
    let blank : Fold := { ctx := ctx, region := r.num, idx := idx, bytes := zeroPage, tag := 0, mask := 0, form := form }
    if form then match s.readCrowned r idx with
      | (s, .page d rec) => (s, .entry { blank with bytes := d, tag := rec.stripeTag, mask := rec.foldMask })
      | (s, .never) => (s, .entry blank)
      | (s, _) => (s.spoilStep ctx, .drop)
    else if x.fill then (s.demandDarn ctx r idx, .wait)
    else if !x.touch then
      if x.lacks then (if (s.chainFor r.num idx).isSome then (s, .wait) else (s.demandDarn ctx r idx, .wait))
      else match s.crownedOrZero r idx with
        | (s, some (d, rec)) =>
          (s.modStitch r.num idx (fun x => { x with touch := true }), .entry { blank with bytes := d, tag := rec.stripeTag })
        | (s, none) => (s.demandDarn ctx r idx, .wait)
    else match s.crownedHand r idx with
      | (s, none) => (s.spoilStep ctx, .drop)
      | (s, some right) =>
        let s := s.modInst i (fun x => x.modLane (laneIdx (s.codeLane (r.handKey idx false)))
          (fun l => { l with foldMiss := satAdd 32 l.foldMiss 1 }))
        match s.fetchPage (r.handKey idx (!right)) with
        | (s, .page d rec) => (s, .entry { blank with bytes := d, tag := rec.stripeTag, mask := rec.foldMask })
        | (s, .never) => (s, .entry blank)
        | (s, _) => (s.spoilStep ctx, .drop)

/-- The DELTA's answer (R156). -/
def State.ackDelta (s : State) (src : Coord) (w : Wire) (holder : Nat) : State :=
  (s.remember src w).reply src (w.answer tDeltaAck 0 holder)

/-- Hold a DELTA unacknowledged, once. -/
def State.holdDelta (s : State) (src : Coord) (w : Wire) : State :=
  if s.heldDeltas.any (fun p => p.1 == src && p.2 == w) then s else { s with heldDeltas := s.heldDeltas ++ [(src, w)] }

/-- A parity stitch that a failed darn left without content in this step: its DELTAs are acknowledged unfolded (R572). -/
def State.foldFailed (s : State) (ctx : Nat) (r : Region) (idx : Nat) : Bool := match s.codedOf ctx with
  | some k => k.unfolded.contains (r.num, idx)
  | none => false

/-- The darn of a parity stitch has failed with a DELTA of the step waiting: no DELTA of the step is folded into it, and the step's vote is
NO with INTERNAL (R572). -/
def State.leaveUnfolded (s : State) (ctx region idx : Nat) : State :=
  s.modCoded ctx (fun k => { k with badHand := true, unfolded := k.unfolded ++ [(region, idx)] })

/-- No darn can bring a stitch back that lacks content: the glove is LOST, or the stripe has more than four erasures (R198, R417). -/
def State.beyondDarn (s : State) (ctx : Nat) (r : Region) (idx stripe : Nat) : Bool :=
  (s.stitch r.num idx).lacks && (s.chainFor r.num idx).isNone && (match s.gloveOf ctx with
    | some gl => gl.state == .lost || decide (4 < (s.erased ctx gl stripe).length)
    | none => true)

/-- Fold a DELTA into its parity stitch and acknowledge it (R151 to R156, R572, R574). -/
def State.foldDelta (s : State) (src : Coord) (w : Wire) (gl : Glove) (holder : Nat) (r : Region) (idx : Nat)
    (form : Bool) : State :=
  let ctx := w.cCtx
  let stripe := w.bodyField 0x0D 4
  let j := w.bodyField 0x11 1
  let d := w.bodyField 0x12 1
  let tau := BitVec.ofNat 64 (w.bodyField 0x13 8)
  let step : Word := BitVec.ofNat 64 (w.stepField % 2 ^ 56)
  if !form ∧ s.foldFailed ctx r idx then s.ackDelta src w holder
  else match s.getFold ctx r idx form with
    | (s, .wait) => if !form && s.beyondDarn ctx r idx stripe then (s.leaveUnfolded ctx r.num idx).ackDelta src w holder
        else s.holdDelta src w
    | (s, .drop) => s.ackDelta src w holder
    | (s, .entry f) =>
      if f.mask.getLsbD d then s.ackDelta src w holder
      else
        let f := { f with bytes := xorBytes f.bytes (padTo 4096 w.payload),
                          tag := f.tag ^^^ wmul (tagWeight gl.g.tagKey j stripe d) (tau ^^^ step),
                          mask := f.mask ||| ((1 : BitVec 32) <<< d) }
        (s.putFold (keyInst (r.handKey idx false)) f).ackDelta src w holder

/-- STEP_SKEW of a member (R496). -/
def State.skewFault (s : State) (unit id member phase ctx step : Nat) : State :=
  s.raise unit fStepSkew (packWord [(0, id), (16, member), (24, phase), (32, ctx)]) (BitVec.ofNat 64 step)

/-- The difference of two attempt numbers is 1 to 127 (R151). -/
def newerAttempt (a cur : Nat) : Bool := decide (1 ≤ (a + 256 - cur) % 256 ∧ (a + 256 - cur) % 256 ≤ 127)

/-- Decide an accepted DELTA by R151; what is dropped unanswered counts once for all its repeats (R435; log entry 105). -/
def State.decideDelta (s : State) (src : Coord) (w : Wire) : State :=
  match s.gloveOf w.cCtx, s.codedOf w.cCtx with
  | some gl, some k =>
    let stripe := w.bodyField 0x0D 4
    let j := w.bodyField 0x11 1
    if gl.g.m ≤ j ∨ gl.g.stripes ≤ stripe ∨ gl.g.k ≤ w.bodyField 0x12 1 then s.countDrop 4
    else
      let holder := parityHolder gl.g.n gl.g.m stripe j
      match s.seatAt w.cCtx gl holder true (stripe / gl.g.period) with
      | none => s.countDrop 4
      | some (r, idx) =>
        let i := keyInst (r.handKey idx false)
        if w.sub = 2 then s.foldDelta src w gl holder r idx true
        else
          let x := w.stepField % 2 ^ 56
          let a := w.stepField / 2 ^ 56
          let c := k.c.toNat
          if x ≤ c then
            (s.modInst i (fun y => { y with deltaLate := satAdd 32 y.deltaLate 1 })).ackDelta src w holder
          else if c + 2 ≤ x then
            if s.muteRepeat src w then s else (s.skewFault i.val gl.g.id w.cMember 0 w.cCtx w.stepField).note true src w
          else if a = k.attempt then
            if k.sweeping ∨ k.phase = .discarding then s.holdDelta src w
            else s.foldDelta src w gl holder r idx false
          else if newerAttempt a k.attempt then s.holdDelta src w
          else if s.muteRepeat src w then s
          else (s.modInst i (fun y => { y with deltaStale := satAdd 32 y.deltaStale 1 })).note true src w
  | _, _ => s

/-- A DELTA of the open step waits for this parity stitch (R572). -/
def State.deltaWaits (s : State) (ctx region idx : Nat) : Bool := match s.gloveOf ctx, s.codedOf ctx with
  | some gl, some k => s.heldDeltas.any (fun p =>
      let w := p.2
      let stripe := w.bodyField 0x0D 4
      w.cCtx == ctx && w.sub != 2 && w.stepField / 2 ^ 56 == k.attempt && w.stepField % 2 ^ 56 == k.c.toNat + 1 &&
        (match s.seatAt ctx gl (parityHolder gl.g.n gl.g.m stripe (w.bodyField 0x11 1)) true (stripe / gl.g.period) with
        | some (r, i) => r.num == region && i == idx
        | none => false))
  | _, _ => false

/-- Decide every held DELTA again, in order of arrival. -/
def State.retryDeltas (s : State) : State :=
  s.heldDeltas.foldl (fun s p => s.decideDelta p.1 p.2) { s with heldDeltas := [] }

/-- Write back every fold-buffer entry of a context (R151, R180). -/
def State.writeFolds (s : State) (ctx : Nat) : State :=
  (s.folds.filter (fun f => f.ctx == ctx)).foldl (fun s f => s.writeFold f) s

end Sys2Proof.Machine
end

