-- ==== Sys2Proof/Machine/Access.lean ====
section
/-! DEFINITION. Network requests (R70 to R73, R75 to R78, R111, R225, R255, R333): which are refused, which are held, and how
the others are served, the update unit's paired writes among them. -/

namespace Sys2Proof.Machine

/-! ### The table of R70 -/

/-- An area whose palm stitches the update unit writes: STATE, GROUPS, and a hosting area's palm part (R70, R225). -/
def State.isPalm (s : State) (r : Region) (idx : Nat) : Bool := match r.kind with
  | .state | .groups => true
  | .hosting i => match s.gloveOf r.owner with
    | some g => match g.dealOf i with
      | some d => decide (idx < d.palmSlots)
      | none => false
    | none => false
  | _ => false

/-- The source may read the area at this stitch (R70, R111, R225, R255, R333). No promotion of a tile completes before its copy does,
so a frame that is still COPYING is readable by none (R336). -/
def State.mayRead (s : State) (r : Region) (k src ctx : Nat) : Bool :=
  match r.kind with
  | .state | .groups | .tier | .plain | .pass => decide (src ≤ srcPadun)
  | .hosting _ => decide (src ≤ srcPadun) && s.isPalm r (r.stitchOf k).1
  | .pool => (src == srcEngine || src == srcHost) && match s.frameAt k with
    | some f => f.state != .copying && s.ctxHolds ctx f.region f.tile
    | none => false
  | _ => false

/-- The source may write the area (R70, R344, R239, R30): state only by UPDATE in an open step, on a chip that takes state
writes. -/
def State.mayWrite (s : State) (r : Region) (k src : Nat) : Bool :=
  match r.kind with
  | .state | .groups | .hosting _ =>
    src == srcUpdate && s.isPalm r (r.stitchOf k).1 && s.stepOpen r.owner && !s.cu.evac && !s.cu.fwFault
  | .tier => src == srcEngine || src == srcHost || src == srcPadun
  | .plain => decide (src ≤ srcPadun)
  | .pass => decide (src ≤ srcPadun) && src != srcKmc
  | _ => false

/-- The CTX check of R71; the pool's own rule is that of R333. -/
def ctxAllowed (r : Region) (src ctx : Nat) (write : Bool) : Bool :=
  src == srcPadun || src == srcKmc || r.kind == .pool || ctx == r.owner || (!write && r.share)

/-- The whole range lies in the region, and in one hand of a two-handed one (R72). -/
def rangeWhole (r : Region) (off n : Nat) : Bool :=
  decide (off + n ≤ r.base + r.span) &&
    (!r.kind.twoHanded || decide (off + n ≤ r.base + r.len) || decide (r.base + r.len ≤ off))

/-! ### Answers -/

/-- Refuse a request (R70, R500). -/
def State.refuse (s : State) (q : Req) (write : Bool) (cause : Nat) : State :=
  let s := if write then s.emit (.writeDone q.id false) else s.emit (.readData q.id (poison q.len) true)
  s.access (keyInst (offKey q.lower q.addr)).val cause q.src q.ctx (BitVec.ofNat 64 (mkAddr q.lower q.addr))

/-- Hold a request with back-pressure. -/
def State.holdReq (s : State) (q : Req) (write : Bool) (why : Wait) : State :=
  { s with heldReqs := s.heldReqs ++ [{ req := q, write := write, why := why }] }

/-! ### What holds a request -/

/-- A test holds a request of the area (R557): state, a write of a TIER region, and the repair that a read of a lower TIER page needs. -/
def State.testHolds (s : State) (r : Region) (k : Nat) (write : Bool) : Bool :=
  s.testing k && (r.kind.stateArea || (r.kind == .tier && write) || (r.lowerTier && (s.decodePage k).2.1 == .bad))

/-- Why a part of a request waits: the instance is under test (R557), REGION_FILL has not passed the page (R387), or the
stitch is being filled (R212). -/
def State.blocked (s : State) (r : Region) (k : Nat) (write : Bool) : Option Wait :=
  if s.testHolds r k write then some .test
  else if s.fillPending r k then some .filling
  else if r.kind.twoHanded && (s.stitch r.num (r.stitchOf k).1).fill then some .fill
  else none

/-- Start what a blocked part waits for: a demand darn of a stitch whose fill bit is set (R212). -/
def State.startWait (s : State) (r : Region) (k : Nat) (w : Wait) : State :=
  if w = .fill then s.demandDarn r.owner r (r.stitchOf k).1 else s

/-- The first part of a request that waits. -/
def State.firstBlock (s : State) (r : Region) (parts : List (Nat × Nat × Nat × Nat)) (write : Bool) : Option (Nat × Wait) :=
  match parts.find? (fun p => (s.blocked r p.1 write).isSome) with
  | some p => (s.blocked r p.1 write).map (fun w => (p.1, w))
  | none => none

/-! ### Reads -/

/-- The pairing entries of an instance. -/
def State.pairsAt (s : State) (i : Fin 16) : List Pair :=
  s.pairs.filter (fun p => match s.region? p.region with
    | some r => decide (keyInst (r.handKey p.idx false) = i)
    | none => false)

/-- Remove a pairing entry. -/
def State.dropPair (s : State) (p : Pair) : State := { s with pairs := delFirst (fun q => q == p) s.pairs }

/-- Make room for a pairing entry: none where every entry holds a write (R75). -/
def State.roomForPair (s : State) (i : Fin 16) : Option State :=
  let own := s.pairsAt i
  if own.length < Config.pairEntries then some s
  else (own.find? (fun p => p.cover == 0)).map s.dropPair

/-- Keep an UPDATE read's data for pairing (R75). An entry that the same read has made already takes the new data where it stands, and
keeps its age. DESIGN CHOICE: log entry 87. -/
def State.keepRead (s : State) (r : Region) (idx tag : Nat) (d : List Byte) : State :=
  let same := fun (p : Pair) => p.region == r.num && p.idx == idx && p.tag == tag
  match s.pairs.find? same with
  | some p => if p.cover = 0 then { s with pairs := updFirst same (fun q => { q with old := d, cur := d }) s.pairs } else s
  | none => match s.roomForPair (keyInst (r.handKey idx false)) with
    | none => s
    | some s => { s with pairs := s.pairs ++
        [{ ctx := r.owner, region := r.num, idx := idx, tag := tag, old := d, cur := d, cover := 0 }] }

/-- One part of a read: its bytes, and whether they carry the poison indication. -/
def State.readPart (s : State) (r : Region) (q : Req) (k off n : Nat) : State × List Byte × Bool :=
  let bad := fun (s : State) => (s, poison n, true)
  if r.kind.twoHanded then
    let idx := (r.stitchOf k).1
    let pairing := q.src == srcUpdate && s.stepOpen r.owner
    if (s.stitch r.num idx).lacks then bad s
    else match s.readCrowned r idx with
      | (s, .page d _) => (if pairing then s.keepRead r idx q.tag d else s, slice d off n, false)
      | (s, .never) =>
        if pairing then (s.keepRead r idx q.tag zeroPage, List.replicate n 0, false)
        else bad (s.uninitRead (r.handKey idx false) q.src q.ctx)
      | (s, _) => bad s
  else if r.kind.pageCoded then match s.readOneHanded r k off n with
    | (s, .page d _) => (s, slice d off n, false)
    | (s, .never) => bad (s.uninitRead k q.src q.ctx)
    | (s, _) => bad s
  else match s.fetchPass k off n with
    | (s, d, p) => (s, slice d off n, p)

/-- Serve a read that nothing refuses or holds. -/
def State.readParts (s : State) (r : Region) (q : Req) : State :=
  let out := (rangeParts q.lower q.addr q.len).foldl (fun (acc : State × List Byte × Bool) p =>
    match acc.1.readPart r q p.1 p.2.1 p.2.2.2 with
    | (s, d, b) => (s, acc.2.1 ++ d, acc.2.2 || b)) (s, [], false)
  out.1.emit (.readData q.id out.2.1 out.2.2)

/-- Each instance that a state read meets inside the crown guard of its context counts it as it arrives (R179). -/
def State.countGuard (s : State) (q : Req) : State := match s.regionAt q.lower q.addr with
  | none => s
  | some r =>
    if r.kind.twoHanded && s.inGuard r.owner then
      (((rangeParts q.lower q.addr q.len).map (fun p => keyInst p.1)).eraseDups).foldl (fun s i =>
        s.modInst i (fun x => { x with guardRead := satAdd 32 x.guardRead 1 })) s
    else s

/-- A network read is served, held or refused (R70 to R73). -/
def State.serveRead (s : State) (q : Req) : State :=
  if srcPadun < q.src then s.refuse q false 6
  else match s.regionAt q.lower q.addr with
    | none => s.refuse q false 1
    | some r =>
      let parts := rangeParts q.lower q.addr q.len
      if !rangeWhole r q.addr q.len || !ctxAllowed r q.src q.ctx false ||
          !(parts.all (fun p => s.mayRead r p.1 q.src q.ctx)) then s.refuse q false 1
      else match s.firstBlock r parts false with
        | some (k, w) => (s.holdReq q false w).startWait r k w
        | none => s.readParts r q

/-! ### Writes to one-handed areas -/

/-- A write's bytes reach the digest and tally slots of its region when it carries FINAL (R290, R300). -/
def State.observe (s : State) (r : Region) (q : Req) : State :=
  if q.final then s.finalWrite r (q.addr - r.base) q.data else s

/-- One part of an accepted write to a one-handed area; `ids` names the request on its last part. An instance under test has
no merge buffer (R557). -/
def State.writePart (s : State) (r : Region) (k off : Nat) (d : List Byte) (ids : List Nat) : State :=
  let done := fun (s : State) => ids.foldl (fun s id => s.emit (.writeDone id true)) s
  if !r.kind.pageCoded then done (s.storePass k off d)
  else if s.inst[keyInst k].test.running then
    if d.length = 4096 then done ((s.dropMerge k).storePage k d noTags)
    else done ((s.evict k).patchPage k (fun page => overlay page off d))
  else s.writeCoded r k off d ids

/-- Every part of an accepted write. -/
def State.writeParts (s : State) (r : Region) (q : Req) : State :=
  let parts := rangeParts q.lower q.addr q.len
  let last := parts.length - 1
  (parts.zip (List.range parts.length)).foldl (fun s p =>
    s.writePart r p.1.1 p.1.2.1 (slice q.data p.1.2.2.1 p.1.2.2.2) (if p.2 = last then [q.id] else [])) (s.observe r q)

/-! ### Paired writes (R76 to R79) -/

/-- The coverage of `n` bytes from offset `off`. -/
def coverBits (off n : Nat) : BitVec 4096 := BitVec.ofNat 4096 ((2 ^ n - 1) * 2 ^ off)

/-- A write to the stitch is refused: it is closed for the step, its delta having been formed, or its writes carry another tag (R78,
R79). -/
def State.stitchRefuses (s : State) (r : Region) (idx tag : Nat) : Bool :=
  match s.pairOf r.num idx with
  | some p => p.tag != tag
  | none => (s.stitch r.num idx).touch

/-- What the first write of a stitch finds. -/
inductive PairGot where
  | pair (p : Pair)
  | full          -- every entry holds a write (R77)
  | unservable    -- the crowned hand cannot be served (R76)
  deriving DecidableEq, Repr

/-- The pairing entry of a write: the written entry, the entry of its read, or a new one with the crowned hand read into it,
a pair miss (R76). A stitch that lacks content, or whose entry R69 leaves unresolved, takes no write (R69, R76, R381). `force` takes an
entry although every one holds a write (R77 at DRAIN_CLOSE). -/
def State.pairForWrite (s : State) (r : Region) (idx tag : Nat) (force : Bool) : State × PairGot :=
  match s.crownedHand r idx with
  | (s, none) => (s, .unservable)
  | (s, some _) =>
    if (s.stitch r.num idx).lacks then (s, .unservable)
    else match s.pairOf r.num idx with
    | some p => (s, .pair p)
    | none => match s.pairs.find? (fun p => p.region == r.num && p.idx == idx && p.tag == tag) with
      | some p => (s, .pair p)
      | none =>
        let i := keyInst (r.handKey idx false)
        match (if force then some s else s.roomForPair i) with
        | none => (s, .full)
        | some s => match s.crownedOrZero r idx with
          | (s, none) => (s, .unservable)
          | (s, some (d, _)) =>
            let lane := laneIdx (s.codeLane (r.handKey idx false))
            let s := s.modInst i (fun x => x.modLane lane (fun l => { l with pairMiss := satAdd 32 l.pairMiss 1 }))
            let p : Pair := { ctx := r.owner, region := r.num, idx := idx, tag := tag, old := d, cur := d, cover := 0 }
            ({ s with pairs := s.pairs ++ [p] }, .pair p)

/-- The observed gap ends at the first accepted UPDATE write (R556). -/
def State.endGap (s : State) : State :=
  if s.cu.gapOpen then s.modCu (fun c => { c with gapOpen := false, gap := c.lastCrown.map (fun t => s.now - t) }) else s

/-- Put bytes of an open hand into its merge entry. While the lane agent waits, and so forms no delta that would write the stitch, a whole
page and a full entry are written at once (R148, R388, R389). -/
def State.mergeOpen (s : State) (r : Region) (k off : Nat) (d : List Byte) : State :=
  let waits := s.agentWaits (keyInst k)
  if d.length = 4096 then
    let s := s.dropMerge k
    if waits then s.storePage k d (s.openTags r.owner (r.stitchOf k).2) else s
  else
    let s := s.mergeInto k off d []
    match s.mergeOf k with
    | some m => if waits && m.bytes.length == 4096 then s.evictOpen r k m else s
    | none => s

/-- Write bytes into the open hand of a stitch: pairing entry, coverage, touch bit, merge entry (R65, R76, R392); the delta of a stitch
fully written is formed (R79). -/
def State.writeOpen (s : State) (r : Region) (idx off : Nat) (d : List Byte) (p : Pair) : State :=
  let q := { p with cur := overlay p.cur off d, cover := p.cover ||| coverBits off d.length }
  let s := { s with pairs := updFirst (fun x => x == p) (fun _ => q) s.pairs }
  let s := (s.modStitch r.num idx (fun x => { x with touch := true })).endGap
  match s.crownedHand r idx with
  | (s, none) => s
  | (s, some right) =>
    let s := s.mergeOpen r (r.handKey idx (!right)) off d
    if q.full then s.formReady (keyInst (r.handKey idx false)) else s

/-- An update-unit write to a STATE or GROUPS stitch (R76 to R79). The request has passed R70 and waits for nothing else; `again` tells
that it has waited for a pairing entry before, so that its wait has raised PAIR_OVERFLOW (R77). -/
def State.writePalm (s : State) (r : Region) (q : Req) (force again : Bool) : State :=
  let parts := (rangeParts q.lower q.addr q.len).map (fun p => ((r.stitchOf p.1).1, p.2.1, slice q.data p.2.2.1 p.2.2.2))
  if parts.any (fun p => s.stitchRefuses r p.1 q.tag) then s.refuse q true 1
  else
    let got := parts.foldl (fun (acc : State × Option (Nat × PairGot)) p =>
      match acc.2 with
      | some _ => acc
      | none => match acc.1.pairForWrite r p.1 q.tag force with
        | (s, .pair _) => (s, none)
        | (s, g) => (s, some (p.1, g))) (s, none)
    match got with
    | (s, some (_, .unservable)) => (s.spoilStep r.owner).refuse q true 1
    | (s, some (idx, _)) =>
      let k := r.handKey idx false
      let s := s.holdReq q true (.pairing (keyInst k).val)
      if again then s
      else s.raise (keyInst k).val fPairOverflow (packWord [(0, s.codeLane k), (32, r.owner)]) 0
    | (s, none) =>
      let s := (s.observe r q).emit (.writeDone q.id true)
      parts.foldl (fun s p =>
        match s.pairs.find? (fun x => x.region == r.num && x.idx == p.1 && x.tag == q.tag) with
        | some x => s.writeOpen r p.1 p.2.1 p.2.2 x
        | none => s) s

/-- The update unit writes no state of a context whose step and key port disagrees, and none of its writes is taken (R38). -/
def State.updateStopped (s : State) (q : Req) : Bool := q.src == srcUpdate && match s.regionAt q.lower q.addr with
  | some r => (s.codedOf r.owner).any (fun k => !k.portOk)
  | none => false

/-- A network write (R70 to R72, R76). -/
def State.serveWrite (s : State) (q : Req) (again : Bool) : State :=
  if s.updateStopped q then s
  else if srcPadun < q.src then s.refuse q true 6
  else match s.regionAt q.lower q.addr with
    | none => s.refuse q true 1
    | some r =>
      let parts := rangeParts q.lower q.addr q.len
      if !rangeWhole r q.addr q.len || !ctxAllowed r q.src q.ctx true ||
          !(parts.all (fun p => s.mayWrite r p.1 q.src)) then s.refuse q true 1
      else match s.firstBlock r parts true with
        | some (k, w) => (s.holdReq q true w).startWait r k w
        | none => if r.kind.twoHanded then s.writePalm r q false again else s.writeParts r q

/-! ### Held requests -/

/-- The request waits for a pairing entry. -/
def Held.pairs (h : Held) : Bool := match h.why with
  | .pairing _ => true
  | _ => false

/-- Serve a held request again. -/
def State.serveHeld (s : State) (h : Held) : State := if h.write then s.serveWrite h.req h.pairs else s.serveRead h.req

/-- Serve again every held request of the given reasons, in order of arrival; those still blocked are held again. -/
def State.retryHeld (s : State) (why : Wait → Bool) : State :=
  let (go, stay) := s.heldReqs.partition (fun h => why h.why)
  go.foldl (fun s h => s.serveHeld h) { s with heldReqs := stay }

/-- Held requests whose stitch no darn fills any more go on: their stitch has been written, or it lacks content (R198, R212). -/
def State.releaseFills (s : State) : State :=
  let free := fun (h : Held) => h.why == .fill && match s.regionAt h.req.lower h.req.addr with
    | some r => !(s.firstBlock r (rangeParts h.req.lower h.req.addr h.req.len) h.write).any (fun p => p.2 == .fill)
    | none => true
  let (go, stay) := s.heldReqs.partition free
  go.foldl (fun s h => s.serveHeld h) { s with heldReqs := stay }

/-- The first write that waits for a pairing entry of an instance is applied when one is free (R77). -/
def State.applyHeldWrite (s : State) (i : Fin 16) : State :=
  let mine := fun (h : Held) => h.why == .pairing i.val
  match s.heldReqs.find? mine with
  | none => s
  | some h =>
    if (s.roomForPair i).isNone then s
    else ({ s with heldReqs := delFirst mine s.heldReqs }).serveWrite h.req true

/-- At DRAIN_CLOSE every write of the context that waits for a pairing entry is applied before the step closes (R77). -/
def State.applyPairingWrites (s : State) (ctx : Nat) : State :=
  let mine := fun (h : Held) => h.pairs && match s.regionAt h.req.lower h.req.addr with
    | some r => r.owner == ctx
    | none => false
  let (go, stay) := s.heldReqs.partition mine
  go.foldl (fun s h => match s.regionAt h.req.lower h.req.addr with
    | some r => s.writePalm r h.req true true
    | none => s) { s with heldReqs := stay }

/-- When a discard begins, every write still held for the context is refused (R77). -/
def State.refuseHeldWrites (s : State) (ctx : Nat) : State :=
  let mine := fun (h : Held) => h.write && match s.regionAt h.req.lower h.req.addr with
    | some r => r.owner == ctx && r.kind.twoHanded
    | none => false
  let (go, stay) := s.heldReqs.partition mine
  go.foldl (fun s h => s.refuse h.req true 1) { s with heldReqs := stay }

/-! ### Buffers and tables that commands name (R469) -/

/-- The request by which Padun itself reads or writes for a context (R32, R70). -/
def padunReq (ctx : Nat) : Req :=
  { id := 0, src := srcPadun, ctx := ctx, tag := 0, final := false, lower := false, addr := 0, len := 0, data := [] }

/-- Padun reads a buffer or table; none when any byte of it reads as poison. A page that a fill has still to write is written first
(R387). -/
def State.bufferRead (s : State) (ctx a n : Nat) : State × Option (List Byte) :=
  (rangeParts (addrLower a) (addrOff a) n).foldl (fun acc p =>
    let (k, o, _, m) := p
    match acc with
    | (s, none) => (s, none)
    | (s, some d) =>
      let s := s.fillTo k
      match s.regionOfKey k with
      | none => (s, none)
      | some r => match s.readPart r (padunReq ctx) k o m with
        | (s, b, false) => (s, some (d ++ b))
        | (s, _, true) => (s, none)) (s, some [])

/-- Padun writes a buffer as any write of source PADUN: STATE and GROUPS refuse it (R70). -/
def State.bufferWrite (s : State) (a : Nat) (data : List Byte) : State :=
  (rangeParts (addrLower a) (addrOff a) data.length).foldl (fun s p =>
    let (k, o, i, n) := p
    let s := s.fillTo k
    match s.regionOfKey k with
    | none => s
    | some r =>
      if r.kind.twoHanded then s.access (keyInst k).val 1 srcPadun r.owner (BitVec.ofNat 64 a)
      else s.writePart r k o (slice data i n) []) s

end Sys2Proof.Machine
end

