-- ==== Sys2Proof/Machine/Cuff.lean ====
section
/-! DEFINITION. Cuff records and banks (R87 to R91), vote and collective records (R424 to R426), and the fault that goes with
a status (R14). -/

namespace Sys2Proof.Machine

/-! ### The cuff record (R88) -/

/-- The fields of a cuff record. -/
structure Cuff where
  ctx : Nat
  member : Nat
  step : Nat
  time : Nat
  geom : Nat
  glove : Nat
  n : Nat
  m : Nat
  lanes : Nat
  key : BitVec 128
  palm : Nat
  parity : Nat
  groups : List Byte
  digest : List Byte
  tally : List Byte
  deriving DecidableEq, Repr

/-- The 96-byte header of a cuff record. -/
def Cuff.header (c : Cuff) : List Byte :=
  leBytes 4 0x46434450 ++ leBytes 2 1 ++ leBytes 1 c.ctx ++ leBytes 1 c.member ++ leBytes 8 c.step ++ leBytes 8 c.time ++
    leBytes 8 c.geom ++ leBytes 2 c.glove ++ leBytes 1 c.n ++ leBytes 1 c.m ++ leBytes 4 0 ++ leBytes 8 c.lanes ++
    leBytes 16 c.key.toNat ++ leBytes 8 c.palm ++ leBytes 8 c.parity ++ List.replicate 16 0

/-- The 256 bytes of a cuff record (R88, R89). -/
def Cuff.bytes (c : Cuff) : List Byte :=
  let b := c.header ++ invBytes c.header ++ padTo 24 c.groups ++ padTo 16 c.digest ++ padTo 16 c.tally
  b ++ leBytes 8 (crc64 b).toNat

/-- A reader accepts a cuff record (R91). -/
def cuffOk (b : List Byte) : Bool :=
  field b 0 4 == 0x46434450 && field b 4 2 == 1 && slice b 0x60 96 == invBytes (slice b 0 96) &&
    field b 0xF8 8 == (crc64 (slice b 0 0xF8)).toNat

def cuffStep (b : List Byte) : Nat := field b 0x08 8
def cuffTime (b : List Byte) : Nat := field b 0x10 8
def cuffGeom (b : List Byte) : Nat := field b 0x18 8
def cuffN (b : List Byte) : Nat := field b 0x22 1
def cuffM (b : List Byte) : Nat := field b 0x23 1
def cuffLanes (b : List Byte) : Nat := field b 0x28 8
def cuffKey (b : List Byte) : BitVec 128 := BitVec.ofNat 128 (field b 0x30 16)
def cuffGroups (b : List Byte) : BitVec 192 := BitVec.ofNat 192 (field b 0xC0 24)

/-- The bank of a step (R87). -/
def Coded.bankOf (k : Coded) (step : Nat) : List (Nat × List Byte) := if step % 2 = 0 then k.bank0 else k.bank1

/-- The current bank. -/
def Coded.bankNow (k : Coded) : List (Nat × List Byte) := if k.current then k.bankOf k.c.toNat else []

/-- Make a bank current (R87, R181). -/
def Coded.setBank (k : Coded) (step : Nat) (b : List (Nat × List Byte)) : Coded :=
  if step % 2 = 0 then { k with bank0 := b, current := true } else { k with bank1 := b, current := true }

/-- Every record of a bank passes R91; one that does not raises HANDMAP_MISMATCH with value 9 (R499) and is not used. -/
def State.checkBank (s : State) (ctx : Nat) (b : List (Nat × List Byte)) : State × List (Nat × List Byte) :=
  b.foldl (fun acc p =>
    if cuffOk p.2 then (acc.1, acc.2 ++ [p])
    else (acc.1.raise cuUnit fHandmap (packWord [(0, 9), (8, ctx), (32, ctx)]) 0, acc.2)) (s, [])

/-- The member's own cuff record: from the current bank, or the restored one (R274). -/
def Coded.ownCuff (k : Coded) : Option (List Byte) :=
  match k.glove with
  | some g => match Tab.get k.bankNow g.g.me with
    | some b => some b
    | none => k.restored
  | none => k.restored

/-! ### Vote records (R424) -/

/-- The fields of a vote record. -/
structure VoteRec where
  verdict : Nat
  status : Nat
  member : Nat
  hb : Nat
  origin : Nat
  testHold : Nat
  holdUntil : Nat
  drainedAt : Nat
  hbLast : Nat
  tableHash : Nat
  groups : List Byte
  digest : List Byte
  tally : List Byte
  deriving DecidableEq, Repr

def VoteRec.bytes (v : VoteRec) : List Byte :=
  leBytes 1 v.verdict ++ leBytes 1 v.status ++ leBytes 1 v.member ++ leBytes 1 v.hb ++ leBytes 2 v.origin ++
    leBytes 2 v.testHold ++ leBytes 8 v.holdUntil ++ leBytes 8 v.drainedAt ++ leBytes 8 v.hbLast ++
    leBytes 8 v.tableHash ++ padTo 24 v.groups ++ padTo 16 v.digest ++ padTo 16 v.tally

def readVote (b : List Byte) : VoteRec :=
  { verdict := field b 0 1, status := field b 1 1, member := field b 2 1, hb := field b 3 1, origin := field b 4 2,
    testHold := field b 6 2, holdUntil := field b 8 8, drainedAt := field b 0x10 8, hbLast := field b 0x18 8,
    tableHash := field b 0x20 8, groups := slice b 0x28 24, digest := slice b 0x40 16, tally := slice b 0x50 16 }

/-- Verdict codes (R424). -/
def vYes : Nat := 1
def vHold : Nat := 2
def vNo : Nat := 3
def vShare : Nat := 4

/-! ### Collective records (R425) -/

/-- The fields of a 96-byte collective record. -/
structure CollRec where
  verdict : Nat
  status : Nat
  member : Nat
  role : Nat
  c : Nat
  palm : Nat
  layout : Nat
  lanes : Nat
  place : Nat
  tlim : Nat
  groups : List Byte
  deriving DecidableEq, Repr

def CollRec.bytes (r : CollRec) : List Byte :=
  leBytes 1 r.verdict ++ leBytes 1 r.status ++ leBytes 1 r.member ++ leBytes 1 r.role ++ leBytes 4 0 ++ leBytes 8 r.c ++
    leBytes 8 r.palm ++ leBytes 8 r.layout ++ leBytes 8 r.lanes ++ leBytes 8 r.place ++ leBytes 8 r.tlim ++
    padTo 24 r.groups ++ List.replicate 16 0

def readColl (b : List Byte) : CollRec :=
  { verdict := field b 0 1, status := field b 1 1, member := field b 2 1, role := field b 3 1, c := field b 8 8,
    palm := field b 0x10 8, layout := field b 0x18 8, lanes := field b 0x20 8, place := field b 0x28 8,
    tlim := field b 0x30 8, groups := slice b 0x38 24 }

/-- All ones: the sender maps no parity area in the phase (R425). -/
def noLimit : Nat := 2 ^ 64 - 1

/-! ### Payloads (R423, R426) -/

/-- A record payload: the records at their seats' offsets, each of the given size, in 3,072 bytes. -/
def recordArea (size : Nat) (rs : List (Nat × List Byte)) : List Byte :=
  ((List.range (0xC00 / size)).map (fun i => padTo size (Tab.getD rs i []))).flatten

/-- The nonzero records of a payload by seat. -/
def readRecords (size : Nat) (p : List Byte) : List (Nat × List Byte) :=
  ((List.range (0xC00 / size)).map (fun i => (i, slice p (size * i) size))).filter (fun q => (q.2.headD 0) != 0)

/-- The fields of the decision block (R426). -/
structure Block where
  decision : Nat
  status : Nat
  member : Nat
  hb : Nat
  entry : Nat
  time : Nat
  step : Nat
  deriving DecidableEq, Repr

def Block.bytes (b : Block) : List Byte :=
  padTo 96 (leBytes 1 b.decision ++ leBytes 1 b.status ++ leBytes 1 b.member ++ leBytes 1 b.hb ++ leBytes 2 b.entry ++
    leBytes 2 0 ++ leBytes 8 b.time ++ leBytes 8 b.step)

def readBlock (p : List Byte) : Block :=
  { decision := field p 0xC00 1, status := field p 0xC01 1, member := field p 0xC02 1, hb := field p 0xC03 1,
    entry := field p 0xC04 2, time := field p 0xC08 8, step := field p 0xC10 8 }

/-- A CROWN payload: records and decision block. -/
def crownPayload (size : Nat) (rs : List (Nat × List Byte)) (b : Block) : List Byte :=
  padTo 4096 (recordArea size rs ++ b.bytes)

/-- A VOTE payload: records. -/
def votePayload (size : Nat) (rs : List (Nat × List Byte)) : List Byte := padTo 4096 (recordArea size rs)

/-! ### The fault of a status (R14, R496) -/

/-- What the detail words of a status's fault hold: glove or group, member, phase and opcode, cause, and D1. -/
structure FaultInfo where
  id : Nat
  member : Nat
  phase : Nat
  opcode : Nat
  cause : Nat
  step : Nat
  deriving DecidableEq, Repr

/-- The erasure count and LOST_MASK of a context's glove; on a chip that takes a seat, the members that it was told are lost (log
entry 41). -/
def State.lossWords (s : State) (ctx : Nat) : Nat × Word := match s.gloveOf ctx with
  | some gl => (s.erasures ctx gl, BitVec.ofNat 64 gl.lostMask.toNat)
  | none => match Tab.get s.infos ctx with
    | some x => (((List.range 32).filter (fun i => x.lost.getLsbD i)).length, BitVec.ofNat 64 x.lost.toNat)
    | none => (0, 0)

/-- The step field of a context at the finding of a loss (R496). -/
def State.stepWord (s : State) (ctx : Nat) : Word := match s.codedOf ctx with
  | some k => k.stepField
  | none => 0

/-- Raise the fault that has the same name as a status, with the context's details (R14). -/
def State.statusFault (s : State) (ctx status : Nat) (f : FaultInfo) : State :=
  if status = stCollTimeout then
    s.raise cuUnit fCollTimeout (packWord [(0, f.id), (16, f.phase), (32, ctx)]) (BitVec.ofNat 64 f.step)
  else if status = stSkew then s.skewFault cuUnit f.id f.member f.phase ctx f.step
  else if status = stGeometry then
    s.raise cuUnit fGeometry (packWord [(0, f.id), (16, f.member), (24, f.opcode), (32, ctx)]) (BitVec.ofNat 64 f.cause)
  else if status = stLane then
    s.raise cuUnit fLane (packWord [(0, f.id), (16, f.member), (24, f.opcode), (32, ctx)]) s.lanesWord
  else if status = stTestFail then s.raise cuUnit fTest (packWord [(0, 8)]) 0
  else if status = stGloveLoss then
    s.raise cuUnit fGloveLoss (packWord [(0, f.id), (16, (s.lossWords ctx).1), (32, ctx)]) (s.lossWords ctx).2
  else if status = stMemberLost then
    s.raise cuUnit fMemberLost (packWord [(0, f.id), (16, f.member), (24, f.cause), (32, ctx)]) (s.stepWord ctx)
  else s

end Sys2Proof.Machine
end

