-- ==== Sys2Proof/Machine/Hatbox.lean ====
section
/-! DEFINITION. Writing a hatbox (R260 to R265): the content of a piece (R251, R252, R261), the parity chains, the seal record
(R266, R267), the quorum, and abandonment (R263). -/

namespace Sys2Proof.Machine

/-! ### The seal record (R266) -/

/-- The seal record of a slot. -/
def sealBytes (ctx : Nat) (slot : Bool) (h : HbGroup) (step start : Nat) : List Byte :=
  let b := leBytes 4 0x53484450 ++ leBytes 2 1 ++ leBytes 1 ctx ++ leBytes 1 (if slot then 1 else 0) ++ leBytes 2 h.g.id ++
    leBytes 1 h.g.n ++ leBytes 1 h.g.m ++ leBytes 1 h.g.me ++ leBytes 3 0 ++ leBytes 8 step ++ leBytes 8 start ++
    leBytes 8 h.g.tmax ++ leBytes 8 h.seqLen ++ leBytes 8 h.g.geomHash.toNat
  let c := b ++ invBytes b ++ leBytes 8 0
  c ++ leBytes 8 (crc64 c).toNat

/-- A seal record is valid in a slot of a member's group (R267). -/
def sealOk (h : HbGroup) (slot : Bool) (b : List Byte) : Bool :=
  field b 0 4 == 0x53484450 && field b 4 2 == 1 && slice b 0x38 56 == invBytes (slice b 0 56) &&
    field b 0x78 8 == (crc64 (slice b 0 0x78)).toNat && field b 0x30 8 == h.g.geomHash.toNat &&
    field b 8 2 == h.g.id && field b 7 1 == (if slot then 1 else 0)

/-- STEP of a seal record. -/
def sealStep (b : List Byte) : Nat := field b 0x10 8

/-- The step of this member's valid seal in a slot, 0 for none (R270, R271). A never-written seal page is none of the exceptions of
R383. -/
def State.slotSeal (s : State) (ctx : Nat) (h : HbGroup) (slot : Bool) : State × Nat :=
  match s.fetchPage (h.sealKey slot) with
  | (s, .page d _) => (s, if sealOk h slot d then sealStep d else 0)
  | (s, .never) => (s.uninitRead (h.sealKey slot) srcPadun ctx, 0)
  | (s, _) => (s, 0)

/-! ### What a piece holds (R251, R252, R261) -/

/-- What the copy finds at a sequence position. -/
inductive PieceGot where
  | piece (data : List Byte) (tag : Word)
  | filling (r : Region) (idx : Nat)   -- a demand darn of the stitch runs (R212)
  | lacks                               -- the stitch lacks content (R263)
  deriving DecidableEq, Repr

/-- The header stitch (R252). -/
def State.headerStitch (s : State) (ctx : Nat) (k : Coded) : List Byte :=
  padTo 4096 (padTo 256 (k.ownCuff.getD []) ++ leBytes 8 (s.layoutHash ctx).toNat ++ leBytes 8 (s.palmCount ctx) ++
    leBytes 2 (lanesUpper s.lanesWord))

/-- The data piece at a sequence position of the member's palm, as the step that `k` has crowned holds it. -/
def State.pieceAt (s : State) (ctx : Nat) (k : Coded) (pos : Nat) : State × PieceGot :=
  if pos = 0 then (s, .piece (s.headerStitch ctx k) k.c)
  else match seqPalm (lanesUpper s.lanesWord) (s.palmCount ctx) pos with
    | none => (s, .piece zeroPage k.c)
    | some p => match s.palmAt ctx p with
      | none => (s, .piece zeroPage k.c)
      | some (r, idx) =>
        if (s.stitch r.num idx).fill then (s, .filling r idx)
        else if (s.stitch r.num idx).lacks then (s, .lacks)
        else match s.crownedOrZero r idx with
          | (s, some (d, rec)) => (s, .piece d rec.stepTag)
          | (s, none) => (s, .lacks)

/-! ### Start, abandonment and quorum -/

/-- Change the copy of a context's hatbox group. -/
def State.modCopy (s : State) (ctx : Nat) (f : HbCopy → HbCopy) : State :=
  s.modCoded ctx (fun k => k.modHb (fun h => { h with copy := h.copy.map f }))

/-- Drop the hatbox messages of a context that await an answer or their turn. -/
def State.dropHbSent (s : State) (ctx : Nat) : State :=
  (s.dropSent (fun x => x.ctx == ctx && (x.msg.type == tHatbox || x.msg.type == tSeal))).dropQueued
    (fun x => x.ctx == ctx && x.msg.type == tHatbox)

/-- The member's copy is unfinished (R264): it holds no quorum yet. One that has its quorum still serves the chains of the others. -/
def HbGroup.copying (h : HbGroup) : Bool := match h.copy with
  | some c => !c.quorum
  | none => false

/-- RESULT of HATBOX_WRITE in WRITE (R482). -/
def hbResult (step : Nat) (slot : Bool) : Nat := step % 2 ^ 56 + (if slot then 2 ^ 63 else 0)

/-- A HATBOX_WRITE in WRITE whose hatbox has started. -/
def isHbWrite (ctx : Nat) (j : Job) : Bool := match j with
  | .hbWrite c started => c == ctx && started
  | _ => false

/-- Causes of HATBOX_SEAL_FAIL (R496). -/
def hbLost : Nat := 1
def hbLacks : Nat := 2
def hbBound : Nat := 3
def hbAbort : Nat := 4

/-- Abandon the copy (R263, R265): HB_OK clear, HATBOX_SEAL_FAIL, the commands complete SEAL_INCOMPLETE (R259); the member that
abandons sends ABORT with phase HATBOX to the group. A member that had its quorum before keeps HB_OK. DESIGN CHOICE: log entry 95. -/
def State.abandonCopy (s : State) (ctx cause member : Nat) : State :=
  match s.hbOf ctx with
  | none => s
  | some h => match h.copy with
    | none => s
    | some c =>
      let s := s.modCoded ctx (fun k => { (k.modHb (fun h => { h with copy := none })) with hbOk := k.hbOk && c.quorum })
      let s := s.dropHbSent ctx
      let s := s.raise cuUnit fSealFail (packWord [(0, h.g.id), (16, member), (24, cause), (32, ctx)])
        (BitVec.ofNat 64 c.step)
      let s := if cause = hbAbort then s
        else ((List.range h.g.n).filter (fun i => i != h.g.me)).foldl (fun s i =>
          s.send cuUnit ctx i (h.g.coord i) (mkWire tAbort 0 ctx h.g.id h.g.me
            (abortBody c.step 8 stSealIncomplete 0xFF s.now) [])) s
      s.endJobs (isHbWrite ctx) stSealIncomplete (hbResult c.step c.slot) s.now

/-- A hatbox starts at the crown of a decision that carries HB_START (R260): the requests clear, the slot and T are recorded
(R258), and a member of a group zeroes the slot's seal page and starts its copy. -/
def State.startHatbox (s : State) (ctx : Nat) (slot : Bool) (t : Nat) : State :=
  let s := s.modCoded ctx (fun k => { k with hbSlot := slot, hbLast := t, hbReq := false })
  match s.hbOf ctx, s.codedOf ctx with
  | some h, some k =>
    let c : HbCopy := { slot := slot, step := k.c.toNat, start := t, next := 0, parity := 0, sealed := false, seals := [],
                        quorum := false }
    let s := s.storePage (h.sealKey slot) zeroPage noTags
    let s := s.modCoded ctx (fun k => k.modHb (fun h => { h with copy := some c }))
    { s with pends := s.pends.map (fun (p : Pend) => match p.job with
        | .hbWrite n false => if n = ctx then { p with job := .hbWrite n true } else p
        | _ => p) }
  | _, _ => s

/-- The member holds its own seal and a quorum of the group's (R264): HB_OK is set and the commands complete (R259, R265). The copy goes on
serving the chains of members that are not so far (R261). -/
def State.checkQuorum (s : State) (ctx : Nat) : State :=
  match s.hbOf ctx with
  | none => s
  | some h => match h.copy with
    | none => s
    | some c =>
      if c.sealed ∧ !c.quorum ∧ h.g.n - h.g.m ≤ c.seals.length then
        let s := (s.modCopy ctx (fun c => { c with quorum := true })).modCoded ctx (fun k => { k with hbOk := true })
        s.endJobs (isHbWrite ctx) stOk (hbResult c.step c.slot) s.now
      else s

/-! ### Parity chains (R261) -/

/-- The contributors of a hatbox stripe: its data members in ascending order. -/
def Group.dataMembers (g : Group) (stripe : Nat) : List Nat := (List.range g.k).map (dataHolder g.n g.m stripe)

/-- One contribution of this member to the parity piece of seat `j` (R261): `prev` is the sum so far with its tag
accumulator. The last link carries LAST and goes to the holder. -/
def State.hatboxLink (s : State) (ctx : Nat) (h : HbGroup) (stripe j step : Nat) (data : List Byte) (tag : Word)
    (prev : List Byte) (acc : Word) : State :=
  match h.g.seatIn h.g.me stripe with
  | .parity _ => s
  | .data d =>
    let y := gscale (coeff j d) data
    let key := h.pieceKey false false (h.g.roleIn h.g.me stripe).2
    match s.checked (keyInst key) (s.codeLane key) pChain y with
    | (s, none) => s
    | (s, some y) =>
      let holder := parityHolder h.g.n h.g.m stripe j
      let next := (h.g.dataMembers stripe).find? (fun i => decide (h.g.me < i))
      let dst := next.getD holder
      let solve := acc ^^^ wmul (tagWeight h.g.tagKey j stripe d) tag
      let w := mkWire tHatbox 0 ctx h.g.id h.g.me (chainBody (chainWord stripe [holder] step 0 true) solve 0)
        (xorBytes prev y)
      let w := if next.isNone then Wire.seal { w with code := w.code ||| 0x80 } else w
      s.sendRanked rankHatbox (keyInst key).val ctx dst (h.g.coord dst) w

/-- A piece waits while the instance of its slot page, or of its stitch, is under test (R557). -/
def State.pieceTested (s : State) (ctx : Nat) (h : HbGroup) (slot : Bool) (pos : Nat) : Bool :=
  s.testing (h.pieceKey slot false pos) ||
    ((seqPalm (lanesUpper s.lanesWord) (s.palmCount ctx) pos).bind (fun p => s.palmAt ctx p)).any (fun q => s.testing (q.1.handKey q.2 false))

/-- Copy the next position (R261): a data piece goes into the slot; at a stripe whose first contributor is this member, it
starts the chains of the stripe's parity seats. A stitch that is being filled waits; one that lacks content abandons the
copy (R263). -/
def State.copyPiece (s : State) (ctx : Nat) : State :=
  match s.hbOf ctx, s.codedOf ctx with
  | some h, some k => match h.copy with
    | none => s
    | some c =>
      if h.g.tmax * (h.g.period - 1) ≤ c.next ∨ s.cu.fwFault ∨ s.pieceTested ctx h c.slot c.next then s
      else
        let go := fun (s : State) (data : List Byte) (tag : Word) =>
          let s := if c.next < h.seqLen then s.storePage (h.pieceKey c.slot false c.next) data (pieceTags false tag) else s
          let s := s.modCopy ctx (fun c => { c with next := c.next + 1 })
          let stripe := stripeOf h.g.n h.g.m h.g.me c.next
          if (h.g.dataMembers stripe).head? = some h.g.me then
            (List.range h.g.m).foldl (fun s j => s.hatboxLink ctx h stripe j c.step data tag zeroPage 0) s
          else s
        let s := s.useGroup ctx h.g
        if h.seqLen ≤ c.next then go s zeroPage 0
        else match s.pieceAt ctx k c.next with
          | (s, .piece data tag) => go s data tag
          | (s, .filling r idx) => s.demandDarn ctx r idx
          | (s, .lacks) => s.abandonCopy ctx hbLacks h.g.me
  | _, _ => s

/-- This member's piece as it contributes it to a chain: from its palm, or once its own seal is written from the slot, since the next
crown may have moved the palm on (R261, R264). -/
def State.copiedPiece (s : State) (ctx : Nat) (h : HbGroup) (k : Coded) (c : HbCopy) (pos : Nat) : State × PieceGot :=
  if c.sealed then match s.readPiece h c.slot false pos with
    | (s, some (d, t)) => (s, .piece d t)
    | (s, none) => (s, .lacks)
  else s.pieceAt ctx k pos

/-- A HATBOX_PART reaches a contributor or, with LAST, the holder of the parity seat (R261). The answer tells whether it was
acted on and is acknowledged. -/
def State.takeHatboxPart (s : State) (w : Wire) : State × Bool :=
  match s.hbOf w.cCtx, s.codedOf w.cCtx with
  | some h, some k => match h.copy with
    | none => (s, false)
    | some c =>
      if c.step % 4 ≠ w.chStep then (s, false)
      else
        let stripe := w.chStripe
        if w.last then
          match h.g.seatIn h.g.me stripe with
          | .data _ => (s, false)
          | .parity _ =>
            let t := stripe / h.g.period
            if s.testing (h.pieceKey c.slot true t) then (s, false)
            else
              let s := s.storePage (h.pieceKey c.slot true t) w.payload (pieceTags true w.solve)
              (s.modCopy w.cCtx (fun c => { c with parity := c.parity + 1 }), true)
        else
          match h.g.seatIn (w.chSeat 0) stripe, h.g.seatIn h.g.me stripe with
          | .parity j, .data _ =>
            let pos := (h.g.roleIn h.g.me stripe).2
            let s := s.useGroup w.cCtx h.g
            if s.pieceTested w.cCtx h c.slot pos then (s, false)
            else if h.seqLen ≤ pos then (s.hatboxLink w.cCtx h stripe j c.step zeroPage 0 w.payload w.solve, true)
            else match s.copiedPiece w.cCtx h k c pos with
              | (s, .piece data tag) => (s.hatboxLink w.cCtx h stripe j c.step data tag w.payload w.solve, true)
              | (s, .filling r idx) => (s.demandDarn w.cCtx r idx, false)
              | (s, .lacks) => (s.abandonCopy w.cCtx hbLacks h.g.me, false)
          | _, _ => (s, false)
  | _, _ => (s, false)

/-- Every data piece and every parity piece of the copy is written (R264). -/
def HbGroup.written (h : HbGroup) (c : HbCopy) : Bool :=
  decide (h.g.tmax * (h.g.period - 1) ≤ c.next) && decide (h.seqLen ≤ c.next) && decide (h.g.tmax ≤ c.parity)

/-- Write the seal record and send it to the group (R264). -/
def State.writeSeal (s : State) (ctx : Nat) : State :=
  match s.hbOf ctx with
  | none => s
  | some h => match h.copy with
    | none => s
    | some c =>
      if !h.written c ∨ c.sealed ∨ s.cu.fwFault ∨ s.testing (h.sealKey c.slot) then s
      else
        let page := padTo 4096 (sealBytes ctx c.slot h c.step c.start)
        let s := s.storePage (h.sealKey c.slot) page noTags
        let s := s.modCopy ctx (fun c => { c with sealed := true, seals := h.g.me :: c.seals.filter (· != h.g.me) })
        let body := leBytes 8 c.step ++ leBytes 1 (if c.slot then 1 else 0)
        let s := ((List.range h.g.n).filter (fun i => i != h.g.me)).foldl (fun s i =>
          s.send cuUnit ctx i (h.g.coord i) (mkWire tSeal 0 ctx h.g.id h.g.me body page)) s
        s.checkQuorum ctx

/-- A SEAL of another member counts toward the quorum of the copy in progress (R264). -/
def State.takeSeal (s : State) (w : Wire) : State :=
  match s.hbOf w.cCtx with
  | none => s
  | some h => match h.copy with
    | none => s
    | some c =>
      let slot := w.bodyField 0x0D 1 == 1
      if w.stepField = c.step ∧ slot = c.slot ∧ sealOk h slot w.payload ∧ sealStep w.payload = c.step ∧
          field w.payload 0x0C 1 = w.cMember then
        (s.modCopy w.cCtx (fun c => { c with seals := if c.seals.contains w.cMember then c.seals else c.seals ++ [w.cMember] })).checkQuorum
          w.cCtx
      else s

end Sys2Proof.Machine
end

