-- ==== Sys2Proof/Machine/Witness.lean ====
section
/-! DEFINITION. Witnesses in progress (R316 to R323): the digest messages, the arbiter's comparison and report, the suspect's
result, and how each role ends. -/

namespace Sys2Proof.Machine

/-- Roles of R311. -/
def roleMember : Nat := 0
def roleSuspect : Nat := 1
def roleWitness : Nat := 2

/-- The arbiter: the lowest-indexed member other than the suspect (R311). -/
def arbiterOf (suspect : Nat) : Nat := if suspect = 0 then 1 else 0

/-- Change the witness entry of a number and role. -/
def State.modWitness (s : State) (ctx w role : Nat) (f : Witness → Witness) : State :=
  s.modCoded ctx (fun k => { k with witness := k.witness.map (fun (x : Witness) =>
    if x.w == w && x.role == role then f x else x) })

/-- The witness entry of a number and role. -/
def State.witnessOf (s : State) (ctx w role : Nat) : Option Witness :=
  (s.witnesses ctx).find? (fun x => x.w == w && x.role == role)

/-- A WITNESS_ARM of a context, number and role. -/
def isWitnessJob (ctx w role : Nat) (j : Job) : Bool := match j with
  | .witness c v r => c == ctx && v == w && r == role
  | _ => false

/-- The role ends: its command completes, and its fill counts as a darn no longer. -/
def State.endWitness (s : State) (ctx w role status result : Nat) : State :=
  let s := match s.witnessOf ctx w role with
    | some x => { s with darns := s.darns.filter (fun d => !(d.ctx == ctx && d.witness && d.num == x.darn)) }
    | none => s
  (s.modWitness ctx w role (fun x => { x with completed := true })).endJobs (isWitnessJob ctx w role) status result s.now

/-- Result codes of R318. -/
def wAgree : Nat := 0
def wDisagree : Nat := 1
def wSuspectMinority : Nat := 2
def wWitnessMinority : Nat := 3
def wAllDiffer : Nat := 4
def wIncomplete : Nat := 5
def wLost : Nat := 6
def wAbandoned : Nat := 7

/-! ### Digest messages (R316, R422) -/

/-- The rooted slot of a context with a label and HOSTED 0xFF. -/
def State.rootedSlot (s : State) (ctx : Nat) (label : Word) : Option Digest :=
  (s.digests.map (·.2)).find? (fun (g : Digest) => g.root && g.ctx == ctx && g.hosted == 0xFF && g.label == label)

/-- The 24-byte entry of a label (R316, R422). -/
def State.labelEntry (s : State) (ctx : Nat) (label : Word) : List Byte :=
  match s.rootedSlot ctx label with
  | none => leBytes 8 label.toNat ++ List.replicate 16 0
  | some g => leBytes 8 label.toNat ++ leBytes 8 g.value.toNat ++ leBytes 4 (Nat.min g.counted (2 ^ 32 - 1)) ++
      leBytes 1 g.result ++ [1, 0, 0]

/-- The suspect or the witness sends its digests to the arbiter, once (R316). -/
def State.sendDigests (s : State) (ctx : Nat) (x : Witness) : State :=
  if x.sent then s
  else match s.chainGlove ctx with
    | none => s
    | some gl =>
      let arb := arbiterOf x.suspect
      let n := if x.role = roleWitness then x.w else 0
      let body := leBytes 8 x.step ++ leBytes 1 n ++ [0xFF] ++ leBytes 1 x.labels.length
      let page := padTo 4096 ((x.labels.map (s.labelEntry ctx)).flatten)
      let me := if x.role = roleWitness then 0xFE else gl.g.me
      (s.modWitness ctx x.w x.role (fun y => { y with sent := true })).send cuUnit ctx arb (gl.g.coord arb)
        (mkWire tWitness 0 ctx gl.g.id me body page)

/-- At its freeze the suspect sends its digests for every witness of the step; in TRAIL mode its WITNESS_ARM then completes
(R298, R316, R323). -/
def State.suspectFrozen (s : State) (ctx : Nat) : State :=
  ((s.witnesses ctx).filter (fun x => x.role == roleSuspect && !x.completed)).foldl (fun s x =>
    let s := s.sendDigests ctx x
    if x.trail then s.endWitness ctx x.w roleSuspect stOk 0xFF else s) s

/-! ### Comparison (R317 to R319) -/

/-- The entry of a label in a digest payload. -/
def entryAt (page : List Byte) (i : Nat) : List Byte := slice page (24 * i) 24

def entryPresent (e : List Byte) : Bool := field e 21 1 == 1 && field e 20 1 != 1

/-- Two parties agree on a label (R317). -/
def entriesAgree (a b : List Byte) : Bool :=
  field a 21 1 == 1 && field b 21 1 == 1 && field a 20 1 == field b 20 1 && (field a 20 1 == 0 || field a 20 1 == 2) &&
    slice a 8 12 == slice b 8 12

/-- Two parties agree on every label. -/
def pagesAgree (n : Nat) (a b : List Byte) : Bool := (List.range n).all (fun i => entriesAgree (entryAt a i) (entryAt b i))

/-- Every label's slot is present and not incomplete. -/
def pageWhole (n : Nat) (a : List Byte) : Bool := (List.range n).all (fun i => entryPresent (entryAt a i))

/-- The result code (R317, R318): the suspect's page, witness 1's, and witness 2's for w = 2. -/
def compareCode (n : Nat) (x w1 : List Byte) (w2 : Option (List Byte)) : Nat :=
  match w2 with
  | none =>
    if !(pageWhole n x && pageWhole n w1) then wIncomplete
    else if pagesAgree n x w1 then wAgree else wDisagree
  | some v =>
    if !(pageWhole n x && pageWhole n w1 && pageWhole n v) then wIncomplete
    else if pagesAgree n x w1 then wAgree
    else if pagesAgree n w1 v then wSuspectMinority
    else if pagesAgree n x v then wWitnessMinority
    else wAllDiffer

/-- The arbiter's completion for a result (R318). -/
def resultStatus (code : Nat) : Nat :=
  if code = wAgree ∨ code = wWitnessMinority then stOk
  else if code = wDisagree ∨ code = wSuspectMinority then stWitnessDisagree
  else if code = wAllDiffer then stWitnessUnresolved
  else if code = wIncomplete then stPartial
  else if code = wLost then stCollTimeout
  else stBusy

/-- The 40-byte report entry of a label (R319). -/
def reportEntry (label : Word) (x w1 w2 : List Byte) : List Byte :=
  let bit := fun (b : Bool) (i : Nat) => if b then 2 ^ i else 0
  leBytes 8 label.toNat ++ slice x 8 8 ++ slice w1 8 8 ++ slice w2 8 8 ++
    leBytes 8 (bit (entriesAgree x w1) 0 + bit (entriesAgree x w2) 1 + bit (entriesAgree w1 w2) 2 +
      bit (entryPresent x) 8 + bit (entryPresent w1) 9 + bit (entryPresent w2) 10)

/-- Write the report into the arbiter's buffer (R319). -/
def State.writeReport (s : State) (gl : Glove) (x : Witness) (code : Nat) (pages : List Byte × List Byte × List Byte) :
    State :=
  let head := leBytes 8 x.step ++ leBytes 2 gl.g.id ++ leBytes 1 x.suspect ++ leBytes 1 x.w ++ leBytes 1 code ++ leBytes 3 0 ++
    leBytes 4 x.labels.length ++ leBytes 4 0 ++ leBytes 8 s.now ++ List.replicate 32 0
  let rows := (x.labels.zip (List.range x.labels.length)).map (fun p =>
    reportEntry p.1 (entryAt pages.1 p.2) (entryAt pages.2.1 p.2) (entryAt pages.2.2 p.2))
  s.bufferWrite x.report (head ++ rows.flatten)

/-- The arbiter settles a result: report, faults, the message to the suspect and its completion (R318, R496). -/
def State.settleWitness (s : State) (ctx : Nat) (x : Witness) (code status : Nat) : State :=
  match s.gloveOf ctx with
  | none => s
  | some gl =>
    let page := fun (n : Nat) => match (s.witnesses ctx).find? (fun y => y.role == roleMember && (Tab.get y.digests n).isSome) with
      | some y => Tab.getD y.digests n []
      | none => []
    let pages := (page 0, page 1, if x.w = 2 then page 2 else [])
    let s := s.writeReport gl x code pages
    let firstBad := (x.labels.zip (List.range x.labels.length)).find? (fun p =>
      !(entriesAgree (entryAt pages.1 p.2) (entryAt (if x.w = 2 then pages.2.2 else pages.2.1) p.2)) ||
        !(entriesAgree (entryAt pages.1 p.2) (entryAt pages.2.1 p.2)))
    let bad := match firstBad with
      | some p => p.1
      | none => 0
    let d0 := fun (cause res : Nat) => packWord [(0, gl.g.id), (16, x.suspect), (24, cause), (28, res), (32, ctx)]
    let s := if code = wDisagree ∨ code = wSuspectMinority ∨ code = wWitnessMinority ∨ code = wAllDiffer then
      s.raise cuUnit fDigest (d0 1 code) bad else s
    let s := if code = wAllDiffer then s.raise cuUnit fWitness (d0 1 0) (BitVec.ofNat 64 x.step) else s
    let s := s.send cuUnit ctx x.suspect (gl.g.coord x.suspect) (mkWire tWitness 0 ctx gl.g.id gl.g.me
      (leBytes 8 x.step ++ leBytes 1 x.w ++ leBytes 1 code ++ leBytes 1 x.labels.length) [])
    (s.modWitness ctx x.w roleMember (fun y => { y with result := some code })).endWitness ctx x.w roleMember status code

/-- The arbiter compares once it holds the messages of the suspect and of witness w (R318). -/
def State.tryCompare (s : State) (ctx : Nat) : State :=
  match s.gloveOf ctx with
  | none => s
  | some gl =>
    ((s.witnesses ctx).filter (fun x => x.role == roleMember && !x.completed && arbiterOf x.suspect == gl.g.me)).foldl
      (fun s x =>
        let held := fun (n : Nat) => (s.witnesses ctx).findSome? (fun y =>
          if y.role == roleMember && y.suspect == x.suspect && y.step == x.step then Tab.get y.digests n else none)
        match held 0, held 1, held x.w with
        | some a, some b, some c =>
          let code := compareCode x.labels.length a b (if x.w = 2 then some c else none)
          s.settleWitness ctx x code (resultStatus code)
        | _, _, _ => s) s

/-- A WITNESS_DIGEST arrives (R316, R318): digests at the arbiter, or the result at the suspect. -/
def State.takeWitnessDigest (s : State) (w : Wire) : State :=
  let n := w.bodyField 0x0D 1
  let res := w.bodyField 0x0E 1
  if w.len then
    let s := { s with coded := s.coded.map (fun (p : Nat × Coded) => if p.2.ctx != w.cCtx then p else
      (p.1, { p.2 with witness := p.2.witness.map (fun (x : Witness) =>
        if x.role == roleMember && x.step == w.stepField && (n == 0 || x.w == n) then
          { x with digests := Tab.set x.digests n w.payload } else x) })) }
    s.tryCompare w.cCtx
  else s.modWitness w.cCtx n roleSuspect (fun x => if x.step = w.stepField then { x with result := some res } else x)

/-! ### Ends -/

/-- The arbiter tells the witness chip that the step has ended: an ABORT with the phase of the witness (R421; DEDUCED, log entry
31). -/
def State.tellWitness (s : State) (ctx : Nat) (x : Witness) (status : Nat) : State :=
  match s.gloveOf ctx with
  | some gl =>
    if x.role = roleMember ∧ arbiterOf x.suspect = gl.g.me then
      s.send cuUnit ctx 0xFE x.wcoord (mkWire tAbort 0 ctx gl.g.id gl.g.me (abortBody x.step (8 + x.w) status 0xFF s.now) [])
    else s
  | none => s

/-- A step with an armed witness aborts (R320): every role on this chip ends with CROWN_ABORT, and what a witness chip has
asked for is forgotten. -/
def State.abortWitness (s : State) (ctx status : Nat) : State :=
  let s := (s.witnesses ctx).foldl (fun s x => if x.completed then s else
    (s.tellWitness ctx x status).endWitness ctx x.w x.role status 0xFF) s
  if (s.gloveOf ctx).isSome then s else s.stopChains ctx

/-- A witness in TRAIL mode met the crown of its step (R323): every role of it on this chip ends with BUSY, and the arbiter's
result is ABANDONED. -/
def State.abandonWitness (s : State) (ctx w : Nat) : State :=
  let me := match s.gloveOf ctx with
    | some gl => gl.g.me
    | none => 0xFE
  ((s.witnesses ctx).filter (fun x => x.w == w && !x.completed)).foldl (fun s x =>
    if x.role = roleMember ∧ arbiterOf x.suspect = me then s.settleWitness ctx x wAbandoned stBusy
    else s.endWitness ctx x.w x.role stBusy 0xFF) s

/-- A fill has ended (R318): the MEMBER roles but the arbiter's complete; a failed check completes them all with DARN_FAIL, and
the arbiter's result is INCOMPLETE. -/
def State.fillEnded (s : State) (ctx w failed : Nat) : State :=
  match s.gloveOf ctx, s.witnessOf ctx w roleMember with
  | some gl, some x =>
    if x.completed then s
    else
      let s := { s with darns := s.darns.filter (fun d => !(d.ctx == ctx && d.witness && d.num == x.darn)) }
      if arbiterOf x.suspect = gl.g.me then
        if failed = 0 then s else s.settleWitness ctx x wIncomplete stDarnFail
      else s.endWitness ctx w roleMember (if failed = 0 then stOk else stDarnFail) 0xFF
  | _, _ => s

/-- The witness chip is found lost by a contributor (R207): the glove marks no member lost, the roles end. -/
def State.witnessGone (s : State) (ctx : Nat) (at' : Coord) : State :=
  match s.gloveOf ctx with
  | none => s
  | some gl =>
    ((s.witnesses ctx).filter (fun x => x.role == roleMember && !x.completed && x.wcoord == at')).foldl (fun s x =>
      if arbiterOf x.suspect = gl.g.me then s.settleWitness ctx x wLost stCollTimeout
      else s.endWitness ctx x.w roleMember stCollTimeout 0xFF) s

end Sys2Proof.Machine
end

