-- ==== Sys2Proof/Machine/Trial.lean ====
section
/-! DEFINITION. The in-field test of an instance: when it may start, at rest, at a gap, at an overdue crown vote, and how it is
abandoned (R553 to R560). -/

namespace Sys2Proof.Machine

/-- Change the test of an instance. -/
def State.modTest (s : State) (i : Fin 16) (f : Test → Test) : State := s.modInst i (fun x => { x with test := f x.test })

/-- A context of the chip belongs to a glove. -/
def State.anyGlove (s : State) : Bool := s.coded.any (fun p => (s.gloveOf p.2.ctx).isSome)

/-- An instance of the chip is under test (R554). -/
def State.underTest (s : State) : Bool := (List.range 16).any (fun i => s.inst[instIdx i].test.running)

/-- Write out the PLAIN and TIER merge entries of an instance (R553). -/
def State.writeOut (s : State) (i : Fin 16) : State :=
  (s.mem.merge.filter (fun m => keyInst m.page = i ∧ (s.regionOfKey m.page).all (fun r => !r.kind.twoHanded))).foldl
    (fun s m => s.evict m.page) s

/-- The instance is at rest (R553). -/
def State.atRest (s : State) (i : Fin 16) : Bool :=
  s.tracked i == 0 && (s.pairsAt i).isEmpty && !s.mem.merge.any (fun m => keyInst m.page == i)

/-- Start a pending test where CLAMP is clear, no other instance is under test, and the instance is at rest after its merge
entries are written out (R552 to R554). -/
def State.startTest (s : State) (i : Fin 16) : State :=
  let x := s.inst[i].test
  if s.cu.power.clamp ∨ s.underTest ∨ !x.pending ∨ x.running then s
  else
    let s := s.writeOut i
    if s.atRest i then s.modTest i (fun x => { x with running := true }) else s

/-- The pending tests in the order in which they go (R554): the earliest due first, ties to the lower instance. -/
def State.dueTests (s : State) : List (Fin 16) :=
  sortOn (fun i => s.inst[i].test.dueAt) (instNums.filter (fun i => s.inst[i].test.pending && !s.inst[i].test.running))

/-- A coded context is in OPEN to DECIDED (R560). -/
def State.stepping (s : State) : Bool :=
  s.coded.any (fun p => p.2.phase ∈ [Phase.opened, .closed, .voting, .voted, .decided])

/-- Tests that need no gap start: any due one while no context belongs to a glove (R555), and an overdue one while no coded
context is in OPEN to DECIDED (R560). -/
def State.startFree (s : State) : State :=
  (s.dueTests).foldl (fun s i =>
    if !s.anyGlove || (s.inst[i].test.overdue && !s.stepping) then s.startTest i else s) s

/-- Work of any context that keeps a due test from starting at a gap (R556). -/
def State.codingWork (s : State) : Bool :=
  !s.chains.isEmpty || !s.darns.isEmpty || s.hasJob (fun j => match j with
    | .darnStitch .. => true
    | _ => false) || s.coded.any (fun p =>
    p.2.forming || p.2.restore.isSome || p.2.image.isSome || p.2.admission.isSome || (match p.2.hb with
      | some h => h.copying
      | none => false))

/-- The end of a flip sweep is a gap (R556): the first due test starts where the conditions hold, and a gap at which they fail defers every
due test. -/
def State.testGap (s : State) : State :=
  let due := s.dueTests
  let ok := !s.cu.power.clamp && !s.codingWork && (match s.cu.gap with
    | some g => decide (Config.testGap ≤ g)
    | none => false)
  if ok then (match due.head? with
    | some i => s.startTest i
    | none => s)
  else due.foldl (fun s i => s.modTest i (fun x => { x with deferrals := x.deferrals + 1 })) s

/-- An overdue test starts when the crown decision arrives (R559). -/
def State.startOverdue (s : State) : State :=
  ((s.dueTests).filter (fun i => s.inst[i].test.overdue)).foldl (fun s i => s.startTest i) s

/-- A test is overdue on the chip, so the next vote asks for its hold (R559). -/
def State.testOverdue (s : State) : Bool := instNums.any (fun i => s.inst[i].test.overdue)

/-- A test that has not ended by T − G is abandoned and stays overdue (R559). -/
def State.abandonTests (s : State) : State :=
  let s := s.modInsts (fun _ x => if x.test.running && x.test.overdue then { x with test := { x.test with running := false } }
    else x)
  s.retryHeld (fun w => w == .test)

end Sys2Proof.Machine
end

