-- ==== Sys2Proof/Machine/Crown.lean ====
section
/-! DEFINITION. The step cycle at one member: opening and closing a step (R141, R164), discards (R81, R188), the vote and its
tree (R169 to R173), the decision, T and the crown (R174 to R185), and the bounds (R186, R189, R576). -/

namespace Sys2Proof.Machine

/-! ### Discards -/

/-- The step's pending DRAIN_CLOSE of a context. -/
def isDrainJob (ctx : Nat) (j : Job) : Bool := j == .drainClose ctx

def isCrownJob (ctx : Nat) (j : Job) : Bool := j == .crown ctx

/-- RESULT of DRAIN_CLOSE: the delta bytes sent in the step (R468). -/
def Coded.sentBytes (k : Coded) : Nat := (k.sent.map (·.2)).sum

/-- A discard begins (R81, R138): its DELTAs are resent no more, held writes are refused (R77), a pending DRAIN_CLOSE completes
with CROWN_ABORT (R165), and armed witnesses end (R320). -/
def State.beginDiscard (s : State) (ctx stamp : Nat) : State :=
  match s.codedOf ctx with
  | none => s
  | some k =>
    if k.phase = .discarding ∨ k.phase = .crowned then s
    else
      let s := s.modCoded ctx (fun k => { k with phase := .discarding, drained := false })
      let s := s.dropSent (fun x => x.ctx == ctx && x.msg.type == tDelta && x.msg.sub == 0)
      let s := { s with deltas := s.deltas.filter (fun d => d.ctx != ctx || d.form) }
      let s := s.refuseHeldWrites ctx
      let s := s.endJobs (isDrainJob ctx) stCrownAbort k.sentBytes stamp
      s.abortWitness ctx stCrownAbort

/-- The discard of R81 completes: tags zeroed, the touch map cleared, A counted up (R139), and the context is CROWNED. -/
def State.finishDiscard (s : State) (ctx : Nat) : State :=
  let s := (s.discardOpen ctx).discardWeights ctx
  let s := s.modCoded ctx (fun k => { k with
    phase := .crowned, attempt := (k.attempt + 1) % 256, byCrown := false, badHand := false, unfolded := [], drained := false,
    rolling := false, lostInStep := false, groupsHash := 0, hostedHash := [],
    witness := k.witness.filter (fun x => !x.completed) })
  let s := s.endJobs (fun j => j == .rollback ctx) stOk 0 s.now
  s.retryDeltas

/-! ### Opening a step -/

/-- Something withholds the next step of a context (R243, R282, R305). -/
def State.stepWithheld (s : State) (ctx : Nat) (k : Coded) : Bool :=
  (match k.image with
    | some j => !j.isImport && j.source == 0
    | none => false) ||
  s.tallies.any (fun t => t.2.ctx == ctx && t.2.scanning) ||
  (match k.admission with
    | some a => a.handover.isSome
    | none => false)

/-- The band input counts as valid (R141, R567). -/
def State.bandOk (s : State) : Bool := s.cu.band.acquired && s.cu.band.valid && !s.cu.band.fault

/-- STEP_OPEN (R83, R98, R141 to R143, R571). -/
def State.opStepOpen (s : State) (c : Cmd) : State :=
  let ctx := c.ctx
  if !s.ctxOpen ctx then s.post c stBadContext 0
  else match s.codedOf ctx with
    | none => s.post c stBadContext 0
    | some k =>
      let steps := (match s.gloveOf ctx with
        | some g => g.state.steps
        | none => false) || k.asWitness.isSome
      if k.stopped then s.post c stInternal 0
      else if k.phase ≠ .crowned ∧ k.phase ≠ .discarding then s.post c stBadContext 0
      else if !steps then s.post c stBadContext 0
      else if c.u64 16 ≠ k.c.toNat + 1 ∨ 2 ^ 56 ≤ c.u64 16 then s.badParam c 16
      else if k.phase = .discarding ∨ k.sweeping ∨ !s.bandOk ∨ s.stepWithheld ctx k then s.post c stBusy 0
      else
        let start := if c.u64 24 = 0 then s.now else c.u64 24
        let idle := s.coded.all (fun p => p.2.phase == Phase.crowned)
        let s := if idle then s.modCu (fun c => { c with bexliWeight := c.weight }) else s
        let s := s.modCoded ctx (fun k => { k.setS (BitVec.ofNat 64 (c.u64 16)) with
          phase := .opened, drainStart := start, drainDeadline := start + s.cu.drainWindow,
          govTarget := start + s.cu.drainWindow * s.cu.drainTarget / 100, deadlinePast := false, drained := false,
          sent := [], formed := [], lostInStep := false, rolling := false })
        let s := s.restartRooted ctx
        s.post c stOk (c.u64 16)

/-! ### Closing a step -/

/-- DRAIN_CLOSE (R79, R80, R164, R475). -/
def State.opDrainClose (s : State) (c : Cmd) : State :=
  let ctx := c.ctx
  if !s.ctxOpen ctx then s.post c stBadContext 0
  else match s.codedOf ctx with
    | none => s.post c stBadContext 0
    | some k =>
      if k.phase ≠ .opened then s.post c stBadContext 0
      else if c.u64 16 ≠ k.s.toNat then s.badParam c 16
      else
        let s := s.applyPairingWrites ctx
        let s := s.modCoded ctx (fun k => { k with phase := .closed })
        let s := { s with pairs := s.pairs.filter (fun p => p.ctx != ctx || p.cover != 0) }
        (s.formAll).hold c (.drainClose ctx)

/-! ### The vote of one member -/

/-- The coordinates of a crown-table entry. -/
def CrownVote.entryCoord (v : CrownVote) (e : Nat) : Coord := (v.entries.getD e (0, ⟨0, 0, 0⟩)).2

/-- The child entries of this chip's entry (R167). -/
def CrownVote.childEntries (v : CrownVote) : List Nat :=
  ((List.range 8).map (fun i => 8 * v.mine + 1 + i)).filter (fun e => decide (e < v.entries.length))

/-- This chip is the head that its glove's entry names (R168). -/
def CrownVote.isHead (v : CrownVote) (gl : Glove) : Bool := v.entryCoord v.mine == gl.g.coord gl.g.me

/-- The height of an entry in a table of `n` (R172). -/
def entryHeight (n : Nat) : Nat → Nat → Nat
  | 0, _ => 0
  | fuel + 1, e => if 8 * e + 1 < n then 1 + entryHeight n fuel (8 * e + 1) else 0

/-- The close of this chip's window (R172). -/
def CrownVote.close (v : CrownVote) (gl : Glove) : Nat :=
  if v.isHead gl then v.base + entryHeight v.entries.length 8 v.mine * v.d else v.base

/-- The roles in which the chip is the suspect of the step being voted. -/
def Coded.suspectRoles (k : Coded) : List Witness :=
  k.witness.filter (fun x => x.role == roleSuspect && x.step == k.s.toNat)

/-- A witness hold is in force (R320). -/
def Coded.witnessHold (k : Coded) : Bool := k.suspectRoles.any (fun x => !x.trail && x.verdict.isNone)

/-- A hatbox copy of step C is unfinished (R186, R264). -/
def Coded.hatboxHold (k : Coded) : Bool := match k.hb with
  | some h => match h.copy with
    | some c => !c.quorum && decide (c.step = k.c.toNat)
    | none => false
  | none => false

/-- The status of a NO vote that some cause requires now (R170). -/
def State.noCause (s : State) (k : Coded) (v : CrownVote) : Option Nat :=
  if k.stopped ∨ k.badHand then some stInternal
  else if k.rolling then some stBusy
  else if k.lostInStep then some stMemberLost
  else if !s.bandOk then some stBusy
  else if v.skew then some stSkew
  else if v.badTable then some stBadParam
  else if k.suspectRoles.any (fun x => x.verdict == some 1) then some stWitnessDisagree
  else if k.suspectRoles.any (fun x => x.verdict == some 2) then some stWitnessUnresolved
  else none

/-- The hatbox request that the schedule makes (R256). -/
def HbGroup.scheduled (h : HbGroup) (step : Nat) : Bool := decide (0 < h.schedule) && step % h.schedule == 0

/-- The hatbox fields of a member's vote (R257): bits and HB_LAST. -/
def Coded.hbFields (k : Coded) : Nat × Nat := match k.hb with
  | none => (2 + 4, 0)
  | some _ => ((if k.hbReq then 1 else 0) + (if k.hbOk then 2 else 0) + (if k.hbSlot then 4 else 0),
      k.hbLast)

/-- GROUPS_HASH of the record of a member in the current bank, with the change of the open step (R90, R229). -/
def groupsOf (bank : List (Nat × List Byte)) (i : Nat) (change : BitVec 192) : List Byte :=
  let old := match Tab.get bank i with
    | some b => cuffGroups b
    | none => 0
  leBytes 24 (old ^^^ change).toNat

/-- This member's vote record (R169, R424). -/
def State.ownVote (s : State) (gl : Glove) (k : Coded) (v : CrownVote) (verdict status until' : Nat) : VoteRec :=
  { verdict := verdict, status := status, member := gl.g.me, hb := k.hbFields.1, origin := 0, testHold := v.testHold,
    holdUntil := until', drainedAt := v.drainedAt, hbLast := k.hbFields.2, tableHash := v.tableHash.toNat,
    groups := groupsOf k.bankNow gl.g.me k.groupsHash, digest := s.digestRoot k.ctx 0xFF, tally := s.tallyRoot k.ctx 0xFF }

/-- The GROUPS_HASH terms of a hosted share (R90, R229): the XOR over the written GROUPS stitches of a member that this chip hosts, under
the member's palm indices. A stitch that is still to be filled has no content here. DESIGN CHOICE: log entry 26. -/
def State.hostedGroups (s : State) (ctx : Nat) (gl : Glove) (d : Deal) : BitVec 192 :=
  let cells := (List.range d.groups).filterMap (fun p => (s.seatAt ctx gl d.member false p).map (fun q => (p, q.1, q.2)))
  (cells.filter (fun c => !(s.stitch c.2.1.num c.2.2).fill && s.crownedWritten c.2.1 c.2.2)).foldl (fun h c =>
    match s.readCrowned c.2.1 c.2.2 with
    | (_, .page x _) => h ^^^ groupsTerm c.1 x
    | _ => h) 0

/-- The SHARE records of the members that this chip hosts (R229, R423): the terms of its share, with the change of the open step. -/
def State.shareVotes (s : State) (gl : Glove) (k : Coded) : List (Nat × List Byte) :=
  ((List.range gl.g.n).filter (fun i => gl.hosted i)).filterMap (fun i => match gl.dealOf i with
    | none => none
    | some d =>
      let pos := d.pos gl.g.me
      if d.hosts.length ≤ pos then none
      else
        let share := s.hostedGroups k.ctx gl d
        let r : VoteRec :=
          { verdict := vShare, status := 0, member := i, hb := 0, origin := 0, testHold := 0, holdUntil := 0, drainedAt := 0,
            hbLast := 0, tableHash := 0, groups := leBytes 24 (share ^^^ Tab.getD k.hostedHash i 0).toNat,
            digest := s.digestRoot k.ctx i, tally := s.tallyRoot k.ctx i }
        some (i, r.bytes))

/-- The key under which the head keeps a host's share of a hosted member. -/
def shareKey (host member : Nat) : Nat := 64 + 32 * host + member

/-- Keep a member's records: its own, and its shares. -/
def CrownVote.keep (v : CrownVote) (member : Nat) (own : List Byte) (shares : List (Nat × List Byte)) : CrownVote :=
  let recs := Tab.set v.recs member own
  { v with recs := shares.foldl (fun l p => Tab.set l (shareKey member p.1) p.2) recs }

/-- The band time until which the holds in force hold (R186, R320). -/
def State.holdUntil (s : State) (k : Coded) (since : Nat) : Nat :=
  Nat.max (if k.witnessHold then since + s.cu.witnessDeadline else 0) (if k.hatboxHold then since + Config.hatboxHold else 0)

/-- Cast a vote (R170, R298): on the first one the rooted slots freeze. -/
def State.castVote (s : State) (ctx : Nat) (gl : Glove) (verdict : Verdict) (status : Nat) : State :=
  match s.codedOf ctx with
  | none => s
  | some k => match k.vote with
    | none => s
    | some v =>
      let s := if v.cast.isSome then s else ((s.freezeRooted ctx).rootFaults ctx).suspectFrozen ctx
      let scheduled := match k.hb with
        | some h => h.scheduled k.s.toNat
        | none => false
      let k := { k with hbReq := k.hbReq || scheduled }
      let since := v.holdFrom.getD s.now
      let hold := s.holdUntil k since
      let v := { v with testHold := (if s.testOverdue && !s.cu.power.clamp then 700 else 0), cast := some verdict }
      let v := if verdict = .hold then { v with holdFrom := some since, witnessUntil := since + s.cu.witnessDeadline } else v
      let code := match verdict with
        | .yes => vYes
        | .hold => vHold
        | .no => vNo
      let own := (s.ownVote gl k v code status (if verdict = .hold then hold else 0)).bytes
      let v := v.keep gl.g.me own (s.shareVotes gl k)
      let phase := if verdict = .yes then Phase.voted else k.phase
      let s := s.modCoded ctx (fun k => { k with vote := some v, phase := phase, hbReq := k.hbReq || scheduled })
      if verdict = .no ∧ k.phase = .voting then s.beginDiscard ctx s.now else s

/-- Cast what R170 calls for now, in VOTING. FW_FAULT and EVAC cast nothing (R29, R239). -/
def State.tryCast (s : State) (ctx : Nat) : State :=
  match s.codedOf ctx, s.gloveOf ctx with
  | some k, some gl => match k.vote with
    | none => s
    | some v =>
      if k.phase ≠ .voting ∨ v.ended ∨ s.cu.fwFault ∨ s.cu.evac then s
      else match s.noCause k v with
        | some st => s.castVote ctx gl .no st
        | none =>
          if !k.drained then s
          else if k.witnessHold ∨ k.hatboxHold then (if v.cast = some .hold then s else s.castVote ctx gl .hold 0)
          else s.castVote ctx gl .yes 0
  | _, _ => s

/-! ### The tree (R171 to R173) -/

/-- An earlier input may be replaced (R171): YES or HOLD by NO, HOLD by YES. -/
def mayReplace (old new : Nat) : Bool := old == 0 || (old == vHold && new != vHold) || (old != vNo && new == vNo)

/-- The record under which a node keeps its own NO for a missing input (R173). -/
def missingKey : Nat := 40

/-- The inputs of a node: its members' records with their origin filled in, and its child entries' combined records. -/
def CrownVote.inputs (v : CrownVote) : List VoteRec :=
  (v.recs.filter (fun (p : Nat × List Byte) => decide (p.1 ≤ missingKey))).map (fun p =>
    let r := readVote p.2
    if p.1 = missingKey then r else { r with member := p.1, origin := v.mine }) ++ v.kids.map (fun p => readVote p.2)

/-- Every input of a node is present. -/
def CrownVote.complete (v : CrownVote) : Bool :=
  v.parts.all (fun i => (Tab.get v.recs i).isSome) && v.childEntries.all (fun e => (Tab.get v.kids e).isSome)

/-- The hatbox fields of a combined vote (R257): bits and HB_LAST. -/
def combineHb (ins : List VoteRec) : Nat × Nat :=
  let last := (ins.map (·.hbLast)).foldl Nat.max 0
  let slotA := ins.any (fun r => r.hbLast == last && r.hb / 4 % 2 == 0)
  ((if ins.any (fun r => r.hb % 2 == 1) then 1 else 0) + (if ins.all (fun r => r.hb / 2 % 2 == 1) then 2 else 0) +
    (if slotA then 0 else 4), last)

/-- The combined vote of a node (R171), or none while it has none to send. -/
def CrownVote.combined (v : CrownVote) : Option VoteRec :=
  let ins := v.inputs
  let hb := combineHb ins
  let base : VoteRec :=
    { verdict := vYes, status := 0, member := 0, hb := hb.1, origin := 0, testHold := (ins.map (·.testHold)).foldl Nat.max 0,
      holdUntil := 0, drainedAt := (ins.map (·.drainedAt)).foldl Nat.max 0, hbLast := hb.2,
      tableHash := v.tableHash.toNat, groups := [], digest := [], tally := [] }
  let nos := sortOn (fun (r : VoteRec) => r.origin * 256 + r.member) (ins.filter (fun r => r.verdict == vNo))
  match nos with
  | r :: _ => some { base with verdict := vNo, status := r.status, member := r.member, origin := r.origin }
  | [] =>
    let holds := ins.filter (fun r => r.verdict == vHold)
    if !holds.isEmpty then some { base with verdict := vHold, holdUntil := (holds.map (·.holdUntil)).foldl Nat.max 0 }
    else if v.complete then some base
    else none

/-- The records that the head passes to every member with a decision (R182, R423): the members' own, and the combined shares
of each hosted member (R309). -/
def CrownVote.payload (v : CrownVote) (n : Nat) : List (Nat × List Byte) :=
  let own := v.recs.filter (fun (p : Nat × List Byte) => decide (p.1 < 32))
  let shares := fun (i : Nat) => (v.recs.filter (fun (p : Nat × List Byte) => decide (64 ≤ p.1) && p.1 % 32 == i)).map
    (fun p => readVote p.2)
  (List.range n).foldl (fun l i =>
    if (Tab.get own i).isSome then l
    else match shares i with
      | [] => l
      | r :: rs =>
        let x := rs.foldl (fun (a b : VoteRec) =>
          { a with groups := xorBytes a.groups b.groups, digest := addRoots a.digest b.digest,
                   tally := addTally a.tally b.tally }) r
        Tab.set l i x.bytes) own

/-- The key of a context's crown vote in the order of R430. -/
def CrownVote.key (v : CrownVote) (ctx : Nat) : CollKey := { ctx := ctx, step := v.step.toNat, glove := 0xFFFF, phase := 1 }

/-- The order of keys (R430). -/
def keyBelow (a b : CollKey) : Bool :=
  decide (a.ctx < b.ctx) || (a.ctx == b.ctx && (decide (a.step < b.step) || (a.step == b.step &&
    (decide (a.glove < b.glove) || (a.glove == b.glove && decide (a.phase < b.phase))))))

/-- The keys that the chip awaits (R430). -/
def State.awaited (s : State) : List CollKey :=
  (s.colls.filter (fun (c : Coll) => c.sent)).map (fun c => c.key) ++
    s.coded.filterMap (fun p => match p.2.vote with
      | some v => if v.sentUp.isSome && !v.ended then some (v.key p.2.ctx) else none
      | none => none)

/-- A VOTE for the key is held back (R430): the chip awaits a lower key, and the chip itself is a participant of both. -/
def State.heldBack (s : State) (k : CollKey) : Bool := s.awaited.any (fun a => keyBelow a k)

/-- Send a decision to the members of a node's glove and to its child entries (R172, R173, R426). -/
def State.sendDown (s : State) (ctx : Nat) (gl : Glove) (v : CrownVote) (b : Block) : State :=
  let page := crownPayload 96 (v.payload gl.g.n) b
  let s := (v.parts.filter (fun i => i != gl.g.me && !gl.lostMask.getLsbD i)).foldl (fun s i =>
    s.send cuUnit ctx i (gl.g.coord i) (mkWire tCrown 0 ctx gl.g.id gl.g.me (collBody v.step.toNat 1 0xFFFF) page)) s
  v.childEntries.foldl (fun s e =>
    s.send cuUnit ctx 0xFF (v.entryCoord e) (mkWire tCrown 0 ctx 0xFFFF 0xFF (collBody v.step.toNat 1 v.mine)
      (crownPayload 96 [] b))) s

/-! ### The crown at its band time -/

/-- The record of member `i` in the bank that a crown builds (R182): LANES, PALM and PARITY of the form record, and the terms
of its vote. A member that nothing votes for keeps its GROUPS_HASH. -/
def bankRecord (k : Coded) (gl : Glove) (t : Nat) (recs : List (Nat × List Byte)) (i : Nat) : List Byte :=
  let v := match Tab.get recs i with
    | some b => let r := readVote b; (r.groups, r.digest, r.tally)
    | none => (groupsOf k.bankNow i 0, [], [])
  Cuff.bytes
    { ctx := k.ctx, member := i, step := k.s.toNat, time := t, geom := gl.g.geomHash.toNat, glove := gl.g.id, n := gl.g.n,
      m := gl.g.m, lanes := (gl.lanes.getD i 0).toNat, key := k.key, palm := gl.g.palmOf i, parity := gl.g.tmax,
      groups := v.1, digest := v.2.1, tally := v.2.2 }

/-- RESULT of a crowned CROWN (R477). -/
def crownResult (d : Decision) : Nat := if d.hbStart then 1 + (if d.hbSlot then 2 else 0) else 0

/-- A decision whose T and complement are stored in the CU and in each upper instance (R399). -/
def Decision.store (d : Decision) (t : Word) : Decision :=
  { d with t := t, tInv := ~~~t, tInst := List.replicate 12 (t, ~~~t) }

/-- The units whose pair for T disagrees (R399). -/
def Decision.badUnits (d : Decision) : List Nat :=
  ((d.tInst.zip (List.range 12)).filter (fun p => p.1.2 != ~~~p.1.1)).map (·.2) ++ (if d.tInv = ~~~d.t then [] else [cuUnit])

/-- T of a decision in force (R401): the stored value, or the message's where its pair disagrees. -/
def Decision.time (d : Decision) : Option Nat :=
  if d.tInv = ~~~d.t then some d.t.toNat else if d.msgOk then some d.tMsg.toNat else none

/-! ### The handover of an admission begins (R243) -/

/-- The hosting region of the seat under admission on this chip. -/
def State.admitRegion (s : State) (ctx : Nat) : Option (Admission × Glove × Region) :=
  match s.codedOf ctx, s.gloveOf ctx with
  | some k, some gl => match k.admission with
    | some a => if a.isNew then none else ((gl.dealOf a.member).bind (fun d => s.region? d.region)).map (fun r => (a, gl, r))
    | none => none
  | _, _ => none

/-- The hosted stitches of the seat under admission whose copy bit is set. -/
def State.copySet (s : State) (ctx : Nat) : List Nat := match s.admitRegion ctx with
  | some (_, _, r) => (s.stitches.filter (fun (q : Nat × Stitch) => q.1 / 2 ^ 40 == r.num && q.2.copy)).map
      (fun (q : Nat × Stitch) => q.1 % 2 ^ 40)
  | none => []

/-- The handover begins (R243) at a crown at which every host, this one included, reports no copy bit but those the crown set. -/
def State.beginHandover (s : State) (ctx : Nat) : State :=
  match s.codedOf ctx with
  | none => s
  | some k => match k.admission with
    | some a => if a.handover.isSome ∨ a.isNew ∨ !(s.copySet ctx).isEmpty ∨ !s.ev.news.contains (.copiesClear ctx) then s else
      s.modCoded ctx (fun k => { k with admission := k.admission.map (fun a => { a with handover := some k.crownTime }) })
    | none => s

/-- The crown takes effect (R180 to R182, R84, R139): entries are served flipped, C = S, the bank is current, CROWN completes
with the stamp T, a hatbox that the decision starts begins (R258, R260), and so does the handover of an admission that is due (R243). -/
def State.crownNow (s : State) (ctx : Nat) : State :=
  match s.codedOf ctx, s.gloveOf ctx with
  | some k, some _ => match k.decision with
    | none => s
    | some d =>
      let t := (d.time).getD d.t.toNat
      let s := s.checkSteps ctx
      let (s, bank) := s.checkBank ctx d.bank
      let s := s.modCoded ctx (fun k => { ((k.setC k.s).setBank k.s.toNat bank) with
        phase := .crowned, attempt := 0, byCrown := true, expect := k.sent, crownTime := t, sweeping := true,
        drained := false, groupsHash := 0, hostedHash := [], restored := none, lostInStep := false, badHand := false, unfolded := [],
        rolling := false, decision := none, vote := none, witness := k.witness.filter (fun x => !x.completed) })
      let s := s.modCu (fun c =>
        let gap := match c.gapOpen, c.lastCrown with
          | true, some u => some (t - u)
          | _, _ => c.gap
        { c with lastCrown := some t, gapOpen := true, gap := gap })
      let s := s.crownWeights ctx
      let s := s.endJobs (isCrownJob ctx) stOk (crownResult d) t
      (if d.hbStart then s.startHatbox ctx d.hbSlot t else s).beginHandover ctx
  | _, _ => s

/-- The comparison of T with the band count (R399, R401): a pair that disagrees raises HANDMAP_MISMATCH in its unit and takes T from the
decision's message; where that check fails too, the member flips at once. -/
def State.checkT (s : State) (ctx : Nat) : State := match s.codedOf ctx with
  | none => s
  | some k => match k.decision with
    | none => s
    | some d =>
      let bad := d.badUnits
      if bad.isEmpty then s
      else
        let s := bad.foldl (fun s u => s.raise u fHandmap (packWord [(0, 4), (8, ctx), (32, ctx)]) 0) s
        if d.msgOk then s.modCoded ctx (fun k => { k with decision := some (d.store d.tMsg) }) else s.crownNow ctx

/-- Every decided context compares its T (R399, R401). -/
def State.checkTs (s : State) : State := s.coded.foldl (fun s p => s.checkT p.2.ctx) s

/-- T has come (R180): the decided crown takes effect. -/
def State.crownDue (s : State) (ctx : Nat) : State :=
  match s.codedOf ctx with
  | none => s
  | some k => match k.phase, k.decision.bind (fun d => d.time) with
    | .decided, some t => if s.now < t then s else s.crownNow ctx
    | .decided, none => s.crownNow ctx
    | _, _ => s

/-- The crowns whose T has come take effect, so that a read that arrives at T or later meets the new hand (R73). -/
def State.crownsDue (s : State) : State := s.coded.foldl (fun s p => s.crownDue p.2.ctx) s

/-- The sweep reaches a touched entry (R66, R180): an entry that passes its check, or that R69 resolves, takes the flipped value, and its
crowned content is the step's; one left unresolved names no hand. -/
def State.sweepStitch (s : State) (mark : Bool) (r : Region) (idx : Nat) : State := match s.crownedHand r idx with
  | (s, some right) => s.modStitch r.num idx (fun x =>
      { x with hand := handBits right, touch := false, lacks := false, copy := x.copy || mark })
  | (s, none) => s.modStitch r.num idx (fun x => { x with touch := false })

/-- The flip sweep and write-back are done (R64, R183): fold entries written, touched entries flipped, held DELTAs decided. A
hosted stitch of a seat under admission is to be copied again, and copies of it in flight count no longer (R242). -/
def State.finishSweep (s : State) (ctx : Nat) : State :=
  match s.codedOf ctx with
  | none => s
  | some k =>
    if !k.sweeping then s
    else
      let s := s.writeFolds ctx
      let marked := fun (r : Region) => match k.admission with
        | some a => !a.isNew && r.kind == .hosting a.member
        | none => false
      let s := (s.touched ctx).foldl (fun s p => s.sweepStitch (marked p.1) p.1 p.2) s
      let s := s.dropSent (fun x => x.ctx == ctx && x.msg.type == tDarnDone && (match k.admission with
        | some a => !a.isNew && x.msg.chSeat 0 == a.member && x.member == 0xFD
        | none => false))
      let s := s.modCoded ctx (fun k => { k with sweeping := false })
      s.testGap.retryDeltas

/-! ### Decisions -/

/-- An abort of an attempt's vote reaches this member (R188): CROWN_ABORT in the pending CROWN of the step and the fault, stamped
with the root's time (R185), and the discard while that attempt is the running one: a later attempt is not touched (R139, R140). -/
def State.takeAbort (s : State) (ctx : Nat) (step : Word) (status member entry time : Nat) : State :=
  let s := s.modCoded ctx (fun k => k.modVote (fun v => { v with ended := v.ended || v.step == step }))
  let s := s.raiseAt cuUnit fCrownAbort time (packWord [(0, status), (8, member), (16, entry), (32, ctx)]) step
  let s := s.endJobs (isCrownJob ctx) stCrownAbort (status + member * 2 ^ 8 + entry * 2 ^ 16) time
  match s.codedOf ctx with
  | some k => if k.stepField = step then s.beginDiscard ctx time else s
  | none => s

/-- A crown decision reaches this member (R176, R189): DECIDED until T, or the flip at once when T has passed. -/
def State.takeCrown (s : State) (ctx : Nat) (recs : List (Nat × List Byte)) (b : Block) : State :=
  match s.codedOf ctx, s.gloveOf ctx with
  | some k, some gl =>
    if k.phase ≠ .voted ∧ k.phase ≠ .undecided then s
    else
      let t : Word := BitVec.ofNat 64 b.time
      let d : Decision := { t := t, tInv := ~~~t, tMsg := t, msgOk := true, tInst := [], hbStart := b.hb % 2 == 1,
                            hbSlot := b.hb / 4 % 2 == 1,
                            bank := (List.range gl.g.n).map (fun i => (i, bankRecord k gl b.time recs i)) }
      let d := d.store t
      let late := k.phase == .undecided || decide (b.time ≤ s.now)
      let s := s.modCoded ctx (fun k => { (k.modVote (fun v => { v with ended := true })) with
        phase := .decided, decision := some d, lateCrown := if late then satAdd 32 k.lateCrown 1 else k.lateCrown })
      let s := s.endJobs (fun j => j == .rollback ctx) stBusy 0 s.now
      let s := s.modCoded ctx (fun k => { k with rolling := false })
      if b.time ≤ s.now ∨ !s.bandOk then s.crownNow ctx else s.startOverdue
  | _, _ => s

/-- Apply a decision block at this chip, and pass it down where the chip is a node (R172, R173, R189). -/
def State.takeBlock (s : State) (ctx : Nat) (recs : List (Nat × List Byte)) (b : Block) : State :=
  match s.codedOf ctx, s.gloveOf ctx with
  | some k, some gl => match k.vote with
    | none => s
    | some v =>
      if v.ended then s
      else
        let head := v.isHead gl
        let v := if b.decision = 3 then { v with base := Nat.max v.base b.time } else v
        let s := if b.decision = 3 then s.modCoded ctx (fun k => { k with vote := some v }) else s
        let recs := if head then v.payload gl.g.n else recs
        let s := if head then s.sendDown ctx gl v b else s
        if b.decision = 1 then s.takeCrown ctx recs b
        else if b.decision = 2 then s.takeAbort ctx v.step b.status b.member b.entry b.time
        else s
  | _, _ => s

/-- HB_START and its slot in the block of a crown (R258): the root's own group gives the minimum interval. -/
def rootHb (k : Coded) (r : VoteRec) (t : Nat) : Nat :=
  let interval := match k.hb with
    | some h => h.minInterval
    | none => 0
  let slot := if r.hb / 2 % 2 = 1 then 4 - r.hb / 4 % 2 * 4 else r.hb / 4 % 2 * 4
  (if r.hb % 2 = 1 ∧ interval ≤ t - r.hbLast then 1 else 0) + slot

/-- The root decides on a combined vote (R173, R174): NO aborts at once, YES from every input crowns at T, HOLD extends. -/
def State.rootDecide (s : State) (ctx : Nat) (k : Coded) (v : CrownVote) (r : VoteRec) : State :=
  let none' : Block := { decision := 0, status := 0, member := 0, hb := 0, entry := 0, time := 0, step := 0 }
  if r.verdict = vNo then
    s.takeBlock ctx [] { none' with decision := 2, status := r.status, member := r.member, entry := r.origin, time := s.now }
  else if r.verdict = vHold then
    let base := Nat.max v.base (r.holdUntil + v.tmo)
    if base = v.base then s else s.takeBlock ctx [] { none' with decision := 3, time := base }
  else
    let t := s.now + v.d + v.guard + r.testHold * 1000
    s.takeBlock ctx [] { none' with decision := 1, hb := rootHb k r t, time := t }

/-- What a chip of the tree now does (R170 to R173, R428, R430): it casts, and a member sends its VOTE to the head, a node its
combined VOTE to its parent, while no lower key is awaited; the root decides. -/
def State.pumpVote (s : State) (ctx : Nat) : State :=
  let s := s.tryCast ctx
  match s.codedOf ctx, s.gloveOf ctx with
  | some k, some gl => match k.vote with
    | none => s
    | some v =>
      if v.ended ∨ s.cu.fwFault ∨ s.cu.evac then s
      else if v.isHead gl then match v.combined with
        | none => s
        | some r =>
          if v.mine = 0 then
            let s := s.modCoded ctx (fun k => k.modVote (fun v => { v with sentUp := some [] }))
            s.rootDecide ctx k v r
          else
            let page := votePayload 96 [(0, r.bytes)]
            let parent := (v.mine - 1) / 8
            if v.sentUp = some page ∨ s.heldBack (v.key ctx) then s
            else (s.modCoded ctx (fun k => k.modVote (fun v => { v with sentUp := some page }))).send cuUnit ctx 0xFF
              (v.entryCoord parent) (mkWire tVote 0 ctx 0xFFFF 0xFF (collBody v.step.toNat 1 v.mine) page)
      else if v.cast.isNone then s
      else
        let own := (Tab.get v.recs gl.g.me).getD []
        let shares := (v.recs.filter (fun (p : Nat × List Byte) => decide (64 ≤ p.1))).map (fun p => (p.1 % 32, p.2))
        let page := votePayload 96 (Tab.set shares gl.g.me own)
        if v.sentUp = some page ∨ s.heldBack (v.key ctx) then s
        else
          let dst := v.entryCoord v.mine
          (s.modCoded ctx (fun k => k.modVote (fun v => { v with sentUp := some page }))).send cuUnit ctx
            ((gl.g.memberAt dst).getD 0xFF) dst (mkWire tVote 0 ctx gl.g.id gl.g.me (collBody v.step.toNat 1 0xFFFF) page)
  | _, _ => s

/-- Every coded context's vote moves on. -/
def State.pumpVotes (s : State) : State := s.coded.foldl (fun s p => s.pumpVote p.2.ctx) s

/-! ### Received votes and decisions -/

/-- A VOTE of the crown phase for the key this chip votes on reaches its node (R169, R171). -/
def State.takeVote (s : State) (w : Wire) (ctx : Nat) : State :=
  match s.codedOf ctx, s.gloveOf ctx with
  | some k, some gl => match k.vote with
    | none => s
    | some v =>
      if v.ended ∨ !v.isHead gl then s
      else if w.cGlove = 0xFFFF then
        let r := slice w.payload 0 96
        let old := field (Tab.getD v.kids w.entry []) 0 1
        if v.childEntries.contains w.entry ∧ mayReplace old (field r 0 1) then
          s.modCoded ctx (fun k => k.modVote (fun v => { v with kids := Tab.set v.kids w.entry r }))
        else s
      else
        let recs := readRecords 96 w.payload
        match Tab.get recs w.cMember with
        | none => s
        | some own =>
          let old := field (Tab.getD v.recs w.cMember []) 0 1
          if !mayReplace old (field own 0 1) then s
          else
            let shares := recs.filter (fun (p : Nat × List Byte) => field p.2 0 1 == vShare)
            let bad := decide (field own 0x20 8 ≠ v.tableHash.toNat)
            s.modCoded ctx (fun k => k.modVote (fun v =>
              { v.keep w.cMember own shares with badTable := v.badTable || bad }))
  | _, _ => s

/-- A glove member's crown vote carries another S or A (R170): STEP_SKEW. -/
def State.seeSkew (s : State) (w : Wire) (ctx : Nat) : State :=
  match s.codedOf ctx, s.gloveOf ctx with
  | some k, some gl => match k.vote with
    | none => s
    | some v =>
      if v.ended ∨ k.phase ≠ .voting ∨ w.cGlove ≠ gl.g.id ∨ w.stepField = v.step.toNat then s
      else
        let s := s.skewFault cuUnit gl.g.id w.cMember 1 ctx w.stepField
        s.modCoded ctx (fun k => k.modVote (fun v => { v with skew := true }))
  | _, _ => s

/-! ### CROWN and ROLLBACK -/

/-- The entries of a crown or restore table as read from memory, or none where R167 refuses it. -/
def tableEntries (head body : List Byte) : List (Nat × Coord) :=
  (List.range (field head 0 4)).map (fun g =>
    (field body (8 * g) 2, ⟨field body (8 * g + 2) 2, field body (8 * g + 4) 2, field body (8 * g + 6) 2⟩))

/-- Read a crown or restore table from PLAIN memory of the context (R167): its bytes and entries. -/
def State.readTable (s : State) (ctx a : Nat) : State × Option (List Byte × List (Nat × Coord)) :=
  if !s.plainTable ctx a 8 then (s, none)
  else match s.padunRead a 8 ctx with
    | (s, none) => (s, none)
    | (s, some head) =>
      let g := field head 0 4
      if g = 0 ∨ 16384 < g ∨ field head 4 4 ≠ 0 ∨ !s.plainTable ctx a (8 + 8 * g) then (s, none)
      else match s.padunRead (a + 8) (8 * g) ctx with
        | (s, none) => (s, none)
        | (s, some body) => (s, some (head ++ body, tableEntries head body))

/-- A pending CROWN of a step completes with COLLECTIVE_TIMEOUT, status and fault (R14). -/
def State.endCrown (s : State) (ctx : Nat) (step : Word) : State :=
  let s := if s.hasJob (isCrownJob ctx) then s.raise cuUnit fCollTimeout (packWord [(0, 0xFFFF), (16, 1), (32, ctx)]) step else s
  s.endJobs (isCrownJob ctx) stCollTimeout 0 s.now

/-- CROWN (R166 to R169, R476). Kept votes for the key are taken by the caller. -/
def State.opCrown (s : State) (c : Cmd) : State :=
  let ctx := c.ctx
  if !s.ctxOpen ctx then s.post c stBadContext 0
  else match s.codedOf ctx with
    | none => s.post c stBadContext 0
    | some k =>
      if k.stopped then s.post c stInternal 0
      else if k.phase ≠ .closed then s.post c stBadContext 0
      else match s.gloveOf ctx with
        | none => s.post c stBadContext 0
        | some gl => if c.u64 16 ≠ k.s.toNat then s.badParam c 16 else match s.readTable ctx (c.u64 32) with
          | (s, none) => s.badParam c 32
          | (s, some (bytes, entries)) =>
            let own := (List.range entries.length).filter (fun e => (entries.getD e (0, ⟨0, 0, 0⟩)).1 == gl.g.id)
            match own with
            | [e] =>
              let start := if c.u64 24 = 0 then k.drainDeadline else c.u64 24
              let v : CrownVote :=
                { step := k.stepField, parts := gl.live, entries := entries, mine := e, tableHash := sha384Word bytes,
                  base := start + s.cu.voteTimeout, tmo := s.cu.voteTimeout, d := s.cu.crownDist, guard := s.cu.crownGuard,
                  cast := none, holdFrom := none, witnessUntil := 0, testHold := 0,
                  drainedAt := if k.drained then k.drainedAt else 0, recs := [], kids := [], sentUp := none, ended := false,
                  skew := false, badTable := false }
              let s := s.endCrown ctx ((k.vote.map (·.step)).getD v.step)
              (s.modCoded ctx (fun k => { k with phase := .voting, vote := some v })).hold c (.crown ctx)
            | _ => s.badParam c 32

/-- ROLLBACK (R190, R191). -/
def State.opRollback (s : State) (c : Cmd) : State :=
  let ctx := c.ctx
  if !s.ctxOpen ctx then s.post c stBadContext 0
  else match s.codedOf ctx, s.gloveOf ctx with
    | none, _ => s.post c stBadContext 0
    | some k, gl =>
      match k.phase with
      | .crowned => s.post c stOk 0
      | .decided => s.post c stBusy 0
      | .discarding => s.hold c (.rollback ctx)
      | .voting => (s.modCoded ctx (fun k => { k with rolling := true })).hold c (.rollback ctx)
      | .voted =>
        let s := (s.modCoded ctx (fun k => { k with rolling := true })).hold c (.rollback ctx)
        match gl with
        | some gl => if s.cu.evac then s else s.castVote ctx gl .no stBusy
        | none => s
      | .opened | .closed => (s.hold c (.rollback ctx)).beginDiscard ctx s.now
      | .undecided =>
        ((s.modCoded ctx (fun k => k.modVote (fun v => { v with ended := true }))).hold c (.rollback ctx)).beginDiscard ctx s.now

/-! ### Timed events of the step -/

/-- The chip is drained (R157, R165): DRAIN_CLOSE completes; a witness freezes and sends its digests (R316). -/
def State.noteDrained (s : State) (ctx : Nat) : State :=
  match s.codedOf ctx with
  | none => s
  | some k =>
    if (k.phase ≠ .closed ∧ k.phase ≠ .voting) ∨ k.drained ∨ !s.drainedNow ctx then s
    else
      let s := s.modCoded ctx (fun k => { (k.modVote (fun v => { v with drainedAt := s.now })) with
        drained := true, drainedAt := s.now })
      let s := match k.asWitness with
        | some x => (((s.freezeRooted ctx).rootFaults ctx).sendDigests ctx x)
        | none => s
      s.endJobs (isDrainJob ctx) (if s.now ≤ k.drainDeadline then stOk else stDrainLate) k.sentBytes s.now

/-- Delta bytes of the chip not acknowledged for a context (R496). -/
def State.unacked (s : State) (ctx : Nat) : Nat :=
  ((s.sent.filter (fun x => x.ctx == ctx && x.msg.type == tDelta && x.msg.sub == 0)).map (fun x =>
    32 + x.msg.payload.length)).sum +
  ((s.deltas.filter (fun d => d.ctx == ctx && !d.form)).map (fun d => d.seats.length * deltaBytes d.bytes)).sum

/-- A window closes at this chip's node (R173): a missing input becomes a NO. The origin of a missing child entry names no
member. -/
def State.closeVote (s : State) (ctx : Nat) : State :=
  match s.codedOf ctx, s.gloveOf ctx with
  | some k, some gl => match k.vote with
    | none => s
    | some v =>
      if v.ended ∨ !v.isHead gl ∨ s.now < v.close gl ∨ v.complete ∨ s.cu.fwFault ∨ s.cu.evac then s
      else
        let missing := v.parts.find? (fun i => (Tab.get v.recs i).isNone)
        let child := v.childEntries.find? (fun e => (Tab.get v.kids e).isNone)
        let r := (match missing, child with
          | some i, _ => (stMemberLost, i, v.mine)
          | none, some e => (stCollTimeout, 0xFF, e)
          | none, none => (stCollTimeout, 0xFF, v.mine))
        let no : VoteRec := { verdict := vNo, status := r.1, member := r.2.1, hb := 2 + 4, origin := r.2.2, testHold := 0,
                              holdUntil := 0, drainedAt := 0, hbLast := 0, tableHash := v.tableHash.toNat, groups := [],
                              digest := [], tally := [] }
        s.modCoded ctx (fun k => k.modVote (fun v => { v with recs := Tab.set v.recs missingKey no.bytes }))
  | _, _ => s

/-- A VOTED member without a decision by its close plus the vote timeout (R189). -/
def State.passUndecided (s : State) (ctx : Nat) : State :=
  match s.codedOf ctx, s.gloveOf ctx with
  | some k, some gl => match k.vote with
    | none => s
    | some v =>
      if k.phase ≠ .voted ∨ v.ended ∨ s.now < v.close gl + v.tmo then s
      else
        let s := s.modCoded ctx (fun k => { k with phase := .undecided })
        let s := s.raise cuUnit fCollTimeout (packWord [(0, 0xFFFF), (16, 1), (32, ctx)]) v.step
        s.endJobs (isCrownJob ctx) stCollTimeout 0 s.now
  | _, _ => s

/-- A member still in VOTING at its close plus the vote timeout (R576). A member that has cast NO and heard no abort by then
completes CROWN the same way; its discard began with its vote. -/
def State.passVoting (s : State) (ctx : Nat) : State :=
  match s.codedOf ctx, s.gloveOf ctx with
  | some k, some gl => match k.vote with
    | none => s
    | some v =>
      let votes := k.phase == .voting || (v.cast == some .no && k.phase != .voted && k.phase != .undecided)
      if v.ended ∨ s.now < v.close gl + v.tmo ∨ !votes then s
      else
        let s := s.modCoded ctx (fun k => k.modVote (fun v => { v with ended := true }))
        let s := s.raise cuUnit fCollTimeout (packWord [(0, 0xFFFF), (16, 1), (32, ctx)]) v.step
        let s := s.endJobs (isCrownJob ctx) stCollTimeout 0 s.now
        if k.phase = .voting then s.beginDiscard ctx s.now else s
  | _, _ => s

/-- WITNESS_UNRESOLVED of a suspect (R496). -/
def State.unresolved (s : State) (ctx cause : Nat) (gl : Glove) (step : Nat) : State :=
  s.raise cuUnit fWitness (packWord [(0, gl.g.id), (16, gl.g.me), (24, cause), (32, ctx)]) (BitVec.ofNat 64 step)

/-- A witness hold reaches its bound (R186): NO with WITNESS_UNRESOLVED. -/
def State.boundWitness (s : State) (ctx : Nat) : State :=
  match s.codedOf ctx, s.gloveOf ctx with
  | some k, some gl => match k.vote with
    | none => s
    | some v => match v.cast, v.holdFrom with
      | some .hold, some _ =>
        if !k.witnessHold ∨ s.now < v.witnessUntil then s
        else
          let s := s.unresolved ctx 2 gl k.s.toNat
          let s := k.suspectRoles.foldl (fun s x =>
            if x.completed then s else s.endWitness ctx x.w roleSuspect stWitnessUnresolved (x.result.getD 0xFF)) s
          s.modCoded ctx (fun k => { k with witness := k.witness.map (fun (x : Witness) =>
            if x.role == roleSuspect && x.step == k.s.toNat then { x with verdict := some 2 } else x) })
      | _, _ => s
  | _, _ => s

/-- A hatbox hold reaches its bound (R186): the slot is abandoned. -/
def State.boundHatbox (s : State) (ctx : Nat) : State :=
  match s.codedOf ctx, s.gloveOf ctx with
  | some k, some gl => match k.vote with
    | none => s
    | some v => match v.cast, v.holdFrom with
      | some .hold, some since =>
        if !k.hatboxHold ∨ s.now < since + Config.hatboxHold then s
        else s.abandonCopy ctx hbBound gl.g.me
      | _, _ => s
  | _, _ => s

/-- The crown guard of the vote under way, or the register's value `g` (R512). -/
def Coded.voteGuard (k : Coded) (g : Nat) : Nat := match k.vote with
  | some v => v.guard
  | none => g

/-- A test that runs on a crown's hold is abandoned at T − G (R186, R559). -/
def State.boundTest (s : State) (ctx : Nat) : State :=
  match s.codedOf ctx with
  | some k => match k.decision with
    | some d => if s.now + k.voteGuard s.cu.crownGuard < (d.time).getD 0 then s else s.abandonTests
    | none => s
  | none => s

end Sys2Proof.Machine
end

