-- ==== Sys2Proof/Machine/Collective.lean ====
section
/-! DEFINITION. The machinery of the coding collectives other than CROWN and RESTORE (R423, R425 to R433): records and
payloads, starting one, sending a VOTE, deciding, and the closes. What each outcome does stands with its phase. -/

namespace Sys2Proof.Machine

/-! ### Phases (R427) -/

def phForm : Nat := 2
def phDissolve : Nat := 3
def phStandin : Nat := 4
def phAdmit : Nat := 5
def phHbconf : Nat := 6
def phRestore : Nat := 7
def phDarn (n : Nat) : Nat := 0x10 + n
def phWitness (w : Nat) : Nat := 8 + w

/-- The phase runs on collective records of 96 bytes; HBCONF and RESTORE run on group records of 48 (R425). -/
def recordSize (phase : Nat) : Nat := if phase = phHbconf ∨ phase = phRestore then 48 else 96

/-- The seat number under which a witness's guest record is kept (R423). -/
def guestSeat : Nat := 0xFE

/-- The fields of a 48-byte group record of HBCONF (R425). -/
structure GroupRec where
  verdict : Nat
  status : Nat
  member : Nat
  c : Nat
  seq : Nat
  layout : Nat
  place : Nat
  tlim : Nat
  deriving DecidableEq, Repr

def GroupRec.bytes (r : GroupRec) : List Byte :=
  leBytes 1 r.verdict ++ leBytes 1 r.status ++ leBytes 1 r.member ++ leBytes 5 0 ++ leBytes 8 r.c ++ leBytes 8 r.seq ++
    leBytes 8 r.layout ++ leBytes 8 r.place ++ leBytes 8 r.tlim

def readGroup (b : List Byte) : GroupRec :=
  { verdict := field b 0 1, status := field b 1 1, member := field b 2 1, c := field b 8 8, seq := field b 0x10 8,
    layout := field b 0x18 8, place := field b 0x20 8, tlim := field b 0x28 8 }

/-- The payload of a VOTE or CROWN: records by seat, the decision block, and the guest record of a witness. -/
def collPage (phase : Nat) (recs : List (Nat × List Byte)) (b : List Byte) : List Byte :=
  padTo 4096 (recordArea (recordSize phase) recs ++ padTo 96 b ++ padTo 96 (Tab.getD recs guestSeat []))

/-- The records of a payload. -/
def pageRecords (phase : Nat) (p : List Byte) : List (Nat × List Byte) :=
  let guest := slice p 0xC60 96
  readRecords (recordSize phase) p ++
    (if recordSize phase = 96 ∧ guest.headD 0 ≠ 0 then [(guestSeat, guest)] else [])

/-! ### Starting -/

/-- The collective of a key. -/
def State.collOf (s : State) (k : CollKey) : Option Coll := s.colls.find? (fun c => c.key == k)

/-- Change the collective of a key. -/
def State.modColl (s : State) (k : CollKey) (f : Coll → Coll) : State :=
  { s with colls := s.colls.map (fun (c : Coll) => if c.key == k then f c else c) }

/-- Remove the collective of a key. -/
def State.dropColl (s : State) (k : CollKey) : State := { s with colls := s.colls.filter (fun c => c.key != k) }

/-- A chip accepts the command that starts a collective (R428): its record, its participants and its times. A later command
with the key of a collective still under way is not accepted, so no key is ever twice in the list. -/
def State.startColl (s : State) (c : Cmd) (key : CollKey) (group me gatherer : Nat) (parts : List (Nat × Coord))
    (record : List Byte) (place : List Byte) : State :=
  { s with colls := s.colls ++
      [{ key := key, group := group, me := me, gatherer := gatherer, parts := parts, acceptedAt := s.now,
         timeout := s.cu.collTimeout, record := record, recs := [], sent := false, cmd := c, detail := 0xFF, lostBy := lostNotice,
         place := place }] }

/-- A check has failed on this chip: its status, and the packet byte of the field it refused, 0xFF for a check of another kind
(R462). -/
abbrev Failed := Nat × Nat

/-- A field fails a check. -/
def badField (byte : Nat) : Option Failed := some (stBadParam, byte)

/-- A check of another kind fails with a status. -/
def failWith (status : Nat) : Option Failed := some (status, 0xFF)

/-- The collective of a command whose own checks failed keeps the byte for its completion (R462). -/
def State.noteFailed (s : State) (k : CollKey) (f : Option Failed) : State := match f with
  | none => s
  | some x => s.modColl k (fun c => { c with detail := x.2 })

/-- The coordinates of a participant. -/
def Coll.coordOf (c : Coll) (seat : Nat) : Coord := (Tab.get c.parts seat).getD ⟨0, 0, 0⟩

/-- The MEMBER value that this chip's messages of the collective carry (R412): its seat, which for a witness is 0xFE. -/
def Coll.myMember (c : Coll) : Nat := c.me

/-- A participant is marked lost in the glove of the collective. -/
def State.partLost (s : State) (c : Coll) (seat : Nat) : Bool := match s.gloveOf c.key.ctx with
  | some g => g.g.id == c.group && g.lostMask.getLsbD seat && decide (c.coordOf seat = g.g.coord seat)
  | none => false

/-- The completion round of FORM sends its record only when its form pass is done (R574). -/
def CollKey.isRound (k : CollKey) : Bool := k.phase == phForm && k.step == 1

/-! ### Sending -/

/-- Send a VOTE to the gatherer, or count the gatherer's own record, when R430 permits. `ready` is false while the record is
not yet due (R574). -/
def State.sendVote (s : State) (c : Coll) (ready : Bool) : State :=
  if c.sent ∨ !ready ∨ s.heldBack c.key ∨ s.cu.fwFault then s
  else
    let s := s.modColl c.key (fun x => { x with sent := true, recs := if c.me = c.gatherer then Tab.set x.recs c.me c.record else x.recs })
    if c.me = c.gatherer then s
    else s.send cuUnit c.key.ctx c.gatherer (c.coordOf c.gatherer)
      (mkWire tVote 0 c.key.ctx c.group c.myMember (collBody c.key.step c.key.phase 0xFFFF)
        (collPage c.key.phase [(c.me, c.record)] []))

/-- Every record of the collective is gathered. -/
def Coll.complete (c : Coll) : Bool := c.parts.all (fun p => (Tab.get c.recs p.1).isSome)

/-- Send a decision to every other participant not marked lost (R428, R432). -/
def State.sendDecision (s : State) (c : Coll) (b : Block) : State :=
  (c.parts.filter (fun p => p.1 != c.me && !s.partLost c p.1)).foldl (fun s p =>
    s.send cuUnit c.key.ctx p.1 p.2 (mkWire tCrown 0 c.key.ctx c.group c.myMember
      (collBody c.key.step c.key.phase 0xFFFF) (collPage c.key.phase c.recs b.bytes))) s

/-- The block that proceeds, and the block that aborts with a status at a time. -/
def proceedBlock (t : Nat) : Block := { decision := 1, status := 0, member := 0xFF, hb := 0, entry := 0xFFFF, time := t, step := 0 }

def abortBlock (status t : Nat) : Block :=
  { decision := 2, status := status, member := 0xFF, hb := 0, entry := 0xFFFF, time := t, step := 0 }

/-- The decider after the loss of a participant (R432): the gatherer, or the lowest participant not marked lost when the
gatherer is the lost one. -/
def State.decider (s : State) (c : Coll) : Nat :=
  if s.partLost c c.gatherer then ((c.parts.map (·.1)).filter (fun i => !s.partLost c i)).head?.getD c.me else c.gatherer

/-! ### Outcomes from records (R128, R218, R247) -/

/-- The status of the lowest-indexed record that carries one. -/
def firstStatus (recs : List (Nat × List Byte)) : Option (Nat × Nat) :=
  (recs.find? (fun (p : Nat × List Byte) => field p.2 0 1 == 3)).map (fun p => (p.1, field p.2 1 1))

/-- Two records differ in a field of 8 bytes. -/
def differAt (recs : List (Nat × List Byte)) (off : Nat) : Option Nat :=
  match recs with
  | [] => none
  | p :: _ => (recs.find? (fun (q : Nat × List Byte) => field q.2 off 8 != field p.2 off 8)).map (·.1)

/-- The outcome rule of R218 over the records of a collective: a status with the member that gave or broke it, or none. -/
def outcomeOf (tmax : Nat) (recs : List (Nat × List Byte)) : Option (Nat × Nat) :=
  match firstStatus recs with
  | some x => some (x.2, x.1)
  | none => match differAt recs 0x28 with
    | some i => some (stGeometry, i)
    | none => match differAt recs 8 with
      | some i => some (stSkew, i)
      | none => match recs.find? (fun (p : Nat × List Byte) => decide (field p.2 0x30 8 < tmax)) with
        | some p => some (stBadParam, p.1)
        | none => none

/-- The cause that a GEOMETRY_MISMATCH of a collective carries (R496): the coordinates, or on a spare or new chip the layout
hash, of the member that sent it; GEOM_HASH in the completion round; else the placement hashes. -/
def State.geometryCause (s : State) (c : Coll) : Nat :=
  if CollKey.isRound c.key then 4
  else match firstStatus c.recs with
    | none => 2
    | some x =>
      let r := Tab.getD c.recs x.1 []
      let shape := match s.gloveOf c.key.ctx with
        | some g => g.g.shape
        | none => match Tab.get s.infos c.key.ctx with
          | some i => i.shape
          | none => []
      if field r 3 1 = 1 ∧ field r 0x18 8 ≠ field shape (0x18 + 16 * x.1) 8 then 3 else 1

/-- The loss of a participant is the loss of a member of this chip's own glove, which R194 marks, with its MEMBER_LOST, by itself:
in a glove that forms only once it is marked, since the glove ends with the collective (R129; DEDUCED, log entry 41). -/
def State.marksLoss (s : State) (c : Coll) (member : Nat) : Bool := match s.gloveOf c.key.ctx with
  | none => false
  | some gl => gl.g.id == c.group && c.key.phase != phHbconf && c.key.phase != phRestore && decide (member < gl.g.n) &&
      decide (c.coordOf member = gl.g.coord member) && (gl.state != .forming || gl.lostMask.getLsbD member)

/-- Raise the fault of the status with which a collective ends, once on each participant (R14). -/
def State.collFault (s : State) (c : Coll) (status member : Nat) : State :=
  if status = stMemberLost ∧ s.marksLoss c member then s
  else s.statusFault c.key.ctx status
    { id := c.group, member := member, phase := c.key.phase, opcode := c.cmd.opcode,
      cause := if status = stMemberLost then c.lostBy else s.geometryCause c,
      step := if status = stSkew then field (Tab.getD c.recs member []) 8 8 else c.key.step }

/-- DETAIL of a BAD_PARAM with which a collective ends (R462): the field that this chip's own checks refused, or its base where its
own period-count limit broke the outcome rule (R127, R218, R247); 0xFF where another chip's field failed. -/
def Coll.failedByte (c : Coll) (member : Nat) : Nat :=
  if c.detail ≠ 0xFF ∨ member ≠ c.me then c.detail else if c.key.phase = phHbconf then 40 else 32

/-- Complete the command of a collective with a status and stamp, and raise the fault of that name (R14, R462). -/
def State.endColl (s : State) (c : Coll) (status member stamp result : Nat) : State :=
  (s.collFault c status member).postAt c.cmd status result (if status = stBadParam then c.failedByte member else 0xFF) stamp

end Sys2Proof.Machine
end

