-- ==== Sys2Proof/Machine/Contexts.lean ====
section
/-! DEFINITION. Contexts and regions: CTX_OPEN and CTX_CLOSE (R51, R470, R471), REGION_MAP and REGION_UNMAP (R52 to R57, R472,
R473), REGION_FILL (R386, R387), the areas that other commands map, and the quota settings of QUOTA_SET (R331, R347). -/

namespace Sys2Proof.Machine

/-! ### Areas -/

/-- Map an area (R52, R63, R382): its pages are never-written and its entries are as mapped. A kind without page records keeps
its bytes. -/
def State.addRegion (s : State) (r : Region) : State :=
  let s := if r.kind.pageCoded then s.neverPages (offKey r.lower r.base) (r.span / 4096) else s
  ({ s with regions := s.regions ++ [r] }.dropStitches r.num).bump

/-- A region or area with no key, no sharing and no notices. -/
def areaOf (num : Nat) (kind : Kind) (lower : Bool) (owner base len : Nat) : Region :=
  { num := num, kind := kind, lower := lower, owner := owner, base := base, len := len, key := 0, keyInv := ~~~(0 : Word),
    share := false, noticeRing := 0xFFFF, unmapping := false, fill := none }

/-- Write out what Padun still buffers for a region: merge entries and queued 3 + 1 deltas. -/
def State.flushRegion (s : State) (r : Region) : State :=
  let inside := fun (k : Nat) => match s.regionOfKey k with
    | some q => q.num == r.num
    | none => false
  let s := (s.mem.merge.filter (fun m => inside m.page)).foldl (fun s m => s.evict m.page) s
  (((s.tierFolds.filter (fun f => inside f.page)).map (·.page)).eraseDups).foldl (fun s k => s.foldNow k) s

/-- Every instance drops a region (R64, R287, R350, R473): its entries, buffers, slots, idle frames and quarantines go, and its
number is free. Its bytes and records stay. -/
def State.removeRegion (s : State) (num : Nat) : State :=
  match s.region? num with
  | none => s
  | some r =>
    let s := s.flushRegion r
    let s := s.dropStitches num
    { s with regions := s.regions.filter (fun q => q.num != num),
             pairs := s.pairs.filter (fun p => p.region != num),
             folds := s.folds.filter (fun f => f.region != num),
             chains := s.chains.filter (fun c => c.hb || c.region != num),
             frames := s.frames.filter (fun f => f.region != num),
             lostPages := s.lostPages.filter (fun p => p.1 != num),
             digests := s.digests.filter (fun p => !(p.2.kind == 1 && p.2.region == num)),
             tallies := s.tallies.filter (fun p => !(p.2.source == 0 && p.2.region == num)) }

/-! ### Buffers and tables that commands name (R469) -/

/-- A region that REGION_MAP can name (R473). -/
def Kind.mappable : Kind → Bool
  | .state | .groups | .tier | .plain | .pass => true
  | _ => false

/-- The buffer or table lies in a region of the context (R469). -/
def State.bufferOk (s : State) (ctx a n : Nat) : Bool := s.inOne (fun r => r.kind.mappable && r.owner == ctx) a n

/-! ### CTX_OPEN and CTX_CLOSE -/

/-- A coded context as CTX_OPEN makes it (R470): CROWNED with C = S = STEP. -/
def Coded.opened (ctx : Nat) (step : Word) (key : BitVec 128) : Coded :=
  { ctx := ctx, c := step, cInv := ~~~step, s := step, sInv := ~~~step, port := step, portInv := ~~~step, key := key,
    attempt := 0, phase := .crowned, stopped := false, found := [], lossSeen := false, crownTime := 0, drainStart := 0, drainDeadline := 0, govTarget := 0,
    deadlinePast := false, drained := false, drainedAt := 0, byCrown := false, expect := [], sent := [], formed := [],
    badHand := false, unfolded := [], lostInStep := false, rolling := false, sweeping := false, vote := none,
    decision := none, bank0 := [], bank1 := [], current := false, restored := none, restoredSlot := none, snapshot := [], lateCrown := 0,
    groupsHash := 0, hostedHash := [], glove := none, hb := none, hbSlot := false, hbLast := 0, hbOk := true, hbReq := false,
    forming := false, witness := [], admission := none, restore := none, image := none }

/-- The lowest free context block (R470, R516). -/
def State.freeBlock (s : State) : Option Nat := (List.range 4).find? (fun b => (Tab.get s.coded b).isNone)

/-- CTX_OPEN (R51, R465, R470). A context number that the CU has stopped stays stopped until the chip is reset (R400). -/
def State.opCtxOpen (s : State) (c : Cmd) : State :=
  let ctx := c.ctx
  let again := s.pends.any (fun p => p.job == .deferred && p.cmd.opcode == 1 && p.cmd.ctx == ctx &&
    !(p.cmd.ring == c.ring && p.cmd.count == c.count))
  if again then s.post c stBusy 0
  else match Tab.get s.ctxs ctx with
  | some x => if x.closing then s.postDeferred c .deferred else s.post c stBadContext 0
  | none =>
    let coded := c.modeBit 0
    let block := s.freeBlock
    if coded && block.isNone then s.post c stBadContext 0
    else if !coded && (c.u64 16 != 0 || c.u64 24 != 0) then s.badParam c 16
    else if 2 ^ 56 ≤ c.u64 32 ∨ (!coded && c.u64 32 != 0) then s.badParam c 32
    else
      let s := { s with ctxs := Tab.set s.ctxs ctx { closing := false, coded := coded, upper := 0, lowerQ := 0 } }
      let s := match coded, block with
        | true, some b =>
          let k := { Coded.opened ctx (BitVec.ofNat 64 (c.u64 32)) (BitVec.ofNat 128 (field c.bytes 16 16)) with
            stopped := s.cu.stoppedCtxs.contains ctx }
          { s with coded := Tab.set s.coded b k }
        | _, _ => s
      s.post c stOk 0

/-- Work of a context that keeps it from closing (R471). -/
def State.ctxBusy (s : State) (ctx : Nat) : Bool := match s.codedOf ctx with
  | some k => k.witness.any (fun x => !x.completed) || k.restore.isSome || k.image.any (fun j => !j.isImport) ||
      k.hb.any HbGroup.copying
  | none => false

/-- CTX_CLOSE (R471): the context is CLOSING until its earlier commands have ended. -/
def State.opCtxClose (s : State) (c : Cmd) : State :=
  let ctx := c.ctx
  if !s.ctxOpen ctx ∨ (s.gloveOf ctx).isSome then s.post c stBadContext 0
  else if s.ctxBusy ctx then s.post c stBusy 0
  else
    let s := match Tab.get s.ctxs ctx with
      | some x => { s with ctxs := Tab.set s.ctxs ctx { x with closing := true } }
      | none => s
    s.hold c (.ctxClose ctx)

/-- Everything of a context is released (R350, R471). -/
def State.releaseCtx (s : State) (ctx : Nat) : State :=
  let s := ((s.brims.filter (fun b => b.ctx == ctx)).map (·.num)).foldl (fun s n => s.closeBrim n) s
  let s := (s.tileRefs.filter (fun r => r.holder == .direct ctx)).foldl
    (fun s r => (s.dropPromo r.holder r.region r.tile).dropRef r.holder r.region r.tile) s
  let s := ((s.regions.filter (fun r => r.owner == ctx && r.kind != .pool)).map (·.num)).foldl
    (fun s n => s.removeRegion n) s
  let s := match s.codedOf ctx with
    | some k => if k.stopped then s.modCu (fun c => { c with stoppedCtxs := ctx :: c.stoppedCtxs.filter (· != ctx) }) else s
    | none => s
  { s with digests := s.digests.filter (fun p => p.2.ctx != ctx), tallies := s.tallies.filter (fun p => p.2.ctx != ctx),
           ctxs := Tab.del s.ctxs ctx, coded := s.coded.filter (fun p => p.2.ctx != ctx),
           infos := Tab.del s.infos ctx }

/-- Close one context whose earlier commands, deferred ones among them, have all ended (R471). -/
def State.settleClose (s : State) (p : Pend) : State := match p.job with
  | .ctxClose ctx =>
    let before := s.pends.takeWhile (fun q => !(q.cmd.ring == p.cmd.ring && q.cmd.count == p.cmd.count))
    let earlier := before.any (fun q => q.cmd.ctx == ctx && actsOnCtx q.cmd)
    if earlier then s else (s.releaseCtx ctx).post p.cmd stOk 0
  | _ => s

/-- Every CLOSING context that can be closed is closed. -/
def State.settleCloses (s : State) : State := s.pends.foldl (fun s p => s.settleClose p) s

/-! ### REGION_MAP -/

/-- The types of REGION_MAP (R53). -/
def kindOf (t : Nat) : Option Kind :=
  match t with
  | 1 => some .state
  | 2 => some .groups
  | 3 => some .tier
  | 4 => some .plain
  | 5 => some .pass
  | _ => none

/-- The ring's descriptor names another context as OWNER (R472, R474). -/
def State.foreignRing (s : State) (ring ctx : Nat) : Bool :=
  if ring = 0xFFFF then false
  else match s.readDesc ring with
    | (_, some d) => descField d 0x21 1 != ctx
    | (_, none) => false

/-- A page of the range lies on an instance that is OFF (R530). -/
def State.onDeadInst (s : State) (lower : Bool) (base len : Nat) : Bool :=
  (List.range (Nat.min 12 (len / 4096))).any (fun i => s.inst[keyInst (offKey lower (base + i * 4096))].en == .off)

/-- The region that a REGION_MAP asks for. -/
def mapRequest (c : Cmd) (kind : Kind) (num : Nat) : Region :=
  { num := num, kind := kind, lower := c.modeBit 4, owner := c.ctx, base := c.u64 16, len := c.u64 24,
    key := BitVec.ofNat 64 (c.u64 32), keyInv := ~~~(BitVec.ofNat 64 (c.u64 32)), share := c.modeBit 3,
    noticeRing := c.u16 40, unmapping := false, fill := none }

/-- The first parameter byte of a REGION_MAP that breaks R52, R55, R56, R326 or R330, or places a page on a dead instance. -/
def State.mapBad (s : State) (c : Cmd) (r : Region) : Option Nat :=
  let own := fun (p : Kind → Bool) => ((s.regions.filter (fun q => q.owner == c.ctx && p q.kind)).map (·.len)).sum
  let two := r.kind.twoHanded
  let bases := if two then Config.handAlign else if r.kind = .tier then 262144 else 4096
  let lens := if two then Config.handAlign else if r.kind = .tier then (if r.lower then 786432 else 262144) else 4096
  if two && r.lower then some 3
  else if r.base % bases ≠ 0 then some 16
  else if r.len = 0 ∨ r.len % lens ≠ 0 then some 24
  else if tierBytes r.lower < r.base + r.span then some 24
  else if s.rangeTaken r.lower r.base r.span (fun _ => false) then some 16
  else if two && decide (Config.palmMax < own (fun k => k == .state || k == .groups) + r.len) then some 24
  else if r.kind == .groups && decide (Config.groupsMax < own (fun k => k == .groups) + r.len) then some 24
  else if s.foreignRing r.noticeRing c.ctx then some 40
  else if s.onDeadInst r.lower r.base r.span then some 16
  else none

/-- The regions being unmapped whose range a REGION_MAP overlaps: its object (R465). -/
def State.unmappingUnder (s : State) (c : Cmd) : List Region := s.regions.filter (fun q => match kindOf (c.mode % 8) with
  | some kd => q.unmapping && q.lower == c.modeBit 4 && overlaps (c.u64 16) (mapRequest c kd 0).span q.base q.span
  | none => false)

/-- Another REGION_MAP waits for the same object: for a range being unmapped that this one overlaps too (R465, R466). -/
def State.mapAgain (s : State) (c : Cmd) : Bool :=
  s.pends.any (fun p => p.job == .deferred && p.cmd.opcode == 3 && !(p.cmd.ring == c.ring && p.cmd.count == c.count) &&
    (s.unmappingUnder c).any (fun q => (s.unmappingUnder p.cmd).any (fun r => r.num == q.num)))

/-- REGION_MAP (R472). -/
def State.opRegionMap (s : State) (c : Cmd) : State :=
  if s.mapAgain c then s.post c stBusy 0
  else if !(s.unmappingUnder c).isEmpty then s.postDeferred c .deferred
  else if !s.ctxOpen c.ctx then s.post c stBadContext 0
  else match kindOf (c.mode % 8) with
    | none => s.badParam c 3
    | some kind =>
      let r := mapRequest c kind 0
      let two := kind.twoHanded
      if two && ((s.codedOf c.ctx).isNone || (s.gloveOf c.ctx).isSome) then s.post c stBadContext 0
      else match s.mapBad c r with
        | some b => s.badParam c b
        | none =>
          let i := instIdx (c.ring / 4096)
          let upper := kind == .tier && !r.lower
          let charge := if upper then s.upperCharge c.ctx + r.len / tileBytes else s.lowerCharge c.ctx + r.len / tileBytes
          let quota := if upper then s.upperQuota c.ctx else s.lowerQuota c.ctx
          if kind == .tier && decide (quota < charge) then
            (s.raise i.val fQuota (packWord [(0, c.opcode), (8, c.ctx), (16, if upper then 1 else 0), (32, c.ctx)])
              (BitVec.ofNat 64 (r.len / tileBytes))).post c stQuota 0
          else match s.freeRegion with
            | none => s.post c stBusy 0
            | some n => (s.addRegion { r with num := n }).post c stOk n

/-! ### REGION_UNMAP -/

/-- A brim lists a tile of the region, or a holder references one (R350, R386). -/
def State.tilesInUse (s : State) (num : Nat) : Bool :=
  s.tileRefs.any (fun r => r.region == num) || s.brims.any (fun b => b.groups.any (fun g => g.region == num))

/-- REGION_UNMAP (R57, R350, R473): at once, or when the fill that runs in the region has ended. -/
def State.opRegionUnmap (s : State) (c : Cmd) : State :=
  if !s.ctxOpen c.ctx then s.post c stBadContext 0
  else match s.region? (c.u16 16) with
    | none => s.badParam c 16
    | some r =>
      if !r.kind.mappable then s.badParam c 16
      else if r.owner ≠ c.ctx then s.post c stAccessDenied 0
      else if r.unmapping then s.post c stBusy 0
      else if r.kind.twoHanded && (s.gloveOf c.ctx).isSome then s.post c stBadContext 0
      else if r.lowerTier && s.tilesInUse r.num then s.post c stBusy 0
      else if r.fill.isSome then
        (s.modRegion r.num (fun r => { r with unmapping := true })).hold c (.regionUnmap r.num)
      else (s.removeRegion r.num).post c stOk 0

/-! ### REGION_FILL -/

/-- A fill starts on a region: what is buffered is written out first, and idle frames of its tiles are dropped. -/
def State.startFill (s : State) (r : Region) (pattern : Word) : State :=
  let s := s.flushRegion r
  let s := { s with frames := s.frames.filter (fun f => f.region != r.num) }
  let todo := (List.range (r.span / 4096)).map (fun i => offKey r.lower (r.base + i * 4096))
  s.modRegion r.num (fun r => { r with fill := some { pattern := pattern, todo := todo, written := 0 } })

/-- REGION_FILL (R386, R387, R473). A fill of a region whose earlier fill still runs starts after it. -/
def State.opRegionFill (s : State) (c : Cmd) : State :=
  if !s.ctxOpen c.ctx then s.post c stBadContext 0
  else match s.region? (c.u16 16) with
    | none => s.badParam c 16
    | some r =>
      if !r.kind.mappable then s.badParam c 16
      else if r.owner ≠ c.ctx then s.post c stAccessDenied 0
      else if r.kind.twoHanded ∨ s.tilesInUse r.num then s.badParam c 16
      else
        let s := s.hold c (.regionFill r.num)
        if r.fill.isSome then s else s.startFill r (BitVec.ofNat 64 (c.u64 24))

/-- The fill of a region has ended: the oldest REGION_FILL completes, the next one starts, and a waiting unmap is done. -/
def State.endFill (s : State) (r : Region) (written : Nat) : State :=
  let s := s.modRegion r.num (fun r => { r with fill := none })
  let s := match (s.jobs (fun j => j == .regionFill r.num)).head? with
    | some p => s.post p.cmd stOk written
    | none => s
  match (s.jobs (fun j => j == .regionFill r.num)).head? with
  | some p => s.startFill r (BitVec.ofNat 64 (p.cmd.u64 24))
  | none =>
    if r.unmapping then (s.removeRegion r.num).endJobs (fun j => j == .regionUnmap r.num) stOk 0 s.now else s

/-- An instance's fill writes its next page (R387). -/
def State.fillPage (s : State) (num : Nat) (i : Fin 16) : State :=
  match s.region? num with
  | none => s
  | some r => match r.fill with
    | none => s
    | some f => match f.todo.find? (fun k => keyInst k = i) with
      | none => s
      | some k => s.fillOne r f k

/-- The fills whose pages are all written end, and requests that a fill has passed are served (R387). -/
def State.settleFills (s : State) : State :=
  let s := (s.regions.filter (fun r => r.fill.any (fun f => f.todo.isEmpty))).foldl (fun s r => s.endFill { r with fill := none } r.len) s
  s.retryHeld (fun w => w == .filling)

/-! ### QUOTA_SET -/

/-- QUOTA_SET in mode QUOTA (R347, R349). -/
def State.opQuotaSet (s : State) (c : Cmd) : State :=
  if c.modeBit 0 then s
  else
    let t := c.u8 16
    if !s.ctxOpen t then s.post c stBadContext 0
    else match Tab.get s.ctxs t with
      | some x => { s with ctxs := Tab.set s.ctxs t { x with upper := c.u32 24, lowerQ := c.u32 28 } }.post c stOk 0
      | none => s.post c stBadContext 0

/-- QUOTA_SET in mode POOL (R331). -/
def State.opQuotaPool (s : State) (c : Cmd) : State :=
  if !c.modeBit 0 then s
  else
    let base := c.u64 32
    let len := c.u64 40
    let old := fun (r : Region) => r.kind == .pool
    if base % tileBytes ≠ 0 then s.badParam c 32
    else if len % tileBytes ≠ 0 ∨ 2 ^ 38 < len then s.badParam c 40
    else if 0 < len ∧ (tierBytes false < base + len ∨ s.rangeTaken false base len old) then s.badParam c 32
    else if s.frames.any (fun f => f.state != .idle) then s.post c stBusy 0
    else
      let num := match s.pool with
        | some r => some r.num
        | none => s.freeRegion
      match num with
      | none => s.post c stBusy 0
      | some n =>
        let s := { s with frames := [], regions := s.regions.filter (fun r => !old r) }
        let s := if len = 0 then s else s.addRegion (areaOf n .pool false 0xFF base len)
        (serveWaiters s.promos.length s).post c stOk 0

end Sys2Proof.Machine
end

