-- ==== Sys2Proof/Machine/Forming.lean ====
section
/-! DEFINITION. Forming, dissolving and querying a glove: placement and failure domains (R122 to R125, R522 to R524), the
period-count limit (R127), the FORM collective, form pass and completion round (R126 to R132, R574, R575), GLOVE_DISSOLVE
(R135, R136) and GLOVE_QUERY (R134). -/

namespace Sys2Proof.Machine

/-! ### Placement tables and failure domains -/

/-- Read a placement table of `n` entries from PLAIN memory of the context (R125); none where it cannot be read. -/
def State.readPlacement (s : State) (ctx a n : Nat) : State × Option (List Byte) :=
  if !s.plainTable ctx a (32 + 8 * n) then (s, none)
  else match s.padunRead a (32 + 8 * n) ctx with
    | (s, none) => (s, none)
    | (s, some t) => (s, some t)

/-- The reserved bytes of a placement table of `n` entries are zero (R10, R125). -/
def placeClean (t : List Byte) (n : Nat) : Bool :=
  allZero (slice t 16 16) && (List.range n).all (fun i => field t (38 + 8 * i) 2 == 0)

/-- The failure-domain entry of a chip: the lowest-numbered valid one with its coordinates (R523). -/
def State.domainOf (s : State) (c : Coord) : Option Domain :=
  (s.cu.domains.find? (fun p => p.2.coord.getLsbD 63 &&
    (p.2.coord.toNat % 2 ^ 48 == c.x + c.y * 2 ^ 16 + c.z * 2 ^ 32))).map (·.2)

/-- The 24 bytes of a member in the placement hash (R524). -/
def domainBytes : Option Domain → List Byte
  | some d => leBytes 8 d.coord.toNat ++ leBytes 8 d.domA.toNat ++ leBytes 8 d.domB.toNat
  | none => List.replicate 24 0

/-- The coordinates of the entries of a table. -/
def placeCoords (t : List Byte) (n : Nat) : List Coord := (List.range n).map (placeCoord t)

/-- The placement hash (R127, R524). -/
def State.placementHash (s : State) (t : List Byte) (n : Nat) : Word :=
  sha384Word (t ++ ((placeCoords t n).map (fun c => domainBytes (s.domainOf c))).flatten)

/-- The identifiers of the four levels, tray to switch (R522). -/
def Domain.level (d : Domain) (l : Nat) : Nat :=
  if l = 0 then d.domA.toNat % 2 ^ 32 else if l = 1 then d.domA.toNat / 2 ^ 32
  else if l = 2 then d.domB.toNat % 2 ^ 32 else d.domB.toNat / 2 ^ 32

/-- The first break of the failure-domain rule (R122 to R124): level, lowest member, identifier. A member without an entry or
with an undeclared identifier breaks it with 0xFFFF_FFFF. Of several breaks the one captured is of the lowest level, tray to
switch, and in it of the lowest member (DESIGN CHOICE, log entry 90). -/
def domainBreak (q : List Nat) (ds : List (Option Domain)) : Option (Nat × Nat × Nat) :=
  let ids := fun (l : Nat) => ds.map (fun d => match d with
    | some d => d.level l
    | none => 0xFFFFFFFF)
  let at' := fun (l : Nat) =>
    let limit := q.getD l 0
    if limit = 0 then none
    else
      let is := ids l
      ((List.range is.length).find? (fun i =>
        let x := is.getD i 0
        x == 0xFFFFFFFF || decide (limit < (is.filter (fun y => y == x)).length))).map (fun i => (l, i, is.getD i 0))
  (at' 0).or ((at' 1).or ((at' 2).or (at' 3)))

/-- Check the failure-domain rule over a table and capture its break (R124, R503). -/
def State.checkDomains (s : State) (ctx : Nat) (q : List Nat) (t : List Byte) (n : Nat) (hb : Bool) : State × Bool :=
  match domainBreak q ((placeCoords t n).map s.domainOf) with
  | none => (s, true)
  | some (l, i, id) =>
    (s.capture cuUnit 0x122 (packWord [(0, l), (16, i), (24, if hb then 1 else 0), (32, ctx)]) (BitVec.ofNat 64 id), false)

/-! ### Coded arenas (R112, R127) -/

/-- The coded arena of a context on the chip, with its hosting areas (R112, R224). -/
def State.arenaOf (s : State) (ctx : Nat) (t : Nat) : Nat :=
  arenaBytes (s.palmCount ctx) t + ((s.regions.filter (fun r => r.owner == ctx && (match r.kind with
    | .hosting _ => true
    | _ => false))).map (fun r => 2 * r.stitchCount * 4192)).sum

/-- The arenas of the chip's other contexts that belong to gloves. -/
def State.otherArenas (s : State) (ctx : Nat) : Nat :=
  (s.coded.map (fun p => match s.gloveOf p.2.ctx with
    | some g => if p.2.ctx = ctx then 0 else s.arenaOf p.2.ctx g.g.tmax
    | none => 0)).sum

/-- How many bytes from an upper-tier base on are free of mapped regions. -/
def State.freeSpan (s : State) (base : Nat) : Nat :=
  let ups := s.regions.filter (fun r => !r.lower)
  if ups.any (fun r => decide (r.base ≤ base ∧ base < r.base + r.span)) then 0
  else (ups.filter (fun r => decide (base ≤ r.base))).foldl (fun m r => Nat.min m (r.base - base)) (tierBytes false - base)

/-- The period-count limit t_lim of a parity area at a base (R127); none where even no period fits the arena limit. -/
def State.periodLimit (s : State) (ctx base : Nat) : Option Nat :=
  let hand := s.freeSpan base / 2 / Config.handAlign * Config.handAlign
  let used := s.otherArenas ctx + s.arenaOf ctx 0
  if Config.arenaMax < used then none
  else some (Nat.min (hand / 4096) ((Config.arenaMax - used) / (2 * 4192)))

/-! ### GLOVE_FORM -/

/-- M after the default of R95: the larger of MDEF + 1 (straps bits [17:16]) and the sealed floor (R48). -/
def State.chosenM (s : State) (m : Nat) : Nat :=
  if m = 0 then Nat.max (s.cu.straps.toNat / 2 ^ 16 % 4 + 1) s.cu.fuses.mMin else m

/-- The four limits with the tray default (R122). -/
def limitsOf (m : Nat) (q : List Nat) : List Nat := (if q.getD 0 0 = 0 then m else q.getD 0 0) :: q.drop 1

/-- The first of the four limits outside its range (R122). -/
def limitBad (n m : Nat) (q : List Nat) : Option Nat :=
  (List.range 4).find? (fun i => decide ((if i = 0 then m else n) < q.getD i 0))

/-- The packet byte of the first field of a geometry that is not legal (R94, R95, R122): N up to `most`, M, then the limits. -/
def geometryBad (most n m least : Nat) (q : List Nat) : Option Nat :=
  if n < 4 ∨ most < n then some 18
  else if m < 1 ∨ 4 < m ∨ n / 4 < m ∨ n % m ≠ 0 ∨ m < least then some 19
  else (limitBad n m q).map (fun i => 21 + i)

/-- The local checks of R126 after the table has been read: the first status, or none. A command whose key is still under way finds
its context taken (DESIGN CHOICE, log entry 89). -/
def State.formCheck (s : State) (c : Cmd) (t : List Byte) (running : Bool) : State × Option Failed :=
  let ctx := c.ctx
  let n := c.u8 18
  let m := s.chosenM (c.u8 19)
  let me := c.u8 20
  let q := (List.range 4).map (fun i => c.u8 (21 + i))
  let coords := placeCoords t n
  if !placeClean t (if n ≤ 32 then n else 0) then (s, badField 40)
  else if s.foreignRing (c.u16 26) ctx then (s, badField 26)
  else if (s.codedOf ctx).isNone ∨ (s.gloveOf ctx).isSome ∨ running then (s, failWith stBadContext)
  else if let some i := geometryBad 32 n m s.cu.fuses.mMin q then (s, badField i)
  else if c.u16 16 = 0xFFFF ∨ s.coded.any (fun p => p.2.ctx != ctx && (match s.gloveOf p.2.ctx with
      | some g => g.g.id == c.u16 16
      | none => false)) then (s, badField 16)
  else if coords.eraseDups.length ≠ n then (s, badField 40)
  else if n ≤ me then (s, badField 20)
  else if !s.cu.fabric.verified ∨ placeCoord t me ≠ s.cu.fabric.coord then (s, failWith stGeometry)
  else match s.checkDomains ctx (limitsOf m q) t n false with
    | (s, false) => (s, failWith stDomain)
    | (s, true) =>
      if c.u64 32 % Config.handAlign ≠ 0 ∨ addrLower (c.u64 32) ∨ (s.periodLimit ctx (c.u64 32)).isNone then (s, badField 32)
      else (s, none)

/-- A GLOVE_FORM of the same context or identifier waits for a dissolve (R137, R466). -/
def State.formDeferred (s : State) (c : Cmd) : Bool :=
  s.pends.any (fun p => p.job == .deferred && p.cmd.opcode == 0x10 && !(p.cmd.ring == c.ring && p.cmd.count == c.count) &&
    (p.cmd.ctx == c.ctx || p.cmd.u16 16 == c.u16 16))

/-- A dissolve of the context or of the glove identifier has not completed (R137). -/
def State.dissolving (s : State) (ctx id : Nat) : Bool :=
  s.coded.any (fun p => match s.gloveOf p.2.ctx with
    | some g => g.state == .dissolving && (p.2.ctx == ctx || g.g.id == id)
    | none => false)

/-- A glove of a context that is forming (R133). -/
def formingGlove (c : Cmd) (m : Nat) (t : List Byte) (hash : Word) : Glove :=
  let key := BitVec.ofNat 128 (field t 0 16)
  let g : Group :=
    { id := c.u16 16, n := c.u8 18, m := m, me := c.u8 20, q := limitsOf m ((List.range 4).map (fun i => c.u8 (21 + i))),
      tagKey := key, tagKeyInv := ~~~key, shape := [], shapeInv := [], place := t, placeInv := invBytes t, placeHash := hash,
      geomHash := 0, tmax := 0, base := c.u64 32, region := 0xFFFF, noticeRing := c.u16 26 }
  { g := g, state := .forming, lostMask := 0, standinMask := 0, filling := 0, filled := [], lacking := [], deals := [], lanes := [] }

/-- A collective record with a status and nothing else (R127). -/
def statusRec (status member role : Nat) : CollRec :=
  { verdict := 3, status := status, member := member, role := role, c := 0, palm := 0, layout := 0, lanes := 0, place := 0,
    tlim := 0, groups := [] }

/-- The key of a FORM collective and of its completion round (R427, R574). -/
def formKey (ctx id round : Nat) : CollKey := { ctx := ctx, step := round, glove := id, phase := phForm }

/-- A command of a collective ends alone, with the fault of its status (R14). -/
def State.failAs (s : State) (c : Cmd) (f : Failed) (id me result : Nat) : State :=
  (s.statusFault c.ctx f.1 { id := id, member := me, phase := 0, opcode := c.opcode, cause := 1, step := 0 }).postAt c f.1 result f.2 s.now

/-- A chip that cannot place its record completes alone with its first failed check (R575). -/
def State.failAlone (s : State) (c : Cmd) (f : Option Failed) : State :=
  s.postAt c (f.getD (stBadParam, 0xFF)).1 0 (f.getD (stBadParam, 0xFF)).2 s.now

/-- With the coordinate-verified flag clear the CU starts no collective but CROWN and RESTORE (R409). A command whose checks have no row
for the flag ends alone: with the first check it fails, else with the status that R126 and R217 give the flag (DESIGN CHOICE, log entry
81). -/
def State.unverified (s : State) (c : Cmd) (f : Option Failed) (id me result : Nat) : State :=
  s.failAs c (f.getD (stGeometry, 0xFF)) id me result

/-- GLOVE_FORM (R126, R127, R131, R137, R474, R575): a chip that cannot place its record completes alone, and so does a second
command of a key that is still under way (DESIGN CHOICE, log entry 89). -/
def State.opGloveForm (s : State) (c : Cmd) : State :=
  let ctx := c.ctx
  let n := c.u8 18
  let me := c.u8 20
  if s.formDeferred c then s.post c stBusy 0
  else if s.dissolving ctx (c.u16 16) then s.postDeferred c .deferred
  else if !s.ctxOpen ctx then s.post c stBadContext 0
  else if s.cu.evac then s.post c stAccessDenied 0
  else match s.readPlacement ctx (c.u64 40) (if n ≤ 32 then n else 0) with
    | (s, none) => s.badParam c 40
    | (s, some t) =>
      let running := (s.collOf (formKey ctx (c.u16 16) 0)).isSome || (s.collOf (formKey ctx (c.u16 16) 1)).isSome
      let (s, status) := s.formCheck c t running
      if n < 4 ∨ 32 < n ∨ n ≤ me ∨ running then s.failAlone c status
      else
        let m := s.chosenM (c.u8 19)
        let hash := s.placementHash t n
        let rec' : CollRec := match status, s.codedOf ctx with
          | none, some k =>
            { verdict := 1, status := 0, member := me, role := 0, c := k.c.toNat, palm := s.palmCount ctx,
              layout := (s.layoutHash ctx).toNat, lanes := s.lanesWord.toNat, place := hash.toNat,
              tlim := (s.periodLimit ctx (c.u64 32)).getD 0, groups := [] }
          | st, _ => statusRec (st.getD (stBadContext, 0xFF)).1 me 0
        let s := if status.isNone then s.modCoded ctx (fun k => { k with glove := some (formingGlove c m t hash) }) else s
        let parts := (List.range n).map (fun i => (i, placeCoord t i))
        ((s.startColl c (formKey ctx (c.u16 16) 0) (c.u16 16) me 0 parts rec'.bytes t).noteFailed (formKey ctx (c.u16 16) 0) status).hold c
          (.gloveForm ctx)

/-- A failed form: the parity area it mapped goes, and the context is in no glove (R129). A collective of another identifier leaves
the glove that forms alone. -/
def State.dropForm (s : State) (key : CollKey) : State :=
  let ctx := key.ctx
  match s.gloveOf ctx with
  | none => s
  | some gl =>
    if gl.state ≠ .forming ∨ gl.g.id ≠ key.glove then s
    else
      let s := s.removeRegion gl.g.region
      let s := { s with deltas := s.deltas.filter (fun d => !(d.ctx == ctx && d.form)), folds := s.folds.filter (fun f => f.ctx != ctx) }
      let s := s.dropSent (fun x => x.ctx == ctx && x.msg.type == tDelta)
      s.modCoded ctx (fun k => { k with glove := none, forming := false, badHand := false })

/-- Every written crowned palm stitch becomes a form-pass delta from zero (R130); one that cannot be served makes the member's
record INTERNAL (R574). -/
def State.encodePalm (s : State) (ctx : Nat) (gl : Glove) : State :=
  let cells := ((s.palmRegions ctx).map (fun r => (List.range r.stitchCount).map (fun i => (r, i)))).flatten
  (cells.filter (fun p => s.crownedWritten p.1 p.2)).foldl (fun s p => match s.readCrowned p.1 p.2 with
    | (s, .page d rec) =>
      let x : Delta := { ctx := ctx, inst := (keyInst (p.1.handKey p.2 false)).val, member := gl.g.me,
                         palm := s.palmOf p.1 p.2, bytes := d, tauOld := 0, step := rec.stepTag, form := true,
                         seats := List.range gl.g.m }
      { s with deltas := s.deltas ++ [x] }
    | (s, .never) => s
    | (s, _) => s.spoilStep ctx) s

/-- The first round of FORM has succeeded (R128): shape, GEOM_HASH and parity area, then the form pass and the completion
round. Where no region number is free the glove forms without an area (DESIGN CHOICE, log entry 91). -/
def State.enterFormPass (s : State) (c : Coll) (gl : Glove) (recs : List (Nat × List Byte)) (tmax : Nat) : State :=
  let ctx := c.key.ctx
  let at' := fun (i : Nat) => readColl (Tab.getD recs i [])
  let palms := (List.range gl.g.n).map (fun i => (at' i).palm)
  let layouts := (List.range gl.g.n).map (fun i => (at' i).layout)
  let shape := shapeBytes 0x53474450 32 gl.g.n gl.g.m tmax palms layouts
  let num := if tmax = 0 then none else s.freeRegion
  let s := match num with
    | some n => s.addRegion (areaOf n .parity false ctx gl.g.base (roundUp (tmax * 4096) Config.handAlign))
    | none => s
  let lanes := (List.range gl.g.n).map (fun i => BitVec.ofNat 64 (at' i).lanes)
  let group := fun (g : Group) => { g with shape := shape, shapeInv := invBytes shape, geomHash := sha384Word shape,
                                           tmax := tmax, region := num.getD 0xFFFF }
  let s := s.modGlove ctx (fun g => { g with g := group g.g, lanes := lanes })
  let s := s.modCoded ctx (fun k => { k with forming := true, badHand := false })
  let s := match s.gloveOf ctx with
    | some gl => s.encodePalm ctx gl
    | none => s
  s.startColl c.cmd (formKey ctx c.group 1) c.group c.me c.gatherer c.parts c.record c.place

/-- The outcome of the first round of FORM (R128, R129, R132). -/
def State.formOutcome (s : State) (c : Coll) (recs : List (Nat × List Byte)) (b : Block) : State :=
  let ctx := c.key.ctx
  let fail := fun (s : State) (status member stamp : Nat) => (s.endColl { c with recs := recs } status member stamp 0).dropForm c.key
  if b.decision ≠ 1 then fail s b.status b.member b.time
  else match (s.gloveOf ctx).filter (fun gl => gl.g.id == c.group) with
    | none => match firstStatus recs with
      | some x => fail s x.2 x.1 b.time
      | none => fail s stBadContext c.me b.time
    | some gl =>
      let palms := recs.map (fun (p : Nat × List Byte) => (readColl p.2).palm)
      let tmax := periodCount gl.g.n gl.g.m (palms.foldl Nat.max 0)
      match outcomeOf tmax recs with
      | some (st, i) => fail s st i b.time
      | none => s.enterFormPass c gl recs tmax

/-- Every delta that this member sent in the form pass has been acknowledged (R574). -/
def State.formSent (s : State) (ctx : Nat) : Bool :=
  !(s.deltas.any (fun d => d.ctx == ctx && d.form)) &&
  !(s.sent.any (fun x => x.ctx == ctx && x.msg.type == tDelta && x.msg.sub == 2))

/-- The glove that forms disagrees with the cuff record of a restored context (R275). -/
def Coded.restoredMismatch (k : Coded) : Bool := match k.restored, k.glove with
  | some b, some gl => cuffGeom b != gl.g.geomHash.toNat || cuffN b != gl.g.n || cuffM b != gl.g.m
  | _, _ => false

/-- The member's record of the completion round (R275, R574), once its deltas are acknowledged and its fold
entries written back. -/
def State.roundRecord (s : State) (c : Coll) : State :=
  match s.codedOf c.key.ctx with
  | none => s
  | some k =>
    let s := s.writeFolds c.key.ctx
    let r := readColl c.record
    let r := if k.restoredMismatch then statusRec stGeometry c.me 0
      else if k.badHand then statusRec stInternal c.me 0
      else { r with groups := leBytes 24 (s.groupsHashNow c.key.ctx).toNat }
    s.modColl c.key (fun x => { x with record := r.bytes })

/-- The bank that a glove's first records make (R132). -/
def firstBank (k : Coded) (gl : Glove) (time : Nat) (groups : Nat → List Byte) : List (Nat × List Byte) :=
  (List.range gl.g.n).map (fun i =>
    let x : Cuff :=
      { ctx := k.ctx, member := i, step := k.c.toNat, time := time, geom := gl.g.geomHash.toNat, glove := gl.g.id,
        n := gl.g.n, m := gl.g.m, lanes := (gl.lanes.getD i 0).toNat, key := k.key, palm := gl.g.palmOf i,
        parity := gl.g.tmax, groups := groups i, digest := [], tally := [] }
    (i, x.bytes))

/-- The outcome of the completion round (R132, R574): READY with the first bank, or the cleanup of R129. A parity page that a
form-pass delta finds uncorrectable after this member's record has left changes no record any more, and the outcome stands (DESIGN
CHOICE, log entry 92). -/
def State.roundOutcome (s : State) (c : Coll) (recs : List (Nat × List Byte)) (b : Block) : State :=
  let ctx := c.key.ctx
  match s.codedOf ctx, s.gloveOf ctx with
  | some k, some gl =>
    if b.decision ≠ 1 then (s.endColl { c with recs := recs } b.status b.member b.time 0).dropForm c.key
    else match firstStatus recs with
      | some x => (s.endColl { c with recs := recs } x.2 x.1 b.time 0).dropForm c.key
      | none =>
        let s := (s.useGroup ctx gl.g).writeFolds ctx
        let bank := firstBank k gl b.time (fun i => (readColl (Tab.getD recs i [])).groups)
        let (s, bank) := s.checkBank ctx bank
        let s := s.modCoded ctx (fun k => { ((k.modGlove (fun g => { g with state := .ready })).setBank k.c.toNat bank) with
          forming := false, attempt := 0, byCrown := false, badHand := false, crownTime := b.time, restored := none })
        s.endColl { c with recs := recs } stOk 0xFF b.time gl.g.geomHash.toNat
  | _, _ => s

/-- The form pass sends its next deltas (R130). -/
def State.sendForm (s : State) (ctx : Nat) : State :=
  match s.deltas.find? (fun d => d.ctx == ctx && d.form) with
  | none => s
  | some d =>
    let rest := delFirst (fun x => x == d) s.deltas
    ({ s with deltas := d :: rest }).sendDelta (instIdx d.inst)

/-! ### GLOVE_DISSOLVE -/

/-- A darn of a context's glove is in progress (R135): a background darn, one being agreed, a demand darn, or a single stitch's. -/
def State.darning (s : State) (ctx : Nat) : Bool :=
  s.darns.any (fun d => d.ctx == ctx) || s.chains.any (fun c => c.ctx == ctx && !c.hb) || s.hasJob (fun j => match j with
    | .darn c _ => c == ctx
    | .darnStitch c _ _ => c == ctx
    | _ => false)

/-- What of a glove is in progress (R135): an open step, a darn, a hatbox copy, or a witness. An admission and another collective of
the context hold a dissolve off as well (DESIGN CHOICE, log entry 94). -/
def State.gloveBusy (s : State) (ctx : Nat) (k : Coded) : Bool :=
  k.phase != .crowned || s.darning ctx || k.witness.any (fun x => !x.completed) || (match k.hb with
      | some h => h.copying
      | none => false) ||
    k.admission.isSome || s.colls.any (fun c => c.key.ctx == ctx && c.key.phase != phHbconf)


/-- The key of a DISSOLVE collective. -/
def dissolveKey (ctx id : Nat) : CollKey := { ctx := ctx, step := 0, glove := id, phase := phDissolve }

/-- GLOVE_DISSOLVE (R135, R136). -/
def State.opGloveDissolve (s : State) (c : Cmd) : State :=
  let ctx := c.ctx
  if !s.ctxOpen ctx then s.post c stBadContext 0
  else match s.codedOf ctx, s.gloveOf ctx with
    | some k, some gl =>
      if !gl.state.formed ∨ s.gloveBusy ctx k then s.post c stBusy 0
      else if !s.cu.fabric.verified then s.unverified c none gl.g.id gl.g.me 0
      else
        let s := s.modGlove ctx (fun g => { g with state := .dissolving })
        let r : CollRec := { verdict := 1, status := 0, member := gl.g.me, role := 0, c := k.c.toNat, palm := s.palmCount ctx,
                             layout := (s.layoutHash ctx).toNat, lanes := s.lanesWord.toNat, place := 0, tlim := noLimit,
                             groups := [] }
        let parts := gl.live.map (fun i => (i, gl.g.coord i))
        (s.startColl c (dissolveKey ctx gl.g.id) gl.g.id gl.g.me gl.head parts r.bytes []).hold c (.gloveDissolve ctx)
    | _, none => s.post c stBusy 0
    | none, _ => s.post c stBadContext 0

/-- The glove is gone on this member (R136): parity and hosting areas unmapped, tables and keys dropped, its chains stopped (R137);
crowned hands stay readable. The cuff banks, which hold records of the glove's members, are emptied with it (DESIGN CHOICE, log entry
93), and a stitch that no darn has filled lacks content from then on. -/
def State.dropGlove (s : State) (ctx : Nat) : State :=
  match s.gloveOf ctx with
  | none => s
  | some gl =>
    let s := (s.regions.filter (fun r => r.owner == ctx && (match r.kind with
        | .parity | .hosting _ => true
        | _ => false))).foldl (fun s r => s.removeRegion r.num) s
    let s := (s.endFills ctx).stopChains ctx
    let s := s.dropSent (fun x => x.ctx == ctx && x.msg.glove.toNat == gl.g.id && x.msg.type != tVote && x.msg.type != tCrown)
    let s := { s with heldDeltas := s.heldDeltas.filter (fun p => p.2.cCtx != ctx) }
    s.modCoded ctx (fun k => { k with glove := none, vote := none, lostInStep := false, current := false, bank0 := [], bank1 := [] })

/-- The outcome of DISSOLVE (R136): the glove goes in either case. -/
def State.dissolveOutcome (s : State) (c : Coll) (b : Block) : State :=
  let s := s.dropGlove c.key.ctx
  if b.decision = 1 then s.endColl c stOk 0xFF b.time 0
  else s.endColl c stCollTimeout 0xFF b.time 0

/-! ### GLOVE_QUERY -/

/-- The 64-byte glove record (R134). -/
def State.gloveRecord (s : State) (ctx : Nat) : List Byte :=
  match s.codedOf ctx, s.gloveOf ctx with
  | some k, some gl =>
    leBytes 2 gl.g.id ++ leBytes 1 ctx ++ leBytes 1 gl.g.me ++ leBytes 1 gl.g.n ++ leBytes 1 gl.g.m ++
      leBytes 1 gl.state.code ++ leBytes 1 (s.erasures ctx gl) ++ leBytes 4 gl.lostMask.toNat ++
      leBytes 4 gl.standinMask.toNat ++ leBytes 8 gl.g.geomHash.toNat ++ leBytes 8 gl.g.placeHash.toNat ++
      leBytes 8 gl.g.tmax ++ leBytes 8 k.c.toNat ++ leBytes 8 (s.palmCount ctx) ++ leBytes 2 gl.g.region ++ leBytes 6 0
  | _, _ => leBytes 2 0xFFFF ++ List.replicate 62 0

/-- GLOVE_QUERY (R134). -/
def State.opGloveQuery (s : State) (c : Cmd) : State :=
  if !s.ctxOpen c.ctx then s.post c stBadContext 0
  else if c.u64 16 % 64 ≠ 0 ∨ !s.bufferOk c.ctx (c.u64 16) 64 then s.badParam c 16
  else
    let code := match s.gloveOf c.ctx with
      | some g => g.state.code
      | none => 0
    (s.bufferWrite (c.u64 16) (s.gloveRecord c.ctx)).post c stOk code

end Sys2Proof.Machine
end

