-- ==== Sys2Proof/Machine/Darning.lean ====
section
/-! DEFINITION. Darning: DARN_START (R216 to R221, R228), STANDIN_ASSIGN (R222 to R224), DARN_STITCH (R236, R479), EVACUATE
(R237 to R240, R480), ADMIT (R241 to R244), the chain messages (R204 to R210, R418, R419), and the ends of darns (R221, R231
to R233). -/

namespace Sys2Proof.Machine

/-! ### The checks of R217 -/

/-- Every instance of the chip has passed both parts of TEST_RUN since reset (R217). -/
def State.testedSinceReset (s : State) : Bool :=
  instNums.all (fun i => !s.inst[i].active || (s.inst[i].test.okL && s.inst[i].test.okM))

/-- The chip runs four darns, those counted whose collective is still under way (R217, R234). -/
def State.darnsFull (s : State) : Bool :=
  decide (4 ≤ s.darns.length + (s.colls.filter (fun c => decide (0x10 ≤ c.key.phase))).length)

/-- A darn of a context with a number runs or is being agreed, or the chip runs four (R217, R234). -/
def State.darnTaken (s : State) (ctx num : Nat) : Bool :=
  s.darns.any (fun d => d.ctx == ctx && d.num == num) || s.hasJob (fun j => j == .darn ctx num) || s.darnsFull

/-- A darn of a member's seat runs (R217). -/
def State.darnRuns (s : State) (ctx member : Nat) : Bool := s.darns.any (fun d => d.ctx == ctx && !d.witness && d.lost == member)

/-- The placement table of a command as the first row of R217 finds it: its bytes, and the failure where it cannot be read, or where a
reserved byte of it is nonzero (R10). -/
def State.tableRow (s : State) (ctx a n byte : Nat) : State × List Byte × Option Failed :=
  match s.readPlacement ctx a n with
  | (s, none) => (s, [], badField byte)
  | (s, some t) => (s, t, if placeClean t n then none else badField byte)

/-- The rows of R217 that a member of the glove checks: `first` is the outcome of the first row, `named` is the row of the lost
member, `taken` the row of the darn number, `area` the row of a parity or hosting area, and `placed` tells that the row of coordinates
applies: STANDIN_ASSIGN, which names no table, lists no status of it (R468). -/
def State.memberRows (s : State) (ctx : Nat) (gl : Glove) (k : Coded) (first : Option Failed) (named taken placed area : Bool)
    (t : List Byte) : State × Option Failed :=
  if first.isSome then (s, first)
  else if gl.state ≠ .degraded ∧ gl.state ≠ .standin ∧ gl.state ≠ .lost then (s, failWith stBadContext)
  else if k.phase ≠ .crowned then (s, failWith stBusy)
  else if !named then (s, badField 16)
  else if taken then (s, failWith stBusy)
  else if placed && (!s.cu.fabric.verified || placeCoord t gl.g.me != s.cu.fabric.coord) then (s, failWith stGeometry)
  else match if placed then s.checkDomains ctx gl.g.q t gl.g.n false else (s, true) with
    | (s, false) => (s, failWith stDomain)
    | (s, true) =>
      if !area then (s, badField 24)
      else if gl.g.m < s.erasures ctx gl then (s, failWith stGloveLoss)
      else (s, none)

/-- The LANES of a seat's cuff record, as a reader finds them that uses no record which fails R91. -/
def State.recordLanes (s : State) (ctx : Nat) (bank : List (Nat × List Byte)) (seat : Nat) : State × Option Nat :=
  match s.checkBank ctx (bank.filter (fun p => p.1 == seat)) with
  | (s, recs) => (s, (Tab.get recs seat).map cuffLanes)

/-- The rows of R217 that a spare or a new chip checks: `first` is the outcome of the first row, `x` what the members give it. -/
def State.spareRows (s : State) (ctx seat base : Nat) (k : Coded) (x : SeatInfo) (first : Option Failed) (taken : Bool)
    (t : List Byte) : State × Option Failed :=
  if first.isSome then (s, first)
  else if taken then (s, failWith stBusy)
  else if s.cu.evac then (s, failWith stAccessDenied)
  else if !s.testedSinceReset then (s, failWith stTestFail)
  else if k.glove.isSome then (s, failWith stBadContext)
  else if (s.layoutHash ctx).toNat ≠ field x.shape (0x18 + 16 * seat) 8 then (s, failWith stGeometry)
  else match s.recordLanes ctx x.bank seat with
    | (s, lanes) =>
      if lanes ≠ some s.lanesWord.toNat then (s, failWith stLane)
      else if !s.cu.fabric.verified ∨ placeCoord t seat ≠ s.cu.fabric.coord then (s, failWith stGeometry)
      else match s.checkDomains ctx x.q t x.n false with
        | (s, false) => (s, failWith stDomain)
        | (s, true) =>
          if base % Config.handAlign ≠ 0 ∨ addrLower base ∨ (s.periodLimit ctx base).isNone then (s, badField 32)
          else (s, none)

/-- The record of a chip in a DARN, STANDIN or ADMIT collective (R218, R425). -/
def State.seatRecord (s : State) (ctx : Nat) (k : Coded) (status : Option Failed) (me role place tlim : Nat) : CollRec :=
  match status with
  | some st =>
    { statusRec st.1 me role with c := k.c.toNat, layout := (s.layoutHash ctx).toNat, place := place, tlim := tlim }
  | none =>
    { verdict := 1, status := 0, member := me, role := role, c := k.c.toNat, palm := s.palmCount ctx,
      layout := (s.layoutHash ctx).toNat, lanes := s.lanesWord.toNat, place := place, tlim := tlim, groups := [] }

/-- A chip without what the members give it, without a coded context, or in another glove cannot place its record and completes alone
with the first row of R217 that it fails (DESIGN CHOICE, log entry 20): `first` is the first row, `taken` the row of the darn number, and
`result` the RESULT of a failure. -/
def State.spareAlone (s : State) (c : Cmd) (first : Option Failed) (taken : Bool) (result : Nat) : State :=
  if let some f := first then s.postAt c f.1 result f.2 s.now
  else if taken then s.post c stBusy result
  else if s.cu.evac then s.post c stAccessDenied result
  else if !s.testedSinceReset then (s.raise cuUnit fTest (packWord [(0, 8)]) 0).post c stTestFail result
  else s.post c stBadContext result

/-! ### DARN_START -/

/-- The key of a DARN collective. -/
def darnKey (ctx id num : Nat) : CollKey := { ctx := ctx, step := 0, glove := id, phase := phDarn num }

/-- The participants of a collective over the members `live` and the chip that takes `seat` (R427). -/
def seatParts (live : List Nat) (seat : Nat) (t : List Byte) : List (Nat × Coord) :=
  (sortOn (fun i => i) (seat :: live.filter (· != seat))).map (fun i => (i, placeCoord t i))

/-- The participants as a member of the glove knows them (R409, R427): the members by the glove's own table, the chip that takes `seat`
by the command's, where that can be read. -/
def Glove.seatParts (gl : Glove) (seat : Nat) (t : List Byte) : List (Nat × Coord) :=
  (sortOn (fun i => i) ((if t.isEmpty then [] else [seat]) ++ gl.live.filter (· != seat))).map (fun i =>
    (i, if i = seat then placeCoord t i else gl.g.coord i))

/-- DARN_START on a member of the glove; `first` is the first row of R217. A second command of a key that is still under way fails the
row of the darn number, and ends alone. -/
def State.darnMember (s : State) (c : Cmd) (k : Coded) (gl : Glove) (t : List Byte) (first : Option Failed) : State :=
  let ctx := c.ctx
  let lost := c.u8 16
  let num := c.u8 17
  let deal := (gl.dealOf lost).isSome
  let named := decide (lost < gl.g.n) && gl.lostMask.getLsbD lost && !s.darnRuns ctx lost && (deal == c.modeBit 0)
  let (s, status) := s.memberRows ctx gl k first named (s.darnTaken ctx num) true true t
  let hash := s.placementHash t gl.g.n
  let rec' := s.seatRecord ctx k status gl.g.me 0 hash.toNat noLimit
  let parts := if c.modeBit 0 then gl.live.map (fun i => (i, gl.g.coord i)) else gl.seatParts lost t
  if (s.collOf (darnKey ctx gl.g.id num)).isSome then s.failAlone c status
  else ((s.startColl c (darnKey ctx gl.g.id num) gl.g.id gl.g.me gl.head parts rec'.bytes t).noteFailed (darnKey ctx gl.g.id num) status).hold
    c (.darn ctx num)

/-- DARN_START on the spare. -/
def State.darnSpare (s : State) (c : Cmd) (k : Coded) (x : SeatInfo) (t : List Byte) (first : Option Failed) : State :=
  let ctx := c.ctx
  let lost := c.u8 16
  let num := c.u8 17
  let (s, status) := s.spareRows ctx lost (c.u64 32) k x first (s.darnTaken ctx num) t
  let hash := s.placementHash t x.n
  let rec' := s.seatRecord ctx k status lost 1 hash.toNat ((s.periodLimit ctx (c.u64 32)).getD 0)
  let live := (List.range x.n).filter (fun i => !x.lost.getLsbD i && i != lost)
  if t.isEmpty ∨ (s.collOf (darnKey ctx (c.u16 18) num)).isSome then s.failAlone c status
  else ((s.startColl c (darnKey ctx (c.u16 18) num) (c.u16 18) lost (live.head?.getD 0) (seatParts live lost t) rec'.bytes t).noteFailed
    (darnKey ctx (c.u16 18) num) status).hold c (.darn ctx num)

/-- DARN_START (R216, R217, R228). A darn number that no key has (R427), a stopped context, and a chip that cannot place its record, a
spare with an unreadable table among them, end the command on the chip alone. -/
def State.opDarnStart (s : State) (c : Cmd) : State :=
  let ctx := c.ctx
  let num := c.u8 17
  let standin := c.modeBit 0
  let alone := fun (s : State) =>
    let (s, _, first) := s.tableRow ctx (c.u64 24) (c.u8 16 + 1) 24
    s.spareAlone c first (s.darnTaken ctx num) 0
  if !s.ctxOpen ctx then s.post c stBadContext 0
  else if 3 < num then s.badParam c 17
  else match s.codedOf ctx with
    | none => if standin then s.post c stBadContext 0 else alone s
    | some k =>
      if k.stopped then s.post c stInternal 0
      else match k.glove, Tab.get s.infos ctx with
        | some gl, _ =>
          if gl.g.id ≠ c.u16 18 then (if standin then s.post c stBadContext 0 else alone s)
          else if s.cu.evac then s.post c stAccessDenied 0
          else
            let zero := if c.u64 32 = 0 then none else badField 32
            if standin then s.darnMember c k gl gl.g.place (if c.u64 24 = 0 then zero else badField 24)
            else
              let (s, t, first) := s.tableRow ctx (c.u64 24) gl.g.n 24
              s.darnMember c k gl t (first.or zero)
        | none, some x =>
          if standin then s.post c stBadContext 0
          else if x.n ≤ c.u8 16 then alone s
          else
            let (s, t, first) := s.tableRow ctx (c.u64 24) x.n 24
            s.darnSpare c k x t first
        | none, none => if standin then s.post c stBadContext 0 else alone s

/-! ### Fill state -/

/-- Set the fill bit of stitches 0 to `n` − 1 of an area (R211). -/
def State.setFill (s : State) (num n : Nat) : State :=
  (List.range n).foldl (fun s i => s.modStitch num i (fun x => { x with fill := true, lacks := false })) s

/-- The stitches of a context's areas whose fill bit is set. -/
def State.fillSet (s : State) (ctx : Nat) (p : Region → Bool) : List (Region × Nat) :=
  (((s.handed ctx).filter p).map (fun r => ((s.stitches.filter (fun (q : Nat × Stitch) =>
    q.1 / 2 ^ 40 == r.num && q.2.fill)).map (fun (q : Nat × Stitch) => (r, q.1 % 2 ^ 40))))).flatten

/-- The areas that a darn fills on this chip: a spare's whole seat, or a hosting area. -/
def Darn.areas (d : Darn) (r : Region) : Bool := if d.standin then r.kind == .hosting d.lost else (match r.kind with
  | .hosting _ => false
  | _ => true)

/-- The record of a bank from which a chip takes what all the records share, KEY and CROWN_TIME among them: the seat's own, or the
first; no record that fails R91 is in the bank (`checkBank`). -/
def leadRecord (bank : List (Nat × List Byte)) (seat : Nat) : Option (List Byte) :=
  (Tab.get bank seat).or (bank.head?.map (·.2))

/-- A chip takes the glove, the step, the attempt number and the bank of a seat (R219, R243), with the KEY and CROWN_TIME of the bank's
records; where every record fails R91 its own stay. -/
def Coded.takeSeat (k : Coded) (gl : Glove) (attempt step : Nat) (bank : List (Nat × List Byte)) : Coded :=
  let w : Word := BitVec.ofNat 64 step
  let lead := leadRecord bank gl.g.me
  { (((k.setC w).setS w).setBank step bank) with
    glove := some gl, attempt := attempt, key := (lead.map cuffKey).getD k.key, crownTime := (lead.map cuffTime).getD k.crownTime,
    byCrown := false, restored := none }

/-- The spare takes the seat (R219): geometry and key of the glove, C, A and the cuff bank with its KEY, the parity area, and a
fill bit for every palm and parity stitch. -/
def State.takeSeat (s : State) (c : Coll) (x : SeatInfo) (step : Nat) : State :=
  let ctx := c.key.ctx
  let lost := c.me
  let bit : BitVec 32 := (1 : BitVec 32) <<< lost
  let base := c.cmd.u64 32
  let tmax := field x.shape 8 8
  let num := if tmax = 0 then none else s.freeRegion
  let hash := s.placementHash c.place x.n
  let (s, bank) := s.checkBank ctx x.bank
  let gl := seatGlove { x with bank := bank } c.group lost c.place hash base (num.getD 0xFFFF)
  let mine := fun (p : Nat × Nat) => p.1 == lost
  let gl := { gl with lostMask := gl.lostMask &&& ~~~bit, filling := gl.filling ||| bit,
                      filled := gl.filled.filter (fun p => !mine p), lacking := gl.lacking.filter (fun p => !mine p) }
  let s := match num with
    | some n => (s.addRegion (areaOf n .parity false ctx base (roundUp (tmax * 4096) Config.handAlign))).setFill n tmax
    | none => s
  let s := (s.palmRegions ctx).foldl (fun s r => s.setFill r.num r.stitchCount) s
  let s := s.modCoded ctx (fun k => k.takeSeat gl x.attempt step bank)
  { s with infos := Tab.del s.infos ctx, darns := s.darns ++ seatDarns x ctx s.now }

/-- A survivor takes the outcome of a darn's collective (R219, R228). -/
def takeDarn (standin : Bool) (lost : Nat) (t : List Byte) (hash : Word) (gl : Glove) : Glove :=
  let bit : BitVec 32 := (1 : BitVec 32) <<< lost
  let filled := gl.filled.filter (fun (p : Nat × Nat) => p.1 != lost)
  if standin then { gl with standinMask := gl.standinMask ||| bit, filling := gl.filling ||| bit, filled := filled }
  else
    let g := { gl.g with place := t, placeInv := invBytes t, placeHash := hash }
    { gl with g := g, lostMask := gl.lostMask &&& ~~~bit, filling := gl.filling ||| bit, filled := filled,
              lacking := gl.lacking.filter (fun (p : Nat × Nat) => p.1 != lost) }

/-- The outcome of a DARN collective (R218, R219, R228): on success the darn runs on the chip. -/
def State.darnOutcome (s : State) (c : Coll) (recs : List (Nat × List Byte)) (b : Block) : State :=
  let ctx := c.key.ctx
  let c := { c with recs := recs }
  let lost := c.cmd.u8 16
  let standin := c.cmd.modeBit 0
  let num := c.cmd.u8 17
  let darn := fun (dest : Bool) =>
    ({ ctx := ctx, num := num, lost := lost, standin := standin, boost := c.cmd.modeBit 1, witness := false, dest := dest,
       failed := 0, lastWrite := b.time } : Darn)
  if b.decision ≠ 1 then s.endColl c b.status b.member b.time 0
  else match s.codedOf ctx, s.gloveOf ctx with
    | some _, some gl => match outcomeOf gl.g.tmax recs with
      | some (st, i) => s.endColl c st i b.time 0
      | none =>
        let hash := s.placementHash c.place gl.g.n
        let hosts := match gl.dealOf lost with
          | some d => (s.region? d.region).isSome
          | none => false
        let s := s.modGlove ctx (takeDarn standin lost c.place hash)
        { s with darns := s.darns ++ [darn (standin && hosts)] }
    | some k, none => match Tab.get s.infos ctx with
      | none => s.endColl c stBadContext c.me b.time 0
      | some x => match outcomeOf (field x.shape 8 8) recs with
        | some (st, i) => s.endColl c st i b.time 0
        | none =>
          let step := match recs.find? (fun (p : Nat × List Byte) => p.1 != c.me) with
            | some p => field p.2 8 8
            | none => k.c.toNat
          let s := s.takeSeat c x step
          { s with darns := s.darns ++ [darn true] }
    | none, _ => s

/-! ### STANDIN_ASSIGN -/

/-- The deal that this chip takes at acceptance (R222 to R224), with its hosted palm count and its slot count. -/
def planDeal (gl : Glove) (c : Cmd) : Deal × Nat :=
  let lost := c.u8 16
  let hosts := gl.live.filter (· != lost)
  let h := hosts.length
  let pos := leastBelow h (fun i => hosts.getD i 255 == gl.g.me)
  let u := 2 ^ c.u8 17
  let palm := hostedPalm (gl.g.palmOf lost) u h pos
  ({ member := lost, unit := u, hosts := hosts, region := 0xFFFF, palmSlots := palm, groups := c.u64 32 },
    palm + hostedParity gl.g.tmax h pos)

/-- The row of the hosting area (R224, R112): aligned, in the upper tier, free but for the area that it replaces, and within the
arena limit. -/
def State.hostingOk (s : State) (ctx : Nat) (gl : Glove) (lost base slots : Nat) : Bool :=
  let len := roundUp (slots * 4096) Config.handAlign
  let old := fun (r : Region) => r.owner == ctx && r.kind == .hosting lost
  let kept := ((s.regions.filter old).map (fun r => 2 * r.stitchCount * 4192)).sum
  let used := s.otherArenas ctx + s.arenaOf ctx gl.g.tmax - kept
  base % Config.handAlign == 0 && !addrLower base && decide (base + 2 * len ≤ tierBytes false) &&
    !s.rangeTaken false base (2 * len) old && decide (used + 2 * slots * 4192 ≤ Config.arenaMax)

/-- The key of a STANDIN collective. -/
def standinKey (ctx id : Nat) : CollKey := { ctx := ctx, step := 0, glove := id, phase := phStandin }

/-- STANDIN_ASSIGN (R222 to R224). A second command of a key that is still under way fails the row of the darns, and ends alone. -/
def State.opStandinAssign (s : State) (c : Cmd) : State :=
  let ctx := c.ctx
  let lost := c.u8 16
  if !s.ctxOpen ctx then s.post c stBadContext 0
  else match s.codedOf ctx, s.gloveOf ctx with
    | some k, some gl =>
        let first := if 16 < c.u8 17 then badField 17
          else if lost < gl.g.n ∧ gl.g.palmOf lost < c.u64 32 then badField 32 else none
        let running := (s.collOf (standinKey ctx gl.g.id)).isSome
        let plan := planDeal gl c
        let named := decide (lost < gl.g.n) && gl.lostMask.getLsbD lost && !s.darnRuns ctx lost
        let area := first.isNone && s.hostingOk ctx gl lost (c.u64 24) plan.2
        let (s, status) := s.memberRows ctx gl k first named (running || s.darnsFull) false area gl.g.place
        let hash := s.placementHash gl.g.place gl.g.n
        let rec' := s.seatRecord ctx k status gl.g.me 0 hash.toNat noLimit
        if running then s.failAlone c status
        else if !s.cu.fabric.verified then s.unverified c status gl.g.id gl.g.me 0
        else ((s.startColl c (standinKey ctx gl.g.id) gl.g.id gl.g.me gl.head (gl.live.map (fun i => (i, gl.g.coord i))) rec'.bytes
          gl.g.place).noteFailed (standinKey ctx gl.g.id) status).hold c (.standin ctx)
    | _, _ => s.post c stBadContext 0

/-- The outcome of STANDIN_ASSIGN (R222 to R224, R232): the new deal replaces an old one, and the hosting area is mapped with
every fill bit set. RESULT is the hosted palm count. -/
def State.standinOutcome (s : State) (c : Coll) (recs : List (Nat × List Byte)) (b : Block) : State :=
  let ctx := c.key.ctx
  let c := { c with recs := recs }
  if b.decision ≠ 1 then s.endColl c b.status b.member b.time 0
  else match s.gloveOf ctx with
    | none => s.endColl c stBadContext c.me b.time 0
    | some gl => match outcomeOf gl.g.tmax recs with
      | some (st, i) => s.endColl c st i b.time 0
      | none =>
        let lost := c.cmd.u8 16
        let bit : BitVec 32 := (1 : BitVec 32) <<< lost
        let plan := planDeal gl c.cmd
        let s := match gl.dealOf lost with
          | some d => s.removeRegion d.region
          | none => s
        let num := if plan.2 = 0 then none else s.freeRegion
        let s := match num with
          | some n => (s.addRegion (areaOf n (.hosting lost) false ctx (c.cmd.u64 24)
              (roundUp (plan.2 * 4096) Config.handAlign))).setFill n plan.2
          | none => s
        let deal := { plan.1 with region := num.getD 0xFFFF }
        let s := s.modGlove ctx (fun gl => { gl with
          deals := gl.deals.filter (fun d => d.member != lost) ++ [deal],
          standinMask := gl.standinMask &&& ~~~bit, filling := gl.filling ||| bit,
          filled := gl.filled.filter (fun (p : Nat × Nat) => p.1 != lost),
          lacking := gl.lacking.filter (fun (p : Nat × Nat) => p.1 != lost) })
        s.endColl c stOk 0xFF b.time plan.1.palmSlots

/-! ### Ends of darns and of single stitches -/

/-- A darn has ended on this chip (R221): the seat is filled but for the failed stitches. -/
def State.endDarn (s : State) (d : Darn) (failed stamp : Nat) : State :=
  let bit : BitVec 32 := (1 : BitVec 32) <<< d.lost
  let s := { s with darns := s.darns.filter (fun x => x != d) }
  let s := s.modGlove d.ctx (fun gl => { gl with
    filling := gl.filling &&& ~~~bit, filled := gl.filled.filter (fun (p : Nat × Nat) => p.1 != d.lost) })
  let s := s.regradeGain d.ctx
  s.endJobs (fun j => j == Job.darn d.ctx d.num) (if failed = 0 then stOk else stDarnFail) failed stamp

/-- Spare darns whose last fill bit has cleared end on the spare (R221). -/
def State.settleDarns (s : State) : State :=
  s.darns.foldl (fun s d =>
    if d.dest && !d.standin && !d.witness && (s.fillSet d.ctx d.areas).isEmpty then s.endDarn d d.failed d.lastWrite else s) s

/-- News of a darn's end reaches a chip that does not end it itself (R221): a survivor of a spare darn, or any chip of a
stand-in darn once its own hosting area is filled. -/
def State.darnEnded (s : State) (ctx num : Nat) (failed : List Nat) (stamp : Nat) : State :=
  match s.darns.find? (fun d => d.ctx == ctx && d.num == num && !d.witness) with
  | none => s
  | some d =>
    if d.dest && (!d.standin || !(s.fillSet ctx d.areas).isEmpty) then s
    else
      let s := s.modGlove ctx (fun gl => { gl with lacking := gl.lacking ++ failed.map (fun st => (d.lost, st)) })
      s.endDarn d failed.length stamp

/-- A chain's stitch is written or failed: its DARN_STITCH completes (R236) and what waited for the stitch goes on (R212). -/
def State.afterStitch (s : State) (ctx region idx : Nat) (e : ChainEnd) : State :=
  let job := fun (j : Job) => j == .darnStitch ctx region idx
  let s := match e with
    | .wrote tag => s.endJobs job stOk tag.toNat s.now
    | .failed =>
      let s := s.endJobs job stDarnFail 0 s.now
      if s.deltaWaits ctx region idx then s.leaveUnfolded ctx region idx else s
  let s := s.retryHeld (fun w => w == .fill)
  let s := s.retryDeltas
  (s.regradeGain ctx).settleDarns

/-- DARN_STITCH (R236, R479). A stitch that must wait for other stitches of its stripe (R202) keeps its command waiting. -/
def State.opDarnStitch (s : State) (c : Cmd) : State :=
  let ctx := c.ctx
  let member := c.u8 16
  let parity := c.modeBit 0
  let index := c.u64 24
  if !s.ctxOpen ctx then s.post c stBadContext 0
  else match s.codedOf ctx, s.gloveOf ctx with
    | some _, some gl =>
      if !gl.state.formed then s.post c stBadContext 0
      else if gl.g.n ≤ member then s.badParam c 16
      else if (if parity then gl.g.tmax else gl.g.palmOf member) ≤ index then s.badParam c 24
      else match s.seatAt ctx gl member parity index with
        | none => s.badParam c 16
        | some (r, i) =>
          if gl.state = .lost then s.post c stGloveLoss 0
          else
            let s := s.hold c (.darnStitch ctx r.num i)
            if (s.chainFor r.num i).isSome then s
            else
              let s := s.issueChain ctx r i .stitch
              if (s.chainFor r.num i).isNone ∧ 4 < (s.erased ctx gl (gl.g.stripeFor member parity index)).length then
                s.afterStitch ctx r.num i .failed
              else s
    | _, _ => s.post c stBadContext 0

/-- DARN_STITCH commands whose chain could not be issued yet (R202) try again. -/
def State.retryStitches (s : State) : State :=
  s.pends.foldl (fun s p => match p.job with
    | .darnStitch ctx region idx =>
      if (s.chainFor region idx).isSome then s
      else match s.region? region with
        | some r => s.issueChain ctx r idx .stitch
        | none => s.postAt p.cmd stBadContext 0 0xFF s.now
    | _ => s) s

/-- A background darn issues its next chain (R213): the unfilled stitch of the lowest stripe that no chain rebuilds yet and whose
data is in place (R202). -/
def State.backgroundChain (s : State) (ctx num : Nat) : State :=
  match s.darns.find? (fun d => d.ctx == ctx && d.num == num && d.dest), s.chainGlove ctx with
  | some d, some gl =>
    let cells := (s.fillSet ctx d.areas).filter (fun (p : Region × Nat) => (s.chainFor p.1.num p.2).isNone)
    let place := fun (p : Region × Nat) =>
      let q := s.seatOf gl p.1 p.2
      (q.1, gl.g.stripeFor q.1 q.2.1 q.2.2)
    let ready := fun (p : Region × Nat) =>
      let q := place p
      let erased := q.1 :: (s.erased ctx gl q.2).filter (· != q.1)
      decide (4 < erased.length) || (gl.g.plan q.2 q.1 erased).isSome
    match (sortOn (fun p => (place p).2) cells).find? ready with
    | none => s
    | some p =>
      let s := s.issueChain ctx p.1 p.2 (.background num)
      if (s.chainFor p.1.num p.2).isSome then s else s.afterStitch ctx p.1.num p.2 .failed
  | _, _ => s

/-- After a loss, every chain of the context whose erasure set has changed is issued again (R231, R419). -/
def State.reissueChanged (s : State) (ctx : Nat) : State :=
  s.chains.foldl (fun s c =>
    if c.ctx ≠ ctx ∨ c.hb then s
    else match s.chainGlove ctx with
      | none => s
      | some gl =>
        let now := c.member :: (s.erased ctx gl c.stripe).filter (· != c.member)
        if now = c.erased then s else s.reissue c) s

/-- A destination of a darn has been lost (R232): the spare that took the seat, or a host of a stand-in darn. The darn ends with
MEMBER_LOST, and its chains on this chip with it. -/
def State.darnLoss (s : State) (ctx member : Nat) : State :=
  let hit := fun (gl : Glove) (d : Darn) => d.ctx == ctx && !d.witness &&
    (if d.standin then (match gl.dealOf d.lost with
      | some x => x.hosts.contains member
      | none => false) else d.lost == member)
  match s.gloveOf ctx with
  | none => s
  | some gl => (s.darns.filter (hit gl)).foldl (fun s d =>
      let s := (s.chains.filter (fun c => c.ctx == ctx && c.why == .background d.num)).foldl State.dropChain s
      let s := { s with darns := s.darns.filter (fun x => x != d) }
      s.endJobs (fun j => j == Job.darn ctx d.num) stMemberLost 0 s.now) s

/-! ### EVACUATE -/

/-- EVACUATE on a survivor (R237, R238): the status, OK where the suspect is to be marked lost. -/
def State.evacuateStatus (s : State) (c : Cmd) : Nat :=
  match s.codedOf c.ctx, s.gloveOf c.ctx with
  | some k, some gl =>
    let i := c.u8 16
    let bit : BitVec 32 := (1 : BitVec 32) <<< i
    if !gl.state.formed then stBadContext
    else if gl.g.n ≤ i ∨ i = gl.g.me then stBadParam
    else if k.phase ≠ .crowned then stBusy
    else if gl.g.m < s.erasures c.ctx { gl with lostMask := gl.lostMask ||| bit, filling := gl.filling &&& ~~~bit } then stBusy
    else stOk
  | _, _ => stBadContext

/-- EVACUATE with SELF (R239, R480); SUSPECT must be zero (R451). -/
def State.opEvacuateSelf (s : State) (c : Cmd) : State :=
  if c.u8 16 ≠ 0 then s.badParam c 16 else
  (s.modCu (fun x => { x with evac := true })).post c stOk 0

/-! ### ADMIT -/

/-- The key of an ADMIT collective. -/
def admitKey (ctx id : Nat) : CollKey := { ctx := ctx, step := 0, glove := id, phase := phAdmit }

/-- Every stitch of a hosted seat is filled, as this chip sees it (R241). -/
def State.seatFilled (s : State) (ctx : Nat) (gl : Glove) (member : Nat) : Bool :=
  !gl.filling.getLsbD member && !(gl.lacking.any (fun (p : Nat × Nat) => p.1 == member)) && (match gl.dealOf member with
    | none => false
    | some d => d.hosts.all (fun h => !gl.lostMask.getLsbD h) && (match s.region? d.region with
      | none => true
      | some r => !(s.stitches.any (fun (q : Nat × Stitch) => q.1 / 2 ^ 40 == r.num && (q.2.fill || q.2.lacks))))) &&
  !s.darnRuns ctx member

/-- ADMIT on a member of the glove (R241); `first` is the first row of R217. -/
def State.admitMember (s : State) (c : Cmd) (k : Coded) (gl : Glove) (t : List Byte) (first : Option Failed) : State :=
  let ctx := c.ctx
  let seat := c.u8 16
  let named := gl.hosted seat && (s.darnRuns ctx seat || s.seatFilled ctx gl seat)
  let running := (s.collOf (admitKey ctx gl.g.id)).isSome
  let taken := s.darnRuns ctx seat || k.admission.isSome || running || s.darnsFull
  let (s, status) := s.memberRows ctx gl k first named taken true true t
  let hash := s.placementHash t gl.g.n
  let rec' := s.seatRecord ctx k status gl.g.me 0 hash.toNat noLimit
  if running then s.failAlone c status
  else ((s.startColl c (admitKey ctx gl.g.id) gl.g.id gl.g.me gl.head (gl.seatParts seat t) rec'.bytes t).noteFailed
    (admitKey ctx gl.g.id) status).hold c (.admission ctx)

/-- ADMIT on the new chip (R241). -/
def State.admitNew (s : State) (c : Cmd) (k : Coded) (x : SeatInfo) (t : List Byte) (first : Option Failed) : State :=
  let ctx := c.ctx
  let seat := c.u8 16
  let running := (s.collOf (admitKey ctx (c.u16 18))).isSome
  let (s, status) := s.spareRows ctx seat (c.u64 32) k x first (k.admission.isSome || running || s.darnsFull) t
  let hash := s.placementHash t x.n
  let rec' := s.seatRecord ctx k status seat 1 hash.toNat ((s.periodLimit ctx (c.u64 32)).getD 0)
  let live := (List.range x.n).filter (fun i => !x.lost.getLsbD i && i != seat)
  if t.isEmpty ∨ running then s.failAlone c status
  else ((s.startColl c (admitKey ctx (c.u16 18)) (c.u16 18) seat (live.head?.getD 0) (seatParts live seat t) rec'.bytes t).noteFailed
    (admitKey ctx (c.u16 18)) status).hold c (.admission ctx)

/-- ADMIT (R241). A stopped context and a chip that cannot place its record, a new chip with an unreadable table among them, end the
command on the chip alone. -/
def State.opAdmit (s : State) (c : Cmd) : State :=
  let ctx := c.ctx
  let alone := fun (s : State) =>
    let (s, _, first) := s.tableRow ctx (c.u64 24) (c.u8 16 + 1) 24
    s.spareAlone c first s.darnsFull 0
  if !s.ctxOpen ctx then s.post c stBadContext 0
  else match s.codedOf ctx with
    | none => if c.modeBit 0 then alone s else s.post c stBadContext 0
    | some k =>
      if k.stopped then s.post c stInternal 0
      else match k.glove, Tab.get s.infos ctx with
        | some gl, _ =>
          if c.modeBit 0 then alone s
          else if gl.g.id ≠ c.u16 18 then s.post c stBadContext 0
          else if s.cu.evac then s.post c stAccessDenied 0
          else
            let (s, t, first) := s.tableRow ctx (c.u64 24) gl.g.n 24
            s.admitMember c k gl t (first.or (if c.u64 32 = 0 then none else badField 32))
        | none, some x =>
          if !c.modeBit 0 then s.post c stBadContext 0
          else if x.n ≤ c.u8 16 then alone s
          else
            let (s, t, first) := s.tableRow ctx (c.u64 24) x.n 24
            s.admitNew c k x t first
        | none, none => if c.modeBit 0 then alone s else s.post c stBadContext 0

/-- The outcome of the ADMIT collective (R218, R242): hosts set their copy bits, and the new chip maps its parity area. -/
def State.admitOutcome (s : State) (c : Coll) (recs : List (Nat × List Byte)) (b : Block) : State :=
  let ctx := c.key.ctx
  let c := { c with recs := recs }
  let seat := c.cmd.u8 16
  let adm := fun (isNew : Bool) (region step : Nat) =>
    ({ member := seat, isNew := isNew, glove := c.group, place := c.place, base := c.cmd.u64 32, region := region, step := step,
       handover := none } : Admission)
  if b.decision ≠ 1 then s.endColl c b.status b.member b.time 0
  else match s.codedOf ctx, s.gloveOf ctx with
    | some k, some gl => match outcomeOf gl.g.tmax recs with
      | some (st, i) => s.endColl c st i b.time 0
      | none =>
        let s := match (gl.dealOf seat).bind (fun d => s.region? d.region) with
          | some r =>
            let d := (gl.dealOf seat).getD { member := seat, unit := 1, hosts := [], region := 0, palmSlots := 0, groups := 0 }
            let n := d.palmSlots + hostedParity gl.g.tmax d.hosts.length (d.pos gl.g.me)
            (List.range n).foldl (fun (s : State) i => s.modStitch r.num i (fun x => { x with copy := true })) s
          | none => s
        s.modCoded ctx (fun k => { k with admission := some (adm false 0xFFFF k.c.toNat) })
    | some k, none => match Tab.get s.infos ctx with
      | none => s.endColl c stBadContext c.me b.time 0
      | some x =>
        let tmax := field x.shape 8 8
        match outcomeOf tmax recs with
        | some (st, i) => s.endColl c st i b.time 0
        | none =>
          let num := if tmax = 0 then none else s.freeRegion
          let s := match num with
            | some n => s.addRegion (areaOf n .parity false ctx (c.cmd.u64 32) (roundUp (tmax * 4096) Config.handAlign))
            | none => s
          s.modCoded ctx (fun k => { k with admission := some (adm true (num.getD 0xFFFF) k.c.toNat) })
    | none, _ => s

/-- A host sends its next copy (R242): the crowned hand as a one-link chain with coefficient 1, in a DARN_DONE. Copies pause in the
crown guard (R206) and between a crown and its sweep. -/
def State.sendCopy (s : State) (ctx : Nat) : State :=
  match s.admitRegion ctx, s.codedOf ctx with
  | some (a, gl, r), some k =>
    let stripe := fun (i : Nat) => let q := s.seatOf gl r i
      gl.g.stripeFor q.1 q.2.1 q.2.2
    let flying := fun (i : Nat) => s.sent.any (fun x => x.ctx == ctx && x.msg.type == tDarnDone && x.member == 0xFD &&
      x.msg.chStripe == stripe i)
    if s.inGuard ctx ∨ k.sweeping then s
    else match (s.copySet ctx).find? (fun i => !flying i) with
      | none => s
      | some i => match s.gloveTerm ctx gl a.member (stripe i) with
        | (s, none) => s
        | (s, some (d, tag, key)) =>
          let lane := match key with
            | some p => s.codeLane p
            | none => 0
          let unit := keyInst (r.handKey i false)
          if s.inst[unit].test.running then s
          else match s.checked unit lane pChain d with
          | (s, none) => s
          | (s, some d) =>
            s.send unit.val ctx 0xFD (placeCoord a.place a.member) (mkWire tDarnDone 0 ctx gl.g.id a.member
              (chainBody (chainWord (stripe i) [a.member] k.c.toNat 0 false) tag 0) (padTo 4096 d))
  | _, _ => s

/-- The acknowledgement of a copy clears the copy bit of its stitch (R242). -/
def State.copyAcked (s : State) (src : Coord) (w : Wire) : State :=
  match s.admitRegion w.cCtx with
  | none => s
  | some (a, gl, r) =>
    let mine := fun (x : Sent) => x.ctx == w.cCtx && x.msg.type == tDarnDone && x.member == 0xFD && x.dst == src && x.msg.matches w
    if !s.sent.any mine then s
    else
      let role := gl.g.roleIn a.member w.chStripe
      match s.seatAt w.cCtx gl a.member role.1 role.2 with
      | some (q, i) => if q.num = r.num then s.modStitch r.num i (fun x => { x with copy := false }) else s
      | none => s

/-- The newest step at or after `last` with a residue modulo 4 (R418). -/
def stepFrom (last r : Nat) : Nat := last + (r + 4 - last % 4) % 4

/-- The new chip writes a copied stitch into its crowned hand (R242). -/
def State.takeCopy (s : State) (src : Coord) (w : Wire) (a : Admission) (gl : Glove) : State :=
  let ctx := w.cCtx
  let ack := fun (s : State) => (s.remember src w).reply src (w.answer tDarnPart 1 a.member)
  if w.chSeat 0 ≠ a.member then ack s
  else
    let role := gl.g.roleIn a.member w.chStripe
    let cell := if role.1 then (s.region? a.region).map (fun r => (r, role.2)) else s.palmAt ctx role.2
    match cell with
    | none => ack s
    | some (r, i) =>
      let step := stepFrom a.step w.chStep
      let s := s.writeRebuilt ctx r i role.1 step (padTo 4096 w.payload) w.solve
      let s := s.modCoded ctx (fun k => { k with admission := k.admission.map (fun a => { a with step := step }) })
      ack s

/-- The last copy of the handover has been acknowledged everywhere (R243): members take the new table and drop their hosting
areas; the new chip takes the seat, C, A and the bank with its KEY. ADMIT completes with the stamp T. -/
def State.finishHandover (s : State) (ctx : Nat) : State :=
  match s.codedOf ctx with
  | none => s
  | some k => match k.admission with
    | none => s
    | some a =>
      let bit : BitVec 32 := (1 : BitVec 32) <<< a.member
      let done := fun (s : State) (t : Nat) =>
        (s.modCoded ctx (fun k => { k with admission := none })).endJobs (fun j => j == Job.admission ctx) stOk 0 t
      match k.glove, a.isNew, Tab.get s.infos ctx with
      | some gl, false, _ =>
        if a.handover.isNone ∨ k.sweeping ∨ !(s.copySet ctx).isEmpty then s
        else
          let hash := s.placementHash a.place gl.g.n
          let s := match gl.dealOf a.member with
            | some d => s.removeRegion d.region
            | none => s
          let s := s.modGlove ctx (fun gl =>
            let g := { gl.g with place := a.place, placeInv := invBytes a.place, placeHash := hash }
            let hosted := gl.standinMask &&& ~~~bit
            { gl with g := g, lostMask := gl.lostMask &&& ~~~bit, standinMask := hosted,
                      deals := gl.deals.filter (fun d => d.member != a.member),
                      state := if gl.state = .standin ∧ hosted = 0 then .ready else gl.state })
          done s (a.handover.getD s.now)
      | none, true, some x =>
        let hash := s.placementHash a.place x.n
        let (s, bank) := s.checkBank ctx x.bank
        let gl := seatGlove { x with bank := bank } a.glove a.member a.place hash a.base a.region
        let gl := { gl with lostMask := gl.lostMask &&& ~~~bit, standinMask := gl.standinMask &&& ~~~bit,
                            deals := gl.deals.filter (fun d => d.member != a.member) }
        let lead := leadRecord bank a.member
        let s := s.modCoded ctx (fun k => k.takeSeat gl x.attempt ((lead.map cuffStep).getD a.step) bank)
        let gl' := s.gloveOf ctx
        let e := match gl' with
          | some gl => s.erasures ctx gl
          | none => 0
        let s := s.modGlove ctx (fun gl => { gl with
          state := if gl.g.m < e then .lost else if 0 < e then .degraded else if gl.standinMask = 0 then .ready else .standin })
        done { s with infos := Tab.del s.infos ctx, darns := s.darns ++ seatDarns x ctx s.now } ((lead.map cuffTime).getD s.now)
      | _, _, _ => s

/-- The chips that an admission runs on beside this one and a lost seat, as this chip addresses them: the members not marked lost, and
the new chip under 0xFD. -/
def State.admitPeers (s : State) (ctx : Nat) (a : Admission) (lost : Nat) : List (Nat × Coord) :=
  let live := match s.gloveOf ctx, Tab.get s.infos ctx with
    | some gl, _ => gl.live.filter (fun i => i != gl.g.me)
    | none, some x => (List.range x.n).filter (fun i => !x.lost.getLsbD i)
    | none, none => []
  ((live.filter (fun i => i != a.member && i != lost)).map (fun i => (i, placeCoord a.place i))) ++
    (if a.isNew ∨ lost = a.member then [] else [(0xFD, placeCoord a.place a.member)])

/-- The admission ends with MEMBER_LOST before its handover is complete (R244): the seat stays hosted. `lost` is the seat of the new chip
or of a host, found lost by a cause of R496. The chip that finds the loss tells the others with an ABORT of phase ADMIT (DEDUCED, log entry
97); the fault is raised here unless R194 has marked a member of this chip's glove with it (R14). -/
def State.endAdmission (s : State) (ctx lost cause : Nat) : State :=
  match s.codedOf ctx with
  | none => s
  | some k => match k.admission with
    | none => s
    | some a =>
      let me := match s.gloveOf ctx with
        | some gl => gl.g.me
        | none => a.member
      let s := if cause = lostNotice then s
        else (s.admitPeers ctx a lost).foldl (fun s p => s.send cuUnit ctx p.1 p.2
          (mkWire tAbort 0 ctx a.glove me (abortBody 0 phAdmit stMemberLost lost s.now) [])) s
      let s := if (s.gloveOf ctx).isSome ∧ lost ≠ a.member then s
        else s.statusFault ctx stMemberLost { id := a.glove, member := lost, phase := phAdmit, opcode := 0x34, cause := cause, step := 0 }
      let s := match s.admitRegion ctx with
        | some (_, _, r) => (s.copySet ctx).foldl (fun (s : State) i => s.modStitch r.num i (fun x => { x with copy := false })) s
        | none => s
      let s := if a.isNew then s.removeRegion a.region else s
      let s := s.dropSent (fun x => x.ctx == ctx && x.member == 0xFD)
      let s := s.modCoded ctx (fun k => { k with admission := none })
      s.endJobs (fun j => j == Job.admission ctx) stMemberLost 0 s.now

/-- A member's loss ends an admission whose seat it hosts (R244). -/
def State.admitLoss (s : State) (ctx member cause : Nat) : State :=
  match s.codedOf ctx with
  | none => s
  | some k => match k.admission, k.glove with
    | some a, some gl => match gl.dealOf a.member with
      | some d => if d.hosts.contains member then s.endAdmission ctx member cause else s
      | none => s
    | some a, none => match Tab.get s.infos ctx with
      | some x => if x.deals.any (fun (d : Nat × Nat × List Nat × Nat) => d.1 == a.member && d.2.2.1.contains member) then
          s.endAdmission ctx member cause else s
      | none => s
    | _, _ => s

end Sys2Proof.Machine
end

