-- ==== Sys2Proof/Machine/Recovery.lean ====
section
/-! DEFINITION. Configuring a hatbox group (R245 to R250), HATBOX_WRITE (R256, R259, R481), and restoring a step from a slot
(R268 to R276). -/

namespace Sys2Proof.Machine

/-! ### HATBOX_WRITE -/

/-- The key of an HBCONF collective. -/
def hbKey (ctx id : Nat) : CollKey := { ctx := ctx, step := 0, glove := id, phase := phHbconf }

/-- A context's own hatbox area. -/
def ownArea (ctx : Nat) (r : Region) : Bool := r.kind == .hatbox && r.owner == ctx

/-- The period-count limit of a hatbox area at a base of the lower tier (R247); none where not even the sequence fits. -/
def State.hbLimit (s : State) (ctx base seq : Nat) : Option Nat :=
  let lows := s.regions.filter (fun r => r.lower && !ownArea ctx r)
  if lows.any (fun r => decide (r.base ≤ base ∧ base < r.base + r.span)) then none
  else
    let free := (lows.filter (fun r => decide (base ≤ r.base))).foldl (fun m r => Nat.min m (r.base - base)) (tierBytes true - base)
    let pages := free / 2 / 65536 * 16
    if pages < seq + 1 then none else some (pages - seq - 1)

/-- The packet byte of the first field outside its range of R246 and R122 for a group. -/
def groupBad (n m least : Nat) (q : List Nat) (minInterval : Nat) : Option Nat :=
  (geometryBad 64 n m least q).or (if 86400 < minInterval then some 28 else none)

/-- A member of a group holds a valid seal record in either slot (R249). -/
def State.holdsSeal (s : State) (ctx : Nat) (h : HbGroup) : State × Bool :=
  let (s, a) := s.slotSeal ctx h false
  let (s, b) := s.slotSeal ctx h true
  (s, a != 0 || b != 0)

/-- CONFIGURE without CLEAR would change this member's part of the group's shape while the member holds a valid seal record (R249). The
member says so in its record, so that the whole group learns it; a change that only other members bring is found at the outcome
(DEDUCED, log entry 96). -/
def State.ownShapeSealed (s : State) (c : Cmd) (seq : Nat) : State × Bool :=
  match s.hbOf c.ctx with
  | none => (s, false)
  | some h =>
    let same := h.g.n == c.u8 18 && h.g.m == c.u8 19 && h.g.me == c.u8 20 && h.seqLen == seq &&
      (s.layoutHash c.ctx).toNat == h.g.layoutOf h.g.me
    if same ∨ c.modeBit 2 then (s, false) else s.holdsSeal c.ctx h

/-- The local checks of CONFIGURE (R247, R126): the first status, or none. -/
def State.confCheck (s : State) (c : Cmd) (seq : Nat) (t : List Byte) : State × Option Failed :=
  let ctx := c.ctx
  let n := c.u8 18
  let m := c.u8 19
  let q := (List.range 4).map (fun i => c.u8 (21 + i))
  if !placeClean t (if n ≤ 64 then n else 0) then (s, badField 48)
  else if let some i := groupBad n m s.cu.fuses.mMin q (c.u32 28) then (s, badField i)
  else if c.u16 16 = 0xFFFF ∨ s.coded.any (fun p => p.2.ctx != ctx && (match p.2.hb with
      | some h => h.g.id == c.u16 16
      | none => false)) then (s, badField 16)
  else if (placeCoords t n).eraseDups.length ≠ n then (s, badField 48)
  else if n ≤ c.u8 20 then (s, badField 20)
  else if !s.cu.fabric.verified ∨ placeCoord t (c.u8 20) ≠ s.cu.fabric.coord then (s, failWith stGeometry)
  else match s.checkDomains ctx (limitsOf m q) t n true with
    | (s, false) => (s, failWith stDomain)
    | (s, true) =>
      if c.u64 40 % 65536 ≠ 0 ∨ (s.hbLimit ctx (c.u64 40) seq).isNone then (s, badField 40)
      else match s.ownShapeSealed c seq with
        | (s, true) => (s, failWith stGeometry)
        | (s, false) => (s, none)

/-- Work that keeps a CONFIGURE out (R250). -/
def Coded.hbBusy (k : Coded) : Bool :=
  (match k.hb with
    | some h => h.copying
    | none => false) || k.restore.isSome || (match k.image with
    | some j => !j.isImport && j.source != 0
    | none => false)

/-- HATBOX_WRITE with mode CONFIGURE (R245 to R250, R481). A table that cannot be read ends it on the chip alone, as R575 ends
GLOVE_FORM. -/
def State.opConfigure (s : State) (c : Cmd) : State :=
  let ctx := c.ctx
  let n := c.u8 18
  let me := c.u8 20
  match s.codedOf ctx with
  | none => s.post c stBadContext 0
  | some k =>
    if k.stopped then s.post c stInternal 0
    else if k.hbBusy ∨ (s.collOf (hbKey ctx (c.u16 16))).isSome then s.post c stBusy 0
    else match s.readPlacement ctx (c.u64 48) (if n ≤ 64 then n else 0) with
      | (s, none) => s.badParam c 48
      | (s, some t) =>
        let seq := seqLength (lanesUpper s.lanesWord) (s.palmCount ctx)
        let (s, status) := s.confCheck c seq t
        if n < 4 ∨ 64 < n ∨ n ≤ me then s.failAlone c status
        else
          let keeps := match k.hb with
            | some h => h.g.base == c.u64 40 && h.seqLen == seq && h.g.n == n && h.g.m == c.u8 19
            | none => false
          let rec' : GroupRec := match status with
            | none =>
              { verdict := 1, status := 0, member := me, c := k.c.toNat, seq := seq, layout := (s.layoutHash ctx).toNat,
                place := (s.placementHash t n).toNat, tlim := if keeps then noLimit else (s.hbLimit ctx (c.u64 40) seq).getD 0 }
            | some st =>
              { verdict := 3, status := st.1, member := me, c := 0, seq := 0, layout := 0, place := 0, tlim := 0 }
          let parts := (List.range n).map (fun i => (i, placeCoord t i))
          ((s.startColl c (hbKey ctx (c.u16 16)) (c.u16 16) me 0 parts rec'.bytes t).noteFailed (hbKey ctx (c.u16 16)) status).hold c
            (.hbConf ctx)

/-- The outcome rule of R247 over the group records: a status with the member that gave or broke it, or none. -/
def groupOutcome (th : Nat) (recs : List (Nat × List Byte)) : Option (Nat × Nat) :=
  match firstStatus recs with
  | some x => some (x.2, x.1)
  | none => match differAt recs 0x20 with
    | some i => some (stGeometry, i)
    | none => match differAt recs 8 with
      | some i => some (stSkew, i)
      | none => match recs.find? (fun (p : Nat × List Byte) => decide (field p.2 0x28 8 < th)) with
        | some p => some (stBadParam, p.1)
        | none => none

/-- The group that a CONFIGURE makes. -/
def confGroup (c : Coll) (m th : Nat) (shape : List Byte) (hash : Word) (region : Nat) : Group :=
  let key := BitVec.ofNat 128 (field c.place 0 16)
  { id := c.group, n := c.cmd.u8 18, m := m, me := c.me, q := limitsOf m ((List.range 4).map (fun i => c.cmd.u8 (21 + i))),
    tagKey := key, tagKeyInv := ~~~key, shape := shape, shapeInv := invBytes shape, place := c.place,
    placeInv := invBytes c.place, placeHash := hash, geomHash := sha384Word shape, tmax := th, base := c.cmd.u64 40,
    region := region, noticeRing := 0xFFFF }

/-- A slot of the old group seals a step that the new shape could not read (R249): only without CLEAR, and with another hash. The
records of HBCONF carry no seal, so each member answers for its own (DEDUCED, log entry 96). -/
def State.sealsOther (s : State) (k : Coded) (hash : Word) (clear : Bool) : State × Bool := match k.hb with
  | some h => if h.g.geomHash = hash ∨ clear then (s, false) else s.holdsSeal k.ctx h
  | none => (s, false)

/-- The group takes its area: the same one, or one newly mapped under the number `num` (R254, R382). -/
def State.placeArea (s : State) (ctx num base len : Nat) (same : Bool) : State :=
  if same then s.modRegion num (fun r => { r with len := len }) else s.addRegion (areaOf num .hatbox true ctx base len)

/-- The group that the members have agreed on stands (R247 to R249, R382): its area is newly mapped unless its base stands, and
CLEAR invalidates both seal records. -/
def State.makeGroup (s : State) (c : Coll) (k : Coded) (th time : Nat) : State :=
  let ctx := c.key.ctx
  let n := c.cmd.u8 18
  let m := c.cmd.u8 19
  let clear := c.cmd.modeBit 2
  let layouts := (List.range n).map (fun i => (readGroup (Tab.getD c.recs i [])).layout)
  let shape := shapeBytes 0x47484450 64 n m th ((List.range n).map (fun i => (readGroup (Tab.getD c.recs i [])).seq)) layouts
  let hash := sha384Word shape
  let own := (readGroup (Tab.getD c.recs c.me [])).seq
  let len := 2 * slotBytes own th
  let (s, sealed) := s.sealsOther k hash clear
  let same : Bool := match k.hb with
    | some h => h.g.base == c.cmd.u64 40
    | none => false
  if sealed then s.endColl c stGeometry c.me time 0
  else if same ∧ s.rangeTaken true (c.cmd.u64 40) len (ownArea ctx) then s.endColl c stBadParam c.me time 0
  else
    let old := match k.hb with
      | some h => h.g.region
      | none => 0xFFFF
    let s := if same then s else s.removeRegion old
    let num := if same then some old else s.freeRegion
    match num with
    | none => s.endColl c stBusy c.me time 0
    | some num =>
      let s := s.placeArea ctx num (c.cmd.u64 40) len same
      let g := confGroup c m th shape (s.placementHash c.place n) num
      let least := if c.cmd.u32 28 = 0 then 60 else c.cmd.u32 28
      let h : HbGroup := { g := g, schedule := c.cmd.u64 32, minInterval := least * 1000000000, seqLen := own, copy := none }
      let s := s.modCoded ctx (fun k => { k with hb := some h, restoredSlot := none })
      let s := if clear then (s.storePage (h.sealKey false) zeroPage noTags).storePage (h.sealKey true) zeroPage noTags else s
      s.endColl c stOk 0xFF time hash.toNat

/-- The outcome of CONFIGURE (R247). -/
def State.confOutcome (s : State) (c : Coll) (recs : List (Nat × List Byte)) (b : Block) : State :=
  let c := { c with recs := recs }
  let seqs := recs.map (fun (p : Nat × List Byte) => (readGroup p.2).seq)
  let th := periodCount (c.cmd.u8 18) (c.cmd.u8 19) (seqs.foldl Nat.max 0)
  if b.decision ≠ 1 then s.endColl c b.status b.member b.time 0
  else match s.codedOf c.key.ctx with
    | none => s
    | some k => match groupOutcome th recs with
      | some (st, i) => s.endColl c st i b.time 0
      | none => s.makeGroup c k th b.time

/-- HATBOX_WRITE with mode WRITE (R256, R259, R481). -/
def State.opHbRequest (s : State) (c : Cmd) : State :=
  let ctx := c.ctx
  match s.codedOf ctx with
  | none => s.post c stBadContext 0
  | some k =>
    if k.stopped then s.post c stInternal 0
    else if k.hb.isNone then s.post c stBadContext 0
    else (s.modCoded ctx (fun k => { k with hbReq := true })).hold c (.hbWrite ctx false)

/-- HATBOX_WRITE (R481): OP 0 writes, 1 configures, and other values are refused. -/
def State.opHatboxWrite (s : State) (c : Cmd) : State :=
  if !s.ctxOpen c.ctx then s.post c stBadContext 0
  else if c.mode % 4 = 0 then s.opHbRequest c
  else s.badParam c 3

/-! ### HATBOX_RESTORE: the vote (R268 to R270) -/

/-- The key of a RESTORE collective: job-wide, under X as named. -/
def restoreKey (ctx x : Nat) : CollKey := { ctx := ctx, step := x, glove := 0xFFFF, phase := phRestore }

/-- This chip's record of a RESTORE (R425): the steps of its valid seals. -/
def restoreRec (me a b : Nat) : List Byte :=
  (GroupRec.mk 1 0 me a b 0 0 0).bytes

/-- HATBOX_RESTORE (R268, R269). A LOST glove is dropped at acceptance. -/
def State.opRestore (s : State) (c : Cmd) : State :=
  let ctx := c.ctx
  let x := c.u64 16
  if !s.ctxOpen ctx then s.post c stBadContext 0
  else match s.codedOf ctx with
    | none => s.post c stBadContext 0
    | some k => match k.hb with
      | none => s.post c stBadContext 0
      | some h =>
        let dropped := match k.glove with
          | some g => g.state == .lost
          | none => true
        if k.phase ≠ .crowned then s.post c stBusy 0
        else if !dropped then s.post c stBadContext 0
        else if h.copying ∨ k.image.isSome ∨ k.restore.isSome ∨ (s.collOf (restoreKey ctx x)).isSome then s.post c stBusy 0
        else match s.readTable ctx (c.u64 32) with
          | (s, none) => s.badParam c 32
          | (s, some (_, entries)) =>
            let own := (List.range entries.length).filter (fun e => (entries.getD e (0, ⟨0, 0, 0⟩)).1 == h.g.id)
            match own with
            | [e] => match h.g.memberAt (entries.getD e (0, ⟨0, 0, 0⟩)).2 with
              | none => s.badParam c 32
              | some head =>
                if !s.bufferOk ctx (c.u64 40) 1024 then s.badParam c 40
                else
                  let s := s.dropGlove ctx
                  let (s, a) := s.slotSeal ctx h false
                  let (s, b) := s.slotSeal ctx h true
                  let r : Restore :=
                    { want := x, entries := entries, mine := e, report := c.u64 40, voteStart := c.u64 24, decided := none,
                      slot := false, next := 0, recs := [], kids := [], sentUp := false, lastWrite := s.now, header := none }
                  let s := s.modCoded ctx (fun k => { k with restore := some r })
                  let parts := (List.range h.g.n).map (fun i => (i, h.g.coord i))
                  (s.startColl c (restoreKey ctx x) h.g.id h.g.me head parts (restoreRec h.g.me a b) []).hold c (.restore ctx)
            | _ => s.badParam c 32

/-- A step that a slot's records seal in a group (R267): it stands in at least n − m records at offset `off`. -/
def slotQuorum (h : HbGroup) (recs : List (Nat × List Byte)) (off : Nat) : Nat :=
  let steps := recs.map (fun (p : Nat × List Byte) => field p.2 off 8)
  (steps.find? (fun x => x != 0 && decide (h.g.n - h.g.m ≤ (steps.filter (fun y => y == x)).length))).getD 0

/-- The quorum steps of a group, at most two (R270). -/
def quorumSteps (h : HbGroup) (recs : List (Nat × List Byte)) : List Nat :=
  ([slotQuorum h recs 8, slotQuorum h recs 0x10].filter (fun x => x != 0)).eraseDups

/-- A combined RESTORE record (R425): Q1, Q2, and the smallest and the largest newest quorum step below. -/
def combinedRec (qs : List Nat) (lo hi : Nat) : List Byte :=
  (GroupRec.mk 1 0 0 (qs.getD 0 0) (qs.getD 1 0) lo hi 0).bytes

/-- The child entries of this chip's restore-table entry (R167). -/
def Restore.childEntries (r : Restore) : List Nat :=
  ((List.range 8).map (fun i => 8 * r.mine + 1 + i)).filter (fun e => decide (e < r.entries.length))

/-- A RESTORE record that carries a status (R425). It holds the band time of the abort in the place of Q1, so that every participant
ends with one stamp (R429, R432; DESIGN CHOICE, log entry 30). -/
def restoreStatus (status time : Nat) : List Byte := (GroupRec.mk 3 status 0 time 0 0 0 0).bytes

/-- What a node combines from its group's records and its child entries: the first status among them with its record, or the combined
record. -/
def Restore.combine (r : Restore) (h : HbGroup) (recs : List (Nat × List Byte)) : Nat × List Byte :=
  match (recs ++ sortOn (fun (p : Nat × List Byte) => p.1) r.kids).find? (fun (p : Nat × List Byte) => field p.2 0 1 == 3) with
  | some x => (field x.2 1 1, padTo 48 x.2)
  | none =>
    let qs := quorumSteps h recs
    let newest := qs.foldl Nat.max 0
    let kid := fun (p : Nat × List Byte) => [field p.2 8 8, field p.2 0x10 8]
    let both := qs.filter (fun x => r.kids.all (fun p => (kid p).contains x))
    let lo := (r.kids.map (fun (p : Nat × List Byte) => field p.2 0x18 8)).foldl Nat.min newest
    let hi := (r.kids.map (fun (p : Nat × List Byte) => field p.2 0x20 8)).foldl Nat.max newest
    (0, combinedRec both lo hi)

/-- The root's decision (R270, R425): the step, or the status of the abort. No quorum step anywhere answers SEAL_INCOMPLETE. -/
def decideRestore (want : Nat) (r : List Byte) : Nat × Nat :=
  let q1 := field r 8 8
  let q2 := field r 0x10 8
  let lo := field r 0x18 8
  let hi := field r 0x20 8
  if want = 0 then
    if lo ≠ hi then (stSkew, 0) else if lo = 0 then (stSealIncomplete, 0) else (0, lo)
  else if want = q1 ∨ want = q2 then (0, want) else (stSealIncomplete, 0)

/-- The block of a decided restore. -/
def restoreBlock (status x time : Nat) : Block :=
  if status = 0 then { proceedBlock time with step := x } else abortBlock status time

/-- A node passes a decision down (R428): to the members of its group, and to its child entries with its group's records. -/
def State.restoreDown (s : State) (c : Coll) (r : Restore) (b : Block) : State :=
  let s := s.sendDecision c b
  r.childEntries.foldl (fun s e =>
    let dst := (r.entries.getD e (0, ⟨0, 0, 0⟩)).2
    s.send cuUnit c.key.ctx 0xFF dst (mkWire tCrown 0 c.key.ctx 0xFFFF 0xFF (collBody c.key.step phRestore r.mine)
      (collPage phRestore c.recs b.bytes))) s

/-- The STEP_SKEW report of a group (R270): for each of 64 members the steps of its seals in slots A and B. -/
def skewReport (recs : List (Nat × List Byte)) : List Byte :=
  ((List.range 64).map (fun i => let r := Tab.getD recs i []
    slice r 8 8 ++ slice r 0x10 8)).flatten

/-- The restore ends on this member. -/
def State.endRestore (s : State) (ctx status result stamp : Nat) : State :=
  let s := { s with chains := s.chains.filter (fun c => !(c.ctx == ctx && c.hb && c.why == Purpose.restore)) }
  let s := (s.dropSent (fun x => x.ctx == ctx && x.msg.type == tDarnReq && x.msg.chHb)).dropQueued
    (fun x => x.ctx == ctx && x.msg.type == tDarnReq && x.msg.chHb)
  let s := s.modCoded ctx (fun k => { k with restore := none })
  s.endJobs (fun j => j == Job.restore ctx) status result stamp

/-- A decision reaches a member (R270): the restore goes on with the step and its slot, or ends with the abort's status. A copy that
its quorum let stand ends with the decision, since the restore takes the slots as they are sealed. -/
def State.restoreOutcome (s : State) (c : Coll) (recs : List (Nat × List Byte)) (b : Block) : State :=
  let ctx := c.key.ctx
  match s.codedOf ctx with
  | none => s
  | some k => match k.hb, k.restore with
    | some h, some r =>
      if b.decision ≠ 1 then
        let s := if b.status = stSkew then s.bufferWrite r.report (skewReport recs) else s
        let s := s.collFault c b.status b.member
        s.endRestore ctx b.status 0 b.time
      else
        let slot := slotQuorum h recs 8 != b.step
        let s := s.modCoded ctx (fun k => k.modHb (fun h => { h with copy := none }))
        let s := s.modCoded ctx (fun k => { k with restoredSlot := some (slot, b.step), restore := k.restore.map (fun r =>
          { r with decided := some b.step, slot := slot, recs := recs, next := 0, lastWrite := s.now }) })
        if (s.layoutHash ctx).toNat ≠ h.g.layoutOf h.g.me then
          let s := s.raise cuUnit fGeometry (packWord [(0, h.g.id), (16, h.g.me), (24, c.cmd.opcode), (32, ctx)]) 3
          s.endRestore ctx stGeometry 0 s.now
        else s
    | _, _ => s

/-! ### HATBOX_RESTORE: the pieces (R271 to R274) -/

/-- The members whose seal of the decided slot names another step, or none (R271). -/
def Restore.absentMembers (r : Restore) (h : HbGroup) : List Nat :=
  let off := if r.slot then 0x10 else 8
  (List.range h.g.n).filter (fun i => some (field (Tab.getD r.recs i []) off 8) != r.decided)

/-- A piece of this member's slot as the restore reads it; none where it is absent (R271). -/
def State.presentPiece (s : State) (ctx : Nat) (h : HbGroup) (r : Restore) (pos : Nat) : State × Option (List Byte × Word) :=
  if (r.absentMembers h).contains h.g.me then (s, none) else s.readStored ctx h r.slot pos

/-- A piece that cannot be had ends the restore with DARN_FAIL, status and fault (R14, R272). -/
def State.failPiece (s : State) (ctx : Nat) (h : HbGroup) (pos : Nat) : State :=
  (s.raise cuUnit fDarnFail (packWord [(0, h.g.id), (16, h.g.me), (32, ctx)])
    (packWord [(0, stripeOf h.g.n h.g.m h.g.me pos % 2 ^ 26), (32, 1)])).endRestore ctx stDarnFail 0 s.now

/-- The header stitch is at hand (R252, R269): a cuff record that fails its check ends the restore with DARN_FAIL, and other
enabled lane counts end it with LANE_MISMATCH. -/
def State.takeHeader (s : State) (ctx : Nat) (h : HbGroup) (data : List Byte) : State :=
  let cuff := slice data 0 256
  if !cuffOk cuff then
    let s := s.raise cuUnit fHandmap (packWord [(0, 9), (8, ctx), (32, ctx)]) 0
    s.failPiece ctx h 0
  else if cuffLanes cuff ≠ s.lanesWord.toNat then
    let s := s.raise cuUnit fLane (packWord [(0, h.g.id), (16, h.g.me), (24, 0x41), (32, ctx)]) s.lanesWord
    s.endRestore ctx stLane 0 s.now
  else s.modCoded ctx (fun k => { k with restore := k.restore.map (fun r =>
    { r with header := some data, next := if r.next = 0 then 1 else r.next }) })

/-- Write a data piece into the left hand of its palm stitch (R273). -/
def State.restorePalm (s : State) (ctx : Nat) (pos : Nat) (data : List Byte) (tag : Word) : State :=
  match seqPalm (lanesUpper s.lanesWord) (s.palmCount ctx) pos with
  | none => s
  | some p => match s.palmAt ctx p with
    | none => s
    | some (r, i) =>
      let s := (s.neverPages (r.handKey i true) 1)
      let s := if tag = 0 then s.neverPages (r.handKey i false) 1
        else s.storePage (r.handKey i false) data { step := tag, stripe := 0, mask := 0, hand := handGen false, attempt := 0 }
      let s := s.modStitch r.num i (fun _ => Stitch.mapped)
      s.modCoded ctx (fun k => { k with restore := k.restore.map (fun r => { r with lastWrite := s.now }) })

/-- Every piece is written: C = X, A = 0, the header's KEY is driven, and the cuff record is kept for GLOVE_FORM (R274, R275). -/
def State.finishRestore (s : State) (ctx : Nat) (x : Nat) (header : List Byte) (stamp : Nat) : State :=
  let cuff := slice header 0 256
  let w : Word := BitVec.ofNat 64 x
  let s := s.modCoded ctx (fun k => { ((k.setC w).setS w) with
    key := cuffKey cuff, attempt := 0, phase := .crowned, glove := none, restored := some cuff, current := false, bank0 := [],
    bank1 := [], byCrown := false, crownTime := cuffTime cuff, badHand := false, groupsHash := 0, hostedHash := [] })
  s.endRestore ctx stOk x stamp

/-- The restore is complete when no position and no chain is left (R274). -/
def State.checkRestore (s : State) (ctx : Nat) : State :=
  match s.codedOf ctx with
  | none => s
  | some k => match k.hb, k.restore with
    | some h, some r => match r.decided, r.header with
      | some x, some d =>
        if !s.cu.fwFault ∧ h.seqLen ≤ r.next ∧ !(s.chains.any (fun c => c.ctx == ctx && c.hb && c.why == Purpose.restore)) then
          s.finishRestore ctx x d r.lastWrite
        else s
      | _, _ => s
    | _, _ => s

/-- An absent piece is rebuilt by a chain (R272); one that no chain can rebuild ends the restore with DARN_FAIL. -/
def State.rebuildPiece (s : State) (ctx : Nat) (h : HbGroup) (r : Restore) (pos x : Nat) : State :=
  let flying := fun (s : State) => s.chains.any (fun c => c.ctx == ctx && c.hb && c.idx == pos)
  if flying s then s
  else
    let s := s.issuePiece ctx h pos (r.absentMembers h) x
    if flying s then s.modCoded ctx (fun k => { k with restore := k.restore.map (fun r =>
      { r with next := if pos = 0 then r.next else r.next + 1 }) })
    else s.failPiece ctx h pos

/-- The next position of a decided restore (R271 to R274): the header stitch first, then the data pieces in order. After FW_FAULT none
is taken (R29). -/
def State.restorePiece (s : State) (ctx : Nat) : State :=
  if s.cu.fwFault then s
  else match s.codedOf ctx with
  | none => s
  | some k => match k.hb, k.restore with
    | some h, some r => match r.decided with
      | none => s
      | some x =>
        let s := s.useGroup ctx h.g
        if s.pieceTested ctx h r.slot (if r.header.isNone then 0 else r.next) then s
        else if r.header.isNone then match s.presentPiece ctx h r 0 with
          | (s, some (d, _)) => (s.takeHeader ctx h d).checkRestore ctx
          | (s, none) => s.rebuildPiece ctx h r 0 x
        else if h.seqLen ≤ r.next then s.checkRestore ctx
        else if (seqPalm (lanesUpper s.lanesWord) (s.palmCount ctx) r.next).isNone then
          (s.modCoded ctx (fun k => { k with restore := k.restore.map (fun r => { r with next := r.next + 1 }) })).checkRestore ctx
        else match s.presentPiece ctx h r r.next with
          | (s, some (d, t)) =>
            let s := s.restorePalm ctx r.next d t
            (s.modCoded ctx (fun k => { k with restore := k.restore.map (fun r => { r with next := r.next + 1 }) })).checkRestore ctx
          | (s, none) => s.rebuildPiece ctx h r r.next x
    | _, _ => s

/-- A restore chain's result (R272): a piece that fails its checks ends the restore with DARN_FAIL. -/
def State.endPiece (s : State) (c : Chain) (data : List Byte) (tag checkAcc : Word) : State :=
  match s.hbOf c.ctx with
  | none => s.dropChain c
  | some h => match h.g.plan c.stripe c.member c.erased with
    | none => s.dropChain c
    | some p =>
      let s := s.dropChain c
      if c.accepts h.g p data tag checkAcc then
        (if c.idx = 0 then s.takeHeader c.ctx h data else s.restorePalm c.ctx c.idx data tag).checkRestore c.ctx
      else s.failPiece c.ctx h c.idx

/-- A contributor has answered STALE (R205, R272): the piece's chain is issued again for the decided step. -/
def State.reissuePiece (s : State) (c : Chain) : State :=
  match s.codedOf c.ctx with
  | none => s
  | some k => match k.hb, k.restore with
    | some h, some r => match r.decided with
      | some x => (s.dropChain c).issuePiece c.ctx h c.idx (r.absentMembers h) x
      | none => s
    | _, _ => s

end Sys2Proof.Machine
end

