-- ==== Sys2Proof/Machine/Images.lean ====
section
/-! DEFINITION. Canonical images: the image's own layout (R278 to R280), IMAGE_EXPORT (R281 to R283, R483) and IMAGE_IMPORT
(R284 to R286). One message with the storage port is in flight at a time. -/

namespace Sys2Proof.Machine

/-! ### Tile tables and digest lists -/

/-- The entries of a tile table (R281); none where a reserved byte is nonzero. -/
def tileEntries (n : Nat) (b : List Byte) : Option (List TileEntry) :=
  if (List.range n).all (fun i => field b (32 * i + 14) 2 == 0) then
    some ((List.range n).map (fun i => { tile := field b (32 * i) 8, region := field b (32 * i + 8) 2,
                                         count := field b (32 * i + 10) 4, first := field b (32 * i + 16) 8,
                                         off := field b (32 * i + 24) 8 }))
  else none

/-- The hosted palm stitches that lie in a hosting area on this chip. -/
def State.hostedPalmSlots (s : State) (ctx member : Nat) : Nat :=
  (((s.gloveOf ctx).bind (fun gl => gl.dealOf member)).map (·.palmSlots)).getD 0

/-- The tile lies in its region, a STATE or GROUPS region of the context (R283). A host exports the palm stitches that it hosts as well,
from its hosting area (R230); a slot and an import have none of them. -/
def State.tileInside (s : State) (ctx : Nat) (hosting : Bool) (t : TileEntry) : Bool := match s.region? t.region with
  | some r =>
    let bytes := match r.kind with
      | .state | .groups => r.len
      | .hosting i => if hosting then 4096 * s.hostedPalmSlots ctx i else 0
      | _ => 0
    r.owner == ctx && t.first % 4096 == 0 && decide (0 < bytes ∧ t.first + 4096 * t.count ≤ bytes)
  | none => false

/-- The tile type of a region's tile that begins at a stitch (R279): a hosted palm index below the lost member's GROUPS count is a GROUPS
stitch (R229). -/
def State.tileType (s : State) (ctx : Nat) (r : Region) (idx : Nat) : Nat := match r.kind with
  | .groups => 2
  | .hosting i => match (s.gloveOf ctx).bind (fun gl => (gl.dealOf i).map (fun d => (gl, d))) with
    | some (gl, d) => if (s.seatOf gl r idx).2.2 < d.groups then 2 else 1
    | none => 1
  | _ => 1

/-- Two tiles share a stitch (R283). -/
def tilesOverlap (a b : TileEntry) : Bool := a.region == b.region && overlaps a.first (4096 * a.count) b.first (4096 * b.count)

/-- No two tiles of a list share a stitch. -/
def tilesApart : List TileEntry → Bool
  | [] => true
  | t :: ts => ts.all (fun u => !tilesOverlap t u) && tilesApart ts

/-- Read a tile table of the context (R281, R283): none where it cannot be read or breaks R283. -/
def State.readTiles (s : State) (ctx a n : Nat) (hosting : Bool) : State × Option (List TileEntry) :=
  if !s.plainTable ctx a (32 * n) then (s, none)
  else match s.padunRead a (32 * n) ctx with
    | (s, none) => (s, none)
    | (s, some b) => match tileEntries n b with
      | none => (s, none)
      | some ts => (s, if ts.all (s.tileInside ctx hosting) && tilesApart ts then some ts else none)

/-- A stitch lies in some tile. -/
def inTiles (ts : List TileEntry) (region idx : Nat) : Bool :=
  ts.any (fun t => t.region == region && decide (t.first ≤ 4096 * idx ∧ 4096 * idx < t.first + 4096 * t.count))

/-! ### The parts of an image -/

/-- What an export uses where the context has no cuff record that R91 accepts, as after a dissolve or an import: the KEY and CROWN_TIME
that the CU holds, and zeros (DESIGN CHOICE, log entry 88). -/
def Coded.bareCuff (k : Coded) : List Byte :=
  padTo 256 (List.replicate 0x10 0 ++ leBytes 8 k.crownTime ++ List.replicate 0x18 0 ++ leBytes 16 k.key.toNat)

/-- The cuff record that an export uses (R281): the current one, or that of the slot's header stitch, which is not used where it fails
R91. -/
def State.exportCuff (s : State) (k : Coded) (source : Nat) : State × List Byte :=
  if source = 0 then (s, k.ownCuff.getD k.bareCuff)
  else match k.hb with
    | none => (s, k.bareCuff)
    | some h => match s.readStored k.ctx h (source == 2) 0 with
      | (s, some (d, _)) => match s.checkBank k.ctx [(h.g.me, slice d 0 256)] with
        | (s, p :: _) => (s, p.2)
        | (s, []) => (s, k.bareCuff)
      | (s, none) => (s, k.bareCuff)

/-- The image header (R278, R281). -/
def imageHeader (step : Nat) (cuff descriptor : List Byte) : List Byte :=
  let b := padTo 4088 (leBytes 4 0x4D494450 ++ leBytes 2 1 ++ leBytes 2 0 ++ leBytes 8 step ++ slice cuff 0x30 16 ++
    slice cuff 0x10 8 ++ padTo 48 descriptor)
  b ++ leBytes 8 (crc64 b).toNat

/-- The record header of a tile (R279). -/
def tileHeader (type tile length step : Nat) (payload : List Byte) : List Byte :=
  let b := padTo 56 (leBytes 4 0x52544450 ++ leBytes 2 1 ++ leBytes 1 type ++ leBytes 1 0 ++
    leBytes 8 tile ++ leBytes 8 length ++ leBytes 8 step ++ leBytes 8 (crc64 payload).toNat)
  b ++ leBytes 8 (crc64 b).toNat

/-- The digest entries of a member (R280, R483): 64 entries, zero beyond its list. -/
def State.digestEntries (s : State) (ctx : Nat) (ds : List (Nat × Nat)) : List Byte :=
  padTo 2048 ((ds.map (fun (p : Nat × Nat) => match Tab.get s.digests p.1 with
    | some g =>
      if g.ctx = ctx then leBytes 8 p.2 ++ leBytes 8 g.value.toNat ++ leBytes 4 g.counted ++ leBytes 4 0 ++
        leBytes 1 (if g.result = 1 then stPartial else stOk) ++ leBytes 7 0
      else leBytes 8 p.2 ++ leBytes 16 0 ++ leBytes 1 stBadContext ++ leBytes 7 0
    | none => leBytes 8 p.2 ++ leBytes 16 0 ++ leBytes 1 stBadParam ++ leBytes 7 0)).flatten)

/-- A stitch as an export reads it: the crowned hand, or the member's own piece of a slot (R282). A stitch being filled is darned
on demand and gives nothing yet (R212), nor does one of an instance under test (R557); one that cannot be served reads as poison (R383,
R384). -/
def State.exportStitch (s : State) (ctx : Nat) (k : Coded) (source : Nat) (r : Region) (idx : Nat) :
    State × Option (List Byte) :=
  if source = 0 then
    if s.testing (r.handKey idx false) then (s, none)
    else if (s.stitch r.num idx).fill then (s.demandDarn ctx r idx, none)
    else if (s.stitch r.num idx).lacks then (s, some poisonPage)
    else match s.readCrowned r idx with
      | (s, .page d _) => (s, some d)
      | (s, .never) => (s.uninitRead (r.handKey idx false) srcPadun ctx, some poisonPage)
      | (s, _) => (s, some poisonPage)
  else match k.hb with
    | none => (s, some poisonPage)
    | some h =>
      let pos := seqPos (lanesUpper s.lanesWord) (s.palmCount ctx) (s.palmOf r idx)
      if s.testing (h.pieceKey (source == 2) false pos) then (s, none)
      else match s.readStored ctx h (source == 2) pos with
        | (s, some (d, _)) => (s, some d)
        | (s, none) => (s, some poisonPage)

/-- The stitches of a tile, in order. -/
def State.exportTile (s : State) (ctx : Nat) (k : Coded) (source : Nat) (t : TileEntry) : State × Option (List Byte) :=
  match s.region? t.region with
  | none => (s, none)
  | some r => (List.range t.count).foldl (fun acc i => match acc with
    | (s, none) => (s, none)
    | (s, some d) => match s.exportStitch ctx k source r (t.first / 4096 + i) with
      | (s, some x) => (s, some (d ++ x))
      | (s, none) => (s, none)) (s, some [])

/-- A part of the image: its offset and bytes; none while a stitch of it is being filled. -/
def State.imagePart (s : State) (ctx : Nat) (k : Coded) (j : ImageJob) (p : ImagePart) : State × Option (Nat × List Byte) :=
  match p with
  | .header =>
    let (s, cuff) := s.exportCuff k j.source
    (s, some (0, imageHeader j.step cuff j.descriptor))
  | .cuff =>
    let (s, cuff) := s.exportCuff k j.source
    (s, some (j.cuffBase + 256 * j.cuffIndex, cuff))
  | .digests => (s, some (j.digestBase + 2048 * j.cuffIndex, s.digestEntries ctx j.digests))
  | .record e => match j.tiles[e]? with
    | none => (s, some (0, []))
    | some t => match s.exportTile ctx k j.source t with
      | (s, none) => (s, none)
      | (s, some d) =>
        let type := match s.region? t.region with
          | some r => s.tileType ctx r (t.first / 4096)
          | none => 1
        (s, some (t.off, tileHeader type t.tile (4096 * t.count) j.step d))
  | .payload e i => match j.tiles[e]? with
    | none => (s, some (0, []))
    | some t => match s.region? t.region with
      | none => (s, some (t.off + 64 + 4096 * i, poisonPage))
      | some r => match s.exportStitch ctx k j.source r (t.first / 4096 + i) with
        | (s, some d) => (s, some (t.off + 64 + 4096 * i, d))
        | (s, none) => (s, none)

/-! ### Messages with the storage port (R422) -/

/-- Change the image job of a context. -/
def State.modImage (s : State) (ctx : Nat) (f : ImageJob → ImageJob) : State :=
  s.modCoded ctx (fun k => { k with image := k.image.map f })

/-- The seat that the chip's messages to storage speak for: its glove's, else its hatbox group's, else 0xFF. -/
def Coded.storageSeat (k : Coded) : Nat := match k.glove, k.hb with
  | some g, _ => g.g.me
  | none, some h => h.g.me
  | none, none => 0xFF

/-- The body of EXPORT_PART. -/
def exportBody (handle : Word) (off count port : Nat) : List Byte :=
  leBytes 8 handle.toNat ++ leBytes 8 off ++ leBytes 2 count ++ leBytes 1 port

/-- A message to the storage port leaves and its answer is awaited (R283). EVAC keeps it back (R239, R406). -/
def State.askStorage (s : State) (ctx : Nat) (k : Coded) (j : ImageJob) (sub off count : Nat) (payload : List Byte) : State :=
  if s.cu.evac then s
  else
    let w := mkWire tExport sub ctx 0xFFFF k.storageSeat (exportBody j.handle off count j.port) payload
    (s.emit (.storage j.port w)).modImage ctx (fun j => { j with waiting := some (off, count), sentAt := s.now })

/-- The job of a context ends with its command's final completion. -/
def State.endImage (s : State) (ctx status result : Nat) : State :=
  let s := s.modCoded ctx (fun k => { k with image := none })
  s.endJobs (fun j => j == Job.imageExport ctx || j == Job.imageImport ctx) status result s.now

/-- Every palm stitch of the context becomes never-written, left hand crowned (R284, R285). -/
def State.blankPalm (s : State) (ctx : Nat) : State :=
  (s.palmRegions ctx).foldl (fun s r => (s.neverPages (offKey r.lower r.base) (r.span / 4096)).dropStitches r.num) s

/-- An import fails (R285): the palm stays never-written, and C and the key stay. -/
def State.failImport (s : State) (ctx status : Nat) : State :=
  let s := s.blankPalm ctx
  let s := s.statusFault ctx status { id := 0xFFFF, member := 0xFF, phase := 0, opcode := 0x43, cause := 0, step := 0 }
  s.endImage ctx status 0

/-! ### IMAGE_EXPORT -/

/-- Written palm stitches that lie outside every tile (R283): by the crowned hand, or by the slot's pieces. -/
def State.outsideTiles (s : State) (ctx : Nat) (k : Coded) (source : Nat) (ts : List TileEntry) : State × Nat :=
  let cells := ((s.palmRegions ctx).map (fun r => (List.range r.stitchCount).map (fun i => (r, i)))).flatten
  (cells.filter (fun (p : Region × Nat) => !inTiles ts p.1.num p.2)).foldl (fun acc p =>
    if source = 0 then (acc.1, if acc.1.crownedWritten p.1 p.2 then acc.2 + 1 else acc.2)
    else match k.hb with
      | none => acc
      | some h => match acc.1.readStored ctx h (source == 2)
          (seqPos (lanesUpper acc.1.lanesWord) (acc.1.palmCount ctx) (acc.1.palmOf p.1 p.2)) with
        | (s, some (_, t)) => (s, if t = 0 then acc.2 else acc.2 + 1)
        | (s, none) => (s, acc.2)) (s, 0)

/-- The parts that an export sends, in order. -/
def exportParts (header : Bool) (ts : List TileEntry) : List ImagePart :=
  (if header then [ImagePart.header] else []) ++
    ((List.range ts.length).map (fun e => ImagePart.record e :: (List.range ((ts[e]?.map (·.count)).getD 0)).map (fun i =>
      ImagePart.payload e i))).flatten ++ [.cuff, .digests]

/-- The step that an export names is not there (R282): NOT_CROWNED, SEAL_INCOMPLETE, or none. -/
def State.exportStep (s : State) (k : Coded) (source step : Nat) : State × Option Nat :=
  if source = 0 then (s, if k.c.toNat = step then none else some stNotCrowned)
  else match k.hb with
    | none => (s, some stSealIncomplete)
    | some h => match s.slotSeal k.ctx h (source == 2) with
      | (s, x) => (s, if x = step ∧ x ≠ 0 then none else some stSealIncomplete)

/-- The reserved bytes 2 to 7 of the entries of a digest list are zero (R10). -/
def digestsClean (n : Nat) (b : List Byte) : Bool := (List.range n).all (fun i => field b (16 * i + 2) 6 == 0)

/-- The job of an IMAGE_EXPORT over its tiles, its descriptor and its digest list (R281). Without HEADER no field gives CUFF_BASE and
DIGEST_BASE: they are free values (log entry 21). -/
def exportJob (c : Cmd) (ts : List TileEntry) (outside : Nat) (desc list : List Byte) (fresh : Nat) : ImageJob :=
  { isImport := false, step := c.u64 16, handle := BitVec.ofNat 64 (c.u64 24), port := c.u8 60, tiles := ts, source := c.mode % 4,
    todo := exportParts (c.modeBit 2) ts, waiting := none, sentAt := 0, outside := outside, descriptor := desc,
    digests := (List.range (c.u8 61)).map (fun i => (field list (16 * i) 2, field list (16 * i + 8) 8)), cuffIndex := c.u16 62,
    cuffBase := if c.modeBit 2 then field desc 24 8 else Config.freeNat fresh,
    digestBase := if c.modeBit 2 then field desc 40 8 else Config.freeNat (fresh + 1), header := [], record := [], got := [],
    read := [], misfit := false }

/-- What an IMAGE_EXPORT reads: its tile table, its digest list and its descriptor, or the packet byte at fault (R10, R281, R451). -/
def State.exportTables (s : State) (c : Cmd) : State × Except Nat (List TileEntry × List Byte × List Byte) :=
  let ctx := c.ctx
  let header := c.modeBit 2
  let nd := c.u8 61
  match s.readTiles ctx (c.u64 32) (c.u32 56) (c.mode % 4 == 0) with
  | (s, none) => (s, .error 32)
  | (s, some ts) =>
    if !header ∧ c.u64 48 ≠ 0 then (s, .error 48)
    else if 0 < nd ∧ !s.bufferOk ctx (c.u64 40) (16 * nd) then (s, .error 40)
    else if header ∧ !s.bufferOk ctx (c.u64 48) 48 then (s, .error 48)
    else match s.bufferRead ctx (c.u64 40) (16 * nd) with
      | (s, none) => (s, .error 40)
      | (s, some list) =>
        if !digestsClean nd list then (s, .error 40)
        else match s.bufferRead ctx (c.u64 48) (if header then 48 else 0) with
          | (s, none) => (s, .error 48)
          | (s, some desc) => (s, .ok (ts, list, desc))

/-- IMAGE_EXPORT (R281 to R283, R483). -/
def State.opImageExport (s : State) (c : Cmd) : State :=
  let ctx := c.ctx
  let source := c.mode % 4
  if !s.ctxOpen ctx then s.post c stBadContext 0
  else match s.codedOf ctx with
    | none => s.post c stBadContext 0
    | some k =>
      if source = 3 then s.badParam c 3
      else if 5 < c.u8 60 then s.badParam c 60
      else if 64 < c.u8 61 then s.badParam c 61
      else if k.image.isSome ∨ k.restore.isSome then s.post c stBusy 0
      else match s.exportTables c with
        | (s, .error at') => s.badParam c at'
        | (s, .ok (ts, list, desc)) => match s.exportStep k source (c.u64 16) with
          | (s, some st) => s.post c st 0
          | (s, none) =>
            let (s, outside) := s.outsideTiles ctx k source ts
            let j := exportJob c ts outside desc list s.fresh
            (s.bump.bump.modCoded ctx (fun k => { k with image := some j })).hold c (.imageExport ctx)

/-- An export has nothing left to send: OK, or PARTIAL with the stitches outside every tile (R283). -/
def State.finishExport (s : State) (ctx : Nat) (j : ImageJob) : State :=
  if j.outside = 0 then s.endImage ctx stOk j.tiles.length else s.endImage ctx stPartial j.outside

/-- An export from a slot ends when a hatbox starts to write the slot (R282). -/
def State.yieldExports (s : State) : State := s.coded.foldl (fun s p => match p.2.image, p.2.hb with
  | some j, some h => match h.copy with
    | some c => if !c.quorum && !j.isImport && j.source != 0 && c.slot == (j.source == 2) then s.endImage p.2.ctx stBusy 0 else s
    | none => s
  | _, _ => s) s

/-! ### IMAGE_IMPORT -/

/-- IMAGE_IMPORT (R284): the palm becomes never-written, and the header is read first. -/
def State.opImageImport (s : State) (c : Cmd) : State :=
  let ctx := c.ctx
  if !s.ctxOpen ctx then s.post c stBadContext 0
  else match s.codedOf ctx with
    | none => s.post c stBadContext 0
    | some k =>
      if k.phase ≠ .crowned ∨ k.glove.isSome then s.post c stBadContext 0
      else if 5 < c.u8 44 then s.badParam c 44
      else if k.image.isSome ∨ k.restore.isSome then s.post c stBusy 0
      else match s.readTiles ctx (c.u64 32) (c.u32 40) false with
        | (s, none) => s.badParam c 32
        | (s, some ts) =>
          let j : ImageJob :=
            { isImport := true, step := c.u64 16, handle := BitVec.ofNat 64 (c.u64 24), port := c.u8 44, tiles := ts,
              source := 0, todo := ImagePart.header :: (List.range ts.length).map (fun e => .record e), waiting := none,
              sentAt := 0, outside := 0, descriptor := [], digests := [], cuffIndex := 0, cuffBase := 0, digestBase := 0,
              header := [], record := [], got := [], read := [], misfit := false }
          ((s.blankPalm ctx).modCoded ctx (fun k => { k with image := some j })).hold c (.imageImport ctx)

/-- Where a part that an import reads lies, and its length. -/
def ImageJob.wanted (j : ImageJob) (p : ImagePart) : Nat × Nat := match p with
  | .header => (0, 4096)
  | .record e => ((j.tiles[e]?.map (·.off)).getD 0, 64)
  | .payload e i => ((j.tiles[e]?.map (·.off)).getD 0 + 64 + 4096 * i, Nat.min 4096 (field j.record 0x10 8 - 4096 * i))
  | _ => (0, 0)

/-- The record of a tile agrees with its table entry and its region (R285). -/
def State.recordFits (s : State) (ctx : Nat) (t : TileEntry) (r : List Byte) : Bool := match s.region? t.region with
  | some q => field r 6 1 == s.tileType ctx q (t.first / 4096) && field r 8 8 == t.tile && field r 0x10 8 == 4096 * t.count
  | none => false

/-- A tile's record and payload are read (R285): a payload that fails its CRC ends the import, and a record that does not fit is noted
for the last check, which comes after every record has passed this one. -/
def State.keepTile (s : State) (ctx : Nat) (j : ImageJob) (e : Nat) : State :=
  match j.tiles[e]? with
  | none => s
  | some t =>
    if field j.record 0x20 8 ≠ (crc64 j.got).toNat then
      (s.capture cuUnit 0x112 (packWord [(32, ctx)]) (BitVec.ofNat 64 (field j.record 8 8))).failImport ctx stBadParam
    else
      let fits := s.recordFits ctx t j.record
      s.modImage ctx (fun x => { x with got := [], record := [], read := x.read ++ [(e, j.got)], misfit := x.misfit || !fits })

/-- A tile's stitches go into left hands with step tag STEP (R273, R284). -/
def State.placeTile (s : State) (j : ImageJob) (e : Nat) (data : List Byte) : State :=
  match j.tiles[e]?.bind (fun t => (s.region? t.region).map (fun r => (t, r))) with
  | none => s
  | some (t, r) => (List.range t.count).foldl (fun s i =>
      if j.step = 0 then s
      else s.storePage (r.handKey (t.first / 4096 + i) false) (slice data (4096 * i) 4096)
        { step := BitVec.ofNat 64 j.step, stripe := 0, mask := 0, hand := handGen false, attempt := 0 }) s

/-- Everything of the import is read (R284 to R286): the last check, then the tiles are placed, C = STEP, the header's key, A = 0, and no
restored record. -/
def State.finishImport (s : State) (ctx : Nat) (j : ImageJob) : State :=
  if j.misfit then s.failImport ctx stGeometry
  else
    let w : Word := BitVec.ofNat 64 j.step
    let s := j.read.foldl (fun s p => s.placeTile j p.1 p.2) s
    let s := s.modCoded ctx (fun k => { ((k.setC w).setS w) with
      key := BitVec.ofNat 128 (field j.header 0x10 16), attempt := 0, byCrown := false, restored := none, current := false,
      bank0 := [], bank1 := [], crownTime := field j.header 0x20 8 })
    s.endImage ctx stOk j.tiles.length

/-- Data arrives for the part that an import asked for (R285). -/
def State.takeImageData (s : State) (ctx : Nat) (j : ImageJob) (data : List Byte) : State :=
  match j.todo with
  | .header :: rest =>
    if field data 0 4 ≠ 0x4D494450 ∨ field data 4 2 ≠ 1 ∨ field data 0xFF8 8 ≠ (crc64 (slice data 0 0xFF8)).toNat then
      s.failImport ctx stBadParam
    else if field data 8 8 ≠ j.step then s.failImport ctx stSkew
    else s.modImage ctx (fun j => { j with header := data, todo := rest, waiting := none })
  | .record e :: rest =>
    if field data 0 4 ≠ 0x52544450 ∨ field data 0x38 8 ≠ (crc64 (slice data 0 0x38)).toNat then
      (s.capture cuUnit 0x112 (packWord [(32, ctx)]) (BitVec.ofNat 64 (field data 8 8))).failImport ctx stBadParam
    else
      let n := ceilDiv (field data 0x10 8) 4096
      let s := s.modImage ctx (fun j => { j with
        record := data, got := [], waiting := none, todo := (List.range n).map (fun i => ImagePart.payload e i) ++ rest })
      if n = 0 then s.keepTile ctx { j with record := data, got := [] } e else s
  | .payload e i :: rest =>
    let j := { j with got := j.got ++ data }
    let s := s.modImage ctx (fun x => { x with got := j.got, todo := rest, waiting := none })
    if ceilDiv (field j.record 0x10 8) 4096 ≤ i + 1 then s.keepTile ctx j e else s
  | _ => s

/-! ### Sending and answers -/

/-- The job whose import or export has nothing left ends. -/
def State.checkImage (s : State) (ctx : Nat) : State := match s.codedOf ctx with
  | none => s
  | some k => match k.image with
    | none => s
    | some j =>
      if j.todo.isEmpty && j.waiting.isNone then (if j.isImport then s.finishImport ctx j else s.finishExport ctx j) else s

/-- The next message of an image job (R281, R284): one part of an export, or one READ of an import; after FW_FAULT none (R29). In the crown guard an export
of the crowned hand pauses (R178), and one whose step is no longer C ends with NOT_CROWNED. -/
def State.sendImage (s : State) (ctx : Nat) : State := match s.codedOf ctx with
  | none => s
  | some k => match k.image with
    | none => s
    | some j =>
      if j.waiting.isSome ∨ s.cu.fwFault ∨ (!j.isImport && j.source == 0 && s.inGuard ctx) then s
      else match j.todo with
        | [] => s.checkImage ctx
        | p :: _ =>
          if j.isImport then
            let w := j.wanted p
            s.askStorage ctx k j 2 w.1 w.2 []
          else if j.source = 0 ∧ k.c.toNat ≠ j.step then s.endImage ctx stNotCrowned 0
          else match s.imagePart ctx k j p with
            | (s, none) => s
            | (s, some (off, d)) => s.askStorage ctx k j 0 off d.length (padTo 4096 d)

/-- An EXPORT_PART arrives from the storage port (R414, R422): the acknowledgement of a part, or the data of a READ, which is
acknowledged. -/
def State.takeExportPart (s : State) (w : Wire) : State :=
  if s.cu.fwFault then s
  else if w.seal.crc != w.crc then s.countDrop 0
  else if !w.legal ∨ w.type ≠ tExport then s.countDrop 1
  else match s.codedOf w.cCtx with
    | none => s.countDrop 4
    | some k => match k.image with
      | none => s.countDrop 4
      | some j =>
        let off := w.bodyField 0x0D 8
        let count := w.bodyField 0x15 2
        if w.cGlove ≠ 0xFFFF ∨ w.cMember ≠ 0xFF ∨ w.bodyField 0x05 8 ≠ j.handle.toNat ∨ w.bodyField 0x17 1 ≠ j.port then
          s.countDrop 2
        else if j.waiting ≠ some (off, count) then s
        else if w.sub = 1 ∧ !j.isImport then
          (s.modImage w.cCtx (fun j => { j with waiting := none, todo := j.todo.drop 1 })).checkImage w.cCtx
        else if w.sub = 0 ∧ j.isImport then
          let s := s.emit (.storage j.port (w.answer tExport 1 k.storageSeat))
          (s.takeImageData w.cCtx j (slice w.payload 0 count)).checkImage w.cCtx
        else s

/-- The storage port has not answered within 2.0 ms (R283): the command ends with REMOTE_TIMEOUT. No unit raises the fault of that name,
whose detail words name an instance's handle (R496; DESIGN CHOICE, log entry 85). -/
def State.storageExpired (s : State) (ctx : Nat) : State := match s.codedOf ctx with
  | none => s
  | some k => match k.image with
    | none => s
    | some j =>
      if !s.cu.fwFault && j.waiting.isSome && decide (j.sentAt + Config.remoteTime ≤ s.now) then
        (if j.isImport then s.failImport ctx stRemoteTimeout else s.endImage ctx stRemoteTimeout 0)
      else s

end Sys2Proof.Machine
end

