-- ==== Sys2Proof/Machine/Arming.lean ====
section
/-! DEFINITION. Arming a witness and judging it: WITNESS_ARM in its three roles (R311, R312, R478), its collective, the witness
fill and its ends (R312, R313, R318, R323), and WITNESS_VERDICT (R321, R322). -/

namespace Sys2Proof.Machine

/-- The key of a WITNESS collective (R427). -/
def witnessKey (ctx x glove w : Nat) : CollKey := { ctx := ctx, step := x, glove := glove, phase := phWitness w }

/-- The phase row of R311. A second witness is armed within the hold of the first (R320), so for w = 2 VOTING and VOTED pass
as well (DEDUCED, log entry 32). -/
def armPhase (w : Nat) (p : Phase) : Bool :=
  p == .crowned || p == .opened || p == .closed || (w == 2 && (p == .voting || p == .voted))

/-- The rows of R311 that the suspect and the members check: `first` is the outcome of the first row, and `running` tells that the key is
still under way, which the row of other witnesses meets with BUSY. -/
def State.armRows (s : State) (c : Cmd) (k : Coded) (gl : Glove) (first : Option Failed) (running : Bool) : Option Failed :=
  let x := c.u64 16
  let suspect := c.u8 26
  let same := fun (y : Witness) => y.step == x && y.suspect == suspect
  if first.isSome then first
  else if gl.state ≠ .ready then failWith stBadContext
  else if x ≠ k.c.toNat + 1 then badField 16
  else if !armPhase (c.u8 27) k.phase then failWith stBusy
  else if running ∨ k.witness.any (fun y => y.step == x && y.suspect != suspect) then failWith stBusy
  else if c.u8 27 = 2 ∧ !(k.witness.any (fun y => same y && y.w == 1 && (y.completed || y.result.isSome))) then badField 27
  else if c.mode % 4 = roleSuspect then (if c.modeBit 2 && s.cu.fuses.witness then badField 3 else none)
  else if s.darnTaken c.ctx (c.u8 28) then failWith stBusy
  else none

/-- The rows of R311 that the witness chip checks; `x` is what the members give it. -/
def State.armWitnessRows (s : State) (c : Cmd) (k : Coded) (x : SeatInfo) (first : Option Failed) (running : Bool) :
    State × Option Failed :=
  let suspect := c.u8 26
  if first.isSome then (s, first)
  else if running ∨ s.darnTaken c.ctx (c.u8 28) then (s, failWith stBusy)
  else if s.cu.evac then (s, failWith stAccessDenied)
  else if !s.testedSinceReset then (s, failWith stTestFail)
  else if k.glove.isSome ∨ k.phase ≠ .crowned then (s, failWith stBadContext)
  else if (s.layoutHash c.ctx).toNat ≠ field x.shape (0x18 + 16 * suspect) 8 then (s, failWith stGeometry)
  else match s.recordLanes c.ctx x.bank suspect with
    | (s, lanes) => (s, if lanes = some s.lanesWord.toNat then none else failWith stLane)

/-- The witness coordinates of a WITNESS_ARM. -/
def armCoord (c : Cmd) : Coord := ⟨c.u16 30, c.u16 32, c.u16 34⟩

/-- The participants: every member, and the witness as a guest (R427). -/
def armParts (n : Nat) (t : List Byte) (c : Cmd) : List (Nat × Coord) :=
  (List.range n).map (fun i => (i, placeCoord t i)) ++ [(guestSeat, armCoord c)]

/-- The roles run the collective with what they found (R311). A second command of a key that is still under way, and one that meets the
coordinate-verified flag clear (R409), end alone. -/
def State.startArm (s : State) (c : Cmd) (k : Coded) (n me role : Nat) (status : Option Failed) (labels t : List Byte) : State :=
  let hash := s.placementHash t n
  let rec' := s.seatRecord c.ctx k status me role hash.toNat noLimit
  let key := witnessKey c.ctx (c.u64 16) (c.u16 24) (c.u8 27)
  if !s.cu.fabric.verified ∨ (s.collOf key).isSome then s.unverified c status (c.u16 24) me 0xFF
  else ((s.startColl c key (c.u16 24) me (arbiterOf (c.u8 26)) (armParts n t c) rec'.bytes (labels ++ t)).noteFailed key status).hold c
    (.witness c.ctx (c.u8 27) (c.mode % 4))

/-- The first field of a WITNESS_ARM outside its range, or not zero where its role requires it (R451, R478). -/
def armBad (c : Cmd) : Option Nat :=
  if c.mode % 4 = 3 then some 3
  else if c.u8 27 = 0 ∨ 2 < c.u8 27 then some 27
  else if 3 < c.u8 28 then some 28
  else if c.u8 29 = 0 ∨ 64 < c.u8 29 then some 29
  else if c.mode % 4 ≠ roleMember ∧ c.u64 48 ≠ 0 then some 48
  else if c.mode % 4 ≠ roleWitness ∧ c.u64 56 ≠ 0 then some 56
  else none

/-- The label list is readable in a PLAIN region of the context (R311). -/
def State.readLabels (s : State) (c : Cmd) : State × Option (List Byte) :=
  if s.plainTable c.ctx (c.u64 40) (8 * c.u8 29) then s.padunRead (c.u64 40) (8 * c.u8 29) c.ctx else (s, none)

/-- The report buffer of the arbiter lies in a region of the context, and no other member names one (R319, R451). -/
def State.reportRow (s : State) (c : Cmd) (gl : Glove) : Option Failed :=
  if c.mode % 4 = roleMember ∧ (if arbiterOf (c.u8 26) = gl.g.me then !s.bufferOk c.ctx (c.u64 48) (64 + 40 * c.u8 29)
    else c.u64 48 != 0) then badField 48 else none

/-- WITNESS_ARM on the witness chip, whose label list gave `first`. Without what the members give it the chip cannot place its record. -/
def State.armWitness (s : State) (c : Cmd) (first : Option Failed) (labels : List Byte) : State :=
  let ctx := c.ctx
  let running := (s.collOf (witnessKey ctx (c.u64 16) (c.u16 24) (c.u8 27))).isSome
  match s.codedOf ctx, Tab.get s.infos ctx with
  | some k, some x =>
    if x.n ≤ c.u8 26 then s.failAs c (first.getD (stBadParam, 26)) (c.u16 24) 0xFE 0xFF
    else
      let (s, t, table) := s.tableRow ctx (c.u64 56) x.n 56
      let (s, status) := s.armWitnessRows c k x (first.or table) running
      if t.isEmpty then s.failAs c (status.getD (stBadParam, 56)) (c.u16 24) 0xFE 0xFF
      else s.startArm c k x.n guestSeat 2 status labels t
  | _, _ => s.spareAlone c first (s.darnTaken ctx (c.u8 28)) 0xFF

/-- WITNESS_ARM on the suspect or a member, whose label list gave `first`. -/
def State.armMember (s : State) (c : Cmd) (first : Option Failed) (labels : List Byte) : State :=
  let ctx := c.ctx
  let role := c.mode % 4
  let running := (s.collOf (witnessKey ctx (c.u64 16) (c.u16 24) (c.u8 27))).isSome
  let alone := fun (f : Failed) => s.failAs c (first.getD f) (c.u16 24) 0xFF 0xFF
  match s.codedOf ctx, s.gloveOf ctx with
  | some k, some gl =>
    if gl.g.id ≠ c.u16 24 then alone (stBadContext, 0xFF)
    else if gl.g.n ≤ c.u8 26 ∨ (role = roleSuspect) ≠ (gl.g.me = c.u8 26) then alone (stBadParam, 26)
    else s.startArm c k gl.g.n gl.g.me (if role = roleSuspect then 3 else 0)
      (s.armRows c k gl (first.or (s.reportRow c gl)) running) labels gl.g.place
  | _, _ => alone (stBadContext, 0xFF)

/-- WITNESS_ARM (R311, R478). A field out of range, a role that does not fit the chip, a stopped context and a chip that cannot place its
record end the command on the chip alone; every other status goes through the collective. RESULT is 0xFF where there is no result code
(R468). -/
def State.opWitnessArm (s : State) (c : Cmd) : State :=
  if !s.ctxOpen c.ctx then s.post c stBadContext 0xFF
  else match armBad c with
    | some i => s.postAt c stBadParam 0xFF i s.now
    | none =>
      if (match s.codedOf c.ctx with
        | some k => k.stopped
        | none => false) then s.post c stInternal 0xFF
      else
        let (s, list) := s.readLabels c
        let first := if list.isSome then none else badField 40
        if c.mode % 4 = roleWitness then s.armWitness c first (list.getD []) else s.armMember c first (list.getD [])

/-! ### The outcome of the collective -/

/-- The outcome rule of a WITNESS collective: R218 without the crowned steps, which the members have checked against x (R311)
and which the witness takes afterwards (R312; DEDUCED, log entry 33). -/
def armOutcome (recs : List (Nat × List Byte)) : Option (Nat × Nat) :=
  match firstStatus recs with
  | some x => some (x.2, x.1)
  | none => (differAt recs 0x28).map (fun i => (stGeometry, i))

/-- The witness chip takes what the arbiter sends it (R312): C, KEY and A, every entry 0b10, and a fill bit for every palm
stitch. A record that fails R91 is not used. -/
def State.takeWitness (s : State) (ctx suspect : Nat) (x : SeatInfo) : State :=
  let own := Tab.getD x.bank suspect []
  let (s, bank) := s.checkBank ctx [(suspect, own)]
  let s := (s.palmRegions ctx).foldl (fun s r => (s.dropStitches r.num).setFill r.num r.stitchCount) s
  if bank.isEmpty then s
  else
    let w : Word := BitVec.ofNat 64 (cuffStep own)
    s.modCoded ctx (fun k => { ((k.setC w).setS w) with
      key := cuffKey own, attempt := x.attempt, crownTime := cuffTime own, byCrown := false, restored := none })

/-- The outcome of a WITNESS collective (R311, R312, R234). A suspect that has frozen its slots already sends their digests at once (R298,
R316). -/
def State.armEnd (s : State) (c : Coll) (recs : List (Nat × List Byte)) (b : Block) : State :=
  let ctx := c.key.ctx
  let c := { c with recs := recs }
  let q := c.cmd
  let role := q.mode % 4
  let n := q.u8 29
  let table := c.place.drop (8 * n)
  if b.decision ≠ 1 then s.endColl c b.status b.member b.time 0xFF
  else match armOutcome recs with
    | some (st, i) => s.endColl c st i b.time 0xFF
    | none =>
      let old := s.witnessOf ctx (q.u8 27) role
      let kept := match old with
        | some o => if o.step = q.u64 16 ∧ o.suspect = q.u8 26 then o.digests.filter (fun (p : Nat × List Byte) => p.1 != q.u8 27) else []
        | none => []
      let info := Tab.get s.infos ctx
      let geom := match role == roleWitness, info with
        | true, some x => some (seatGlove x c.group (q.u8 26) table (s.placementHash table x.n) 0 0xFFFF).g
        | _, _ => none
      let w : Witness :=
        { w := q.u8 27, role := role, trail := q.modeBit 2, step := q.u64 16, suspect := q.u8 26, darn := q.u8 28,
          labels := (List.range n).map (fun i => BitVec.ofNat 64 (field c.place (8 * i) 8)), wcoord := armCoord q,
          report := q.u64 48, place := table, geom := geom, digests := kept, result := none, verdict := none,
          sent := false, completed := false }
      let s := s.modCoded ctx (fun k => { k with
        witness := k.witness.filter (fun (y : Witness) => !(y.w == w.w && y.role == role)) ++ [w] })
      let darn : Darn := { ctx := ctx, num := w.darn, lost := w.suspect, standin := false, boost := false, witness := true,
                           dest := role == roleWitness, failed := 0, lastWrite := b.time }
      if role = roleSuspect then (match s.codedOf ctx with
        | some k => if k.phase ∈ [.voting, .voted] ∧ (k.vote.bind (·.cast)).isSome then s.suspectFrozen ctx else s
        | none => s)
      else
        let s := { s with darns := s.darns ++ [darn] }
        match role == roleWitness, info with
        | true, some x => s.takeWitness ctx w.suspect x
        | _, _ => s

/-! ### The witness chip's ends -/

/-- The WITNESS role ends (R318, R320, R323): its command completes, its context drops its open hands, and its palm is
never-written. -/
def State.leaveWitness (s : State) (ctx w status : Nat) : State :=
  match s.witnessOf ctx w roleWitness with
  | none => s
  | some x =>
    if x.completed then s
    else
      let s := s.endWitness ctx w roleWitness status 0xFF
      let s := (s.stopChains ctx).dropSent (fun m => m.ctx == ctx && m.msg.type == tWitness)
      let s := { s with infos := Tab.del s.infos ctx }
      let s := (s.beginDiscard ctx s.now).blankPalm ctx
      s.retryHeld (fun v => v == .fill)

/-- A fill whose last bit has cleared ends on the witness chip (R318): a failed check ends the role with DARN_FAIL. -/
def State.settleWitnesses (s : State) : State :=
  s.darns.foldl (fun s d =>
    if d.dest && d.witness && (s.fillSet d.ctx d.areas).isEmpty then
      let s := { s with darns := s.darns.filter (fun x => x != d) }
      if d.failed = 0 then s
      else match (s.witnesses d.ctx).find? (fun x => x.role == roleWitness && !x.completed && x.darn == d.num) with
        | some x => s.leaveWitness d.ctx x.w stDarnFail
        | none => s
    else s) s

/-- The witness chip meets the crown of its step (R323): it stops with BUSY and tells the members. -/
def State.staleWitness (s : State) (ctx : Nat) : State :=
  match s.codedOf ctx with
  | none => s
  | some k => match k.asWitness with
    | none => s
    | some x => match x.geom with
      | none => s
      | some g =>
        let s := (List.range g.n).foldl (fun s i => s.send cuUnit ctx i (g.coord i)
          (mkWire tAbort 0 ctx g.id 0xFE (abortBody x.step (8 + x.w) stBusy 0xFF s.now) [])) s
        s.leaveWitness ctx x.w stBusy

/-- An ABORT of a witness's phase (R421, R320, R323): on the witness chip the step has aborted, on a member the witness has
stopped. -/
def State.witnessAbort (s : State) (ctx w status : Nat) : State :=
  match s.gloveOf ctx with
  | none => s.leaveWitness ctx w status
  | some _ => s.abandonWitness ctx w

/-- The arbiter has acknowledged the witness's digests (R318). -/
def State.witnessAcked (s : State) (ctx w : Nat) : State := s.leaveWitness ctx w stOk

/-! ### WITNESS_VERDICT -/

/-- WITNESS_VERDICT (R321, R322). -/
def State.opWitnessVerdict (s : State) (c : Cmd) : State :=
  let ctx := c.ctx
  let v := c.u8 24
  if !s.ctxOpen ctx then s.post c stBadContext 0
  else match s.gloveOf ctx with
    | none => s.post c stBadContext 0
    | some gl =>
      let roles := (s.witnesses ctx).filter (fun x => x.role == roleSuspect && x.step == c.u64 16 && !x.trail && !x.completed)
      if roles.isEmpty then s.post c stBadContext 0
      else if 2 < v then s.badParam c 24
      else if v = 0 ∧ s.cu.fuses.witness ∧ !(roles.any (fun x => x.result == some wAgree || x.result == some wWitnessMinority)) then
        s.badParam c 24
      else
        let s := if v = 2 then s.unresolved ctx 3 gl (c.u64 16) else s
        let s := roles.foldl (fun s x => (s.modWitness ctx x.w roleSuspect (fun y => { y with verdict := some v })).endWitness ctx
          x.w roleSuspect (if v = 0 then stOk else if v = 1 then stWitnessDisagree else stWitnessUnresolved)
          (x.result.getD 0xFF)) s
        s.post c stOk 0

end Sys2Proof.Machine
end

