-- ==== Sys2Proof/Machine/Power.lean ====
section
/-! DEFINITION. The drain governors (R158 to R163, R532) and the power port: the boost grant, the clamp and the peak-duration
limit (R45, R549 to R551). Rates are in bytes per second. -/

namespace Sys2Proof.Machine

/-- The stitch-channel weight of a code of SCW, in percent (R48). -/
def weightPercent (w : BitVec 2) : Nat := if w = 0 then 20 else if w = 1 then 15 else if w = 2 then 25 else 30

/-- The normal ceiling of an upper instance (R160): W × 6.3 TB/s / 12. -/
def State.normalCeiling (s : State) : Nat := weightPercent s.cu.govWeight * 5250000000

/-- The boosted ceiling (R161): 50 % × 6.3 TB/s / 12. -/
def boostedCeiling : Nat := 262500000000

/-- Every upper instance runs with the boosted ceiling while BOOST_GRANT is held (R161), but for a clamp (R45, R162), the peak-duration
limit (R550), and a cleared BOOST_EN, from which the governors fall back within 1 µs (R569; log entry 59). -/
def Cu.boosts (c : Cu) : Bool := c.power.grant && c.boostEn && !c.power.limited && !c.power.clamp

/-- The ceiling that the power port allows now (R160 to R162). -/
def State.ceilingNow (s : State) : Nat :=
  if s.cu.power.clamp then s.normalCeiling / 2 else if s.cu.boosts then boostedCeiling else s.normalCeiling

/-- The step of a context is open at an upper instance: from STEP_OPEN until the instance is drained for it (R158). -/
def State.openAt (s : State) (k : Coded) (i : Nat) : Bool :=
  s.stepOpen k.ctx || ((k.phase == .closed || k.phase == .voting) && !s.drainedAt k.ctx i)

/-- The expected bytes e of a context at an instance (R159). A palm is spread evenly over the twelve instances (R19, R55). -/
def State.expected (s : State) (k : Coded) (i : Nat) : Nat :=
  if k.byCrown then Tab.getD k.expect i 0
  else match s.gloveOf k.ctx with
    | some gl => gl.g.m * (s.palmCount k.ctx / 12) * 4128
    | none => 0

/-- What a context still has to send at an instance: max(e, formed) − sent, or formed − sent after DRAIN_CLOSE. -/
def State.toSend (s : State) (k : Coded) (i : Nat) : Nat :=
  let formed := Tab.getD k.formed i 0
  (if k.phase = .opened then Nat.max (s.expected k i) formed else formed) - Tab.getD k.sent i 0

/-- A context's want (R158). -/
def State.want (s : State) (k : Coded) (i ceiling : Nat) : Nat :=
  if k.phase ≠ .opened ∨ k.govTarget ≤ s.now then ceiling
  else s.toSend k i * 1000000000 / (k.govTarget - s.now)

/-- The send rate of an instance (R158, R160). The memory-queue halving holds after the drain deadline as well (DESIGN CHOICE, log entry
86). -/
def State.sendRate (s : State) (i : Nat) (busy : Bool) : Nat :=
  let ceiling := s.ceilingNow
  let wants := ((s.coded.filter (fun p => s.openAt p.2 i)).map (fun p => s.want p.2 i ceiling)).sum
  let r := Nat.min ceiling (Nat.max (s.normalCeiling / 16) wants)
  if busy then r / 2 else r

/-- The backlog of an instance that is due by a band time: that of every open step with a target up to it. -/
def State.backlogBy (s : State) (i t : Nat) : Nat :=
  ((s.coded.filter (fun p => s.openAt p.2 i && decide (p.2.govTarget ≤ t))).map (fun p => s.toSend p.2 i)).sum

/-- An instance cannot send its backlog by the targets at the normal ceiling, and a deadline has not passed (R161). -/
def State.shortAt (s : State) (i : Nat) : Bool :=
  s.coded.any (fun p => s.openAt p.2 i && !p.2.deadlinePast && decide (0 < s.toSend p.2 i) &&
    decide (s.normalCeiling * (p.2.govTarget - s.now) < s.backlogBy i p.2.govTarget * 1000000000))

/-- A darn with BOOST set runs on the chip (R215). -/
def State.boostDarn (s : State) : Bool := s.darns.any (fun d => d.boost)

/-- Boost may be requested (R161, R215, R550). -/
def State.mayBoost (s : State) : Bool := s.cu.boostEn && !s.cu.power.limited && !s.cu.fwFault

/-- The peak intervals once the chip is at peak or not (R549): an open interval has end 0. -/
def Power.mark (p : Power) (peak : Bool) (now : Nat) : Power :=
  match p.spans with
  | (a, 0) :: rest => if peak then p else { p with spans := if now ≤ a then rest else (a, now) :: rest }
  | _ => if peak then { p with spans := (now, 0) :: p.spans } else p

/-- The peak account follows what the CU holds. -/
def Cu.mark (c : Cu) (now : Nat) : Cu := { c with power := c.power.mark c.boosts now }

/-- The governors take the ceiling of the power port at once (R161, R162, R550, R551), and the CU gives the stitch channel its boosted
weight of 50 % in the Bexli interface while they are boosted (R406). -/
def State.takeCeiling (s : State) : State :=
  let c := s.ceilingNow
  let b := s.cu.boosts
  let clamp := s.cu.power.clamp
  (s.modCu (fun c => { c with bexliBoost := b })).modInsts (fun _ x => if x.lower ∨ !x.active then x else
    { x with gov := { x.gov with ceiling := c, boosted := b, clamped := clamp, rate := Nat.min x.gov.rate c } })

/-- Change the power port, with the peak account and the ceilings that follow. -/
def State.setPower (s : State) (f : Power → Power) : State :=
  let now := s.now
  (s.modCu (fun c => ({ c with power := f c.power } : Cu).mark now)).takeCeiling

/-- Set BOOST_REQ, with the ceilings that follow. -/
def State.setBoost (s : State) (b : Bool) : State :=
  if s.cu.power.boostReq = b then s else s.setPower (fun p => { p with boostReq := b })

/-- BOOST_REQ as the governors find it: a boosted darn, or a backlog at some upper instance. -/
def State.findBoost (s : State) : State :=
  s.setBoost (s.mayBoost && (s.boostDarn || (List.range 12).any (fun i => s.shortAt i)))

/-- BOOST_REQ between governor updates: a boosted darn asserts it, and with no boosted darn left the backlog decides whether it
stays. -/
def State.keepBoost (s : State) : State :=
  if s.boostDarn then s.setBoost s.mayBoost else if s.cu.power.boostReq then s.findBoost else s

/-- PEAK_USED in µs (R549): the time at peak within the 10,000 buckets of 1 ms that end at the current one. -/
def State.peakUsed (s : State) : Nat :=
  let lo := (s.now / 1000000 - 9999) * 1000000
  ((s.cu.power.spans.map (fun (p : Nat × Nat) => (if p.2 = 0 then s.now else p.2) - Nat.max lo p.1)).sum) / 1000

/-- A drain start at or after the write of W puts it in force (R512). -/
def State.takeWeight (s : State) (i : Nat) : State :=
  if s.coded.any (fun p => s.openAt p.2 i && decide (s.cu.weightAt ≤ p.2.drainStart ∧ p.2.drainStart ≤ s.now)) then
    s.modCu (fun c => { c with govWeight := c.weight })
  else s

/-- GOVERNOR_UPDATE of an upper instance (R158 to R162). A clamped governor keeps its halved values. -/
def State.governorTick (s : State) (i : Fin 16) (busy : Bool) : State :=
  let x := s.inst[i]
  if x.lower ∨ !x.active then s
  else
    let s := s.takeWeight i.val
    let s := if x.gov.clamped then s
      else s.modInst i (fun x => { x with gov := { x.gov with rate := s.sendRate i.val busy, ceiling := s.ceilingNow } })
    s.findBoost

/-- CLAMP rises (R162): every governor halves its rate and the normal ceiling, and POWER_CLAMP is raised. -/
def State.clampRises (s : State) : State :=
  if s.cu.power.clamp then s
  else
    let s := instNums.foldl (fun (s : State) i =>
      let x := s.inst[i]
      if x.lower ∨ !x.active then s
      else (s.raise i.val fClamp (packWord [(0, x.gov.rate / 1000000)]) 0).modInst i (fun x =>
        { x with gov := { x.gov with rate := x.gov.rate / 2 } })) s
    s.setPower (fun p => { p with clamp := true })

/-- CLAMP falls (R162): the governors set their normal rates and ceilings again. -/
def State.clampFalls (s : State) : State :=
  if !s.cu.power.clamp then s
  else
    let s := s.setPower (fun p => { p with clamp := false })
    s.modInsts (fun i x => if x.lower ∨ !x.active then x else { x with gov := { x.gov with rate := s.sendRate i.val false } })

/-- BOOST_GRANT falls (R551): normal ceilings, and the darns that were boosted ask no more (R215). -/
def State.grantFalls (s : State) : State :=
  if !s.cu.power.grant then s
  else
    let s := { s with darns := s.darns.map (fun (d : Darn) => { d with boost := false }) }
    (s.setPower (fun p => { p with grant := false })).keepBoost

/-- PEAK_USED has reached 400 ms (R550). -/
def State.peakReached (s : State) : State :=
  if s.cu.power.limited ∨ s.peakUsed < 400000 then s
  else s.setPower (fun p => { p with limited := true, boostReq := false })

/-- PEAK_USED has fallen to 300 ms (R550). -/
def State.peakCleared (s : State) : State :=
  if !s.cu.power.limited ∨ 300000 < s.peakUsed then s
  else (s.setPower (fun p => { p with limited := false })).findBoost

/-- The drain deadline passes with the chip not drained (R161, R163). Under CLAMP a governor then sends at its halved ceiling, though R45
and R162 keep its halved rate (DESIGN CHOICE, log entry 86). -/
def State.passDeadline (s : State) (ctx : Nat) : State :=
  match s.codedOf ctx with
  | none => s
  | some k =>
    if k.phase ∉ [Phase.opened, .closed, .voting] ∨ k.drained ∨ k.deadlinePast ∨ s.now < k.drainDeadline then s
    else
      let s := s.raiseAt cuUnit fDrainDeadline k.drainDeadline (packWord [(32, ctx)]) (BitVec.ofNat 64 (s.unacked ctx))
      let s := s.setBoost false
      (s.modCoded ctx (fun k => { k with deadlinePast := true })).modUppers (fun x =>
        { x with gov := { x.gov with rate := x.gov.ceiling } })

end Sys2Proof.Machine
end

