-- ==== Sys2Proof/Machine/Receive.lean ====
section
/-! DEFINITION. What arrives from other chips and what follows at once: news, the collectives' messages and decisions (R427 to
R433), the chain messages (R204 to R210, R418, R419), losses (R41, R193, R194, R231 to R235), the timers of messages (R434), and
the work that every event leaves to be done. -/

namespace Sys2Proof.Machine

/-! ### News -/

/-- What another chip did that no message carries (log entry 22). -/
def State.takeNews (s : State) (n : News) : State := match n with
  | .darnEnded ctx d failed stamp => s.darnEnded ctx d failed stamp
  | .lacking ctx member stripe =>
    (s.modGlove ctx (fun gl => if gl.lacking.contains (member, stripe) ∨ gl.g.n ≤ member ∨ member = gl.g.me then gl
      else { gl with lacking := gl.lacking ++ [(member, stripe)] })).regradeLoss ctx
  | .rebuilt ctx member stripe =>
    (s.modGlove ctx (fun gl => { gl with
      lacking := gl.lacking.filter (· != (member, stripe)),
      filled := if gl.unfilled member stripe then gl.filled ++ [(member, stripe)] else gl.filled })).regradeGain ctx
  | .copiesClear _ => s
  | .handoverDone ctx => s.finishHandover ctx
  | .fillEnded ctx w failed => s.fillEnded ctx w failed
  | .seatInfo ctx info => if (s.codedOf ctx).isSome && (s.gloveOf ctx).isNone then { s with infos := Tab.set s.infos ctx info } else s

/-- An event begins: the news that have reached the chip, and the pairs of values that the event's use of them compares (R399). The model
compares C, S and T of every context at each event (DESIGN CHOICE, log entry 84). -/
def State.begin (s : State) (e : Ev) : State := (e.news.foldl (fun s n => s.takeNews n) (s.at e)).checkPairs.checkTs

/-! ### Deciding a collective -/

/-- A participant applies its phase's outcome rule to the records of a decision (R428). -/
def State.applyOutcome (s : State) (c : Coll) (recs : List (Nat × List Byte)) (b : Block) : State :=
  let p := c.key.phase
  if p = phForm then (if c.key.step = 1 then s.roundOutcome c recs b else s.formOutcome c recs b)
  else if p = phDissolve then s.dissolveOutcome c b
  else if p = phStandin then s.standinOutcome c recs b
  else if p = phAdmit then s.admitOutcome c recs b
  else if p = phHbconf then s.confOutcome c recs b
  else if p = phRestore then s.restoreOutcome c recs b
  else if p = phWitness 1 ∨ p = phWitness 2 then s.armEnd c recs b
  else s.darnOutcome c recs b

/-- The collective ends on this chip. One whose command has ended before it has no outcome left. -/
def State.conclude (s : State) (c : Coll) (recs : List (Nat × List Byte)) (b : Block) : State :=
  if (s.pendOf c.cmd).isNone then s.dropColl c.key else (s.dropColl c.key).applyOutcome c recs b

/-- The restore of a context. -/
def State.restoreOf (s : State) (ctx : Nat) : Option (HbGroup × Restore) := match s.codedOf ctx with
  | some k => match k.hb, k.restore with
    | some h, some r => some (h, r)
    | _, _ => none
  | none => none

/-- A decider sends its decision to the other participants, and a node of a restore tree to its child entries (R428, R432). -/
def State.announce (s : State) (c : Coll) (b : Block) : State :=
  match s.restoreOf c.key.ctx, c.key.phase == phRestore with
  | some (_, r), true => s.restoreDown c r b
  | _, _ => s.sendDecision c b

/-- A decider sends its decision and takes it (R428). -/
def State.decideColl (s : State) (c : Coll) (b : Block) : State := (s.announce c b).conclude c c.recs b

/-- The root of a restore tree decides from a combined record, or from one with a status, whose time stamps the abort (R270, R429, R432). -/
def State.rootDecides (s : State) (c : Coll) (r : Restore) (status : Nat) (up : List Byte) : State :=
  let (st, x) := if status ≠ 0 then (status, 0) else decideRestore r.want up
  s.decideColl c (restoreBlock st x (if status ≠ 0 ∧ field up 8 8 ≠ 0 then field up 8 8 else s.now))

/-- This node's record goes up to the entry above it (R270). -/
def State.restoreUp (s : State) (c : Coll) (r : Restore) (up : List Byte) : State :=
  let dst := (r.entries.getD ((r.mine - 1) / 8) (0, ⟨0, 0, 0⟩)).2
  (s.modCoded c.key.ctx (fun k => { k with restore := k.restore.map (fun (r : Restore) => { r with sentUp := true }) })).send cuUnit
    c.key.ctx 0xFF dst (mkWire tVote 0 c.key.ctx 0xFFFF 0xFF (collBody c.key.step phRestore r.mine) (votePayload 48 [(0, up)]))

/-- A node of a restore tree whose inputs are complete decides at the root, and otherwise sends its combined record up (R270,
R428), which R430 may hold back. `late` stands for the missing inputs at the close: the record that goes up then carries the abort's status
with the close, and a root stamps the abort with the time that such a record carries (R429; DESIGN CHOICE, log entry 30). -/
def State.pumpRestore (s : State) (c : Coll) (late : Bool) : State :=
  match s.restoreOf c.key.ctx with
  | none => s
  | some (h, r) =>
    let full := c.complete && r.childEntries.all (fun e => (Tab.get r.kids e).isSome)
    if c.me ≠ c.gatherer ∨ r.sentUp ∨ !(full || late) then s
    else
      let (st, up) := if full then r.combine h c.recs else (stCollTimeout, restoreStatus stCollTimeout (c.acceptedAt + c.timeout))
      if r.mine = 0 then s.rootDecides c r st up
      else if s.heldBack c.key then s
      else s.restoreUp c r up

/-- A collective moves on: the record of a due completion round, the VOTE, and the gatherer's decision (R428, R574). -/
def State.pumpColl (s : State) (k : CollKey) : State :=
  match s.collOf k with
  | none => s
  | some c =>
    let ready := !CollKey.isRound k || s.formSent k.ctx
    let s := if CollKey.isRound k && ready && !c.sent then s.roundRecord c else s
    match s.collOf k with
    | none => s
    | some c =>
      let s := s.sendVote c ready
      match s.collOf k with
      | none => s
      | some c =>
        if s.cu.fwFault then s
        else if k.phase = phRestore then s.pumpRestore c false
        else if c.me = c.gatherer ∧ c.complete then s.decideColl c (proceedBlock s.now)
        else s

/-- A number that orders keys as R430 does. -/
def CollKey.rank (k : CollKey) : Nat := ((k.ctx * 2 ^ 64 + k.step) * 2 ^ 16 + k.glove) * 2 ^ 8 + k.phase

/-- Every collective moves on, the lowest key first (R430). -/
def State.pumpColls (s : State) : State :=
  (sortOn CollKey.rank (s.colls.map (·.key))).foldl (fun s k => s.pumpColl k) s

/-! ### Messages of collectives -/

/-- The chip has accepted a key (R431). -/
def State.accepted (s : State) (k : CollKey) : Bool :=
  (s.collOf k).isSome || (k.phase == 1 && match s.codedOf k.ctx with
    | some x => (match x.vote with
      | some v => v.key k.ctx == k
      | none => false)
    | none => false)

/-- The drop counter of a crown message, or none (R414). -/
def State.crownDrop (s : State) (src : Coord) (w : Wire) : Option Nat :=
  if w.cGlove ≠ 0xFFFF then s.dropReason src w
  else match s.codedOf w.cCtx with
    | none => some 4
    | some k => match k.vote with
      | none => some 4
      | some v =>
        let from' := if w.type = tVote then v.childEntries.contains w.entry && (v.entryCoord w.entry == src)
          else v.mine != 0 && (v.entryCoord ((v.mine - 1) / 8) == src)
        if !from' then some 2 else if w.cMember ≠ 0xFF then some 4 else none

/-- The drop counter of a message of another collective, or none (R414). -/
def State.collDrop (s : State) (src : Coord) (w : Wire) (c : Coll) : Option Nat :=
  if c.key.phase = phRestore ∧ w.cGlove = 0xFFFF then match s.restoreOf c.key.ctx with
    | none => some 2
    | some (_, r) =>
      let at' := fun (e : Nat) => (r.entries.getD e (0, ⟨0, 0, 0⟩)).2
      let from' := if w.type = tVote then r.childEntries.contains w.entry && (at' w.entry == src)
        else r.mine != 0 && (at' ((r.mine - 1) / 8) == src)
      if !from' then some 2 else if w.cMember ≠ 0xFF then some 4 else none
  else if w.cGlove ≠ c.group then some 4
  else match c.parts.find? (fun (p : Nat × Coord) => p.2 == src) with
    | none => some 2
    | some (i, _) => if s.partLost c i then some 3 else if c.parts.contains (w.cMember, src) then none else some 4

/-- Why a message with an accepted key is dropped. -/
def State.keyDrop (s : State) (src : Coord) (w : Wire) : Option Nat :=
  match s.collOf w.key with
  | some c => s.collDrop src w c
  | none => s.crownDrop src w

/-- A received record with its reserved bytes zero, as it is sent on (R11, R425); `combined` is one of a restore tree. -/
def cleanRecord (phase : Nat) (combined : Bool) (r : List Byte) : List Byte :=
  if recordSize phase = 96 then (readColl r).bytes
  else
    let g := readGroup r
    if phase ≠ phRestore then g.bytes
    else if combined then { g with member := 0, tlim := 0 }.bytes
    else { g with layout := 0, place := 0, tlim := 0 }.bytes

/-- A VOTE reaches the gatherer or a tree node. -/
def State.takeCollVote (s : State) (c : Coll) (w : Wire) : State :=
  if c.key.phase = phRestore ∧ w.cGlove = 0xFFFF then
    s.modCoded c.key.ctx (fun k => { k with restore := k.restore.map (fun (r : Restore) =>
      { r with kids := Tab.set r.kids w.entry (cleanRecord phRestore true (slice w.payload 0 48)) }) })
  else if c.me ≠ c.gatherer then s
  else match Tab.get (pageRecords c.key.phase w.payload) w.cMember with
    | none => s
    | some r => s.modColl c.key (fun x => { x with recs := Tab.set x.recs w.cMember (cleanRecord c.key.phase false r) })

/-- A decision reaches a participant; a node of a restore tree passes it down with its own group's records. -/
def State.takeDecision (s : State) (c : Coll) (w : Wire) : State :=
  let b := readBlock w.payload
  if c.key.phase = phRestore ∧ w.cGlove = 0xFFFF then s.decideColl c b
  else s.conclude c (pageRecords c.key.phase w.payload) b

/-- Act on a VOTE or CROWN whose key is accepted. -/
def State.actColl (s : State) (w : Wire) : State :=
  match s.collOf w.key with
  | some c => if w.type = tVote then s.takeCollVote c w else s.takeDecision c w
  | none =>
    if w.type = tVote then s.takeVote w w.cCtx else s.takeBlock w.cCtx (readRecords 96 w.payload) (readBlock w.payload)

/-- Answer a VOTE or CROWN (R412, R431). -/
def State.ackColl (s : State) (src : Coord) (w : Wire) : State :=
  let me := if w.cGlove = 0xFFFF then 0xFF else match s.collOf w.key with
    | some c => c.me
    | none => if s.accepted w.key then s.myMember w.cCtx false else 0xFF
  s.reply src (w.answer w.type 1 me)

/-- Keep a message for a key not accepted yet (R431): at most 64 keys, answered on arrival. -/
def State.keepMsg (s : State) (src : Coord) (w : Wire) : State :=
  let keys := (s.kept.map (·.key)).eraseDups
  if !keys.contains w.key ∧ Config.keptKeys ≤ keys.length then s.countDrop 5
  else
    let x : Kept := { key := w.key, src := src, msg := w, at' := s.now }
    let s := { s with kept := s.kept ++ [x] }
    (s.remember src w).ackColl src w

/-- An abort of the running attempt that reaches a glove member which has not issued CROWN (R138, R188): it leaves OPEN or CLOSED
at once, whatever R431 keeps for a CROWN to come. -/
def State.abortEarly (s : State) (src : Coord) (w : Wire) : Bool :=
  w.type == tCrown && w.phase == 1 && w.cGlove != 0xFFFF && (s.dropReason src w).isNone && (readBlock w.payload).decision == 2 &&
    (match s.codedOf w.cCtx with
      | some k => (k.phase == .opened || k.phase == .closed) && k.stepField.toNat == w.stepField
      | none => false)

/-- A VOTE or CROWN arrives (R171, R176, R414, R428, R431, R435). -/
def State.collMessage (s : State) (src : Coord) (w : Wire) : State :=
  if w.seal.crc != w.crc then s.countDrop 0
  else if !w.legal then s.countDrop 1
  else if w.sub = 1 then
    if s.sent.any (fun x => x.dst == src && x.msg.type == w.type && x.msg.matches w) then s.answered src w [(w.type, 0)]
    else match s.dropReason src w with
      | some i => s.countDrop i
      | none => s
  else if s.accepted w.key then match s.keyDrop src w with
    | some i => s.countDrop i
    | none => if s.repeated src w then s.ackColl src w else ((s.ackColl src w).remember src w).actColl w
  else if s.repeated src w then s.ackColl src w
  else if s.abortEarly src w then
    let b := readBlock w.payload
    ((s.remember src w).ackColl src w).takeAbort w.cCtx (BitVec.ofNat 64 w.stepField) b.status b.member b.entry b.time
  else s.keepMsg src w

/-- Kept messages whose key has been accepted are acted on, in order of arrival (R431). -/
def State.takeKept (s : State) : State :=
  let hit := fun (x : Kept) => s.accepted x.key
  let left : State := { s with kept := s.kept.filter (fun (x : Kept) => !hit x) }
  (s.kept.filter hit).foldl (fun s x => match s.keyDrop x.src x.msg with
    | some i => s.countDrop i
    | none => if s.accepted x.key then s.actColl x.msg else s) left

/-- Kept crown votes of glove members under another key show a skew (R170). -/
def State.skewKept (s : State) : State :=
  (s.kept.filter (fun x => x.key.phase == 1 && x.msg.type == tVote)).foldl (fun s x =>
    match s.codedOf x.key.ctx, s.gloveOf x.key.ctx with
    | some k, some gl => match k.vote with
      | some v => if v.skew ∨ gl.g.coord x.msg.cMember ≠ x.src then s else s.seeSkew x.msg x.key.ctx
      | none => s
    | _, _ => s) s

/-! ### Losses -/

/-- A restore's vote has lost a member (R432): the decider, the group's head or the lowest other member where the head is lost, aborts.
The head sends the status up its tree, so that every group ends with one stamp, or decides it at the root; the lowest other member decides
for its group alone (R268). The others wait for the decision. -/
def State.loseVote (s : State) (c : Coll) (r : Restore) (member : Nat) : State :=
  let head := c.gatherer
  let others := (c.parts.map (·.1)).filter (fun i => i != member)
  if member = head then
    if others.head? ≠ some c.me then s
    else
      let b := { abortBlock stMemberLost s.now with member := member }
      (s.sendDecision { c with parts := c.parts.filter (fun p => p.1 != member) } b).conclude c c.recs b
  else if c.me ≠ head then s
  else if r.mine = 0 then s.rootDecides c r stMemberLost (restoreStatus stMemberLost s.now)
  else s.restoreUp c r (restoreStatus stMemberLost s.now)

/-- A member of a group is lost during its restore, by a cause of R496, found at a band time (R276, R432): a chip that found the loss itself
tells the others. During the vote the decider aborts; after it the restore ends with MEMBER_LOST here, status and fault (R14), stamped
with the time of the finding. -/
def State.loseRestore (s : State) (ctx member cause time : Nat) : State :=
  match s.restoreOf ctx with
  | none => s
  | some (h, r) =>
    let s := if cause ≠ lostNotice then ((List.range h.g.n).filter (fun i => i != h.g.me && i != member)).foldl (fun s i =>
        s.send cuUnit ctx i (h.g.coord i) (mkWire tAbort 0 ctx h.g.id h.g.me
          (abortBody r.want phRestore stMemberLost member time) [])) s
      else s
    match s.collOf (restoreKey ctx r.want) with
    | some c =>
      let s := s.modColl c.key (fun x => { x with lostBy := cause })
      s.loseVote { c with lostBy := cause } r member
    | none =>
      let s := s.statusFault ctx stMemberLost
        { id := h.g.id, member := member, phase := phRestore, opcode := 0x41, cause := cause, step := 0 }
      s.endRestore ctx stMemberLost 0 time

/-- A participant of a collective other than a restore has been found lost, by a cause of R496 (R432): the decider stamps an abort that
names it (R426) and sends it to the others. -/
def State.collLoss (s : State) (k : CollKey) (seat cause : Nat) : State :=
  if k.phase = phRestore then s.loseRestore k.ctx seat cause s.now
  else match s.collOf k with
  | none => s
  | some c =>
    if (Tab.get c.parts seat).isNone then s
    else
      let s := s.modColl k (fun x => { x with lostBy := cause })
      let c := { c with lostBy := cause }
      let out := fun (i : Nat) => i == seat || s.partLost c i
      let decider := if out c.gatherer then ((c.parts.map (·.1)).filter (fun i => !out i)).head?.getD c.me else c.gatherer
      if decider ≠ c.me then s
      else
        let b := { abortBlock stMemberLost s.now with member := seat }
        (s.announce { c with parts := c.parts.filter (fun p => p.1 != seat) } b).conclude c c.recs b

/-- Every glove collective of a context that a lost member takes part in ends (R129, R235, R432). -/
def State.collsLost (s : State) (ctx member cause : Nat) : State :=
  ((s.colls.filter (fun c => c.key.ctx == ctx && c.key.phase != phHbconf && c.key.phase != phRestore && s.partLost c member)).map
    (·.key)).foldl (fun s k => s.collLoss k member cause) s

/-- A member is found lost, with what follows from it (R129, R193, R194, R231 to R235, R244). -/
def State.loseMember (s : State) (ctx member cause : Nat) : State :=
  match s.gloveOf ctx with
  | none => s
  | some gl =>
    if gl.g.n ≤ member ∨ member = gl.g.me ∨ gl.lostMask.getLsbD member then s
    else ((((s.markLost ctx member cause).darnLoss ctx member).admitLoss ctx member cause).reissueChanged ctx).collsLost ctx member cause

/-- A member of a hatbox group is lost to this chip (R263, R276). -/
def State.hbLoss (s : State) (ctx member cause : Nat) : State :=
  (s.abandonCopy ctx hbLost member).loseRestore ctx member cause s.now

/-- The new chip of a context's admission is lost (R244). -/
def State.newChipLost (s : State) (ctx cause : Nat) : State :=
  match (s.codedOf ctx).bind (·.admission) with
  | some a => s.endAdmission ctx a.member cause
  | none => s

/-- A message has gone 2 ms without an answer (R193, R434): its addressee is found lost. A SEAL or an ABORT of a hatbox group marks
nobody (R263), an EXPORT_PART has its own end (R283), and a tree node is no member of this glove. -/
def State.answerMissing (s : State) (id : Nat) : State :=
  match s.sent.find? (fun x => x.id == id) with
  | none => s
  | some x =>
    let w := x.msg
    if s.now < x.first + Config.memberTimeout ∨ w.type = tExport ∨ s.cu.fwFault then s
    else
      let s := s.dropSent (fun y => y.id == id)
      if Wire.toHatbox w then (if w.type = tSeal ∨ w.type = tAbort then s else s.hbLoss x.ctx x.member lostTimeout)
      else if x.member = 0xFD then s.newChipLost x.ctx lostTimeout
      else if (w.type = tVote ∨ w.type = tCrown) ∧ w.phase ≠ 1 then
        let s := match s.gloveOf x.ctx with
          | some gl => if gl.g.id = w.cGlove ∧ gl.g.coord x.member = x.dst then s.loseMember x.ctx x.member lostTimeout else s
          | none => s
        s.collLoss w.key x.member lostTimeout
      else if x.member = 0xFF then s
      else if x.member = 0xFE then s.witnessGone x.ctx x.dst
      else match s.codedOf x.ctx, s.gloveOf x.ctx with
        | some k, none => match k.asWitness with
          | some y => s.leaveWitness x.ctx y.w stCrownAbort
          | none => s
        | _, _ => s.loseMember x.ctx x.member lostTimeout

/-- A message unanswered for 250 µs since its last send leaves again (R434). EVAC keeps back the stitch channel (R239), and after
FW_FAULT only the tracked transfers, the DELTAs, are completed (R30). -/
def State.resend (s : State) (id : Nat) : State :=
  match s.sent.find? (fun x => x.id == id) with
  | none => s
  | some x =>
    let quiet := s.cu.evac && (x.msg.type ∈ [tDelta, tDarnReq, tDarnPart, tDarnDone, tHatbox, tSeal]) && x.msg.sub != 1
    if s.now < x.last + Config.resendTime ∨ x.msg.type = tExport ∨ quiet ∨ (s.cu.fwFault ∧ x.msg.type ≠ tDelta) then s
    else { (s.carry x.dst x.msg) with
           sent := s.sent.map (fun (y : Sent) => if y.id == id then { y with last := s.now } else y) }

/-- A chip that a link no longer reaches (R41): every seat it holds in a glove, group or collective of this chip is lost. -/
def State.loseChip (s : State) (at' : Coord) : State :=
  s.coded.foldl (fun s p =>
    let ctx := p.2.ctx
    let s := match s.gloveOf ctx with
      | some gl => (match gl.g.memberAt at' with
        | some i => s.loseMember ctx i lostLink
        | none => s)
      | none => s
    let s := match s.hbOf ctx with
      | some h => (match h.g.memberAt at' with
        | some i => s.hbLoss ctx i lostLink
        | none => s)
      | none => s
    let s := s.witnessGone ctx at'
    let s := match s.codedOf ctx with
      | some k => (match k.admission with
        | some a =>
          if a.isNew then (match (List.range 32).find? (fun i => i != a.member && placeCoord a.place i == at') with
            | some i => s.admitLoss ctx i lostLink
            | none => s)
          else if placeCoord a.place a.member == at' then s.endAdmission ctx a.member lostLink else s
        | none => s)
      | none => s
    (s.colls.filter (fun c => c.key.ctx == ctx && c.key.phase != phRestore)).foldl (fun s c => match c.parts.find? (fun (q : Nat × Coord) => q.2 == at') with
      | some (i, _) => if i = c.me then s else s.collLoss c.key i lostLink
      | none => s) s) s

/-- The chips of which the ports that lead toward them are down, every one, and among these ports one that `hit` names, are lost (R41).
Existing gloves keep the coordinates verified when they were formed (R40), so the flag has no part in it. -/
def State.loseChips (s : State) (hit : BitVec 48 → Bool) : State :=
  if s.cu.fwFault then s
  else
    let gone := fun (p : Coord × BitVec 48) => hit p.2 && (p.2 &&& s.cu.fabric.down == p.2)
    (s.cu.fabric.cables.filter gone).foldl (fun s p => s.loseChip p.1) s

/-- The fabric reports a port down (R41). -/
def State.portDown (s : State) (port : Nat) : State :=
  (s.modCu (fun c => { c with fabric := { c.fabric with down := c.fabric.down ||| ((1 : BitVec 48) <<< port) } })).loseChips
    (fun ports => ports.getLsbD port)

/-! ### Chain messages -/

/-- The instance whose stitch a glove chain message asks of this chip. -/
def State.chainAt (s : State) (w : Wire) : Option (Fin 16) :=
  match s.gloveOf w.cCtx with
  | none => none
  | some gl => match gl.g.plan w.chStripe (w.chSeat 0) w.chErased with
    | none => none
    | some p =>
      let me := if w.type = tDarnReq ∧ w.sub = 3 then p.check.map (fun j => parityHolder gl.g.n gl.g.m w.chStripe j) else p.next w
      match me with
      | none => none
      | some i =>
        let role := gl.g.roleIn i w.chStripe
        (s.seatAt w.cCtx gl i role.1 role.2).map (fun q => keyInst (q.1.handKey q.2 false))

/-- A contributor cannot act now and leaves the message to be resent: it serves no darn under EVAC (R239), its reads of crowned
state pause in the crown guard (R178, R206), or the instance is under test (R557). -/
def State.chainWaits (s : State) (w : Wire) : Bool :=
  s.cu.evac || (!w.chHb && s.inGuard w.cCtx) || (match s.chainAt w with
    | some i => s.inst[i].test.running
    | none => false)

/-- The seat that the acknowledgement of a chain message names (R412): the contributor's whom the message asks, the target's of a result,
and 0xFE on a witness chip. -/
def State.chainSeat (s : State) (w : Wire) : Nat :=
  let me := s.myMember w.cCtx w.chHb
  if w.chHb ∨ ((s.codedOf w.cCtx).bind (·.asWitness)).isSome then me
  else if w.type = tDarnDone then w.chSeat 0
  else ((s.chainGlove w.cCtx).bind (fun gl => (gl.g.plan w.chStripe (w.chSeat 0) w.chErased).bind (fun p => p.next w))).getD me

/-- The acknowledgement of a chain message (R207, R419). -/
def State.ackChain (s : State) (src : Coord) (w : Wire) : State := s.reply src (w.answer tDarnPart 1 (s.chainSeat w))

/-- The chains of a glove have stopped, because it is LOST (R233). -/
def State.chainsOver (s : State) (w : Wire) : Bool := !w.chHb && (s.gloveOf w.cCtx).any (fun gl => gl.state == .lost)

/-- DARN_REQ arrives (R204, R209, R419). A request that could not be served is not remembered, so that its repeat is. A LOST glove's is
acknowledged and goes no further (R233). -/
def State.takeRequest (s : State) (src : Coord) (w : Wire) : State :=
  if s.chainWaits w then s
  else if w.sub = 3 then (s.answerCheck src w).remember src w
  else if s.repeated src w then s.ackChain src w
  else if s.chainsOver w then (s.ackChain src w).remember src w
  else
    let t := if w.chHb then s.contributePiece w else s.contribute w
    if t.serial = s.serial ∧ t.stitchQ.length = s.stitchQ.length then t else t.remember src w

/-- The plan that a chain was issued over. -/
def State.planOf (s : State) (c : Chain) : Option Plan :=
  if c.hb then (s.hbOf c.ctx).bind (fun h => h.g.plan c.stripe c.member c.erased)
  else (s.chainGlove c.ctx).bind (fun gl => gl.g.plan c.stripe c.member c.erased)

/-- Change a chain. -/
def State.modChain (s : State) (c : Chain) (f : Chain → Chain) : State :=
  { s with chains := s.chains.map (fun (x : Chain) => if x == c then f x else x) }

/-- A chain has its result and, where it has a check seat, the check answer (R209, R210). -/
def State.finishChain (s : State) (c : Chain) : State :=
  match c.result, s.planOf c with
  | some (data, tag, acc), some p =>
    if p.check.isSome ∧ c.check.isNone then s
    else if c.hb then s.endPiece c data tag acc
    else
      let (s, e) := s.endChain c data tag acc
      s.afterStitch c.ctx c.region c.idx e
  | _, _ => s

/-- The chain that an answer belongs to: stripe, target, step and, for a result, the erasure set. -/
def State.chainNow (s : State) (w : Wire) : Option Chain :=
  (s.chainOfMsg w).filter (fun c => c.step % 4 == w.chStep && c.erased == w.chErased)

/-- DARN_PART arrives: a partial sum, an acknowledgement, STALE, or a check answer (R204, R205, R207, R209, R323). A partial sum of a
restore that this chip has not decided yet is left to be resent (R272). -/
def State.takePart (s : State) (src : Coord) (w : Wire) : State :=
  if w.sub = 0 then
    if s.repeated src w then s.ackChain src w
    else if s.chainWaits w ∨ (w.chHb ∧ (s.hbSlotStep w.cCtx).isNone) then s
    else
      let s := (s.ackChain src w).remember src w
      if w.chHb then s.contributePiece w else s.contribute w
  else if w.sub = 1 then (s.copyAcked src w).answered src w [(tDarnPart, 0), (tDarnDone, 0), (tDarnReq, 0)]
  else if w.sub = 2 then match s.chainOfMsg w with
    | none => s
    | some c =>
      if c.step % 4 ≠ w.chStep then s
      else if c.hb then s.reissuePiece c
      else match s.gloveOf c.ctx with
        | none => s.staleWitness c.ctx
        | some _ => s.reissue c
  else
    let s := s.dropSent (fun x => x.ctx == w.cCtx && x.dst == src && x.msg.type == tDarnReq && x.msg.sub == 3 &&
      x.msg.chain == w.chain)
    match s.chainNow w with
    | none => s
    | some c =>
      let c' := { c with check := some w.solve }
      (s.modChain c (fun _ => c')).finishChain c'

/-- The destination under test holds a result back (R557). -/
def State.destWaits (s : State) (c : Chain) : Bool := !c.hb && match s.region? c.region with
  | some r => s.inst[keyInst (r.handKey c.idx false)].test.running
  | none => false

/-- DARN_DONE arrives (R210, R242). A result for no chain of this chip is acknowledged and discarded. -/
def State.takeDone (s : State) (src : Coord) (w : Wire) : State :=
  if s.repeated src w then s.ackChain src w
  else match s.chainNow w with
    | some c =>
      if s.destWaits c then s
      else
        let s := (s.ackChain src w).remember src w
        let s := s.dropSent (fun x => x.ctx == w.cCtx && x.msg.type == tDarnReq && x.msg.sub == 0 && x.msg.chain == w.chain)
        let c' := { c with result := some (padTo 4096 w.payload, w.solve, w.checkAcc) }
        (s.modChain c (fun _ => c')).finishChain c'
    | none => match (s.codedOf w.cCtx).bind (fun k => k.admission.bind (fun a => (s.admitView k).map (fun g => (a, g)))) with
      | some (a, gl) => s.takeCopy src w a gl
      | none => (s.ackChain src w).remember src w

/-! ### Other messages -/

/-- A hatbox chain message (R261). -/
def State.takeHatbox (s : State) (src : Coord) (w : Wire) : State :=
  let ack := fun (s : State) => s.reply src (w.answer tHatbox 1 (s.myMember w.cCtx true))
  if w.sub = 1 then s.answered src w [(tHatbox, 0)]
  else if s.repeated src w then ack s
  else if s.cu.evac ∨ s.inGuard w.cCtx then s
  else match s.takeHatboxPart w with
    | (s, true) => (ack s).remember src w
    | (s, false) => s

/-- A SEAL (R264). -/
def State.sealMessage (s : State) (src : Coord) (w : Wire) : State :=
  let ack := fun (s : State) => s.reply src (w.answer tSeal 1 (s.myMember w.cCtx true))
  if w.sub = 1 then s.answered src w [(tSeal, 0)]
  else if s.repeated src w then ack s
  else ((ack s).remember src w).takeSeal w

/-- A WITNESS_DIGEST (R316, R318). -/
def State.digestMessage (s : State) (src : Coord) (w : Wire) : State :=
  let ack := fun (s : State) => s.reply src (w.answer tWitness 1 (s.myMember w.cCtx false))
  if w.sub = 1 then
    let s := s.answered src w [(tWitness, 0)]
    match (s.codedOf w.cCtx).bind (fun k => k.asWitness) with
    | some x => if x.sent then s.witnessAcked w.cCtx x.w else s
    | none => s
  else if s.repeated src w then ack s
  else ((ack s).remember src w).takeWitnessDigest w

/-- An ABORT (R194, R244, R263, R276, R421). -/
def State.abortMessage (s : State) (src : Coord) (w : Wire) : State :=
  let hb := Wire.toHatbox w
  let ack := fun (s : State) => s.reply src (w.answer tAbort 1 (s.myMember w.cCtx hb))
  let status := w.bodyField 0x0E 1
  let lost := w.bodyField 0x0F 1
  if w.sub = 1 then s.answered src w [(tAbort, 0)]
  else if s.repeated src w then ack s
  else
    let s := (ack s).remember src w
    if w.phase = 0 then s.loseMember w.cCtx lost lostNotice
    else if w.phase = phRestore then s.loseRestore w.cCtx lost lostNotice (w.bodyField 0x10 8)
    else if w.phase = phAdmit then s.endAdmission w.cCtx lost lostNotice
    else if w.phase = 8 then s.abandonCopy w.cCtx hbAbort w.cMember
    else if w.phase = phWitness 1 ∨ w.phase = phWitness 2 then s.witnessAbort w.cCtx (w.phase - 8) status
    else s

/-- A DELTA arrives (R151, R435). -/
def State.deltaMessage (s : State) (src : Coord) (w : Wire) : State :=
  match s.gloveOf w.cCtx with
  | none => s
  | some gl =>
    let stripe := w.bodyField 0x0D 4
    let holder := parityHolder gl.g.n gl.g.m stripe (w.bodyField 0x11 1)
    let tested := match s.seatAt w.cCtx gl holder true (stripe / gl.g.period) with
      | some (r, idx) => s.inst[keyInst (r.handKey idx false)].test.running
      | none => false
    if s.repeated src w then s.reply src (w.answer tDeltaAck 0 holder)
    else if tested then s
    else s.decideDelta src w

/-- A message of a glove or group arrives: it is dropped and counted (R414), or acted on. After FW_FAULT the chip acts on no
message but the acknowledgement of a tracked transfer (R30, R196). -/
def State.guarded (s : State) (src : Coord) (w : Wire) (act : State → State) : State :=
  if s.cu.fwFault ∧ w.type ≠ tDeltaAck then s
  else match s.dropReason src w with
    | some i => s.countDrop i
    | none => act s

/-- An acknowledgement frees its tracked transfer, so what waited for one goes on (R148, R156). -/
def State.ackMessage (s : State) (src : Coord) (m : Wire) : State := (s.answered src m [(tDelta, 0), (tDelta, 2)]).formAll

/-- A VOTE or CROWN arrives; after FW_FAULT the CU acts on none (R29). -/
def State.hearColl (s : State) (src : Coord) (m : Wire) : State := if s.cu.fwFault then s else s.collMessage src m

/-- What a message does, by its type (R411). -/
def State.takeMessage (s : State) (src : Coord) (m : Wire) : State :=
  match m.type with
  | 1 => s.guarded src m (fun s => s.deltaMessage src m)
  | 2 => s.guarded src m (fun s => s.ackMessage src m)
  | 3 => s.guarded src m (fun s => s.takeRequest src m)
  | 4 => s.guarded src m (fun s => s.takePart src m)
  | 5 => s.guarded src m (fun s => s.takeDone src m)
  | 6 => s.hearColl src m
  | 7 => s.hearColl src m
  | 8 => s.guarded src m (fun s => s.abortMessage src m)
  | 9 => s.guarded src m (fun s => s.takeHatbox src m)
  | 10 => s.guarded src m (fun s => s.sealMessage src m)
  | 11 => s.guarded src m (fun s => s.digestMessage src m)
  | _ => s

/-! ### What every event leaves to be done -/

/-- The DELTAs that wait in a glove that has become LOST are decided: no darn serves them any more (R572). -/
def State.settleDeltas (s : State) : State :=
  if s.heldDeltas.any (fun p => (s.gloveOf p.2.cCtx).any (fun g => g.state == .lost)) then s.retryDeltas else s

/-- Everything that can follow at once follows: kept messages, collectives, votes, chains and darns that can go on or end, contexts
that can close, tests that need no gap, and BOOST_REQ. After FW_FAULT nothing of it does (R29, R30). -/
def State.pump (s : State) : State :=
  if s.cu.fwFault then s
  else
    let s := s.takeKept.skewKept.settleDeltas
    let s := s.pumpColls.pumpVotes
    let s := s.takeKept.pumpColls
    let s := s.retryStitches.settleDarns.settleWitnesses
    let s := s.yieldExports.settleCloses
    s.startFree.keepBoost

end Sys2Proof.Machine
end

