-- ==== Sys2Proof/Machine/Slots.lean ====
section
/-! DEFINITION. The commands of digest and tally slots: DIGEST_ARM (R287, R297, R484), DIGEST_READ (R295, R296), TALLY_ARM (R300,
R305), TALLY_READ (R307), and the scan of a WEIGHTS slot (R305). -/

namespace Sys2Proof.Machine

/-- How many slots of each kind a chip has (R484). -/
def slotCount : Nat := 4096

/-- A member whose stitches this chip holds or hosts as a share: 0xFF for its own palm (R287). -/
def State.hostedOk (s : State) (ctx hosted : Nat) : Bool :=
  hosted == 0xFF || (match s.gloveOf ctx with
    | some gl => (gl.dealOf hosted).isSome
    | none => false)

/-- The checks that arming a slot shares (R297, R484): `held` is the context that holds it. -/
def State.armCommon (s : State) (c : Cmd) (held : Option Nat) : Option (State) :=
  if !s.ctxOpen c.ctx then some (s.post c stBadContext 0)
  else if slotCount ≤ c.u16 16 then some (s.badParam c 16)
  else match held with
    | some x => if x ≠ c.ctx then some (s.post c stBadContext 0)
      else if c.modeBit 1 then none else some (s.post c stBusy 0)
    | none => none

/-- ROOT is accepted only for a coded context in CROWNED (R297). -/
def State.rootStatus (s : State) (ctx : Nat) : Option Nat :=
  match s.codedOf ctx with
  | none => some stBadContext
  | some k => if k.phase = .crowned then none else some stBusy

/-! ### Digest slots -/

/-- The slot that a DIGEST_ARM asks for; `layout` is the 32-byte record of a WRITE slot. -/
def digestOf (c : Cmd) (layout : List Byte) : Digest :=
  { ctx := c.ctx, kind := c.u8 18, root := c.modeBit 0, clearOnRead := c.modeBit 2, label := BitVec.ofNat 64 (c.u64 24),
    dkey := BitVec.ofNat 128 (field c.bytes 32 16), region := c.u16 20, tbase := field layout 0 8, tlog := c.u8 22,
    expect := c.u32 48, first := field layout 8 8, group := field layout 0x10 8, stride := field layout 0x18 8,
    hosted := c.u8 19, value := 0, bytes := 0, tiles := 0, written := [], twice := false,
    late := 0, frozen := none }

/-- The first field of a DIGEST_ARM outside R287 or R288, once its layout record is read. -/
def State.digestBad (s : State) (c : Cmd) (g : Digest) : Option Nat :=
  let write := g.kind == 1
  let region := match s.region? g.region with
    | some r => r.kind.mappable && r.owner == c.ctx
    | none => false
  let inside := (s.region? g.region).any (fun r => decide (g.tbase < r.len))
  if g.kind ≠ 1 ∧ g.kind ≠ 2 then some 18
  else if !(if write then g.hosted == 0xFF || decide (g.hosted < 32) else s.hostedOk c.ctx g.hosted) then some 19
  else if write && !region then some 20
  else if write && !(decide (12 ≤ g.tlog ∧ g.tlog ≤ 26)) then some 22
  else if write && !inside then some 56
  else if write && !(decide (1 ≤ g.group ∧ g.group ≤ 2 ^ 32 ∧ g.group ≤ g.stride ∧ g.stride ≤ 2 ^ 48)) then some 56
  else if g.root && s.digests.any (fun (p : Nat × Digest) => p.2.root && p.2.ctx == c.ctx && p.2.label == g.label &&
    p.2.hosted == g.hosted) then some 24
  else none

/-- DIGEST_ARM (R287, R297, R484). -/
def State.opDigestArm (s : State) (c : Cmd) : State :=
  match s.armCommon c ((Tab.get s.digests (c.u16 16)).map (·.ctx)) with
  | some t => t
  | none =>
    if c.modeBit 1 then ({ s with digests := Tab.del s.digests (c.u16 16) } : State).post c stOk 0
    else
      let write := c.u8 18 == 1
      let (s, layout) := if !write then (s, some []) else
        if s.bufferOk c.ctx (c.u64 56) 32 then s.bufferRead c.ctx (c.u64 56) 32 else (s, none)
      match layout with
      | none => s.badParam c 56
      | some l =>
        let g := digestOf c l
        if g.kind = 2 ∧ (s.codedOf c.ctx).isNone then s.post c stBadContext 0
        else match s.digestBad c g with
          | some b => s.badParam c b
          | none => match if g.root then s.rootStatus c.ctx else none with
            | some st => s.post c st 0
            | none => ({ s with digests := Tab.set s.digests (c.u16 16) g } : State).post c stOk 0

/-- The record of a slot (R295). -/
def Digest.record (g : Digest) (slot now : Nat) : List Byte :=
  let (step, stamp, state) := match g.frozen with
    | some (x, t) => (x.toNat, t, 2)
    | none => (0, now, 1)
  leBytes 8 g.label.toNat ++ leBytes 8 g.value.toNat ++ leBytes 4 g.expect ++ leBytes 4 (Nat.min g.counted (2 ^ 32 - 1)) ++
    leBytes 8 g.bytes ++ leBytes 8 step ++ leBytes 8 stamp ++ leBytes 4 g.late ++ leBytes 1 state ++ leBytes 1 g.result ++
    leBytes 2 slot ++ leBytes 8 0

/-- DIGEST_READ (R295, R296). -/
def State.opDigestRead (s : State) (c : Cmd) : State :=
  let slot := c.u16 16
  if !s.ctxOpen c.ctx then s.post c stBadContext 0
  else match Tab.get s.digests slot with
    | none => s.badParam c 16
    | some g =>
      if g.ctx ≠ c.ctx then s.post c stBadContext 0
      else if !s.bufferOk c.ctx (c.u64 24) 64 then s.badParam c 24
      else
        let s := s.bufferWrite (c.u64 24) (g.record slot s.now)
        let s := if g.clearOnRead && !g.root then
            { s with digests := Tab.set s.digests slot g.cleared }
          else s
        s.post c (if g.result = 1 then stPartial else stOk) g.result

/-! ### Tally slots -/

/-- The slot that a TALLY_ARM asks for. -/
def tallyOf (c : Cmd) : Tally :=
  { ctx := c.ctx, kind := c.u8 18, source := c.u8 19, format := c.u8 20, root := c.modeBit 0, clearOnRead := c.modeBit 2,
    label := BitVec.ofNat 64 (c.u64 24), hosted := c.u8 21, region := c.u16 22, counts := List.replicate 6 0, acc := 0,
    inc := 0, excluded := 0, incExcluded := 0, overflow := false, scanning := c.u8 18 == 2 && c.u8 19 == 1, late := 0,
    frozen := none, frozenAcc := 0 }

/-- The first field of a TALLY_ARM outside R300 or R301. -/
def State.tallyBad (s : State) (c : Cmd) (t : Tally) : Option Nat :=
  let region := match s.region? t.region with
    | some r => (r.kind == .tier || r.kind == .plain || r.kind == .pass) && r.owner == c.ctx
    | none => false
  if t.kind ≠ 1 ∧ t.kind ≠ 2 then some 18
  else if 2 < t.source ∨ (t.kind = 1 ∧ t.source = 1) then some 19
  else if t.format = 0 ∨ 6 < t.format then some 20
  else if !(if t.source = 0 then t.hosted == 0xFF || decide (t.hosted < 32) else s.hostedOk c.ctx t.hosted) then some 21
  else if t.source == 0 && !region then some 22
  else if t.root && s.tallies.any (fun (p : Nat × Tally) => p.2.root && p.2.ctx == c.ctx && p.2.label == t.label &&
    p.2.hosted == t.hosted) then some 24
  else none

/-- TALLY_ARM (R300, R305, R484): a WEIGHTS slot starts its scan. The rule of R297 on equal labels is taken for tally slots as well
(DEDUCED, log entry 34). -/
def State.opTallyArm (s : State) (c : Cmd) : State :=
  match s.armCommon c ((Tab.get s.tallies (c.u16 16)).map (·.ctx)) with
  | some t => t
  | none =>
    if c.modeBit 1 then ({ s with tallies := Tab.del s.tallies (c.u16 16) } : State).post c stOk 0
    else
      let t := tallyOf c
      if t.source ≠ 0 ∧ (s.codedOf c.ctx).isNone then s.post c stBadContext 0
      else match s.tallyBad c t with
        | some b => s.badParam c b
        | none => match if t.root || t.source == 1 then s.rootStatus c.ctx else none with
          | some st => s.post c st 0
          | none => ({ s with tallies := Tab.set s.tallies (c.u16 16) t } : State).post c stOk 0

/-- The record of a slot (R307). -/
def Tally.record (t : Tally) (slot now : Nat) : List Byte :=
  let (step, stamp, state) := match t.frozen with
    | some (x, at') => (x.toNat, at', 2)
    | none => (0, now, if t.scanning then 3 else 1)
  let norms := t.kind == 2
  let a := if t.frozen.isSome then t.frozenAcc else t.acc
  let out := if t.frozen.isSome ∧ t.source = 1 then ((t.excluded : Int) + t.incExcluded).toNat else t.excluded
  let value := if norms then leBytes 80 (a % 2 ^ 640).toNat
    else ((List.range 6).map (fun i => leBytes 8 (t.counts.getD i 0))).flatten ++ List.replicate 32 0
  leBytes 8 t.label.toNat ++ leBytes 1 t.kind ++ leBytes 1 t.source ++ leBytes 1 t.format ++
    leBytes 1 (state + (if t.overflow then 128 else 0)) ++ leBytes 2 slot ++ leBytes 2 (if norms then 2 ^ 16 - 320 else 0) ++
    leBytes 8 step ++ leBytes 8 stamp ++ value ++ leBytes 8 (if norms then roundFp64 a else 0) ++
    leBytes 8 (if norms then out else 0)

/-- The read itself: the record, the clearing, and the completion. -/
def State.readTally (s : State) (c : Cmd) (slot : Nat) (t : Tally) : State :=
  let s := s.bufferWrite (c.u64 24) (t.record slot s.now)
  let state := if t.frozen.isSome then 2 else 1
  let s := if t.clearOnRead && !t.root then
      { s with tallies := Tab.set s.tallies slot { t with counts := List.replicate 6 0, acc := 0, excluded := 0,
                                                          overflow := false, late := 0 } }
    else s
  s.post c (if t.overflow then stPartial else stOk) (state + (if t.overflow then 128 else 0))

/-- TALLY_READ (R305, R307). -/
def State.opTallyRead (s : State) (c : Cmd) : State :=
  let slot := c.u16 16
  if !s.ctxOpen c.ctx then s.post c stBadContext 0
  else match Tab.get s.tallies slot with
    | none => s.badParam c 16
    | some t =>
      if t.ctx ≠ c.ctx then s.post c stBadContext 0
      else if !s.bufferOk c.ctx (c.u64 24) 128 then s.badParam c 24
      else if t.scanning then
        (if s.hasJob (fun j => j == Job.tallyRead slot) then s.post c stBusy 0 else s.postDeferred c (.tallyRead slot))
      else s.readTally c slot t

/-! ### The scan of a WEIGHTS slot -/

/-- The stitches that a WEIGHTS slot covers (R300): the palm's STATE stitches, or the hosted share's. -/
def State.weightStitches (s : State) (t : Tally) : List (Region × Nat) :=
  let areas := s.regions.filter (fun (r : Region) => r.owner == t.ctx &&
    (if t.hosted = 0xFF then r.kind == .state else r.kind == .hosting t.hosted))
  let all := (areas.map (fun r => (List.range r.stitchCount).map (fun i => (r, i)))).flatten
  match s.gloveOf t.ctx with
  | some gl => all.filter (fun p =>
      let q := s.seatOf gl p.1 p.2
      !q.2.1 && !s.isGroups p.1 q.2.2)
  | none => all

/-- One stitch joins the crowned value; one that cannot be served counts as the poison pattern (R384). -/
def State.scanStitch (s : State) (t : Tally) (p : Region × Nat) : State × Tally :=
  let (s, d) := s.crownedOrZero p.1 p.2
  let bytes := match d with
    | some (b, _) => b
    | none => poisonPage
  (s, ((elemsAt t.format 0 bytes).map (elemOf t.format)).foldl (fun t e => match e.value with
    | some v => t.add (v * v)
    | none => { t with excluded := satAdd 64 t.excluded 1 }) t)

/-- The scan of a WEIGHTS slot completes (R305); a stitch that is being filled is darned on demand first (R212), and an instance under test
holds it (R557). A deferred TALLY_READ posts its final entry. -/
def State.scanDone (s : State) (slot : Nat) : State :=
  match Tab.get s.tallies slot with
  | none => s
  | some t =>
    let cells := s.weightStitches t
    if !t.scanning ∨ cells.any (fun p => s.testing (p.1.handKey p.2 false)) then s
    else
      match cells.find? (fun p => (s.stitch p.1.num p.2).fill) with
      | some p => s.demandDarn t.ctx p.1 p.2
      | none =>
        let start := { t with acc := 0, excluded := 0, scanning := false }
        let (s, t) := cells.foldl (fun acc p => acc.1.scanStitch acc.2 p) (s, start)
        let s := { s with tallies := Tab.set s.tallies slot t }
        (s.jobs (fun j => j == Job.tallyRead slot)).foldl (fun s p => match Tab.get s.tallies slot with
          | some t => s.readTally p.cmd slot t
          | none => s) s

end Sys2Proof.Machine
end

