-- ==== Sys2Proof/Machine/Tiles.lean ====
section
/-! DEFINITION. The tile commands and what completes them: TILE_PROMOTE and TILE_EVICT (R338 to R345), BRIM_OPEN and BRIM_ADVANCE
(R352 to R361, R485), and the ends of copies and deadlines. -/

namespace Sys2Proof.Machine

/-! ### TILE_PROMOTE and TILE_EVICT -/

/-- The frame address of a tile, 0 where it has no frame. -/
def State.tileAddr (s : State) (region tile : Nat) : Nat := match s.frameOf region tile with
  | some f => mkAddr false (s.frameAddr f.num)
  | none => 0

/-- The context's direct holding waits for a promotion of the tile. -/
def State.promoting (s : State) (ctx region tile : Nat) : Bool :=
  s.promos.any (fun p => p.holder == .direct ctx && p.region == region && p.tile == tile)

/-- The direct holding releases a tile (R345). -/
def State.evictTile (s : State) (c : Cmd) (region tile : Nat) : State :=
  if !s.holds (.direct c.ctx) region tile then s.badParam c 20
  else
    let s := s.dropRef (.direct c.ctx) region tile
    s.post c (if s.referenced region tile then stOkShared else stOk) 0

/-- The evicts whose promotion has ended go on, in order of acceptance (R345). -/
def State.settleEvicts (s : State) : State := s.pends.foldl (fun s p => match p.job with
  | .evict region tile ctx => if s.promoting ctx region tile then s else s.evictTile p.cmd region tile
  | _ => s) s

/-- A pending promotion of a command. -/
def State.addPromo (s : State) (h : Holder) (region tile deadline : Nat) (shared : Bool) : State :=
  let p : Promo := { id := s.serial, holder := h, region := region, tile := tile, deadline := deadline, order := s.serial,
                     shared := shared }
  { s with serial := s.serial + 1, promos := s.promos ++ [p] }

/-- TILE_PROMOTE past its checks, by the tile's state at acceptance (R339, R340). -/
def State.promoteTile (s : State) (c : Cmd) (region tile : Nat) : State :=
  let h := Holder.direct c.ctx
  let wait := fun (s : State) (shared : Bool) =>
    ((s.addRef h region tile).addPromo h region tile (c.u64 24) shared).hold c (.promote region tile c.ctx)
  if s.holds h region tile then s.post c stOk (s.tileAddr region tile)
  else match s.frameOf region tile with
    | some f =>
      if f.state = .copying then wait s true
      else if f.state = .resident then (s.addRef h region tile).post c stOkShared (s.tileAddr region tile)
      else
        let s := { (s.addRef h region tile) with frames := s.frames.map (fun (g : Frame) =>
          if g.num == f.num then { g with state := FrameState.resident } else g) }
        s.post c stOk (s.tileAddr region tile)
    | none =>
      let s := serveWaiters s.promos.length s
      if (s.frameOf region tile).isSome then wait s true
      else match s.allocFrame region tile with
        | some t => wait t false
        | none => if c.u64 24 = 0 then s.post c stBusy 0 else wait s false

/-- TILE_PROMOTE (R338 to R340, R349). -/
def State.opTilePromote (s : State) (c : Cmd) : State :=
  let region := c.u16 16
  let tile := c.u32 20
  if !s.ctxOpen c.ctx then s.post c stBadContext 0
  else match s.pool, s.region? region with
    | none, _ => s.badParam c 16
    | _, none => s.badParam c 16
    | some _, some r =>
      if !r.lowerTier then s.badParam c 16
      else if r.len / tileBytes ≤ tile then s.badParam c 20
      else if r.owner ≠ c.ctx ∧ !r.share then s.post c stAccessDenied 0
      else if s.quarantined region tile then s.post c stTileLost 0
      else if !s.holds (.direct c.ctx) region tile ∧ s.upperQuota c.ctx < s.upperCharge c.ctx + 1 then
        (s.quotaFault c c.ctx true 1).post c stQuota 0
      else s.promoteTile c region tile

/-- TILE_EVICT (R345). -/
def State.opTileEvict (s : State) (c : Cmd) : State :=
  let region := c.u16 16
  let tile := c.u32 20
  if !s.ctxOpen c.ctx then s.post c stBadContext 0
  else if s.promoting c.ctx region tile then s.hold c (.evict region tile c.ctx)
  else s.evictTile c region tile

/-! ### Copies and deadlines -/

/-- Copy the 64 pages of a tile (R343); it stops at a page that is lost. The copy reads as any reader does: a page that a fill has still to
write is written first (R387), and a merge entry is evicted (R390). -/
def State.copyTile (s : State) (r : Region) (f : Frame) : State × Bool :=
  (List.range 64).foldl (fun acc j => match acc with
    | (s, true) =>
      let k := r.dataKey (64 * f.tile + j)
      (match ((s.fillTo k).evict k).tierRead r k with
        | (s, got) => s.toFrame r f k got)
    | x => x) (s, true)

/-- The promotions of a tile end with its copy: direct ones complete with the frame's address (R339). -/
def State.endCopy (s : State) (region tile : Nat) : State :=
  let done := s.promos.filter (fun p => p.region == region && p.tile == tile)
  let s := { s with
    frames := s.frames.map (fun (g : Frame) => if g.region == region && g.tile == tile then { g with state := FrameState.resident } else g),
    promos := s.promos.filter (fun p => !(p.region == region && p.tile == tile)) }
  done.foldl (fun s p => match p.holder with
    | .direct ctx => s.endJobs (fun j => j == Job.promote region tile ctx) (if p.shared then stOkShared else stOk)
        (s.tileAddr region tile) s.now
    | .brim _ => s) s

/-- An instance that holds a page of the tile, or of its frame, is under test, which holds the copy (R557). -/
def State.tileTested (s : State) (r : Region) (f : Frame) : Bool := (List.range 64).any (fun j =>
  let k := r.dataKey (64 * f.tile + j)
  s.testing k || s.testing (s.framePage r k f))

/-- PROMOTION_COPY_DONE (R339, R342, R343): the copy that is served first has read and written the tile's pages. -/
def State.copyDone (s : State) (region tile : Nat) : State :=
  if s.nextCopy ≠ some (region, tile) then s
  else match s.region? region, s.frameOf region tile with
    | some r, some f =>
      if s.tileTested r f then s
      else match s.copyTile r f with
      | (s, true) => ((s.endCopy region tile).settle).settleEvicts
      | (s, false) => s.settle.settleEvicts
    | _, _ => s

/-- PROMOTION_DEADLINE (R341). A direct promotion leaves its one tile in place. -/
def State.promotionLate (s : State) (id : Nat) : State :=
  match s.promos.find? (fun p => p.id == id) with
  | none => s
  | some p =>
    if p.deadline = 0 ∨ s.now < p.deadline then s
    else
      let s := (s.dropPromo p.holder p.region p.tile).dropRef p.holder p.region p.tile
      let s := match p.holder with
        | .direct ctx => (s.jobs (fun j => j == Job.promote p.region p.tile ctx)).foldl (fun (s : State) (q : Pend) =>
            (s.raise (q.cmd.ring / 4096 % 16) fTierDeadline (packWord [(0, p.region), (16, 0x3F), (32, ctx)]) 1).post q.cmd
              stDeadlineMissed 0) s
        | .brim _ => s
      s.settle.settleEvicts

/-- FRAME_FREED (R340, R342). -/
def State.frameFreed (s : State) : State := serveWaiters s.promos.length s

/-! ### Brims -/

/-- The groups of a table body (R351). -/
def tableGroups (g : Nat) (body : List Byte) : List TileGroup :=
  (List.range g).map (fun i =>
    { region := field body (16 * i) 2, first := field body (16 * i + 8) 8, count := field body (16 * i + 4) 4 })

/-- Two groups name a tile in common. -/
def TileGroup.meets (a b : TileGroup) : Bool :=
  a.region == b.region && decide (a.first < b.first + b.count) && decide (b.first < a.first + a.count)

/-- No tile is named twice. -/
def groupsApart : List TileGroup → Bool
  | [] => true
  | g :: gs => gs.all (fun h => !g.meets h) && groupsApart gs

/-- The largest sum of tiles over `d` consecutive groups (R353). -/
def reservation (wrap : Bool) (d : Nat) (gs : List TileGroup) : Nat :=
  let starts := if wrap then gs.length else gs.length + 1 - d
  let counts := gs.map (·.count) ++ (if wrap then gs.map (·.count) else [])
  ((List.range starts).map (fun i => ((counts.drop i).take d).sum)).foldl Nat.max 0

/-- The group table as read (R10, R351, R352): none where it does not lie in PLAIN regions of the context, reads as poison, or has
a nonzero reserved bit. A group count outside R351 gives no groups. -/
def State.readGroups (s : State) (ctx a : Nat) : State × Option (Nat × List TileGroup) :=
  if !s.plainTable ctx a 16 then (s, none)
  else match s.padunRead a 16 ctx with
    | (s, none) => (s, none)
    | (s, some head) =>
      let g := field head 0 4
      let tmax := field head 4 4
      if field head 8 8 ≠ 0 then (s, none)
      else if g = 0 ∨ 4096 < g then (s, some (tmax, []))
      else if !s.plainTable ctx a (16 + 16 * g) then (s, none)
      else match s.padunRead (a + 16) (16 * g) ctx with
        | (s, none) => (s, none)
        | (s, some body) =>
          if (List.range g).any (fun i => field body (16 * i + 2) 2 != 0) then (s, none)
          else (s, some (tmax, tableGroups g body))

/-- An entry lies inside a lower TIER region (R352). -/
def State.groupFits (s : State) (g : TileGroup) : Bool := match s.region? g.region with
  | some r => r.lowerTier && decide (g.first + g.count ≤ r.len / tileBytes)
  | none => false

/-- The context may name the entry's tiles (R352). -/
def State.groupAllowed (s : State) (ctx : Nat) (g : TileGroup) : Bool := match s.region? g.region with
  | some r => r.owner == ctx || r.share
  | none => false

/-- The third row of R352: the first packet byte at fault. -/
def State.brimBad (s : State) (d tmax : Nat) (gs : List TileGroup) : Option Nat :=
  if s.pool.isNone ∨ gs.isEmpty ∨ gs.any (fun g => g.count == 0 || decide (4096 < g.count)) ∨
      tmax ≠ (gs.map (·.count)).foldl Nat.max 0 ∨ gs.any (fun g => !s.groupFits g) ∨ !groupsApart gs then some 32
  else if d = 0 ∨ 16 < d ∨ gs.length < d then some 17
  else none

/-- BRIM_OPEN (R352, R353, R356). -/
def State.opBrimOpen (s : State) (c : Cmd) : State :=
  let n := c.u8 16
  let d := c.u8 17
  let wrap := c.modeBit 0
  if !s.ctxOpen c.ctx then s.post c stBadContext 0
  else if 63 < n then s.badParam c 16
  else match s.readGroups c.ctx (c.u64 32) with
    | (s, none) => s.badParam c 32
    | (s, some (tmax, gs)) =>
      if !s.plainTable c.ctx (c.u64 40) (d * (16 + 8 * tmax)) then s.badParam c 40
      else if (s.brimOf n).isSome then s.post c stBusy 0
      else match s.brimBad d tmax gs with
        | some o => s.badParam c o
        | none =>
          let reserve := reservation wrap d gs
          if gs.any (fun g => !s.groupAllowed c.ctx g) then s.post c stAccessDenied 0
          else if s.upperQuota c.ctx < s.upperCharge c.ctx + reserve then
            (s.quotaFault c c.ctx true reserve).post c stQuota 0
          else
            let b : Brim := { num := n, ctx := c.ctx, depth := d, wrap := wrap, groups := gs, slots := c.u64 40, tmax := tmax,
                              reserve := reserve, seq := 0, held := [], past := [] }
            let s := ({ s with brims := s.brims ++ [b] }).hold c (.brim n 0)
            ((List.range d).foldl (fun s g => s.promoteGroup b g (c.u64 24)) s).settle

/-- The brim that a BRIM_ADVANCE names, or the command's end (R485). -/
def State.brimFor (s : State) (c : Cmd) (act : Brim → State) : State :=
  if !s.ctxOpen c.ctx then s.post c stBadContext 0
  else match s.brimOf (c.u8 16) with
    | none => s.badParam c 16
    | some b => if b.ctx ≠ c.ctx then s.post c stBadContext 0 else act b

/-- BRIM_ADVANCE without CLOSE (R357, R358): it takes its turn on the brim. -/
def State.opBrimAdvance (s : State) (c : Cmd) : State :=
  s.brimFor c (fun b => (s.hold c (.advance b.num)).settle)

/-- BRIM_ADVANCE with CLOSE (R361). -/
def State.opBrimClose (s : State) (c : Cmd) : State :=
  s.brimFor c (fun b => (s.closeBrim b.num).post c stOk (0xFFFF * 2 ^ 32))

end Sys2Proof.Machine
end

