-- ==== Sys2Proof/Machine/Traffic.lean ====
section
/-! DEFINITION. What goes on beside the network's requests: held writes (R77), the folds of lower TIER writes (R328), idle merge
entries (R389), the lanes' correction windows (R368), and the scrubber (R393 to R398). -/

namespace Sys2Proof.Machine

/-- A write carries as many bytes as its data has. -/
def Req.sized (q : Req) : Req := { q with len := q.data.length }

/-- TIER_PARITY_FOLD (R328): the parity instance folds the oldest delta queued for it; a test holds it (R557). -/
def State.foldOldest (s : State) (i : Fin 16) : State :=
  let mine := fun (f : TierFold) => decide (keyInst f.page = i)
  if s.inst[i].test.running then s
  else match s.tierFolds.find? mine with
  | none => s
  | some f => ({ s with tierFolds := delFirst mine s.tierFolds }).applyFold f

/-- MERGE_IDLE_EVICT (R389): no byte has reached the entry for 1 µs. -/
def State.evictIdle (s : State) (page : Nat) : State := match s.mergeOf page with
  | some m => if s.now < m.last + Config.mergeIdle then s else s.evict page
  | none => s

/-- WORD_CE_WINDOW (R368, R533): a second of band time has passed, every lane's window restarts, and a limit written meanwhile applies from
now on. -/
def State.restartWindows (s : State) : State :=
  let now := s.now
  if s.cu.ceWindow ≤ now ∧ now < s.cu.ceWindow + Config.ceWindow then s
  else (s.modCu (fun c => { c with ceWindow := now })).modInsts (fun _ x => (List.range 8).foldl (fun x k => x.modLane (laneIdx k) (fun l =>
    { l with window := 0, rated := false, limit := l.limitNext })) x)

/-! ### The scrubber -/

/-- Change the scrubber of an instance. -/
def State.modScrub (s : State) (i : Fin 16) (f : Scrub → Scrub) : State :=
  s.modInst i (fun x => { x with scrub := f x.scrub })

/-- The pages of a lap from an instance page number on (R393, R395): written and poisoned pages of page-coded areas, without those
that have a merge entry. -/
def State.lapPages (s : State) (i : Fin 16) (pos : Nat) : List Nat :=
  (s.mem.recs.map (·.1)).filter (fun k => decide (keyInst k = i) && decide (pos ≤ keyIpn k) &&
    (match s.regionOfKey k with
      | some r => r.kind.pageCoded
      | none => false) &&
    ((s.mem.record k).st == stWritten || (s.mem.record k).st == stPoisoned) && (s.mergeOf k).isNone)

/-- The page of least instance page number. -/
def leastPage (ks : List Nat) : Option Nat := (sortOn keyIpn ks).head?

/-- The tags that a page's record carries. -/
def PageRec.tags (r : PageRec) : Tags :=
  { step := r.stepTag, stripe := r.stripeTag, mask := r.foldMask, hand := r.handGen, attempt := r.attempt }

/-- The scrubber meets an uncorrectable stitch (R380, R381, R396), as if a reader had met it: a crowned hand is resolved or lacks content,
and an open hand spoils its step. -/
def State.scrubBad (s : State) (r : Region) (k : Nat) : State :=
  let p := r.stitchOf k
  match s.crownedHand r p.1 with
  | (s, some right) =>
    if p.2 = right then (s.badCrowned r p.1 right).1
    else if (s.stitch r.num p.1).touch then s.spoilStep r.owner
    else s
  | (s, none) => s

/-- The scrubber reads a page (R395, R396): a corrected page, and a page of the repair queue, is written fresh. An uncorrectable lower TIER
page is repaired (R362); in every other area nothing is rebuilt. -/
def State.scrubPage (s : State) (k : Nat) : State :=
  match s.regionOfKey k with
  | none => s
  | some r =>
    let queued := s.mem.repairQ.contains k
    match s.decodePage k with
    | (s, .page d rec, fixed) => if fixed || queued then s.storePage k d rec.tags else s
    | (s, .bad, _) =>
      if r.kind.twoHanded then s.scrubBad r k
      else if r.lowerTier then (s.repairPage r k true).1
      else s
    | (s, _, _) => s

/-- The check of R66 over the listed entries of an instance (R398); an unlisted entry is as mapped and passes. -/
def State.sweepEntries (s : State) (i : Fin 16) : State :=
  (s.stitches.map (·.1)).foldl (fun s key =>
    let idx := key % 2 ^ 40
    match s.region? (key / 2 ^ 40) with
    | some r => if keyInst (r.handKey idx false) = i then (s.crownedHand r idx).1 else s
    | none => s) s

/-- The end of a lap (R393, R397, R398, R532): the next one starts at page 0. -/
def State.endLap (s : State) (i : Fin 16) : State :=
  let now := s.now
  (s.modScrub i (fun x => { x with laps := satAdd 32 x.laps 1, lastLap := now - x.lapStart, lapStart := now, pos := 0,
                                   lapLate := false })).sweepEntries i

/-- The lap moves on past a page; with no page left it ends. -/
def State.passPage (s : State) (i : Fin 16) (k : Nat) : State :=
  let s := s.modScrub i (fun x => { x with pos := keyIpn k + 1 })
  if (s.lapPages i (keyIpn k + 1)).isEmpty then s.endLap i else s

/-- SCRUB_READ (R393 to R396): on a channel idle for the threshold, the scrubber serves the instance's repair queue, then the next
page of its lap. It runs from the end of start-up (R393), pauses with the lap (R393), and rests while the instance is off or under
test. -/
def State.scrubRead (s : State) (i : Fin 16) (idle : Nat) : State :=
  let x := s.inst[i]
  if !inService x ∨ x.test.running ∨ x.scrub.paused ∨ idle < x.scrub.idle then s
  else match s.mem.repairQ.find? (fun k => decide (keyInst k = i) && (s.mergeOf k).isNone) with
    | some k =>
      let s := s.scrubPage k
      { s with mem := { s.mem with repairQ := s.mem.repairQ.filter (· != k) } }
    | none => match leastPage (s.lapPages i x.scrub.pos) with
      | some k => (s.scrubPage k).passPage i k
      | none => s.endLap i

/-- SCRUB_LAP_LIMIT (R397): the lap in progress has reached the limit, which is in hours. -/
def State.lapOver (s : State) (i : Fin 16) : State :=
  let x := s.inst[i].scrub
  if !s.inst[i].active ∨ x.lapLate ∨ s.now < x.lapStart + x.lapLimit * 3600000000000 then s
  else (s.modScrub i (fun x => { x with lapLate := true })).raise i.val fScrubLap (BitVec.ofNat 64 x.pos) (BitVec.ofNat 64 x.lapStart)

/-- SCRUB_CTRL (R393, R468): RESULT is the instance page number that the lap had reached. -/
def State.opScrubCtrl (s : State) (c : Cmd) : State :=
  let i := instIdx (c.ring / 4096)
  let pos := s.inst[i].scrub.pos
  let now := s.now
  if c.mode % 4 = 0 then (s.modScrub i (fun x => { x with paused := true })).post c stOk pos
  else if c.mode % 4 = 1 then (s.modScrub i (fun x => { x with paused := false })).post c stOk pos
  else if c.mode % 4 = 2 then
    (s.modScrub i (fun x => { x with pos := 0, lapStart := now, lapLate := false })).post c stOk pos
  else s.badParam c 3

end Sys2Proof.Machine
end

