-- ==== Sys2Proof/Machine/Remote.lean ====
section
/-! DEFINITION. The remote window, remote operations and their answers (R436 to R440). -/

namespace Sys2Proof.Machine

/-! ### Handles (R436, R525) -/

/-- An entry as reset leaves it (R525). -/
def Handle.reset : Handle := { attr := 0, target := 0, key := 0, keyInv := ~~~(0 : Word) }

/-- The entry of a handle. -/
def State.handle (s : State) (h : Nat) : Handle := Tab.getD s.cu.handles h Handle.reset

def Handle.coord (h : Handle) : Coord := ⟨h.attr.toNat % 2 ^ 16, h.attr.toNat / 2 ^ 16 % 2 ^ 16, h.attr.toNat / 2 ^ 32 % 2 ^ 16⟩
def Handle.ctx (h : Handle) : Nat := h.attr.toNat / 2 ^ 48 % 256
def Handle.reads (h : Handle) : Bool := h.attr.getLsbD 60
def Handle.writes (h : Handle) : Bool := h.attr.getLsbD 61
def Handle.valid (h : Handle) : Bool := h.attr.getLsbD 63
def Handle.length (h : Handle) : Nat := h.target.toNat % 2 ^ 48
def Handle.region (h : Handle) : Nat := h.target.toNat / 2 ^ 48

/-- The key and its complement agree (R436). -/
def Handle.pairOk (h : Handle) : Bool := h.keyInv == ~~~h.key

/-- Torus coordinates as a detail word holds them (R496). -/
def coordWord (c : Coord) : Word := packWord [(0, c.x), (16, c.y), (32, c.z)]

/-! ### The requester -/

/-- A request to the remote window fails at the requesting instance: a read returns the poison pattern, a write ends with the
status. -/
def State.failRemote (s : State) (q : Req) (write : Bool) (status : Nat) : State :=
  if write then s.emit (.remoteDone q.id (BitVec.ofNat 8 status)) else s.emit (.readData q.id (poison q.len) true)

/-- R437 refuses the request. -/
def State.remoteRefused (s : State) (h : Handle) (q : Req) (write : Bool) : Bool :=
  decide (srcHost < q.src) || q.ctx != h.ctx || !h.valid || !(if write then h.writes else h.reads) ||
    decide (h.length < q.addr + q.len) || !s.cu.fabric.verified

/-- REMOTE_REQUEST (R437): `q.addr` is the offset within the target region; a request with data is a write. The use of a handle whose
key pair disagrees ends it with KEY_REJECT on the requester's side (R399, R496, R499; DEDUCED, log entry 35). -/
def State.remoteRequest (s : State) (n : Nat) (q : Req) : State :=
  let h := s.handle n
  let write := !q.data.isEmpty
  let i := n % 16
  if srcPadun < q.src then
    (s.failRemote q write stAccessDenied).access i 6 q.src q.ctx (BitVec.ofNat 64 (n * 2 ^ 37 + q.addr))
  else if s.remoteRefused h q write then
    (s.failRemote q write stAccessDenied).access i 1 q.src q.ctx (BitVec.ofNat 64 (n * 2 ^ 37 + q.addr))
  else if !h.pairOk then
    ((s.failRemote q write stKeyReject).raise cuUnit fHandmap (packWord [(0, 8), (8, q.ctx), (32, q.ctx)]) (BitVec.ofNat 64 n)).raise i
      fKeyReject (packWord [(0, n), (16, 1), (17, 1)]) (coordWord h.coord)
  else
    let op : RemoteOp := { id := s.serial, src := s.cu.fabric.coord, write := write, region := h.region, off := q.addr,
                           len := q.len, key := h.key, data := q.data }
    let r : Remote := { id := s.serial, handle := n, write := write, off := q.addr, req := q, at' := s.now }
    { (s.emit (.remoteOp h.coord op)) with serial := s.serial + 1, remotes := s.remotes ++ [r] }

/-- The remote request of a number. -/
def State.remoteOf (s : State) (id : Nat) : Option Remote := s.remotes.find? (fun r => r.id == id)

/-- A remote request is answered or given up. -/
def State.dropRemote (s : State) (id : Nat) : State := { s with remotes := s.remotes.filter (fun r => r.id != id) }

/-- REMOTE_ANSWER (R438 to R440): the answer of an operation that has timed out is dropped. The poison indication of an
answer that carries the poison pattern reaches the requester with it (R384). -/
def State.remoteAnswer (s : State) (id : Nat) (status : Byte) (data : RemoteData) : State :=
  match s.remoteOf id with
  | none => s
  | some r =>
    let s := s.dropRemote id
    let i := r.handle % 16
    let peer := (s.handle r.handle).coord
    let s := if status.toNat = stKeyReject then s.raise i fKeyReject (packWord [(0, r.handle), (16, 1)]) (coordWord peer)
      else if status.toNat = stOk then s
      else s.access i 1 r.req.src r.req.ctx (BitVec.ofNat 64 (r.handle * 2 ^ 37 + r.off))
    if r.write then s.emit (.remoteDone r.req.id status)
    else if status.toNat = stOk then s.emit (.readData r.req.id (padTo r.req.len data.bytes) data.mark)
    else s.failRemote r.req false status.toNat

/-- REMOTE_TIMEOUT (R439, R440): 2.0 ms have passed since the acceptance. -/
def State.remoteTimeout (s : State) (id : Nat) : State :=
  match s.remoteOf id with
  | none => s
  | some r =>
    if s.now < r.at' + Config.remoteTime then s
    else
      ((s.dropRemote id).failRemote r.req r.write stRemoteTimeout).raise (r.handle % 16) fRemote
        (packWord [(0, r.handle), (16, if r.write then 1 else 0)]) (BitVec.ofNat 64 r.off)

/-! ### The target -/

/-- The first request number that Padun gives to remote operations; the network's own lie below. -/
def remoteBase : Nat := 2 ^ 64

/-- A network request's number. -/
def Req.net (q : Req) : Req := { q with id := q.id % remoteBase }

/-- An area that no remote operation may reach (R438). -/
def Kind.closed : Kind → Bool
  | .parity => true
  | .hosting _ => true
  | .hatbox => true
  | .pool => true
  | _ => false

/-- The request that an operation is served as (R438). -/
def remoteReq (op : RemoteOp) (r : Region) (id : Nat) : Req :=
  { id := id, src := srcPadun, ctx := r.owner, tag := 0, final := false, lower := r.lower, addr := r.base + op.off,
    len := if op.write then op.data.length else op.len, data := op.data }

/-- R438 denies the operation: a closed area, a range outside the region, or a row of R70. -/
def State.remoteDenied (s : State) (op : RemoteOp) (r : Region) : Bool :=
  let q := remoteReq op r 0
  let parts := rangeParts q.lower q.addr q.len
  r.kind.closed || !rangeWhole r q.addr q.len ||
    !(if op.write then parts.all (fun p => s.mayWrite r p.1 srcPadun) else parts.all (fun p => s.mayRead r p.1 srcPadun r.owner))

/-- Refuse an operation at the target. -/
def State.answerOp (s : State) (op : RemoteOp) (status : Nat) (data : List Byte) : State :=
  s.emit (.remoteReply op.src op.id (BitVec.ofNat 8 status) ⟨data, false⟩)

/-- The serving instance of an operation: that of its first byte, or for a region that is not mapped the one that carried the request
by the region number (DESIGN CHOICE, log entry 36). -/
def State.opInst (s : State) (op : RemoteOp) : Nat := match s.region? op.region with
  | some r => (keyInst (offKey r.lower (r.base + op.off))).val
  | none => op.region % 16

/-- KEY_REJECT at the target (R438, R496). -/
def State.rejectOp (s : State) (op : RemoteOp) (pair : Bool) : State :=
  (s.answerOp op stKeyReject []).raise (s.opInst op) fKeyReject (packWord [(0, op.region), (17, if pair then 1 else 0)]) (coordWord op.src)

/-- REMOTE_OPERATION (R438): the checks in order, then the operation is served as a request of PADUN. -/
def State.remoteOperation (s : State) (op : RemoteOp) : State :=
  match s.region? op.region with
  | none => s.rejectOp op false
  | some r =>
    if r.keyInv ≠ ~~~r.key then
      (s.raise cuUnit fHandmap (packWord [(0, 7), (8, r.owner), (32, r.owner)]) (BitVec.ofNat 64 r.num)).rejectOp op true
    else if r.key = 0 ∨ r.key ≠ op.key then s.rejectOp op false
    else if s.remoteDenied op r then
      (s.answerOp op stAccessDenied []).access (s.opInst op) 1 srcPadun r.owner (BitVec.ofNat 64 (mkAddr r.lower (r.base + op.off)))
    else
      let id := remoteBase + s.serial
      let s := { s with serial := s.serial + 1, remoteIn := s.remoteIn ++ [(id, op)] }
      if op.write then s.serveWrite (remoteReq op r id) false else s.serveRead (remoteReq op r id)

/-- The answer to a served operation in place of a network response, with its poison indication (R384). -/
def answerOut (ops : List (Nat × RemoteOp)) (o : Out) : Out := match o with
  | .readData id d mark => (match Tab.get ops id with
    | some op => .remoteReply op.src op.id (BitVec.ofNat 8 stOk) ⟨d, mark⟩
    | none => o)
  | .writeDone id ok => (match Tab.get ops id with
    | some op => .remoteReply op.src op.id (BitVec.ofNat 8 (if ok then stOk else stAccessDenied)) ⟨[], false⟩
    | none => o)
  | _ => o

/-- The request that a network response ends. -/
def Out.ends (o : Out) (id : Nat) : Bool := match o with
  | .readData i _ _ => i == id
  | .writeDone i _ => i == id
  | _ => false

/-- The responses to remote operations leave as answers to their requesters (R438). -/
def State.answerOps (s : State) : State :=
  if s.remoteIn.isEmpty then s
  else { s with out := s.out.map (answerOut s.remoteIn),
                remoteIn := s.remoteIn.filter (fun p => !s.out.any (fun o => o.ends p.1)) }

end Sys2Proof.Machine
end

