-- ==== Sys2Proof/Machine/Startup.lean ====
section
/-! DEFINITION. Chip reset and start-up (R534 to R545), the watchdog (R28 to R31), the band input (R566 to R568), the health inputs
(R562 to R565), the fabric's status (R39, R40), and the test access port (R49, R50). -/

namespace Sys2Proof.Machine

/-! ### Reset and start-up -/

/-- CHIP_RESET (R492, R545): everything but the fuses and the inputs' past is as after reset. The bytes of memory stay unless the
chip lost power; the page records and buffers are Padun's own and go (log entry 37). The command queue, the free values already used,
the serial numbers and what has left the chip are not part of the reset. -/
def State.chipReset (s : State) (powerLost : Bool) : State :=
  let z := State.reset
  { z with pending := s.pending, clock := s.clock, ev := s.ev, fresh := s.fresh, serial := s.serial, out := s.out,
           cu := { Cu.reset with fuses := s.cu.fuses },
           mem := { z.mem with bytes := if powerLost then [] else s.mem.bytes } }

/-- The control channel's weight in Bexli, in percent (R406). -/
def controlWeight : Nat := 2

/-- RESET_RELEASE (R48, R406, R534, R535): straps and fuses are read, and the arrays initialise themselves. The tier roles, the weights of
the two channels in Bexli and each instance's lane map follow. -/
def State.release (s : State) (straps : BitVec 22) : State :=
  if s.cu.released then s
  else
    let w : BitVec 2 := straps.extractLsb' 18 2
    let fuses := s.cu.fuses
    let clock := s.clock
    let s := s.modCu (fun c =>
      { c with released := true, straps := straps, weight := w, govWeight := w, bexliWeight := w, bexliControl := controlWeight })
    s.modInsts (fun i x => { x with lower := straps.getLsbD i.val, harvest := fuses.harvest.getD i.val 0, arraysAt := clock })

/-- The bytes of a firmware image (R537). -/
def imageBytes : Nat := 262144

/-- FIRMWARE_RELEASE (R537): the whole image is in place and the CU starts to measure it. -/
def State.takeImage (s : State) (image : List Byte) : State :=
  if !s.cu.released ∨ s.cu.fw.state ≠ 0 ∨ s.cu.fw.image.isSome ∨ image.length ≠ imageBytes then s
  else s.modCu (fun c => { c with fw := { c.fw with image := some image } })

/-- Start-up is complete once the firmware runs and the band counter is acquired (R534): the test intervals and the laps start
(R393, R554). -/
def State.completeStart (s : State) : State :=
  if s.cu.started ∨ s.cu.fw.state ≠ 2 ∨ !s.cu.band.acquired then s
  else
    let now := s.now
    (s.modCu (fun c => { c with started := true })).modInsts (fun _ x =>
      { x with test := { x.test with dueAt := now }, scrub := { x.scrub with lapStart := now } })

/-- FIRMWARE_START (R507, R537): the measurement is written, the image started and the watchdog armed. -/
def State.startFirmware (s : State) : State := match s.cu.fw.image with
  | none => s
  | some image =>
    if s.cu.fw.state ≠ 0 then s
    else
      let clock := s.clock
      (s.modCu (fun c => { c with fw := { c.fw with meas := sha384 image, state := 2, service := clock } })).completeStart

/-- TEST_FAIL of an instance (R496): the cause is kept for PDN_TEST_STATUS. -/
def State.failInst (s : State) (i : Fin 16) (cause d1 : Nat) : State :=
  (s.modTest i (fun x => { x with cause := cause })).raise i.val fTest (BitVec.ofNat 64 cause) (BitVec.ofNat 64 d1)

/-- The instance waits for its controller. -/
def State.awaitsCtrl (s : State) (i : Fin 16) : Bool :=
  s.cu.released && !s.inst[i].ready && s.inst[i].test.cause == 0

/-- CONTROLLER_READY (R17, R23, R35, R540): the checks in order, then the lanes train. -/
def State.ctrlReady (s : State) (i : Fin 16) (lpddr wordCode pseudo : Bool) : State :=
  if !s.awaitsCtrl i then s
  else
    let s := s.modInst i (fun x => { x with ready := true, ctrlLower := lpddr })
    let x := s.inst[i]
    if x.lower ≠ lpddr then (s.modInst i (fun x => { x with bypass := true })).failInst i 1 0
    else if (enabledLanes x).length < 4 then s.failInst i 2 0
    else if !wordCode ∨ (!lpddr && !pseudo) then s.failInst i 3 0
    else s

/-- CONTROLLER_READY_TIMEOUT (R540): not ready 100 ms after the arrays. -/
def State.ctrlLate (s : State) (i : Fin 16) : State :=
  if !s.awaitsCtrl i ∨ s.clock < s.inst[i].arraysAt + Config.ctrlReady then s else s.failInst i 3 0

/-- LANE_TRAINING_DONE (R403, R541): `encoded` is what each lane computed from the all-ones input, in lane order; a lane whose results are
not those of its ROM fails training. An enabled lane that fails raises TEST_FAIL and stays out; with four trained lanes the instance
becomes ACTIVE. -/
def State.lanesTrained (s : State) (i : Fin 16) (passed : BitVec 8) (encoded : List LaneRom) : State :=
  let x := s.inst[i]
  if !x.ready ∨ x.active ∨ x.test.cause ≠ 0 then s
  else
    let rom := fun (k : Nat) => encoded[k]? == some romImage
    let ok := fun (k : Nat) => passed.getLsbD k && rom k
    let s := s.modInst i (fun x => (enabledLanes x).foldl (fun x k => x.modLane (laneIdx k) (fun l =>
      { l with trained := ok k, romOk := rom k, en := if ok k then .on else .off })) x)
    let bad := (enabledLanes x).filter (fun k => !ok k)
    let s := bad.foldl (fun s k => s.failInst i 4 k) s
    if (enabledLanes x).length < 4 + bad.length then s.failInst i 2 0
    else s.modInst i (fun x => { x with active := true, en := .on })

/-- An instance has ended step 5 (R534). -/
def Inst.trainedUp (x : Inst) : Bool := x.active || x.test.cause != 0

/-! ### The band input -/

/-- BAND_ACQUIRE (R542, R568): the first acquisition follows step 5 on every instance; a later one ends a band fault. Every unit takes
the input's count, which may lie behind a local one. -/
def State.acquireBand (s : State) (t : Nat) : State :=
  let ready := if s.cu.band.acquired then s.cu.band.fault else s.cu.released && instNums.all (fun i => (s.inst[i]).trainedUp)
  if !ready then s
  else ({ s with clock := t }.modCu (fun c => { c with band := { c.band with acquired := true, valid := true, fault := false } })).completeStart

/-- Every context in DECIDED flips at once (R177). -/
def State.flipDecided (s : State) : State :=
  (s.coded.filter (fun p => p.2.phase == Phase.decided)).foldl (fun s p => s.crownNow p.2.ctx) s

/-- A band fault (R566, R567): raised once while the condition holds. D0 is the last good count, at which the fault is seen; D1 is the
count that broke the rule. -/
def State.faultBand (s : State) (bad : Nat) (validFell : Bool) : State :=
  let now := s.now
  let s := s.modCu (fun c => { c with band := { c.band with valid := c.band.valid && !validFell } })
  if !s.cu.band.acquired ∨ s.cu.band.fault then s
  else
    ((s.modCu (fun c => { c with band := { c.band with fault := true, good := now } })).raise cuUnit fBand (BitVec.ofNat 64 now)
      (BitVec.ofNat 64 bad)).flipDecided

/-- BAND_STALL (R566): the count has stood for 32 ns. -/
def State.stallBand (s : State) : State := s.faultBand s.now false

/-! ### The watchdog -/

/-- WATCHDOG_SERVICE (R28, R506): any write to CU_WDOG. -/
def State.serviceDog (s : State) : State :=
  let clock := s.clock
  if s.cu.fw.state = 2 then s.modCu (fun c => { c with fw := { c.fw with service := clock } }) else s

/-- An accepted instance-scope command whose remaining work needs the CU (R31): a mapping that waits for its turn, a test that has not
started, and what only a later command of the CU could end. -/
def State.needsCu (s : State) (p : Pend) : Bool := !cuScope p.cmd && (match p.job with
  | .deferred => true
  | .test i => !(s.inst[instIdx i]).test.running
  | _ => false)

/-- WATCHDOG_EXPIRY (R28, R29, R31): FW_FAULT, and the commands that need the CU complete with INTERNAL. -/
def State.dogBarks (s : State) (pc : Word) : State :=
  if s.cu.fw.state ≠ 2 ∨ s.clock < s.cu.fw.service + Config.watchdogTime then s
  else
    let s := (s.modCu (fun c => { c with fwFault := true, fw := { c.fw with state := 3 } })).raise cuUnit fFirmware
      (BitVec.ofNat 64 s.cu.fw.service) pc
    (s.pends.filter s.needsCu).foldl (fun s p => s.post p.cmd stInternal 0) s

/-! ### Health inputs -/

/-- Change a health input. -/
def State.modHwarn (s : State) (n : Fin 8) (f : Hwarn → Hwarn) : State :=
  s.modCu (fun c => { c with hwarn := c.hwarn.set n.val (f c.hwarn[n]) })

/-- Every context with a hatbox group takes a hatbox request (R256). -/
def State.warnHatbox (s : State) : State :=
  { s with coded := s.coded.map (fun (p : Nat × Coded) => (p.1, { p.2 with hbReq := p.2.hbReq || p.2.hb.isSome })) }

/-- HWARN_EDGE_FILTERED (R509, R562, R564): the filtered level changes; a rise of an unmasked input latches an edge, which is a
hatbox trigger unless the input is kept out of the triggers. -/
def State.hwarnEdge (s : State) (n : Fin 8) (level : Bool) : State :=
  let h := s.cu.hwarn[n]
  let clock := s.clock
  if h.level = level then s
  else
    let s := s.modHwarn n (fun h => { h with level := level, since := clock })
    if !level ∨ h.stuck then s
    else
      let s := s.modHwarn n (fun h => { h with latch := true })
      if s.cu.trigMask.getLsbD n.val ∨ s.cu.fwFault then s else s.warnHatbox

/-- HWARN_GLITCH (R563). -/
def State.hwarnGlitch (s : State) (n : Fin 8) : State := s.modHwarn n (fun h => { h with edges := satAdd 8 h.edges 1 })

/-- HWARN_STUCK (R564). -/
def State.hwarnStuck (s : State) (n : Fin 8) : State :=
  let h := s.cu.hwarn[n]
  if !h.level ∨ h.stuck ∨ s.clock < h.since + Config.hwarnStuck then s
  else (s.modHwarn n (fun h => { h with stuck := true })).raise cuUnit fHealth (BitVec.ofNat 64 n.val) (BitVec.ofNat 64 h.since)

/-- HWARN_UNSTUCK (R564). -/
def State.hwarnUnstuck (s : State) (n : Fin 8) : State :=
  let h := s.cu.hwarn[n]
  if h.level ∨ !h.stuck ∨ s.clock < h.since + Config.hwarnClear then s
  else s.modHwarn n (fun h => { h with stuck := false })

/-- RESIDUE_ALARM (R44, R565): pulses are counted one by one. -/
def State.countAlarms (s : State) (pulses : Nat) : State := s.modCu (fun c => { c with suspicion := satAdd 32 c.suspicion pulses })

/-! ### The test access port -/

/-- Traffic of the instance passes through the test bypass (R17, R530, R557). -/
def Inst.inBypass (x : Inst) : Bool := x.bypass || x.test.running || x.en == .off

/-- A page of some region or area lies on the instance (R49, R529). Every range of 48 KiB of the upper tier, and every range of 16 KiB
of the lower tier, touches each instance of its tier; a smaller one is counted page by page. -/
def State.mapsOn (s : State) (i : Fin 16) : Bool := s.regions.any (fun r =>
  let first := r.base / 4096
  let last := (r.base + r.span - 1) / 4096
  (List.range (Nat.min 12 (last + 1 - first))).any (fun j => keyInst (pageKey r.lower (first + j)) = i))

/-- IEEE1687_WRITE (R49): ignored with ACCESS while the instance has a mapped region and is not in test bypass. -/
def State.writeInstrument (s : State) (i : Fin 16) (instrument : Nat) (value : Word) : State :=
  if s.mapsOn i && !(s.inst[i]).inBypass then s.access i.val 4 0 0 (BitVec.ofNat 64 instrument)
  else s.modInst i (fun x => { x with instruments := Tab.set x.instruments instrument value })

/-- DEBUG_HALT_REQUEST (R50): granted only while no context owns coded state. -/
def State.haltRequest (s : State) : State :=
  if s.coded.isEmpty then s.modCu (fun c => { c with debugHalted := true }) else s.access cuUnit 5 0 0 0

end Sys2Proof.Machine
end

