-- ==== Sys2Proof/Machine/Registers.lean ====
section
/-! DEFINITION. The register map (R12, R13, R490 to R533): what every register reads, and what a write to it does. Offsets are from
KOSET_PDN_BASE: the CU below 0x4_0000, then a window of 0x1_0000 for each instance. -/

namespace Sys2Proof.Machine

/-! ### Windows -/

/-- The unit whose window holds an offset: an instance, or 16 for the CU. An offset beyond the windows is the CU's to report. -/
def offUnit (off : Nat) : Nat := if off < 0x40000 ∨ 0x140000 ≤ off then cuUnit else (off - 0x40000) / 0x10000

/-- The offset of an instance register. -/
def instOff (i : Fin 16) (o : Nat) : Nat := 0x40000 + i.val * 0x10000 + o

/-- ACCESS of a register access (R500). -/
def State.badAccess (s : State) (off cause : Nat) : State := s.access (offUnit off) cause 0 0 (BitVec.ofNat 64 off)

/-- A word as a number of bits. -/
def flag (b : Bool) : Nat := if b then 1 else 0

/-! ### Reading fault registers (R501, R503, R505) -/

/-- The entry head of a capture. -/
def Capture.head (c : Capture) : Word := packWord [(0, c.code), (16, c.unit), (32, c.seq), (63, 1)]

/-- A word of a capture: head, STAMP, D0, D1; zero where none is held. -/
def captureWord (c : Option Capture) (w : Nat) : Word := match c with
  | none => 0
  | some c => if w = 0 then c.head else if w = 1 then BitVec.ofNat 64 c.stamp else if w = 2 then c.d0 else c.d1

/-- Log entry `e` of a unit. -/
def Faults.entry (f : Faults) (e : Nat) : Option Capture := Tab.get f.log e

/-! ### Reading instance registers -/

/-- The hand-map entries that the mappings assign on an instance (R63, R531). -/
def State.handmapUsed (s : State) (i : Nat) : Nat :=
  ((s.regions.filter (fun r => r.kind.twoHanded)).map (fun r => (r.len / 4096 + 11 - i) / 12)).sum

/-- The lane registers of R533. -/
def laneReg (x : Inst) (k o : Nat) : Word :=
  let l := x.lanes[laneIdx k]
  let fused := x.harvest.getLsbD k
  let slot := leastBelow (enabledLanes x).length (fun s => (enabledLanes x).getD s 8 == k)
  match o with
  | 0x00 => packWord [(0, flag fused), (1, flag (laneOn x k)), (2, flag l.retired), (3, flag l.flagged),
      (4, if fused then slot else 0), (8, if fused then slotLane x slot else 0), (12, nextLane x k)]
  | 0x08 => packWord [(0, if fused then l.wce else 0), (32, l.window)]
  | 0x10 => BitVec.ofNat 64 l.limitNext
  | 0x18 => if x.lower ∨ !fused then 0 else BitVec.ofNat 64 l.pairMiss
  | 0x20 => if x.lower ∨ !fused then 0 else BitVec.ofNat 64 l.foldMiss
  | 0x28 => packWord [(0, flag l.trained), (1, flag l.romOk)]
  | _ => 0

/-- The code of an enable state (R527). -/
def Enable.code : Enable → Nat
  | .off => 0
  | .on => 1
  | .stopping => 2
  | .deferred => 3

/-- The object is requested in service: ON or DEFERRED. -/
def Enable.wanted (e : Enable) : Bool := e == .on || e == .deferred

/-- The lanes requested in service, as LANE_EN holds them (R527). Before training it holds the harvest map. -/
def Inst.laneEn (x : Inst) : Nat :=
  if x.active then ((List.range 8).map (fun k => if (x.lanes[laneIdx k]).en.wanted then 2 ^ k else 0)).sum else x.harvest.toNat

/-- What an instance register reads (R527, R531, R532). -/
def State.instReg (s : State) (i : Fin 16) (o : Nat) : Word :=
  let x := s.inst[i]
  let f := x.faults
  let up := fun (n : Nat) => if x.lower then (0 : Word) else BitVec.ofNat 64 n
  if 0x400 ≤ o ∧ o < 0x600 then laneReg x ((o - 0x400) / 0x40) ((o - 0x400) % 0x40)
  else if 0x800 ≤ o ∧ o < 0xA00 then captureWord (f.entry ((o - 0x800) / 32)) ((o - 0x800) % 32 / 8)
  else match o with
  | 0x000 => packWord [(0, i.val), (4, flag x.lower), (5, flag x.ctrlLower), (6, flag x.active), (7, flag x.inBypass),
      (8, (enabledLanes x).length), (16, x.harvest.toNat),
      (24, ((List.range 8).map (fun k => if (x.lanes[laneIdx k]).retired then 2 ^ k else 0)).sum)]
  | 0x008 => packWord [(0, x.laneEn), (8, flag x.en.wanted)]
  | 0x010 => packWord ((List.range 8).map (fun k => (2 * k, (x.lanes[laneIdx k]).en.code)) ++
      [(16, x.en.code), (24, flag x.enBusy), (25, flag x.enRefused)])
  | 0x018 => packWord [(0, flag x.test.lbist), (1, flag x.test.mbist), (2, flag x.test.running), (3, flag x.test.pending),
      (4, flag x.test.overdue), (8, x.test.cause)]
  | 0x020 => BitVec.ofNat 64 x.test.last
  | 0x100 => BitVec.ofNat 64 f.bits.toNat
  | 0x108 => BitVec.ofNat 64 f.mask.toNat
  | 0x110 => BitVec.ofNat 64 f.bits.toNat
  | 0x118 => captureWord f.first 0
  | 0x120 => captureWord f.first 1
  | 0x128 => captureWord f.first 2
  | 0x130 => captureWord f.first 3
  | 0x138 => BitVec.ofNat 64 f.seq
  | 0x200 => BitVec.ofNat 64 x.pageCe
  | 0x208 => BitVec.ofNat 64 x.pageUe
  | 0x210 => BitVec.ofNat 64 x.uninit
  | 0x218 => up x.demand
  | 0x220 => BitVec.ofNat 64 x.tierRepair
  | 0x228 => BitVec.ofNat 64 x.partialInit
  | 0x230 => up x.guardRead
  | 0x238 => up x.deltaLate
  | 0x240 => up x.deltaStale
  | 0x248 => BitVec.ofNat 64 (s.mem.repairQ.filter (fun k => keyInst k = i)).length
  | 0x250 => up (s.handmapUsed i.val)
  | 0x300 => if x.lower then 0 else packWord [(0, x.gov.rate / 1000000), (20, x.gov.ceiling / 1000000),
      (40, flag x.gov.boosted), (41, flag x.gov.clamped)]
  | 0x308 => up ((s.coded.filter (fun p => s.openAt p.2 i.val)).map (fun p => s.expected p.2 i.val)).sum
  | 0x310 => up ((s.coded.filter (fun p => s.openAt p.2 i.val)).map (fun p => Tab.getD p.2.sent i.val 0)).sum
  | 0x380 => packWord [(0, x.scrub.idle), (16, x.scrub.lapLimit)]
  | 0x388 => packWord [(0, flag x.scrub.paused), (1, flag x.scrub.lapLate), (32, x.scrub.laps)]
  | 0x390 => BitVec.ofNat 64 x.scrub.pos
  | 0x398 => BitVec.ofNat 64 x.scrub.lapStart
  | 0x3A0 => BitVec.ofNat 64 x.scrub.lastLap
  | _ => 0

/-! ### Reading CU registers -/

/-- The phase codes of R516. -/
def Phase.code : Phase → Nat
  | .crowned => 0
  | .opened => 1
  | .closed => 2
  | .voting => 3
  | .voted => 4
  | .decided => 5
  | .undecided => 6
  | .discarding => 7

/-- CU_CTX_STATE of a block (R516). -/
def State.ctxStateReg (s : State) (k : Coded) : Word :=
  let gl := s.gloveOf k.ctx
  packWord [(0, k.ctx), (8, k.attempt), (16, k.phase.code), (19, flag k.stopped),
    (20, match gl with
      | some g => g.state.code
      | none => 0), (23, 1),
    (24, match gl with
      | some g => g.g.id
      | none => 0xFFFF),
    (40, match gl with
      | some g => g.g.me
      | none => 0),
    (48, flag k.hb.isSome), (49, flag k.hbSlot), (50, flag k.hbOk), (51, flag k.hbReq), (52, flag !k.witness.isEmpty)]

/-- A register of a context block (R516, R518); a free block reads zero. -/
def State.ctxReg (s : State) (block o : Nat) : Word := match Tab.get s.coded block with
  | none => 0
  | some k =>
    if 0x100 ≤ o ∧ o < 0x200 then BitVec.ofNat 64 (field (if k.snapshot.isEmpty then k.ownCuff.getD [] else k.snapshot) (o - 0x100) 8)
    else match o with
    | 0x000 => s.ctxStateReg k
    | 0x008 => k.c
    | 0x010 => k.s
    | 0x018 => BitVec.ofNat 64 k.crownTime
    | 0x020 => BitVec.ofNat 64 (if k.phase = .crowned ∨ k.phase = .discarding then 0 else k.drainDeadline)
    | 0x028 => BitVec.ofNat 64 k.hbLast
    | 0x030 => BitVec.ofNat 64 k.lateCrown
    | _ => 0

/-- A register of the sealed settings and their log (R519, R520). -/
def Fuses.reg (f : Fuses) (o : Nat) : Word :=
  if 0x100 ≤ o ∧ o < 0x500 then match f.log[(o - 0x100) / 32]? with
    | none => 0
    | some l => if o % 32 = 0 then BitVec.ofNat 64 l.stamp else if o % 32 = 8 then l.requester else if o % 32 = 16 then l.change else 0
  else match o with
  | 0x00 => packWord [(0, f.mMin), (8, flag f.witness), (16, f.mMinLeft), (20, f.witnessLeft)]
  | 0x08 => packWord ((List.range 8).map (fun i => (8 * i, (f.harvest.getD i 0).toNat)))
  | 0x10 => packWord ((List.range 8).map (fun i => (8 * i, (f.harvest.getD (i + 8) 0).toNat)))
  | 0x18 => BitVec.ofNat 64 f.log.length
  | _ => 0

/-- A failure-domain entry as reset leaves it (R522). -/
def Domain.reset : Domain := { coord := 0, domA := ~~~(0 : Word), domB := ~~~(0 : Word) }

/-- A word of a handle entry (R525). -/
def Handle.word (h : Handle) (w : Nat) : Word := if w = 0 then h.attr else if w = 1 then h.target else if w = 2 then h.key else h.keyInv

/-- What a CU register below 0x400 reads (R501, R505, R506, R508, R510, R511). -/
def State.cuReg (s : State) (o : Nat) : Word :=
  let c := s.cu
  let f := c.faults
  let p := c.power
  match o with
  | 0x00 => packWord [(0, 1), (16, 16), (24, 4)]
  | 0x08 => c.fuses.idLo
  | 0x10 => c.fuses.idHi
  | 0x18 => BitVec.ofNat 64 c.straps.toNat
  | 0x20 => packWord [(0, flag c.evac), (1, flag c.fwFault), (2, flag c.halted),
      (4, ((List.range 16).map (fun i => if (s.inst[instIdx i]).active && (s.inst[instIdx i]).en != .off then 2 ^ i else 0)).sum),
      (20, ((List.range 4).map (fun b => match Tab.get s.coded b with
        | some k => if k.stopped then 2 ^ b else 0
        | none => 0)).sum)]
  | 0x28 => packWord [(0, imageBytes), (32, flag (c.straps.getLsbD 20)), (33, c.fw.state)]
  | 0x30 => BitVec.ofNat 64 (field c.fw.meas 0 8)
  | 0x38 => BitVec.ofNat 64 (field c.fw.meas 8 8)
  | 0x40 => BitVec.ofNat 64 (field c.fw.meas 16 8)
  | 0x48 => BitVec.ofNat 64 (field c.fw.meas 24 8)
  | 0x50 => BitVec.ofNat 64 (field c.fw.meas 32 8)
  | 0x58 => BitVec.ofNat 64 (field c.fw.meas 40 8)
  | 0x68 => packWord [(0, c.fabric.coord.x), (16, c.fabric.coord.y), (32, c.fabric.coord.z), (48, flag c.fabric.verified),
      (49, flag c.fabric.swapped)]
  | 0x70 => BitVec.ofNat 64 c.fabric.down.toNat
  | 0x78 => BitVec.ofNat 64 s.now
  | 0x80 => packWord [(0, flag c.band.valid), (1, flag (c.straps.getLsbD 21)), (2, flag c.band.fault)]
  | 0x88 => packWord [(0, flag p.boostReq), (1, flag p.grant), (2, flag p.clamp), (3, flag p.limited), (32, s.peakUsed)]
  | 0x90 => packWord ((List.range 8).map (fun n => (n, flag (c.hwarn.getD n ⟨false, 0, false, false, 0⟩).level)) ++
      (List.range 8).map (fun n => (8 + n, flag (c.hwarn.getD n ⟨false, 0, false, false, 0⟩).stuck)))
  | 0x98 => packWord ((List.range 8).map (fun n => (n, flag (c.hwarn.getD n ⟨false, 0, false, false, 0⟩).latch)))
  | 0xA0 => packWord ((List.range 8).map (fun n => (8 * n, (c.hwarn.getD n ⟨false, 0, false, false, 0⟩).edges)))
  | 0xA8 => BitVec.ofNat 64 c.trigMask.toNat
  | 0x100 => BitVec.ofNat 64 f.bits.toNat
  | 0x108 => BitVec.ofNat 64 f.mask.toNat
  | 0x110 => BitVec.ofNat 64 f.bits.toNat
  | 0x118 => BitVec.ofNat 64 c.irqRoute.toNat
  | 0x120 => BitVec.ofNat 64 s.irqSummary
  | 0x128 => captureWord f.first 0
  | 0x130 => captureWord f.first 1
  | 0x138 => captureWord f.first 2
  | 0x140 => captureWord f.first 3
  | 0x148 => BitVec.ofNat 64 f.seq
  | 0x150 => BitVec.ofNat 64 c.suspicion
  | 0x158 => BitVec.ofNat 64 c.noticeDrop
  | 0x160 => BitVec.ofNat 64 (c.drops.getD 0 0)
  | 0x168 => BitVec.ofNat 64 (c.drops.getD 1 0)
  | 0x170 => BitVec.ofNat 64 (c.drops.getD 2 0)
  | 0x178 => BitVec.ofNat 64 (c.drops.getD 3 0)
  | 0x180 => BitVec.ofNat 64 (c.drops.getD 4 0)
  | 0x188 => BitVec.ofNat 64 (c.drops.getD 5 0)
  | 0x200 => BitVec.ofNat 64 c.drainWindow
  | 0x208 => BitVec.ofNat 64 c.drainTarget
  | 0x210 => BitVec.ofNat 64 c.voteTimeout
  | 0x218 => BitVec.ofNat 64 c.crownDist
  | 0x220 => BitVec.ofNat 64 c.crownGuard
  | 0x228 => BitVec.ofNat 64 c.witnessDeadline
  | 0x230 => BitVec.ofNat 64 c.collTimeout
  | 0x238 => packWord [(0, flag c.boostEn), (1, c.weight.toNat)]
  | 0x240 => BitVec.ofNat 64 c.testInterval
  | 0x248 => packWord [(0, c.ringTable), (48, c.ringOwner), (63, flag c.ringValid)]
  | _ => 0

/-- What a register reads where its value carries no complement, or the pair agrees (R491, R515, R516, R519, R522, R525). -/
def State.readReg (s : State) (off : Nat) : Word :=
  if off % 8 ≠ 0 then 0
  else if off < 0x400 then s.cuReg off
  else if off < 0x800 then BitVec.ofNat 64 (s.cu.fences.toNat / 2 ^ (64 * ((off - 0x400) / 8)))
  else if off < 0x1000 then captureWord (s.cu.faults.entry ((off - 0x800) / 32)) ((off - 0x800) % 32 / 8)
  else if off < 0x1800 then s.ctxReg ((off - 0x1000) / 0x200) ((off - 0x1000) % 0x200)
  else if off < 0x1D00 then s.cu.fuses.reg (off - 0x1800)
  else if off < 0x10000 then 0
  else if off < 0x18000 then
    let d := Tab.getD s.cu.domains ((off - 0x10000) / 32) Domain.reset
    if off % 32 = 0 then d.coord else if off % 32 = 8 then d.domA else if off % 32 = 16 then d.domB else 0
  else if off < 0x20000 then 0
  else if off < 0x40000 then (s.handle ((off - 0x20000) / 32)).word (off % 32 / 8)
  else if off < 0x140000 then s.instReg (instIdx ((off - 0x40000) / 0x10000)) (off % 0x10000)
  else 0

/-! ### Reads with an effect -/

/-- The value that a register reports is held with its complement, and the pair disagrees (R399, R495): the code of R499, the context,
and D1. -/
def State.pairBroken (s : State) (off : Nat) : Option (Nat × Nat × Nat) :=
  if 0x1000 ≤ off ∧ off < 0x1800 then match Tab.get s.coded ((off - 0x1000) / 0x200) with
    | none => none
    | some k =>
      if off % 0x200 = 8 ∧ k.cInv ≠ ~~~k.c then some (2, k.ctx, 0)
      else if off % 0x200 = 16 ∧ k.sInv ≠ ~~~k.s then some (2, k.ctx, 0)
      else if 0x100 ≤ off % 0x200 ∧ k.snapshot.isEmpty ∧ k.ownCuff.any (fun b => !cuffOk b) then some (9, k.ctx, 0)
      else none
  else if 0x20000 ≤ off ∧ off < 0x40000 ∧ off % 32 = 16 then
    let n := (off - 0x20000) / 32
    let h := s.handle n
    if h.pairOk then none else some (8, h.ctx, n)
  else none

/-- COMPLEMENT_REGISTER_READ (R495, R399): a pair that disagrees reads all ones and raises HANDMAP_MISMATCH, which for C or S stops the
context (R400); any other register reads its value. -/
def State.readPaired (s : State) (off : Nat) : State := match s.pairBroken off with
  | none => s.emit (.regValue off (s.readReg off))
  | some (value, ctx, d1) =>
    let s := if value = 2 then s.stopCtx ctx 2
      else s.raise cuUnit fHandmap (packWord [(0, value), (8, ctx), (32, ctx)]) (BitVec.ofNat 64 d1)
    s.emit (.regValue off (~~~(0 : Word)))

/-- CUFF_SNAPSHOT_READ (R516, R518): the read of CU_CTX_CUFF0 takes the whole record and answers its first word. A record that fails R91 is
not read: every word is all ones (R399, R495). -/
def State.snapshotCuff (s : State) (block : Nat) : State :=
  let off := 0x1000 + 0x200 * block + 0x100
  match Tab.get s.coded block with
  | none => s.emit (.regValue off 0)
  | some k =>
    let bad := k.ownCuff.any (fun b => !cuffOk b)
    let b := if bad then List.replicate 256 0xFF else padTo 256 (k.ownCuff.getD [])
    let s := if bad then s.raise cuUnit fHandmap (packWord [(0, 9), (8, k.ctx), (32, k.ctx)]) 0 else s
    (s.modCoded k.ctx (fun k => { k with snapshot := b })).emit (.regValue off (BitVec.ofNat 64 (field b 0 8)))

/-- BAD_REGISTER_ACCESS (R12): ignored, or read as zero, with ACCESS. -/
def State.narrowAccess (s : State) (off : Nat) (write : Bool) : State :=
  let s := s.badAccess off 2
  if write then s else s.emit (.regValue off 0)

/-! ### Fault registers -/

/-- The faults that a unit can raise (R496). -/
def raisable (u b : Nat) : Bool :=
  if u < 16 then b ∈ [0, 1, 2, 3, 4, 5, 6, 7, 13, 19, 20, 21, 22, 23, 27, 28, 29, 30, 33]
  else b ∈ [6, 8, 9, 10, 11, 12, 13, 14, 15, 16, 17, 18, 24, 25, 26, 28, 31, 32, 33]

/-- FAULT_CLEAR (R13, R498): every 1 clears its bit, unless the fault is raised in the same PCLK. -/
def State.clearFaults (s : State) (u : Nat) (bits : Word) (raised : BitVec 34) : State :=
  s.modFaults u (fun f => { f with bits := f.bits &&& ~~~(bits.truncate 34 &&& ~~~raised) })

/-- FAULT_SET (R501, R504): every 1 raises its fault as if detected, with zero details, the lowest code first. A bit that the unit never
raises stays clear (R496). -/
def State.setFaults (s : State) (u : Nat) (bits : Word) : State :=
  ((List.range 34).filter (fun b => bits.getLsbD b && raisable u b)).foldl (fun s b => s.raise u b 0 0) s

/-- FIRST_FAULT_REARM (R505). -/
def State.rearm (s : State) (u : Nat) : State := s.modFaults u (fun f => { f with first := none })

/-- HWARN_LATCH_CLEAR (R13, R509): the hatbox requests already made stay. -/
def State.clearLatches (s : State) (bits : Word) : State :=
  (List.range 8).foldl (fun s n => if bits.getLsbD n then s.modHwarn (laneIdx n) (fun h => { h with latch := false }) else s) s

/-! ### Enables (R527 to R530) -/

/-- The lane can never serve again before a reset: fused off, retired, or failed in training (R529, R541). -/
def Inst.laneGone (x : Inst) (k : Nat) : Bool :=
  !x.harvest.getLsbD k || (x.lanes[laneIdx k]).retired || (x.trainedUp && !(x.lanes[laneIdx k]).trained)

/-- R529 ignores the write. -/
def State.enableRefused (s : State) (i : Fin 16) (v : Nat) : Bool :=
  let x := s.inst[i]
  let want := fun (k : Nat) => v / 2 ^ k % 2 == 1
  let on := v / 256 % 2 == 1
  let left := (List.range 8).filter (fun k => if (x.lanes[laneIdx k]).en = .deferred then true else want k)
  (List.range 8).any (fun k => want k && x.laneGone k) || decide (left.length < 4) || (on && x.trainedUp && !x.active) ||
    (!on && x.en.wanted && s.mapsOn i)

/-- The next state of an object of which service is wanted or not; none where the write is a second one on a DEFERRED object. -/
def Enable.request (e : Enable) (want : Bool) : Option Enable := match e, want with
  | .off, true => some .on
  | .off, false => some .off
  | .on, true => some .on
  | .on, false => some .stopping
  | .stopping, true => some .deferred
  | .stopping, false => some .stopping
  | .deferred, true => some .deferred
  | .deferred, false => none

/-- A write to PDN_ENABLE that changes nothing while a lane or the instance is DEFERRED is a further enable of it (R466, R467; DEDUCED, log
entry 98). -/
def State.enableAgain (s : State) (i : Fin 16) (v : Nat) : Bool :=
  let x := s.inst[i]
  v == (s.instReg i 0x008).toNat && (x.en == .deferred || x.lanes.toList.any (fun l => l.en == .deferred))

/-- A write to PDN_ENABLE (R467, R528 to R530): LANE_EN in bits [7:0], INST_EN in bit 8. -/
def State.writeEnable (s : State) (i : Fin 16) (v : Nat) : State :=
  if s.enableRefused i v then
    (s.modInst i (fun x => { x with enRefused := true })).badAccess (instOff i 0x008) 7
  else
    let x := s.inst[i]
    let lane := fun (k : Nat) => (x.lanes[laneIdx k]).en.request (v / 2 ^ k % 2 == 1)
    let whole := x.en.request (v / 256 % 2 == 1)
    let busy := s.enableAgain i v || whole.isNone || (List.range 8).any (fun k => (lane k).isNone)
    let back := x.en == .off && whole == some Enable.on
    let s := s.modInst i (fun x => (List.range 8).foldl (fun x k => x.modLane (laneIdx k) (fun l => { l with en := (lane k).getD l.en }))
      { x with en := whole.getD x.en, enBusy := busy, enRefused := false })
    if back then s.rebuildStale i else s

/-- The value of PDN_ENABLE with one bit changed: of the newest write that a test holds, else of what the register reads. -/
def State.enableWith (s : State) (i : Fin 16) (bit : Nat) (on : Bool) : Nat :=
  let v := match (s.heldRegs.filter (fun (p : Nat × Word) => p.1 == instOff i 0x008)).getLast? with
    | some p => p.2.toNat
    | none => (s.instReg i 0x008).toNat
  let cleared := if v / 2 ^ bit % 2 = 1 then v - 2 ^ bit else v
  if on then cleared + 2 ^ bit else cleared

/-- LANE_STOP_DONE (R528): OFF, or ON where the lane was deferred. -/
def State.laneStopped (s : State) (i : Fin 16) (k : Fin 8) : State :=
  s.modInst i (fun x => x.modLane k (fun l =>
    if l.en = .stopping then { l with en := .off } else if l.en = .deferred then { l with en := .on } else l))

/-- INST_STOP_DONE (R530): the tracked transfers have completed. -/
def State.instStopped (s : State) (i : Fin 16) : State :=
  if s.tracked i ≠ 0 then s
  else
    s.modInst i (fun x => if x.en = .stopping then { x with en := .off } else if x.en = .deferred then { x with en := .on } else x)

/-! ### Handles and domains -/

/-- The fields of H_ATTR that exist (R525). -/
def attrMask : Word := 0xB0FFFFFFFFFFFFFF

/-- HANDLE_WRITE (R525, R526, R493). -/
def State.writeHandle (s : State) (n w : Nat) (value : Word) : State :=
  let h := s.handle n
  let off := 0x20000 + 32 * n + 8 * w
  let put := fun (x : Handle) => s.modCu (fun c => { c with handles := Tab.set c.handles n x })
  if w = 0 then
    let v := value &&& attrMask
    if h.valid && v.getLsbD 63 && v != h.attr then s.badAccess off 8
    else if v.getLsbD 63 && !h.pairOk then s.badAccess off 7
    else put { h with attr := v }
  else if h.valid then s.badAccess off 8
  else if w = 1 then (if 2 ^ 37 < value.toNat % 2 ^ 48 then s.badAccess off 7 else put { h with target := value })
  else if w = 2 then put { h with key := value }
  else put { h with keyInv := value }

/-- A write to the failure-domain table (R522). -/
def State.writeDomain (s : State) (n w : Nat) (value : Word) : State :=
  let d := Tab.getD s.cu.domains n Domain.reset
  let put := fun (x : Domain) => s.modCu (fun c => { c with domains := Tab.set c.domains n x })
  if w = 0 then put { d with coord := value &&& 0x8000FFFFFFFFFFFF }
  else if w = 1 then put { d with domA := value }
  else if w = 2 then put { d with domB := value }
  else s.badAccess (0x10000 + 32 * n + 8 * w) 9

/-! ### Other writes -/

/-- An RW field with a range (R493): the low `bits` bits of the value lie from `lo` to `hi`, or the write is ignored with cause 7. -/
def State.writeRange (s : State) (off bits lo hi : Nat) (value : Word) (f : Nat → Cu → Cu) : State :=
  let v := value.toNat % 2 ^ bits
  if v < lo ∨ hi < v then s.badAccess off 7 else s.modCu (f v)

/-- CU_GOV_CTRL (R511, R512): a cleared BOOST_EN drops BOOST_REQ, and the governors fall back from boost (R569). -/
def State.writeGov (s : State) (value : Word) : State :=
  let now := s.now
  ((s.modCu (fun c => { c with boostEn := value.getLsbD 0, weight := value.extractLsb' 1 2, weightAt := now })).setPower
    (fun p => p)).keepBoost

/-- CU_RING_TABLE (R511): ADDRESS bits [5:0] are zero. -/
def State.writeRingTable (s : State) (value : Word) : State :=
  if value.toNat % 64 ≠ 0 then s.badAccess 0x248 7
  else s.modCu (fun c => { c with ringTable := value.toNat % 2 ^ 48, ringOwner := value.toNat / 2 ^ 48 % 256,
                                  ringValid := value.getLsbD 63 })

/-- CU_HWARN_EDGES (R508): the eight counts. -/
def State.writeEdges (s : State) (value : Word) : State :=
  (List.range 8).foldl (fun s n => s.modHwarn (laneIdx n) (fun h => { h with edges := value.toNat / 2 ^ (8 * n) % 256 })) s

/-- Set a drop counter (R510). -/
def State.setDrop (s : State) (i v : Nat) : State := s.modCu (fun c => { c with drops := c.drops.setIfInBounds i v })

/-- The CU offsets below 0x400 that are read-only (R13). -/
def cuReadOnly (off : Nat) : Bool :=
  off % 8 == 0 && (decide (off < 0x60) || (decide (0x68 ≤ off) && decide (off ≤ 0x90)) || off == 0x120 ||
    (decide (0x130 ≤ off) && decide (off ≤ 0x148)))

/-- A write to a CU register below 0x400. -/
def State.writeCu (s : State) (off : Nat) (value : Word) : State :=
  let v := value.toNat
  if cuReadOnly off then s
  else match off with
  | 0x60 => s.serviceDog
  | 0x98 => s.clearLatches value
  | 0xA0 => s.writeEdges value
  | 0xA8 => s.modCu (fun c => { c with trigMask := value.truncate 8 })
  | 0x100 => s.clearFaults cuUnit value 0
  | 0x108 => s.modFaults cuUnit (fun f => { f with mask := value.truncate 34 })
  | 0x110 => s.setFaults cuUnit value
  | 0x118 => s.modCu (fun c => { c with irqRoute := value.truncate 17 })
  | 0x128 => if value.getLsbD 63 then s.rearm cuUnit else s
  | 0x150 => s.modCu (fun c => { c with suspicion := v % 2 ^ 32 })
  | 0x158 => s.modCu (fun c => { c with noticeDrop := v % 2 ^ 32 })
  | 0x160 => s.setDrop 0 (v % 2 ^ 32)
  | 0x168 => s.setDrop 1 (v % 2 ^ 32)
  | 0x170 => s.setDrop 2 (v % 2 ^ 32)
  | 0x178 => s.setDrop 3 (v % 2 ^ 32)
  | 0x180 => s.setDrop 4 (v % 2 ^ 32)
  | 0x188 => s.setDrop 5 (v % 2 ^ 32)
  | 0x200 => s.writeRange off 40 1000000 60000000000 value (fun v c => { c with drainWindow := v })
  | 0x208 => s.writeRange off 7 50 95 value (fun v c => { c with drainTarget := v })
  | 0x210 => s.writeRange off 30 1000000 1000000000 value (fun v c => { c with voteTimeout := v })
  | 0x218 => s.writeRange off 20 1000 1000000 value (fun v c => { c with crownDist := v })
  | 0x220 => s.writeRange off 17 2000 100000 value (fun v c => { c with crownGuard := v })
  | 0x228 => s.writeRange off 36 100000000 60000000000 value (fun v c => { c with witnessDeadline := v })
  | 0x230 => s.writeRange off 30 1000000 1000000000 value (fun v c => { c with collTimeout := v })
  | 0x238 => s.writeGov value
  | 0x240 => s.writeRange off 32 3600 604800 value (fun v c => { c with testInterval := v })
  | 0x248 => s.writeRingTable value
  | 0x250 => s.modCu (fun c => { c with doorbells := c.doorbells ++ [v % 65536] })
  | _ => s.badAccess off 9

/-- A write to a lane block (R533). -/
def State.writeLane (s : State) (i : Fin 16) (k o : Nat) (value : Word) : State :=
  let v := value.toNat % 2 ^ 32
  let upper := !(s.inst[i]).lower
  let put := fun (f : Lane → Lane) => s.modInst i (fun x => x.modLane (laneIdx k) f)
  match o with
  | 0x00 => s
  | 0x08 => put (fun l => { l with wce := v })
  | 0x10 => if v = 0 then s.badAccess (instOff i (0x400 + 0x40 * k + 0x10)) 7 else put (fun l => { l with limitNext := v })
  | 0x18 => if upper then put (fun l => { l with pairMiss := v }) else s
  | 0x20 => if upper then put (fun l => { l with foldMiss := v }) else s
  | 0x28 => s
  | _ => s.badAccess (instOff i (0x400 + 0x40 * k + o)) 9

/-- PDN_SCRUB_CFG (R532): a lap already longer than the new limit raises SCRUB_LAP at once. -/
def State.writeScrub (s : State) (i : Fin 16) (value : Word) : State :=
  let idle := value.toNat % 2 ^ 13
  let limit := value.toNat / 2 ^ 16 % 2 ^ 10
  if idle < 16 ∨ 4096 < idle ∨ limit < 1 ∨ 720 < limit then s.badAccess (instOff i 0x380) 7
  else (s.modScrub i (fun x => { x with idle := idle, lapLimit := limit })).lapOver i

/-- The instance offsets that are read-only. -/
def instReadOnly (o : Nat) : Bool :=
  o ∈ [0x000, 0x010, 0x018, 0x020, 0x120, 0x128, 0x130, 0x138, 0x248, 0x250, 0x300, 0x308, 0x310, 0x388, 0x390, 0x398, 0x3A0]

/-- A write to an instance register that the instance takes now. -/
def State.writeInstNow (s : State) (i : Fin 16) (o : Nat) (value : Word) : State :=
  let v := value.toNat % 2 ^ 32
  let upper := !(s.inst[i]).lower
  let put := fun (f : Inst → Inst) => s.modInst i f
  let putUp := fun (f : Inst → Inst) => if upper then s.modInst i f else s
  if 0x400 ≤ o ∧ o < 0x600 then s.writeLane i ((o - 0x400) / 0x40) ((o - 0x400) % 0x40) value
  else if 0x800 ≤ o ∧ o < 0xA00 then s
  else if instReadOnly o then s
  else match o with
  | 0x008 => s.writeEnable i (value.toNat % 512)
  | 0x100 => s.clearFaults i.val value 0
  | 0x108 => s.modFaults i.val (fun f => { f with mask := value.truncate 34 })
  | 0x110 => s.setFaults i.val value
  | 0x118 => if value.getLsbD 63 then s.rearm i.val else s
  | 0x200 => put (fun x => { x with pageCe := v })
  | 0x208 => put (fun x => { x with pageUe := v })
  | 0x210 => put (fun x => { x with uninit := v })
  | 0x218 => putUp (fun x => { x with demand := v })
  | 0x220 => put (fun x => { x with tierRepair := v })
  | 0x228 => put (fun x => { x with partialInit := v })
  | 0x230 => putUp (fun x => { x with guardRead := v })
  | 0x238 => putUp (fun x => { x with deltaLate := v })
  | 0x240 => putUp (fun x => { x with deltaStale := v })
  | 0x380 => s.writeScrub i value
  | _ => s.badAccess (instOff i o) 9

/-- A write to an instance register waits while the instance is under test (R557). -/
def State.heldBy (s : State) (i : Fin 16) (off : Nat) (value : Word) (act : State) : State :=
  if s.inst[i].test.running then { s with heldRegs := s.heldRegs ++ [(off, value)] } else act

/-- A write to a context block: LATE_CROWN is its one writable register (R516). -/
def State.writeCtx (s : State) (block o : Nat) (value : Word) : State :=
  if o = 0x030 then match Tab.get s.coded block with
    | some k => s.modCoded k.ctx (fun k => { k with lateCrown := value.toNat % 2 ^ 32 })
    | none => s
  else if o ∈ [0x000, 0x008, 0x010, 0x018, 0x020, 0x028] ∨ 0x100 ≤ o then s
  else s.badAccess (0x1000 + 0x200 * block + o) 9

/-- SEALED_REGISTER_WRITE (R13, R519): ignored with SEAL_REJECT. -/
def State.sealedWrite (s : State) (off : Nat) (value : Word) : State := s.raise cuUnit fSealReject (BitVec.ofNat 64 off) value

/-- The registers that hold RWS fields (R519). -/
def sealedOff (off : Nat) : Bool := off == 0x1800 || off == 0x1808 || off == 0x1810

/-- REGISTER_WRITE (R13, R491, R493): every register by its access code. The port serves writes from the end of start-up step 2
(R543). -/
def State.writeReg (s : State) (off : Nat) (value : Word) : State :=
  if !s.cu.released then s
  else if off % 8 ≠ 0 then s.badAccess off 2
  else if off < 0x400 then s.writeCu off value
  else if off < 0x1000 then s
  else if off < 0x1800 then s.writeCtx ((off - 0x1000) / 0x200) ((off - 0x1000) % 0x200) value
  else if sealedOff off then s.sealedWrite off value
  else if off = 0x1818 ∨ (0x1900 ≤ off ∧ off < 0x1D00 ∧ off % 32 ≠ 24) then s
  else if 0x10000 ≤ off ∧ off < 0x18000 then s.writeDomain ((off - 0x10000) / 32) (off % 32 / 8) value
  else if 0x20000 ≤ off ∧ off < 0x40000 then s.writeHandle ((off - 0x20000) / 32) (off % 32 / 8) value
  else if 0x40000 ≤ off ∧ off < 0x140000 then
    let i := instIdx ((off - 0x40000) / 0x10000)
    s.heldBy i off value (s.writeInstNow i (off % 0x10000) value)
  else s.badAccess off 9

/-- The held register writes of instances whose test has ended are applied, in order (R557). -/
def State.releaseRegs (s : State) : State :=
  if s.heldRegs.isEmpty then s
  else
    let waits := fun (p : Nat × Word) => (s.inst[instIdx (offUnit p.1)]).test.running
    let go := s.heldRegs.filter (fun p => !waits p)
    go.foldl (fun s p => s.writeReg p.1 p.2) { s with heldRegs := s.heldRegs.filter waits }

end Sys2Proof.Machine
end

