-- ==== Sys2Proof/Machine/Rings.lean ====
section
/-! DEFINITION. The chip-service commands (R455, R468, R486 to R488), the dispatch of an accepted command to its operation, and the
command rings: doorbells, the checks at fetch, acceptance and deferred starts (R441 to R466, R577). -/

namespace Sys2Proof.Machine

/-! ### Chip service -/

/-- NOP (R468). -/
def State.opNop (s : State) (c : Cmd) : State := s.post c stOk 0

/-- The ring that carried a command may name a fence (R453). A ring that the CU does not hold limits nothing. -/
def State.fenceAllowed (s : State) (ring n : Nat) : Bool := match Tab.get s.rings ring with
  | some r => r.priv || (decide (r.fenceLo ≤ n) && decide (n ≤ r.fenceHi))
  | none => true

/-- FENCE_SIGNAL (R454, R455). -/
def State.opFenceSignal (s : State) (c : Cmd) : State :=
  let n := c.u16 16
  if !s.fenceAllowed c.ring n then s.post c stAccessDenied 0
  else if 8192 ≤ n then s.post c stBadPacket 0
  else (if c.modeBit 0 then s.clearFence n else s.setFence n).post c stOk 0

/-- The 64 bytes of MEASURE_GET (R487). -/
def State.measurement (s : State) : List Byte :=
  padTo 64 (padTo 48 s.cu.fw.meas ++ leBytes 4 imageBytes ++ [if s.cu.straps.getLsbD 20 then 1 else 0])

/-- MEASURE_GET (R469, R487). -/
def State.opMeasureGet (s : State) (c : Cmd) : State :=
  if !s.ctxOpen c.ctx then s.post c stBadContext 0
  else if !s.bufferOk c.ctx (c.u64 16) 64 then s.badParam c 16
  else (s.bufferWrite (c.u64 16) s.measurement).post c stOk 0

/-- The old value and the changes left of a setting of SEAL_SET (R488, R519). -/
def Fuses.setting (f : Fuses) (n : Nat) : Nat × Nat := if n = 0 then (f.mMin, f.mMinLeft) else (flag f.witness, f.witnessLeft)

/-- The fuses after a change of a setting, with its log entry (R520, R546). -/
def Fuses.change (f : Fuses) (n v stamp : Nat) (requester : Word) : Fuses :=
  let old := (f.setting n).1
  let f : Fuses := { f with log := f.log ++ [{ stamp := stamp, requester := requester, change := packWord [(0, n), (8, old), (16, v)] }] }
  if n = 0 then { f with mMin := v, mMinLeft := if v < old then f.mMinLeft - 1 else f.mMinLeft }
  else { f with witness := v == 1, witnessLeft := f.witnessLeft - 1 }

/-- SEAL_SET (R488, R520, R521, R546): RESULT is the changes left for the setting. -/
def State.opSealSet (s : State) (c : Cmd) : State :=
  let n := c.mode % 4
  let v := c.u8 16
  let f := s.cu.fuses
  let (old, left) := f.setting n
  if n = 3 then s.badParam c 3
  else if n = 2 then s.post c stSealLimit 0
  else if (n = 0 ∧ (v < 1 ∨ 4 < v)) ∨ (n = 1 ∧ 1 < v) then s.badParam c 16
  else if v = old then s.post c stOk left
  else if 32 ≤ f.log.length ∨ (left = 0 ∧ (n = 1 ∨ v < old)) then s.post c stSealLimit left
  else
    let g := f.change n v s.now (BitVec.ofNat 64 (c.u64 24))
    (s.modCu (fun x => { x with fuses := g })).post c stOk (g.setting n).2

/-- TEST_RUN (R486, R552, R554): the test of the ring's instance falls due at acceptance. -/
def State.opTestRun (s : State) (c : Cmd) : State :=
  let i := instIdx (c.ring / 4096)
  let now := s.now
  if c.mode % 4 = 3 then s.badParam c 3
  else if s.inst[i].test.running ∨ s.inst[i].test.pending then s.post c stBusy 0
  else if s.cu.power.clamp then s.post c stPowerLimited 0
  else (s.modTest i (fun x => { x with pending := true, mode := c.mode % 4, dueAt := now, deferrals := 0 })).hold c (.test i.val)

/-- EVACUATE on a survivor (R237, R238): the suspect is marked lost with cause EVACUATED. -/
def State.opEvacuate (s : State) (c : Cmd) : State :=
  if !s.ctxOpen c.ctx then s.post c stBadContext 0
  else
    let st := s.evacuateStatus c
    if st = stBadParam then s.badParam c 16
    else if st = stOk then (s.loseMember c.ctx (c.u8 16) lostEvacuated).post c stOk 0
    else s.post c st 0

/-- HATBOX_WRITE in CONFIGURE mode (R247, R469, R481). -/
def State.opHatboxConfigure (s : State) (c : Cmd) : State :=
  if !s.ctxOpen c.ctx then s.post c stBadContext 0 else s.opConfigure c

/-! ### An accepted command -/

/-- The operation of an opcode, with the mode bits that split a row of the table. -/
def State.runOp (s : State) (c : Cmd) : State :=
  match c.opcode with
  | 0x01 => s.opCtxOpen c
  | 0x02 => s.opCtxClose c
  | 0x03 => s.opRegionMap c
  | 0x04 => s.opRegionUnmap c
  | 0x05 => s.opRegionFill c
  | 0x10 => s.opGloveForm c
  | 0x11 => s.opGloveDissolve c
  | 0x12 => s.opGloveQuery c
  | 0x20 => s.opStepOpen c
  | 0x21 => s.opDrainClose c
  | 0x22 => s.opCrown c
  | 0x23 => s.opRollback c
  | 0x24 => s.opWitnessArm c
  | 0x25 => s.opWitnessVerdict c
  | 0x30 => s.opDarnStart c
  | 0x31 => s.opDarnStitch c
  | 0x32 => s.opStandinAssign c
  | 0x33 => if c.modeBit 0 then s.opEvacuateSelf c else s.opEvacuate c
  | 0x34 => s.opAdmit c
  | 0x40 => if c.mode % 4 = 1 then s.opHatboxConfigure c else s.opHatboxWrite c
  | 0x41 => s.opRestore c
  | 0x42 => s.opImageExport c
  | 0x43 => s.opImageImport c
  | 0x50 => s.opDigestArm c
  | 0x51 => s.opDigestRead c
  | 0x52 => s.opTallyArm c
  | 0x53 => s.opTallyRead c
  | 0x60 => s.opTilePromote c
  | 0x61 => s.opTileEvict c
  | 0x62 => s.opBrimOpen c
  | 0x63 => if c.modeBit 0 then s.opBrimClose c else s.opBrimAdvance c
  | 0x64 => if c.modeBit 0 then s.opQuotaPool c else s.opQuotaSet c
  | 0x70 => s.opScrubCtrl c
  | 0x71 => s.opTestRun c
  | 0x72 => s.opMeasureGet c
  | 0x73 => s.opSealSet c
  | 0x74 => s.opFenceSignal c
  | 0x7F => s.opNop c
  | _ => s

/-! ### Doorbells -/

/-- ACCESS of a ring (R446, R500, R514). -/
def State.ringAccess (s : State) (ring : Nat) : State := s.access cuUnit 3 0 0 (BitVec.ofNat 64 ring)

/-- Nothing more is fetched from a ring until a later doorbell (R446, R448). -/
def State.stallRing (s : State) (ring : Nat) : State := s.modRing ring (fun r => { r with stalled := true })

/-- What the CU holds of a ring after a valid doorbell (R450, R577): HEAD and POSTED are its own while the ring stays enabled, and a
fetched packet stays only then. -/
def takeDesc (old : Option Ring) (d : List Byte) (head posted : Nat) : Ring :=
  let r := ringOf d head posted
  { r with fetched := match old with
      | some o => if o.enable && r.enable then o.fetched else none
      | none => none }

/-- The CU acts on one doorbell (R446, R450, R514, R577). -/
def State.ringDoorbell (s : State) (ring : Nat) : State :=
  let old := Tab.get s.rings ring
  match s.readDesc ring with
  | (s, none) => (s.stallRing ring).ringAccess ring
  | (s, some d) =>
    let enable := descField d 0x22 1 % 2 == 1
    let keep := match old with
      | some o => o.enable || !enable
      | none => false
    let head := match old, keep with
      | some o, true => o.head
      | _, _ => descField d 0x14 4
    let posted := match old, keep with
      | some o, true => o.posted
      | _, _ => descField d 0x1C 4
    if s.descOk d head posted then { s with rings := Tab.set s.rings ring (takeDesc old d head posted) }
    else (s.stallRing ring).ringAccess ring

/-- The CU acts on doorbells: start-up is complete, and neither FW_FAULT nor a debug halt stops it (R31, R50, R543). -/
def State.commandsRun (s : State) : Bool := s.cu.started && !s.cu.fwFault && !s.cu.debugHalted

/-- The doorbells written are acted on, in order; those to one ring have the effect of one (R447, R543). -/
def State.actDoorbells (s : State) : State :=
  if !s.commandsRun then s
  else s.cu.doorbells.eraseDups.foldl (fun s r => s.ringDoorbell r) (s.modCu (fun c => { c with doorbells := [] }))

/-- DOORBELL (R447): a write of CU_DOORBELL. The port takes writes from the end of start-up step 2 (R543). -/
def State.doorbell (s : State) (value : Word) : State :=
  if !s.cu.released then s
  else (s.modCu (fun c => { c with doorbells := c.doorbells ++ [value.toNat % 65536] })).actDoorbells

/-! ### Fetch (R448, R451 to R453) -/

/-- Commands of a ring that have been fetched and have not posted a final completion (R448). -/
def State.ringLoad (s : State) (ring : Nat) : Nat :=
  (s.pends.filter (fun p => p.cmd.ring == ring)).length + (match Tab.get s.rings ring with
    | some r => flag r.fetched.isSome
    | none => 0)

/-- The completion ring has room for another command (R448). -/
def State.ringRoom (s : State) (ring : Nat) (r : Ring) : Bool :=
  decide ((r.posted + 2 ^ 32 - r.cqHead) % 2 ^ 32 + 2 * s.ringLoad ring ≤ 2 ^ r.log2 - 4)

/-- HEAD passes the packet (R449). -/
def State.passHead (s : State) (ring : Nat) : State := match Tab.get s.rings ring with
  | none => s
  | some r =>
    let n := (r.head + 1) % 2 ^ 32
    (s.modRing ring (fun r => { r with head := n, fetched := none })).writeCount ring 0x14 n

/-- A command ends at fetch (R452): its fence is set only where the row says so. -/
def State.endAtFetch (s : State) (c : Cmd) (status detail : Nat) (fence : Option Nat) : State :=
  let s := s.passHead c.ring
  let s := s.writeEntry (cmdEntry c (cmdUnit c) status 0 detail s.now (fence.orElse (fun _ => fenceOf c)) fence.isSome false)
  match fence with
  | some n => s.setFence n
  | none => s

/-- The signal fence of a packet that R452 finds valid. -/
def Ring.validFence (r : Ring) (c : Cmd) : Option Nat :=
  (fenceOf c).filter (fun n => r.priv || (decide (r.fenceLo ≤ n) && decide (n ≤ r.fenceHi)))

/-- R453 refuses the packet on a ring. -/
def Ring.refuses (r : Ring) (c : Cmd) : Bool :=
  !r.priv && (privileged c || (actsOnCtx c && c.ctx != r.owner) ||
    (fencesNamed c).any (fun n => decide (n < r.fenceLo) || decide (r.fenceHi < n)))

/-- The first check of R452 that a packet fails, with DETAIL and whether its valid fence is set. -/
def Ring.fetchFault (r : Ring) (c : Cmd) : Option (Nat × Nat × Bool) :=
  if !c.crcOk then some (stBadPacket, 12, false)
  else if (opcodeOf c.opcode).isNone then some (stBadOpcode, 0xFF, true)
  else match firstReserved c with
    | some o => some (stBadPacket, o, true)
    | none => if r.refuses c then some (stAccessDenied, 0xFF, true) else none

/-- PACKET_FETCH (R448, R451 to R453): the ring's instance fetches the packet at HEAD. One packet of a ring is held at a time (DESIGN
CHOICE, log entry 38). -/
def State.packetFetch (s : State) (ring : Nat) : State :=
  match Tab.get s.rings ring with
  | none => s
  | some r =>
    let x := s.inst[instIdx (ring / 4096)]
    if !s.commandsRun ∨ !r.enable ∨ r.stalled ∨ r.fetched.isSome ∨ r.head = r.tail ∨ !inService x then s
    else if !s.ringRoom ring r then s.stallRing ring
    else match s.padunRead (r.base + 64 * (r.head % 2 ^ r.log2)) 64 r.owner with
      | (s, none) => s.endAtFetch { ring := ring, count := r.head, bytes := List.replicate 64 0xFF } stUninit 0xFF none
      | (s, some b) =>
        let c : Cmd := { ring := ring, count := r.head, bytes := b }
        match r.fetchFault c with
        | none => s.modRing ring (fun r => { r with fetched := some c })
        | some (status, detail, set) => s.endAtFetch c status detail (if set then r.validFence c else none)

/-! ### Acceptance -/

/-- The command needs a tracked transfer of its ring's instance (R461): it moves pages, which BRIM_ADVANCE with CLOSE does not. -/
def needsTransfer (c : Cmd) : Bool := movesPages c.opcode && !(c.opcode == 0x63 && c.modeBit 0)

/-- The ring's fetched packet may be accepted: its fence is set, its barrier is met, and a tracked transfer is free where it needs one
(R454, R457, R461). -/
def State.mayAccept (s : State) (c : Cmd) : Bool :=
  (!c.waits || s.fenceSet c.waitFence) && (!c.barrier || !s.pends.any (fun p => p.cmd.ring == c.ring)) &&
    (!needsTransfer c || decide (s.tracked (instIdx (c.ring / 4096)) < Config.trackedMax))

/-- COMMAND_ACCEPT (R449, R457): HEAD passes the packet and the command runs its opcode's checks. -/
def State.commandAccept (s : State) (ring : Nat) : State :=
  match (Tab.get s.rings ring).bind (fun r => r.fetched) with
  | none => s
  | some c => if s.commandsRun && s.mayAccept c then (s.passHead ring).runOp c else s

/-- The object of a deferred enable is still shutting down (R465). -/
def State.shutting (s : State) (c : Cmd) : Bool :=
  if c.opcode = 1 then (Tab.get s.ctxs c.ctx).isSome
  else if c.opcode = 3 then !(s.unmappingUnder c).isEmpty
  else s.dissolving c.ctx (c.u16 16)

/-- DEFERRED_START (R466): the shut-down has completed; the enable's own checks run now. -/
def State.deferredStart (s : State) (ring count : Nat) : State :=
  match s.pends.find? (fun p => p.cmd.ring == ring && p.cmd.count == count && p.job == .deferred) with
  | none => s
  | some p => if s.cu.fwFault ∨ s.cu.debugHalted ∨ s.shutting p.cmd then s else s.runOp p.cmd

end Sys2Proof.Machine
end

