-- ==== Sys2Proof/Machine/Events.lean ====
section
/-! DEFINITION. What closes every event, how a row of the table takes its packet or message, the timers of collectives (R429, R431,
R433), the crown's moment (R180), and the course of an in-field test (R554, R558, R561). -/

namespace Sys2Proof.Machine

/-! ### The end of an event -/

/-- The CU grades the gloves whose content was lost (R198); after FW_FAULT it does not (R29). -/
def State.gradeNow (s : State) : State := if s.cu.fwFault then s else s.gradeLosses

/-- What instances leave to be done when the CU has acted: merge buffers with too many entries (R389), messages that waited for deltas
(R214, R262), fills that have ended and the requests they held (R387), and requests held for a darn that is over (R198, R212). -/
def State.settleUnits (s : State) : State := s.settleMerge.sendWaiting.settleFills.releaseFills

/-- Everything that an act leaves to be done: doorbells written before start-up was complete (R543), losses (R198), what can follow at
once, the instances' own, evicts whose promotion has ended (R345), register writes that a test held (R557), and answers to remote
operations (R438). -/
def State.settleAll (s : State) : State := s.actDoorbells.gradeNow.pump.gradeNow.settleUnits.settleEvicts.releaseRegs.answerOps

/-- What follows an act, and the messages that the chip has sent to itself in turn (R227): they arrive at once, one after another. Those
beyond the fuel wait for the next event (DESIGN CHOICE, log entry 99). -/
def finishLoop : Nat → State → State
  | 0, s => s.settleAll
  | n + 1, s => match s.settleAll with
    | t => match t.loop with
      | [] => t
      | w :: ws => finishLoop n (({ t with loop := ws }).takeMessage t.cu.fabric.coord w)

/-- The end of an event. -/
def State.finish (s : State) : State := finishLoop Config.loopMax s

/-- An event without news. -/
def State.occur (s : State) (e : Ev) (act : State → State) : State := (act (s.at e)).finish

/-- An event without news that uses the values held with a complement: each pair is checked first (R399, R401). -/
def State.meet (s : State) (e : Ev) (act : State → State) : State := (act (s.at e).checkPairs.checkTs).finish

/-- An event that may carry news of other chips. -/
def State.hear (s : State) (e : Ev) (act : State → State) : State := (act (s.begin e)).finish

/-- The row may run the packet: it is the row's own opcode and form, the CU executes commands (R29, R31, R50), and the packet is not
one that waits for its end already. -/
def State.rowTakes (s : State) (c : Cmd) (code : Nat) (form : Bool) : Bool :=
  c.opcode == code && form && !s.cu.fwFault && (!s.cu.debugHalted || !cuScope c) && (s.pendOf c).isNone

/-- A row of an opcode runs the opcode's own checks and effect on an accepted packet (R457). -/
def State.row (s : State) (e : Ev) (c : Cmd) (code : Nat) (form : Bool) (op : State → Cmd → State) : State :=
  let s := s.begin e
  if s.rowTakes c code form then (op s c).finish else s

/-- A row of a message type takes a message of its type, and one that no row of R411 describes, which is dropped and counted. -/
def Wire.fits (w : Wire) (type : Nat) : Bool := w.type == type || !w.legal

/-- A row of a message type (R410, R411, R414). -/
def State.arrive (s : State) (e : Ev) (w : Wire) (type : Nat) (act : State → State) : State :=
  let s := s.begin e
  if Wire.fits w type then (act s).finish else s

/-! ### Timers of collectives -/

/-- The gatherer's close has come (R429): it lacks a record and decides an abort stamped with its close. A node of a restore tree
sends what it has. -/
def State.closeColl (s : State) (k : CollKey) : State :=
  match s.collOf k with
  | none => s
  | some c =>
    if s.cu.fwFault ∨ c.me ≠ c.gatherer ∨ s.now < c.acceptedAt + c.timeout then s
    else if k.phase = phRestore then s.pumpRestore c true
    else if c.complete ∨ CollKey.isRound k then s
    else s.decideColl c (abortBlock stCollTimeout (c.acceptedAt + c.timeout))

/-- A participant without a decision completes alone (R433). -/
def State.aloneColl (s : State) (k : CollKey) : State :=
  match s.collOf k with
  | none => s
  | some c =>
    if s.cu.fwFault ∨ CollKey.isRound k ∨ s.now < c.acceptedAt + 2 * c.timeout + Config.memberTimeout then s
    else s.conclude c c.recs (abortBlock stCollTimeout (c.acceptedAt + c.timeout))

/-- Messages kept for a key are dropped CU_COLL_TIMEOUT after their arrival (R431). -/
def State.expireKept (s : State) (k : CollKey) : State :=
  { s with kept := s.kept.filter (fun (x : Kept) => x.key != k || decide (s.now < x.at' + s.cu.collTimeout)) }

/-! ### The crown's moment -/

/-- The discard's work is done (R81). -/
def State.discardDue (s : State) (ctx : Nat) : State :=
  match s.codedOf ctx with
  | none => s
  | some k => if k.phase = .discarding then s.finishDiscard ctx else s

/-! ### The in-field test -/

/-- TEST_DUE (R554): CU_TEST_INTERVAL has passed since the last test, or since start-up completed. A scheduled test runs both
parts. -/
def State.fallDue (s : State) (i : Fin 16) : State :=
  let x := s.inst[i].test
  let from' := if x.last = 0 then x.dueAt else x.last
  if !s.cu.started ∨ !s.inst[i].active ∨ x.pending ∨ x.running ∨ s.now < from' + s.cu.testInterval * 1000000000 then s
  else s.modTest i (fun x => { x with pending := true, mode := 0, dueAt := s.now, deferrals := 0 })

/-- Four hours of band time, and the deferring gaps that a test may have (R558). -/
def overdueAfter : Nat := 14400000000000
def overdueGaps : Nat := 64

/-- TEST_OVERDUE (R558). -/
def State.fallOverdue (s : State) (i : Fin 16) : State :=
  let x := s.inst[i].test
  if !x.pending ∨ x.overdue ∨ x.running ∨ (x.deferrals < overdueGaps ∧ s.now < x.dueAt + overdueAfter) then s
  else (s.modTest i (fun x => { x with overdue := true })).raise i.val fTestOverdue (BitVec.ofNat 64 x.deferrals)
    (BitVec.ofNat 64 x.dueAt)

/-- A test is one that TEST_RUN ordered. -/
def State.ordered (s : State) (i : Fin 16) : Bool := s.hasJob (fun j => j == Job.test i.val)

/-- What the end of a test writes: PDN_TEST_LAST, the pass bits, PENDING and OVERDUE clear (R561). A part that the mode leaves out has
not passed. -/
def Test.ended (x : Test) (lbist mbist : Bool) (now : Nat) : Test :=
  let l := x.mode != 2 && lbist
  let m := x.mode != 1 && mbist
  { x with lbist := l, mbist := m, okL := x.okL || l, okM := x.okM || m, last := now, running := false, pending := false,
           overdue := false }

/-- The failed parts of a test raise TEST_FAIL with cause 5 or 6 (R496, R561). -/
def State.failParts (s : State) (i : Fin 16) (badL badM : Bool) : State :=
  let s := if badL then s.failInst i 5 0 else s
  if badM then s.failInst i 6 0 else s

/-- TEST_COMPLETE (R486, R561): a failed part raises TEST_FAIL and stops every coded context; a lower instance that fails a TEST_RUN
leaves service (R329; DEDUCED, log entry 39), and any other returns to it. What the test held is served. -/
def State.endTest (s : State) (i : Fin 16) (lbist mbist : Bool) : State :=
  let x := s.inst[i].test
  if !x.running then s
  else
    let badL := x.mode != 2 && !lbist
    let badM := x.mode != 1 && !mbist
    let bad := badL || badM
    let ordered := s.ordered i
    let s := (s.modTest i (fun x => x.ended lbist mbist s.now)).failParts i badL badM
    let s := if bad then s.stopAll else s
    let s := if bad && ordered && s.inst[i].lower then s.modInst i (fun x => { x with en := .off }) else s
    let y := s.inst[i].test
    let s := s.endJobs (fun j => j == Job.test i.val) (if bad then stTestFail else stOk) (flag y.lbist + 2 * flag y.mbist) s.now
    s.retryHeld (fun w => w == .test)

end Sys2Proof.Machine
end

