-- ==== Sys2Proof/Machine/Surroundings.lean ====
section
/-! DEFINITION. The meanings of the events around the chip: reset and start-up (R534 to R545), the band and the watchdog, the fabric,
health inputs, power, and the debug ports. -/

namespace Sys2Proof.Machine

def execChipReset (e : Ev) (powerLost : Bool) (s : State) : Host.Outcome State Fault Refusal :=
  .next ((s.at e).chipReset powerLost)

def execResetRelease (e : Ev) (straps : BitVec 22) (s : State) : Host.Outcome State Fault Refusal :=
  .next ((s.at e).release straps)

def execFirmwareRelease (e : Ev) (image : List Byte) (s : State) : Host.Outcome State Fault Refusal :=
  .next ((s.at e).takeImage image)

def execFirmwareStart (e : Ev) (s : State) : Host.Outcome State Fault Refusal :=
  .next (s.occur e State.startFirmware)

def execControllerReady (e : Ev) (i : Fin 16) (lpddr wordCode pseudo : Bool) (s : State) : Host.Outcome State Fault Refusal :=
  .next ((s.at e).ctrlReady i lpddr wordCode pseudo)

def execControllerReadyTimeout (e : Ev) (i : Fin 16) (s : State) : Host.Outcome State Fault Refusal :=
  .next ((s.at e).ctrlLate i)

def execLaneTrainingDone (e : Ev) (i : Fin 16) (passed : BitVec 8) (encoded : List LaneRom) (s : State) :
    Host.Outcome State Fault Refusal :=
  .next ((s.at e).lanesTrained i passed encoded)

/-- The input's count is the clock from here on (R568). -/
def execBandAcquire (e : Ev) (s : State) : Host.Outcome State Fault Refusal :=
  .next (s.occur e (fun s => s.acquireBand e.t))

def execBandFault (e : Ev) (bad : Nat) (validFell : Bool) (s : State) : Host.Outcome State Fault Refusal :=
  .next (s.meet e (fun s => s.faultBand bad validFell))

def execBandStall (e : Ev) (s : State) : Host.Outcome State Fault Refusal :=
  .next (s.meet e State.stallBand)

def execWatchdogExpiry (e : Ev) (pc : Word) (s : State) : Host.Outcome State Fault Refusal :=
  .next ((s.at e).dogBarks pc)

def execWatchdogService (e : Ev) (s : State) : Host.Outcome State Fault Refusal :=
  .next ((s.at e).serviceDog)

def execLinkDown (e : Ev) (port : Fin 48) (s : State) : Host.Outcome State Fault Refusal :=
  .next (s.hear e (fun s => s.portDown port.val))

/-- The fabric's new status, with its flag and its cabling (R39, R40): a chip that only ports already down lead toward is lost (R41). -/
def State.takeFabric (s : State) (f : FabricStatus) : State :=
  (s.modCu (fun c => { c with fabric := f })).loseChips (fun _ => true)

def execCoordVerifiedChange (e : Ev) (f : FabricStatus) (s : State) : Host.Outcome State Fault Refusal :=
  .next (s.hear e (fun s => s.takeFabric f))

def execResidueAlarm (e : Ev) (pulses : Nat) (s : State) : Host.Outcome State Fault Refusal :=
  .next ((s.at e).countAlarms pulses)

def execHwarnEdgeFiltered (e : Ev) (n : Fin 8) (level : Bool) (s : State) : Host.Outcome State Fault Refusal :=
  .next ((s.at e).hwarnEdge n level)

def execHwarnGlitch (e : Ev) (n : Fin 8) (s : State) : Host.Outcome State Fault Refusal :=
  .next ((s.at e).hwarnGlitch n)

def execHwarnStuck (e : Ev) (n : Fin 8) (s : State) : Host.Outcome State Fault Refusal :=
  .next ((s.at e).hwarnStuck n)

def execHwarnUnstuck (e : Ev) (n : Fin 8) (s : State) : Host.Outcome State Fault Refusal :=
  .next ((s.at e).hwarnUnstuck n)

def execClampRise (e : Ev) (s : State) : Host.Outcome State Fault Refusal :=
  .next ((s.at e).clampRises)

/-- A due test that CLAMP kept from starting may start (R555). -/
def execClampFall (e : Ev) (s : State) : Host.Outcome State Fault Refusal :=
  .next (s.occur e State.clampFalls)

/-- BOOST_GRANT rises (R45, R161). -/
def State.grantRises (s : State) : State := s.setPower (fun p => { p with grant := true })

def execBoostGrantRise (e : Ev) (s : State) : Host.Outcome State Fault Refusal :=
  .next ((s.at e).grantRises)

def execBoostGrantFall (e : Ev) (s : State) : Host.Outcome State Fault Refusal :=
  .next ((s.at e).grantFalls)

def execPeakLimitReached (e : Ev) (s : State) : Host.Outcome State Fault Refusal :=
  .next ((s.at e).peakReached)

def execPeakLimitCleared (e : Ev) (s : State) : Host.Outcome State Fault Refusal :=
  .next ((s.at e).peakCleared)

def execIeee1687Write (e : Ev) (i : Fin 16) (instrument : Nat) (value : Word) (s : State) : Host.Outcome State Fault Refusal :=
  .next ((s.at e).writeInstrument i instrument value)

def execDebugHaltRequest (e : Ev) (s : State) : Host.Outcome State Fault Refusal :=
  .next ((s.at e).haltRequest)

end Sys2Proof.Machine
end

