-- ==== Sys2Proof/Machine/Commands.lean ====
section
/-! DEFINITION. The meanings of the command rings (R447 to R457, R466) and of every opcode (R468): a row of an opcode takes a packet
that has been accepted, so the checks of fetch (R452) are PACKET_FETCH's. -/

namespace Sys2Proof.Machine

def execDoorbell (e : Ev) (value : Word) (s : State) : Host.Outcome State Fault Refusal :=
  .next ((s.at e).doorbell value)

def execPacketFetch (e : Ev) (ring : Nat) (s : State) : Host.Outcome State Fault Refusal :=
  .next ((s.at e).packetFetch ring)

def execCommandAccept (e : Ev) (ring : Nat) (s : State) : Host.Outcome State Fault Refusal :=
  .next (s.hear e (fun s => s.commandAccept ring))

def execDeferredStart (e : Ev) (ring count : Nat) (s : State) : Host.Outcome State Fault Refusal :=
  .next (s.hear e (fun s => s.deferredStart ring count))

def execCtxOpen (e : Ev) (c : Cmd) (s : State) : Host.Outcome State Fault Refusal :=
  .next (s.row e c 0x01 true State.opCtxOpen)

def execCtxClose (e : Ev) (c : Cmd) (s : State) : Host.Outcome State Fault Refusal :=
  .next (s.row e c 0x02 true State.opCtxClose)

def execRegionMap (e : Ev) (c : Cmd) (s : State) : Host.Outcome State Fault Refusal :=
  .next (s.row e c 0x03 true State.opRegionMap)

def execRegionUnmap (e : Ev) (c : Cmd) (s : State) : Host.Outcome State Fault Refusal :=
  .next (s.row e c 0x04 true State.opRegionUnmap)

def execRegionFill (e : Ev) (c : Cmd) (s : State) : Host.Outcome State Fault Refusal :=
  .next (s.row e c 0x05 true State.opRegionFill)

def execGloveForm (e : Ev) (c : Cmd) (s : State) : Host.Outcome State Fault Refusal :=
  .next (s.row e c 0x10 true State.opGloveForm)

def execGloveDissolve (e : Ev) (c : Cmd) (s : State) : Host.Outcome State Fault Refusal :=
  .next (s.row e c 0x11 true State.opGloveDissolve)

def execGloveQuery (e : Ev) (c : Cmd) (s : State) : Host.Outcome State Fault Refusal :=
  .next (s.row e c 0x12 true State.opGloveQuery)

def execStepOpen (e : Ev) (c : Cmd) (s : State) : Host.Outcome State Fault Refusal :=
  .next (s.row e c 0x20 true State.opStepOpen)

def execDrainClose (e : Ev) (c : Cmd) (s : State) : Host.Outcome State Fault Refusal :=
  .next (s.row e c 0x21 true State.opDrainClose)

def execCrown (e : Ev) (c : Cmd) (s : State) : Host.Outcome State Fault Refusal :=
  .next (s.row e c 0x22 true State.opCrown)

def execRollback (e : Ev) (c : Cmd) (s : State) : Host.Outcome State Fault Refusal :=
  .next (s.row e c 0x23 true State.opRollback)

def execWitnessArm (e : Ev) (c : Cmd) (s : State) : Host.Outcome State Fault Refusal :=
  .next (s.row e c 0x24 true State.opWitnessArm)

def execWitnessVerdict (e : Ev) (c : Cmd) (s : State) : Host.Outcome State Fault Refusal :=
  .next (s.row e c 0x25 true State.opWitnessVerdict)

def execDarnStart (e : Ev) (c : Cmd) (s : State) : Host.Outcome State Fault Refusal :=
  .next (s.row e c 0x30 true State.opDarnStart)

def execDarnStitch (e : Ev) (c : Cmd) (s : State) : Host.Outcome State Fault Refusal :=
  .next (s.row e c 0x31 true State.opDarnStitch)

def execStandinAssign (e : Ev) (c : Cmd) (s : State) : Host.Outcome State Fault Refusal :=
  .next (s.row e c 0x32 true State.opStandinAssign)

def execEvacuate (e : Ev) (c : Cmd) (s : State) : Host.Outcome State Fault Refusal :=
  .next (s.row e c 0x33 (!c.modeBit 0) State.opEvacuate)

def execEvacuateSelf (e : Ev) (c : Cmd) (s : State) : Host.Outcome State Fault Refusal :=
  .next (s.row e c 0x33 (c.modeBit 0) State.opEvacuateSelf)

def execAdmission (e : Ev) (c : Cmd) (s : State) : Host.Outcome State Fault Refusal :=
  .next (s.row e c 0x34 true State.opAdmit)

def execHatboxConfigure (e : Ev) (c : Cmd) (s : State) : Host.Outcome State Fault Refusal :=
  .next (s.row e c 0x40 (c.mode % 4 == 1) State.opHatboxConfigure)

def execHatboxWrite (e : Ev) (c : Cmd) (s : State) : Host.Outcome State Fault Refusal :=
  .next (s.row e c 0x40 (c.mode % 4 != 1) State.opHatboxWrite)

def execHatboxRestore (e : Ev) (c : Cmd) (s : State) : Host.Outcome State Fault Refusal :=
  .next (s.row e c 0x41 true State.opRestore)

def execImageExport (e : Ev) (c : Cmd) (s : State) : Host.Outcome State Fault Refusal :=
  .next (s.row e c 0x42 true State.opImageExport)

def execImageImport (e : Ev) (c : Cmd) (s : State) : Host.Outcome State Fault Refusal :=
  .next (s.row e c 0x43 true State.opImageImport)

def execDigestArm (e : Ev) (c : Cmd) (s : State) : Host.Outcome State Fault Refusal :=
  .next (s.row e c 0x50 true State.opDigestArm)

def execDigestRead (e : Ev) (c : Cmd) (s : State) : Host.Outcome State Fault Refusal :=
  .next (s.row e c 0x51 true State.opDigestRead)

def execTallyArm (e : Ev) (c : Cmd) (s : State) : Host.Outcome State Fault Refusal :=
  .next (s.row e c 0x52 true State.opTallyArm)

def execTallyRead (e : Ev) (c : Cmd) (s : State) : Host.Outcome State Fault Refusal :=
  .next (s.row e c 0x53 true State.opTallyRead)

def execTilePromote (e : Ev) (c : Cmd) (s : State) : Host.Outcome State Fault Refusal :=
  .next (s.row e c 0x60 true State.opTilePromote)

def execTileEvict (e : Ev) (c : Cmd) (s : State) : Host.Outcome State Fault Refusal :=
  .next (s.row e c 0x61 true State.opTileEvict)

def execBrimOpen (e : Ev) (c : Cmd) (s : State) : Host.Outcome State Fault Refusal :=
  .next (s.row e c 0x62 true State.opBrimOpen)

def execBrimAdvance (e : Ev) (c : Cmd) (s : State) : Host.Outcome State Fault Refusal :=
  .next (s.row e c 0x63 (!c.modeBit 0) State.opBrimAdvance)

def execBrimClose (e : Ev) (c : Cmd) (s : State) : Host.Outcome State Fault Refusal :=
  .next (s.row e c 0x63 (c.modeBit 0) State.opBrimClose)

def execQuotaSet (e : Ev) (c : Cmd) (s : State) : Host.Outcome State Fault Refusal :=
  .next (s.row e c 0x64 (!c.modeBit 0) State.opQuotaSet)

def execQuotaSetPool (e : Ev) (c : Cmd) (s : State) : Host.Outcome State Fault Refusal :=
  .next (s.row e c 0x64 (c.modeBit 0) State.opQuotaPool)

def execScrubCtrl (e : Ev) (c : Cmd) (s : State) : Host.Outcome State Fault Refusal :=
  .next (s.row e c 0x70 true State.opScrubCtrl)

def execTestRun (e : Ev) (c : Cmd) (s : State) : Host.Outcome State Fault Refusal :=
  .next (s.row e c 0x71 true State.opTestRun)

def execMeasureGet (e : Ev) (c : Cmd) (s : State) : Host.Outcome State Fault Refusal :=
  .next (s.row e c 0x72 true State.opMeasureGet)

def execSealSet (e : Ev) (c : Cmd) (s : State) : Host.Outcome State Fault Refusal :=
  .next (s.row e c 0x73 true State.opSealSet)

def execFenceSignal (e : Ev) (c : Cmd) (s : State) : Host.Outcome State Fault Refusal :=
  .next (s.row e c 0x74 true State.opFenceSignal)

def execNop (e : Ev) (c : Cmd) (s : State) : Host.Outcome State Fault Refusal :=
  .next (s.row e c 0x7F true State.opNop)

end Sys2Proof.Machine
end

