-- ==== Sys2Proof/Machine/Ports.lean ====
section
/-! DEFINITION. The meanings of register accesses (R12, R13, R491 to R533), of network requests (R70 to R79, R328), and of remote
memory (R437 to R440). -/

namespace Sys2Proof.Machine

/-! ### Registers -/

/-- A write to a fault register of unit `u`: an instance under test holds it (R557). -/
def State.writeFaultReg (s : State) (u : Fin 17) (o : Nat) (value : Word) (act : State) : State :=
  if u.val < 16 then s.heldBy (instIdx u.val) (instOff (instIdx u.val) o) value act else act

def execFaultClear (e : Ev) (u : Fin 17) (bits : Word) (raised : BitVec 34) (s : State) : Host.Outcome State Fault Refusal :=
  .next ((s.at e).writeFaultReg u 0x100 bits ((s.at e).clearFaults u.val bits raised))

def execFaultSet (e : Ev) (u : Fin 17) (bits : Word) (s : State) : Host.Outcome State Fault Refusal :=
  .next ((s.at e).writeFaultReg u 0x110 bits ((s.at e).setFaults u.val bits))

def execFirstFaultRearm (e : Ev) (u : Fin 17) (s : State) : Host.Outcome State Fault Refusal :=
  .next ((s.at e).writeFaultReg u 0x118 (1 <<< 63) ((s.at e).rearm u.val))

def execHwarnLatchClear (e : Ev) (bits : Word) (s : State) : Host.Outcome State Fault Refusal :=
  .next ((s.at e).clearLatches bits)

/-- A write to PDN_ENABLE that changes one bit: lane `bit` below 8, the instance at 8. An instance under test holds it (R557). -/
def State.writeEnableBit (s : State) (i : Fin 16) (bit : Nat) (on : Bool) : State :=
  let v := s.enableWith i bit on
  s.heldBy i (instOff i 0x008) (BitVec.ofNat 64 v) (s.writeEnable i v)

def execLaneDisable (e : Ev) (i : Fin 16) (k : Fin 8) (s : State) : Host.Outcome State Fault Refusal :=
  .next ((s.at e).writeEnableBit i k.val false)

def execLaneEnable (e : Ev) (i : Fin 16) (k : Fin 8) (s : State) : Host.Outcome State Fault Refusal :=
  .next ((s.at e).writeEnableBit i k.val true)

def execInstDisable (e : Ev) (i : Fin 16) (s : State) : Host.Outcome State Fault Refusal :=
  .next ((s.at e).writeEnableBit i 8 false)

def execInstEnable (e : Ev) (i : Fin 16) (s : State) : Host.Outcome State Fault Refusal :=
  .next ((s.at e).writeEnableBit i 8 true)

def execLaneStopDone (e : Ev) (i : Fin 16) (k : Fin 8) (s : State) : Host.Outcome State Fault Refusal :=
  .next ((s.at e).laneStopped i k)

def execInstStopDone (e : Ev) (i : Fin 16) (s : State) : Host.Outcome State Fault Refusal :=
  .next ((s.at e).instStopped i)

def execHandleWrite (e : Ev) (h : Fin 4096) (w : Fin 4) (value : Word) (s : State) : Host.Outcome State Fault Refusal :=
  .next ((s.at e).writeHandle h.val w.val value)

def execCuffSnapshotRead (e : Ev) (k : Fin 4) (s : State) : Host.Outcome State Fault Refusal :=
  .next (s.occur e (fun s => s.crownsDue.snapshotCuff k.val))

def execComplementRegisterRead (e : Ev) (off : Nat) (s : State) : Host.Outcome State Fault Refusal :=
  .next (s.occur e (fun s => s.crownsDue.readPaired off))

def execSealedRegisterWrite (e : Ev) (off : Nat) (value : Word) (s : State) : Host.Outcome State Fault Refusal :=
  .next (if sealedOff off then (s.at e).sealedWrite off value else s.at e)

def execBadRegisterAccess (e : Ev) (off : Nat) (write : Bool) (_ : Word) (s : State) : Host.Outcome State Fault Refusal :=
  .next ((s.at e).narrowAccess off write)

def execRegisterWrite (e : Ev) (off : Nat) (value : Word) (s : State) : Host.Outcome State Fault Refusal :=
  .next (s.occur e (fun s => s.writeReg off value))

/-! ### The network side -/

/-- A read arrives: the crowns whose T has come take effect first (R73), and a read inside the crown guard is counted (R179). -/
def State.arriveRead (s : State) (q : Req) : State := (s.crownsDue.countGuard q).serveRead q

def execMemoryRead (e : Ev) (r : Req) (s : State) : Host.Outcome State Fault Refusal :=
  .next (s.meet e (fun s => s.arriveRead (Req.net r)))

def execMemoryWrite (e : Ev) (r : Req) (s : State) : Host.Outcome State Fault Refusal :=
  .next (s.meet e (fun s => s.serveWrite (Req.sized (Req.net r)) false))

/-- Only the update unit's requests are UPDATE reads and writes (R32). -/
def execUpdateRead (e : Ev) (r : Req) (s : State) : Host.Outcome State Fault Refusal :=
  .next (s.meet e (fun s => if r.src = srcUpdate then s.arriveRead (Req.net r) else s))

def execUpdateWrite (e : Ev) (r : Req) (s : State) : Host.Outcome State Fault Refusal :=
  .next (s.meet e (fun s => if r.src = srcUpdate then (s.checkPort r.ctx).serveWrite (Req.sized (Req.net r)) false else s))

def execHeldWriteApply (e : Ev) (i : Fin 16) (s : State) : Host.Outcome State Fault Refusal :=
  .next (s.meet e (fun s => s.applyHeldWrite i))

def execTierParityFold (e : Ev) (i : Fin 16) (s : State) : Host.Outcome State Fault Refusal :=
  .next (s.meet e (fun s => s.foldOldest i))

def execMergeIdleEvict (e : Ev) (page : Nat) (s : State) : Host.Outcome State Fault Refusal :=
  .next (s.meet e (fun s => s.evictIdle page))

/-! ### Remote memory -/

def execRemoteRequest (e : Ev) (h : Fin 4096) (r : Req) (s : State) : Host.Outcome State Fault Refusal :=
  .next ((s.at e).remoteRequest h.val (Req.net r))

def execRemoteOperation (e : Ev) (op : RemoteOp) (s : State) : Host.Outcome State Fault Refusal :=
  .next (s.meet e (fun s => s.remoteOperation op))

def execRemoteAnswer (e : Ev) (id : Nat) (status : Byte) (data : RemoteData) (s : State) : Host.Outcome State Fault Refusal :=
  .next ((s.at e).remoteAnswer id status data)

def execRemoteTimeout (e : Ev) (id : Nat) (s : State) : Host.Outcome State Fault Refusal :=
  .next ((s.at e).remoteTimeout id)

end Sys2Proof.Machine
end

