-- ==== Sys2Proof/Machine/Stitching.lean ====
section
/-! DEFINITION. The meanings of stitch messages (R410 to R435), of the work that sends them, and of the crown's timers (R138, R163,
R172 to R189). -/

namespace Sys2Proof.Machine

/-! ### Sending -/

def execGovernorUpdate (e : Ev) (i : Fin 16) (busy : Bool) (s : State) : Host.Outcome State Fault Refusal :=
  .next ((s.at e).governorTick i busy)

def execDeltaSend (e : Ev) (i : Fin 16) (s : State) : Host.Outcome State Fault Refusal :=
  .next (s.meet e (fun s => s.sendDelta i))

def execMessageResend (e : Ev) (id : Nat) (s : State) : Host.Outcome State Fault Refusal :=
  .next ((s.at e).resend id)

def execMemberTimeout (e : Ev) (id : Nat) (s : State) : Host.Outcome State Fault Refusal :=
  .next (s.hear e (fun s => s.answerMissing id))

def execFormPassSend (e : Ev) (ctx : Nat) (s : State) : Host.Outcome State Fault Refusal :=
  .next (s.meet e (fun s => s.sendForm ctx))

def execBackgroundDarnChain (e : Ev) (ctx darn : Nat) (s : State) : Host.Outcome State Fault Refusal :=
  .next (s.hear e (fun s => s.backgroundChain ctx darn))

def execAdmitCopySend (e : Ev) (ctx : Nat) (s : State) : Host.Outcome State Fault Refusal :=
  .next (s.hear e (fun s => s.sendCopy ctx))

def execHatboxPieceWrite (e : Ev) (ctx : Nat) (s : State) : Host.Outcome State Fault Refusal :=
  .next (s.hear e (fun s => s.copyPiece ctx))

def execSealWrite (e : Ev) (ctx : Nat) (s : State) : Host.Outcome State Fault Refusal :=
  .next (s.hear e (fun s => s.writeSeal ctx))

def execRestorePieceWrite (e : Ev) (ctx : Nat) (s : State) : Host.Outcome State Fault Refusal :=
  .next (s.hear e (fun s => s.restorePiece ctx))

def execExportPartSend (e : Ev) (ctx : Nat) (s : State) : Host.Outcome State Fault Refusal :=
  .next (s.hear e (fun s => s.sendImage ctx))

/-! ### Arriving -/

def execDelta (e : Ev) (src : Coord) (m : Wire) (s : State) : Host.Outcome State Fault Refusal :=
  .next (s.arrive e m tDelta (fun s => s.guarded src m (fun s => s.deltaMessage src m)))

def execDeltaAck (e : Ev) (src : Coord) (m : Wire) (s : State) : Host.Outcome State Fault Refusal :=
  .next (s.arrive e m tDeltaAck (fun s => s.guarded src m (fun s => s.ackMessage src m)))

def execVote (e : Ev) (src : Coord) (m : Wire) (s : State) : Host.Outcome State Fault Refusal :=
  .next (s.arrive e m tVote (fun s => s.hearColl src m))

def execCrownMessage (e : Ev) (src : Coord) (m : Wire) (s : State) : Host.Outcome State Fault Refusal :=
  .next (s.arrive e m tCrown (fun s => s.hearColl src m))

def execAbort (e : Ev) (src : Coord) (m : Wire) (s : State) : Host.Outcome State Fault Refusal :=
  .next (s.arrive e m tAbort (fun s => s.guarded src m (fun s => s.abortMessage src m)))

def execDarnReq (e : Ev) (src : Coord) (m : Wire) (s : State) : Host.Outcome State Fault Refusal :=
  .next (s.arrive e m tDarnReq (fun s => s.guarded src m (fun s => s.takeRequest src m)))

def execDarnPart (e : Ev) (src : Coord) (m : Wire) (s : State) : Host.Outcome State Fault Refusal :=
  .next (s.arrive e m tDarnPart (fun s => s.guarded src m (fun s => s.takePart src m)))

def execDarnDone (e : Ev) (src : Coord) (m : Wire) (s : State) : Host.Outcome State Fault Refusal :=
  .next (s.arrive e m tDarnDone (fun s => s.guarded src m (fun s => s.takeDone src m)))

def execHatboxPart (e : Ev) (src : Coord) (m : Wire) (s : State) : Host.Outcome State Fault Refusal :=
  .next (s.arrive e m tHatbox (fun s => s.guarded src m (fun s => s.takeHatbox src m)))

def execSeal (e : Ev) (src : Coord) (m : Wire) (s : State) : Host.Outcome State Fault Refusal :=
  .next (s.arrive e m tSeal (fun s => s.guarded src m (fun s => s.sealMessage src m)))

def execWitnessDigest (e : Ev) (src : Coord) (m : Wire) (s : State) : Host.Outcome State Fault Refusal :=
  .next (s.arrive e m tWitness (fun s => s.guarded src m (fun s => s.digestMessage src m)))

def execExportPart (e : Ev) (m : Wire) (s : State) : Host.Outcome State Fault Refusal :=
  .next (s.arrive e m tExport (fun s => s.takeExportPart m))

def execStorageTimeout (e : Ev) (ctx : Nat) (s : State) : Host.Outcome State Fault Refusal :=
  .next (s.meet e (fun s => s.storageExpired ctx))

/-! ### The step's events -/

def execChipDrained (e : Ev) (ctx : Nat) (s : State) : Host.Outcome State Fault Refusal :=
  .next (s.hear e (fun s => s.noteDrained ctx))

def execDrainDeadline (e : Ev) (ctx : Nat) (s : State) : Host.Outcome State Fault Refusal :=
  .next (s.meet e (fun s => s.passDeadline ctx))

def execVoteClose (e : Ev) (ctx : Nat) (s : State) : Host.Outcome State Fault Refusal :=
  .next (s.hear e (fun s => s.closeVote ctx))

def execCrownTakesEffect (e : Ev) (ctx : Nat) (s : State) : Host.Outcome State Fault Refusal :=
  .next (s.hear e (fun s => s.crownDue ctx))

def execFlipSweepDone (e : Ev) (ctx : Nat) (s : State) : Host.Outcome State Fault Refusal :=
  .next (s.hear e (fun s => s.finishSweep ctx))

def execUndecidedTimeout (e : Ev) (ctx : Nat) (s : State) : Host.Outcome State Fault Refusal :=
  .next (s.hear e (fun s => s.passUndecided ctx))

def execVotingTimeout (e : Ev) (ctx : Nat) (s : State) : Host.Outcome State Fault Refusal :=
  .next (s.hear e (fun s => s.passVoting ctx))

def execHoldBound (e : Ev) (ctx : Nat) (h : Hold) (s : State) : Host.Outcome State Fault Refusal :=
  .next (s.hear e (fun s => match h with
    | .witness => s.boundWitness ctx
    | .hatbox => s.boundHatbox ctx
    | .test => s.boundTest ctx))

def execDiscardDone (e : Ev) (ctx : Nat) (s : State) : Host.Outcome State Fault Refusal :=
  .next (s.hear e (fun s => s.discardDue ctx))

def execCollectiveClose (e : Ev) (k : CollKey) (s : State) : Host.Outcome State Fault Refusal :=
  .next (s.hear e (fun s => s.closeColl k))

def execCollectiveAloneTimeout (e : Ev) (k : CollKey) (s : State) : Host.Outcome State Fault Refusal :=
  .next (s.hear e (fun s => s.aloneColl k))

def execKeptKeyExpiry (e : Ev) (k : CollKey) (s : State) : Host.Outcome State Fault Refusal :=
  .next (s.hear e (fun s => s.expireKept k))

end Sys2Proof.Machine
end

