-- ==== Sys2Proof/Machine/Upkeep.lean ====
section
/-! DEFINITION. The meanings of the instances' own upkeep: tile copies (R339 to R342), scans and fills, correction windows (R368), the
scrubber (R393 to R397), and in-field tests (R552 to R561). -/

namespace Sys2Proof.Machine

def execPromotionCopyDone (e : Ev) (region tile : Nat) (s : State) : Host.Outcome State Fault Refusal :=
  .next (s.meet e (fun s => s.copyDone region tile))

def execPromotionDeadline (e : Ev) (id : Nat) (s : State) : Host.Outcome State Fault Refusal :=
  .next (s.occur e (fun s => s.promotionLate id))

def execFrameFreed (e : Ev) (s : State) : Host.Outcome State Fault Refusal :=
  .next (s.occur e State.frameFreed)

def execWeightsScanDone (e : Ev) (slot : Nat) (s : State) : Host.Outcome State Fault Refusal :=
  .next (s.meet e (fun s => s.scanDone slot))

def execRegionFillPageWrite (e : Ev) (region : Nat) (i : Fin 16) (s : State) : Host.Outcome State Fault Refusal :=
  .next (s.meet e (fun s => s.fillPage region i))

def execWordCeWindow (e : Ev) (s : State) : Host.Outcome State Fault Refusal :=
  .next ((s.at e).restartWindows)

def execScrubRead (e : Ev) (i : Fin 16) (idle : Nat) (s : State) : Host.Outcome State Fault Refusal :=
  .next (s.meet e (fun s => s.scrubRead i idle))

def execScrubLapLimit (e : Ev) (i : Fin 16) (s : State) : Host.Outcome State Fault Refusal :=
  .next ((s.at e).lapOver i)

def execTestDue (e : Ev) (i : Fin 16) (s : State) : Host.Outcome State Fault Refusal :=
  .next (s.occur e (fun s => s.fallDue i))

def execTestOverdue (e : Ev) (i : Fin 16) (s : State) : Host.Outcome State Fault Refusal :=
  .next (s.occur e (fun s => s.fallOverdue i))

def execTestComplete (e : Ev) (i : Fin 16) (lbist mbist : Bool) (s : State) : Host.Outcome State Fault Refusal :=
  .next (s.meet e (fun s => s.endTest i lbist mbist))

end Sys2Proof.Machine
end

