-- ==== Sys2Proof/Machine/Dispatch.lean ====
section
/-! DEFINITION. One arm for each command of the opcode table, in the table's order. -/

namespace Sys2Proof.Machine

def exec (i : Instr) (s : State) : Host.Outcome State Fault Refusal :=
  match i with
  | .chipReset e powerLost => Sys2Proof.Machine.execChipReset e powerLost s
  | .resetRelease e straps => Sys2Proof.Machine.execResetRelease e straps s
  | .firmwareRelease e image => Sys2Proof.Machine.execFirmwareRelease e image s
  | .firmwareStart e => Sys2Proof.Machine.execFirmwareStart e s
  | .controllerReady e inst lpddr wordCode pseudo => Sys2Proof.Machine.execControllerReady e inst lpddr wordCode pseudo s
  | .controllerReadyTimeout e inst => Sys2Proof.Machine.execControllerReadyTimeout e inst s
  | .laneTrainingDone e inst passed encoded => Sys2Proof.Machine.execLaneTrainingDone e inst passed encoded s
  | .bandAcquire e => Sys2Proof.Machine.execBandAcquire e s
  | .bandFault e bad validFell => Sys2Proof.Machine.execBandFault e bad validFell s
  | .bandStall e => Sys2Proof.Machine.execBandStall e s
  | .watchdogExpiry e pc => Sys2Proof.Machine.execWatchdogExpiry e pc s
  | .watchdogService e => Sys2Proof.Machine.execWatchdogService e s
  | .linkDown e port => Sys2Proof.Machine.execLinkDown e port s
  | .coordVerifiedChange e f => Sys2Proof.Machine.execCoordVerifiedChange e f s
  | .residueAlarm e pulses => Sys2Proof.Machine.execResidueAlarm e pulses s
  | .hwarnEdgeFiltered e n level => Sys2Proof.Machine.execHwarnEdgeFiltered e n level s
  | .hwarnGlitch e n => Sys2Proof.Machine.execHwarnGlitch e n s
  | .hwarnStuck e n => Sys2Proof.Machine.execHwarnStuck e n s
  | .hwarnUnstuck e n => Sys2Proof.Machine.execHwarnUnstuck e n s
  | .clampRise e => Sys2Proof.Machine.execClampRise e s
  | .clampFall e => Sys2Proof.Machine.execClampFall e s
  | .boostGrantRise e => Sys2Proof.Machine.execBoostGrantRise e s
  | .boostGrantFall e => Sys2Proof.Machine.execBoostGrantFall e s
  | .peakLimitReached e => Sys2Proof.Machine.execPeakLimitReached e s
  | .peakLimitCleared e => Sys2Proof.Machine.execPeakLimitCleared e s
  | .ieee1687Write e inst instrument value => Sys2Proof.Machine.execIeee1687Write e inst instrument value s
  | .debugHaltRequest e => Sys2Proof.Machine.execDebugHaltRequest e s
  | .doorbell e value => Sys2Proof.Machine.execDoorbell e value s
  | .packetFetch e ring => Sys2Proof.Machine.execPacketFetch e ring s
  | .commandAccept e ring => Sys2Proof.Machine.execCommandAccept e ring s
  | .deferredStart e ring count => Sys2Proof.Machine.execDeferredStart e ring count s
  | .ctxOpen e c => Sys2Proof.Machine.execCtxOpen e c s
  | .ctxClose e c => Sys2Proof.Machine.execCtxClose e c s
  | .regionMap e c => Sys2Proof.Machine.execRegionMap e c s
  | .regionUnmap e c => Sys2Proof.Machine.execRegionUnmap e c s
  | .regionFill e c => Sys2Proof.Machine.execRegionFill e c s
  | .gloveForm e c => Sys2Proof.Machine.execGloveForm e c s
  | .gloveDissolve e c => Sys2Proof.Machine.execGloveDissolve e c s
  | .gloveQuery e c => Sys2Proof.Machine.execGloveQuery e c s
  | .stepOpen e c => Sys2Proof.Machine.execStepOpen e c s
  | .drainClose e c => Sys2Proof.Machine.execDrainClose e c s
  | .crown e c => Sys2Proof.Machine.execCrown e c s
  | .rollback e c => Sys2Proof.Machine.execRollback e c s
  | .witnessArm e c => Sys2Proof.Machine.execWitnessArm e c s
  | .witnessVerdict e c => Sys2Proof.Machine.execWitnessVerdict e c s
  | .darnStart e c => Sys2Proof.Machine.execDarnStart e c s
  | .darnStitch e c => Sys2Proof.Machine.execDarnStitch e c s
  | .standinAssign e c => Sys2Proof.Machine.execStandinAssign e c s
  | .evacuate e c => Sys2Proof.Machine.execEvacuate e c s
  | .evacuateSelf e c => Sys2Proof.Machine.execEvacuateSelf e c s
  | .admission e c => Sys2Proof.Machine.execAdmission e c s
  | .hatboxConfigure e c => Sys2Proof.Machine.execHatboxConfigure e c s
  | .hatboxWrite e c => Sys2Proof.Machine.execHatboxWrite e c s
  | .hatboxRestore e c => Sys2Proof.Machine.execHatboxRestore e c s
  | .imageExport e c => Sys2Proof.Machine.execImageExport e c s
  | .imageImport e c => Sys2Proof.Machine.execImageImport e c s
  | .digestArm e c => Sys2Proof.Machine.execDigestArm e c s
  | .digestRead e c => Sys2Proof.Machine.execDigestRead e c s
  | .tallyArm e c => Sys2Proof.Machine.execTallyArm e c s
  | .tallyRead e c => Sys2Proof.Machine.execTallyRead e c s
  | .tilePromote e c => Sys2Proof.Machine.execTilePromote e c s
  | .tileEvict e c => Sys2Proof.Machine.execTileEvict e c s
  | .brimOpen e c => Sys2Proof.Machine.execBrimOpen e c s
  | .brimAdvance e c => Sys2Proof.Machine.execBrimAdvance e c s
  | .brimClose e c => Sys2Proof.Machine.execBrimClose e c s
  | .quotaSet e c => Sys2Proof.Machine.execQuotaSet e c s
  | .quotaSetPool e c => Sys2Proof.Machine.execQuotaSetPool e c s
  | .scrubCtrl e c => Sys2Proof.Machine.execScrubCtrl e c s
  | .testRun e c => Sys2Proof.Machine.execTestRun e c s
  | .measureGet e c => Sys2Proof.Machine.execMeasureGet e c s
  | .sealSet e c => Sys2Proof.Machine.execSealSet e c s
  | .fenceSignal e c => Sys2Proof.Machine.execFenceSignal e c s
  | .nop e c => Sys2Proof.Machine.execNop e c s
  | .faultClear e u bits raised => Sys2Proof.Machine.execFaultClear e u bits raised s
  | .faultSet e u bits => Sys2Proof.Machine.execFaultSet e u bits s
  | .firstFaultRearm e u => Sys2Proof.Machine.execFirstFaultRearm e u s
  | .hwarnLatchClear e bits => Sys2Proof.Machine.execHwarnLatchClear e bits s
  | .laneDisable e inst k => Sys2Proof.Machine.execLaneDisable e inst k s
  | .laneEnable e inst k => Sys2Proof.Machine.execLaneEnable e inst k s
  | .instDisable e inst => Sys2Proof.Machine.execInstDisable e inst s
  | .instEnable e inst => Sys2Proof.Machine.execInstEnable e inst s
  | .laneStopDone e inst k => Sys2Proof.Machine.execLaneStopDone e inst k s
  | .instStopDone e inst => Sys2Proof.Machine.execInstStopDone e inst s
  | .handleWrite e h w value => Sys2Proof.Machine.execHandleWrite e h w value s
  | .cuffSnapshotRead e k => Sys2Proof.Machine.execCuffSnapshotRead e k s
  | .complementRegisterRead e off => Sys2Proof.Machine.execComplementRegisterRead e off s
  | .sealedRegisterWrite e off value => Sys2Proof.Machine.execSealedRegisterWrite e off value s
  | .badRegisterAccess e off write value => Sys2Proof.Machine.execBadRegisterAccess e off write value s
  | .registerWrite e off value => Sys2Proof.Machine.execRegisterWrite e off value s
  | .memoryRead e r => Sys2Proof.Machine.execMemoryRead e r s
  | .memoryWrite e r => Sys2Proof.Machine.execMemoryWrite e r s
  | .updateRead e r => Sys2Proof.Machine.execUpdateRead e r s
  | .updateWrite e r => Sys2Proof.Machine.execUpdateWrite e r s
  | .heldWriteApply e inst => Sys2Proof.Machine.execHeldWriteApply e inst s
  | .tierParityFold e inst => Sys2Proof.Machine.execTierParityFold e inst s
  | .remoteRequest e h r => Sys2Proof.Machine.execRemoteRequest e h r s
  | .remoteOperation e op => Sys2Proof.Machine.execRemoteOperation e op s
  | .remoteAnswer e id status data => Sys2Proof.Machine.execRemoteAnswer e id status data s
  | .remoteTimeout e id => Sys2Proof.Machine.execRemoteTimeout e id s
  | .governorUpdate e inst busy => Sys2Proof.Machine.execGovernorUpdate e inst busy s
  | .deltaSend e inst => Sys2Proof.Machine.execDeltaSend e inst s
  | .messageResend e id => Sys2Proof.Machine.execMessageResend e id s
  | .memberTimeout e id => Sys2Proof.Machine.execMemberTimeout e id s
  | .delta e src m => Sys2Proof.Machine.execDelta e src m s
  | .deltaAck e src m => Sys2Proof.Machine.execDeltaAck e src m s
  | .chipDrained e ctx => Sys2Proof.Machine.execChipDrained e ctx s
  | .drainDeadline e ctx => Sys2Proof.Machine.execDrainDeadline e ctx s
  | .vote e src m => Sys2Proof.Machine.execVote e src m s
  | .voteClose e ctx => Sys2Proof.Machine.execVoteClose e ctx s
  | .crownMessage e src m => Sys2Proof.Machine.execCrownMessage e src m s
  | .crownTakesEffect e ctx => Sys2Proof.Machine.execCrownTakesEffect e ctx s
  | .flipSweepDone e ctx => Sys2Proof.Machine.execFlipSweepDone e ctx s
  | .undecidedTimeout e ctx => Sys2Proof.Machine.execUndecidedTimeout e ctx s
  | .votingTimeout e ctx => Sys2Proof.Machine.execVotingTimeout e ctx s
  | .holdBound e ctx h => Sys2Proof.Machine.execHoldBound e ctx h s
  | .discardDone e ctx => Sys2Proof.Machine.execDiscardDone e ctx s
  | .abort e src m => Sys2Proof.Machine.execAbort e src m s
  | .collectiveClose e k => Sys2Proof.Machine.execCollectiveClose e k s
  | .collectiveAloneTimeout e k => Sys2Proof.Machine.execCollectiveAloneTimeout e k s
  | .keptKeyExpiry e k => Sys2Proof.Machine.execKeptKeyExpiry e k s
  | .formPassSend e ctx => Sys2Proof.Machine.execFormPassSend e ctx s
  | .backgroundDarnChain e ctx darn => Sys2Proof.Machine.execBackgroundDarnChain e ctx darn s
  | .darnReq e src m => Sys2Proof.Machine.execDarnReq e src m s
  | .darnPart e src m => Sys2Proof.Machine.execDarnPart e src m s
  | .darnDone e src m => Sys2Proof.Machine.execDarnDone e src m s
  | .admitCopySend e ctx => Sys2Proof.Machine.execAdmitCopySend e ctx s
  | .hatboxPart e src m => Sys2Proof.Machine.execHatboxPart e src m s
  | .hatboxPieceWrite e ctx => Sys2Proof.Machine.execHatboxPieceWrite e ctx s
  | .sealWrite e ctx => Sys2Proof.Machine.execSealWrite e ctx s
  | .seal e src m => Sys2Proof.Machine.execSeal e src m s
  | .witnessDigest e src m => Sys2Proof.Machine.execWitnessDigest e src m s
  | .exportPart e m => Sys2Proof.Machine.execExportPart e m s
  | .storageTimeout e ctx => Sys2Proof.Machine.execStorageTimeout e ctx s
  | .promotionCopyDone e region tile => Sys2Proof.Machine.execPromotionCopyDone e region tile s
  | .promotionDeadline e id => Sys2Proof.Machine.execPromotionDeadline e id s
  | .frameFreed e => Sys2Proof.Machine.execFrameFreed e s
  | .weightsScanDone e slot => Sys2Proof.Machine.execWeightsScanDone e slot s
  | .mergeIdleEvict e page => Sys2Proof.Machine.execMergeIdleEvict e page s
  | .wordCeWindow e => Sys2Proof.Machine.execWordCeWindow e s
  | .scrubRead e inst idle => Sys2Proof.Machine.execScrubRead e inst idle s
  | .scrubLapLimit e inst => Sys2Proof.Machine.execScrubLapLimit e inst s
  | .testDue e inst => Sys2Proof.Machine.execTestDue e inst s
  | .testOverdue e inst => Sys2Proof.Machine.execTestOverdue e inst s
  | .testComplete e inst lbist mbist => Sys2Proof.Machine.execTestComplete e inst lbist mbist s
  | .restorePieceWrite e ctx => Sys2Proof.Machine.execRestorePieceWrite e ctx s
  | .exportPartSend e ctx => Sys2Proof.Machine.execExportPartSend e ctx s
  | .regionFillPageWrite e region inst => Sys2Proof.Machine.execRegionFillPageWrite e region inst s

end Sys2Proof.Machine
end

