-- ==== Sys2Proof/Safety.lean ====
section
/-! DEFINITION. What counts as a safe run: every command of the queue takes a next state, never a fault or a refusal. -/

namespace Sys2Proof

/-- A step that goes on. -/
def Safe (s : Machine.State) : Prop := ∃ t, Machine.step s = .next t

/-- The command may change the fuses: SEAL_SET itself, and the start of a packet that may be one (R488, R519). -/
def Instr.mayFuse : Instr → Bool
  | .sealSet _ _ => true
  | .commandAccept _ _ => true
  | .deferredStart _ _ _ => true
  | _ => false

namespace Machine

/-- C, S and the step and key port of a coded context agree with their complements (R399). -/
def Coded.pairsOk (k : Coded) : Bool := (k.cInv == ~~~k.c) && (k.sInv == ~~~k.s) && (k.portInv == ~~~k.port)

/-- Every coded context's pairs agree. -/
def State.pairsOk (s : State) : Bool := s.coded.all (fun p => p.2.pairsOk)

/-- No merge entry is full, and no instance has more of them than its buffer holds (R389). -/
def State.mergeRests (s : State) : Bool :=
  s.mem.merge.all (fun m => m.bytes.length != 4096) && instNums.all (fun i => (s.mergeVictim i).isNone)

/-- No fill has ended, and no request waits for a fill or a darn (R198, R387). -/
def State.fillsRest (s : State) : Bool :=
  s.regions.all (fun r => !(r.fill.any (fun f => f.todo.isEmpty))) &&
    s.heldReqs.all (fun h => h.why != .filling && h.why != .fill)

/-- Nothing waits for what an event leaves to be done: no doorbell, command, kept message, message of the chip to itself or of the stitch
channel, collective, vote, loss, darn, storage work, held register write, served remote operation, full merge entry, ended fill, due test or
boost request. -/
def State.quiet (s : State) : Bool :=
  s.cu.doorbells.isEmpty && s.pends.isEmpty && s.kept.isEmpty && s.loop.isEmpty && s.stitchQ.isEmpty && s.colls.isEmpty &&
    s.darns.isEmpty && s.heldRegs.isEmpty && s.heldDeltas.isEmpty && s.remoteIn.isEmpty && !s.cu.power.boostReq && s.dueTests.isEmpty &&
    s.mergeRests && s.fillsRest && s.coded.all (fun p => p.2.vote.isNone && p.2.image.isNone && !p.2.lossSeen)

end Machine

end Sys2Proof
end

