-- ==== Sys2Proof/Certificates/Slice0/Obligations.lean ====
section
/-! DEFINITION. The statements about the block: first what holds of every command, then memory, codes and layout, then, family by
family of the opcode table, what each command does where its own effect is its own row's. A command whose row leaves work to the end
of the event is stated with that end, `State.finish`; `QuietEventEnds` says that it changes nothing where nothing waits. -/

open Sys2Proof Sys2Proof.Machine

/-! ### The queue, the clock and the outputs -/

/-- A step runs the command at the front of the queue with the queue's rest. -/
def Obligations.StepRunsFrontCommand : Prop :=
  ∀ (s : State) (c : Instr) (rest : List Instr), s.pending = c :: rest → step s = exec c { s with pending := rest }

/-- Every command answers a next state, in every state: none faults and none is refused. -/
def Obligations.EveryCommandCompletes : Prop :=
  ∀ (c : Instr) (s : State), ∃ t : State, exec c s = .next t

/-- A command leaves the queue of waiting commands as it stands, so a step consumes exactly the command it runs; with no command waiting
the block idles (the model's own choice, log entry 2). -/
def Obligations.StepConsumesOneCommand : Prop :=
  (∀ (s t : State) (c : Instr) (rest : List Instr), s.pending = c :: rest → step s = .next t → t.pending = rest) ∧
  ∀ s : State, s.pending = [] → step s = .next s

/-- The clock moves to the command's band count and never backward, but where the band counter is acquired (R47, R568); and what has left
the chip is not taken back: no command makes the outputs fewer. -/
def Obligations.ClockAndOutputsNeverFallBack : Prop :=
  (∀ (c : Instr) (s t : State), (∀ e, c ≠ .bandAcquire e) → exec c s = .next t → t.clock = Nat.max s.clock c.event.t) ∧
  ∀ (c : Instr) (s t : State), exec c s = .next t → s.out.length ≤ t.out.length

/-! ### Invariants -/

/-- Every step keeps memory's canonical form: addresses strictly rising, no byte listed that an unlisted one reads as. -/
def Obligations.StepKeepsMemoryCanonical : Prop :=
  ∀ s t : State, s.mem.wf = true → step s = .next t → t.mem.wf = true

/-- Every step keeps the complement pairs of C, of S and of the step and key port (R399). -/
def Obligations.StepKeepsComplementPairs : Prop :=
  ∀ s t : State, s.pairsOk = true → step s = .next t → t.pairsOk = true

/-- Both invariants hold right after reset, and nothing waits there. -/
def Obligations.ResetMeetsInvariants : Prop :=
  State.reset.mem.wf = true ∧ State.reset.pairsOk = true ∧ State.reset.quiet = true ∧ State.reset.pending = []

/-- The fuses change only by SEAL_SET, and by the start of a packet that may be one (R13, R519); whatever the command, the changes left of a
sealed setting never grow, and the change log is only appended to (R488, R519, R520). -/
def Obligations.FusesChangeOnlyBySealSet : Prop :=
  (∀ (c : Instr) (s t : State), c.mayFuse = false → exec c s = .next t → t.cu.fuses = s.cu.fuses) ∧
  ∀ (c : Instr) (s t : State), exec c s = .next t →
    t.cu.fuses.mMinLeft ≤ s.cu.fuses.mMinLeft ∧ t.cu.fuses.witnessLeft ≤ s.cu.fuses.witnessLeft ∧
      s.cu.fuses.log <+: t.cu.fuses.log

/-- An event that leaves nothing to be done ends as its row left it. -/
def Obligations.QuietEventEnds : Prop :=
  ∀ s : State, s.quiet = true → s.finish = s

/-! ### Reset -/

/-- What the register map and the start-up rules give the machine after reset (R492, R501, R511, R515, R539). -/
def Obligations.ResetGivesStatedValues : Prop :=
  let s := State.reset
  (∀ u < 17, (s.faultsOf u).bits = 0 ∧ (s.faultsOf u).mask = 0x84 ∧ (s.faultsOf u).first = none ∧ (s.faultsOf u).log = [] ∧
      (s.faultsOf u).seq = 0) ∧
    s.cu.irqRoute = 0x1FFFF ∧ s.irq = false ∧ (∀ n < 8192, s.fenceSet n = false) ∧
    s.cu.drainWindow = 1000000000 ∧ s.cu.drainTarget = 80 ∧ s.cu.voteTimeout = 50000000 ∧ s.cu.crownDist = 50000 ∧
    s.cu.crownGuard = 2000 ∧ s.cu.witnessDeadline = 10000000000 ∧ s.cu.collTimeout = 20000000 ∧ s.cu.boostEn = true ∧
    s.cu.testInterval = 86400 ∧ s.cu.ringTable = 0 ∧ s.cu.ringOwner = 0 ∧ s.cu.ringValid = false ∧
    s.regions = [] ∧ s.stitches = [] ∧ s.pairs = [] ∧ s.folds = [] ∧ s.mem.merge = [] ∧ s.mem.repairQ = [] ∧ s.cu.handles = [] ∧
    s.digests = [] ∧ s.tallies = [] ∧ s.ctxs = [] ∧ s.coded = [] ∧ s.rings = [] ∧
    (∀ i : Fin 16, (s.inst[i]).scrub.idle = 64 ∧ (s.inst[i]).scrub.lapLimit = 24 ∧ (s.inst[i]).active = false)

/-- What the model itself chooses at reset, where the manual gives no value: unlisted memory reads as zero with never-written
records, and the part's fuses are those of a shipped part with every lane enabled and a zero identity (log entries 3 and 7). -/
def Obligations.ResetModelChoices : Prop :=
  let s := State.reset
  (∀ a, s.mem.byte a = 0) ∧ (∀ k, s.mem.record k = neverRec) ∧ s.cu.fuses = Fuses.shipped ∧ s.clock = 0 ∧ s.fresh = 0

/-! ### Memory -/

/-- One byte after a write: the byte written inside the range, and outside it what stood there; records, merge entries and the repair
queue stay; and a run of bytes reads as its single bytes. -/
def Obligations.WriteThenReadByte : Prop :=
  (∀ (m : Mem) (a b : Nat) (d : List Byte), m.wf = true →
    (m.write a d).byte b = (if a ≤ b ∧ b < a + d.length then d.getD (b - a) 0 else m.byte b) ∧
      (m.write a d).wf = true ∧ (m.write a d).recs = m.recs ∧ (m.write a d).merge = m.merge ∧
      (m.write a d).repairQ = m.repairQ) ∧
  ∀ (m : Mem) (a n i : Nat), i < n → (m.read a n)[i]? = some (m.byte (a + i))

/-- A whole page written with a fresh record reads back as it was written, without a fault and without a change of state, where no lane
erred and no instance that has stopped its coding work is to write a stitch (R373, R374, R376, R405); every byte outside the page and
every other page's record is as before. -/
def Obligations.StoredPageReadsBack : Prop :=
  ∀ (s : State) (k : Nat) (d : List Byte) (t : Tags), s.mem.wf = true → s.ev.lane = none → d.length = 4096 → s.codingStopped k = false →
    let u := s.storePage k d t
    u.fetchPage k = (u, .page d (mkRec k d stWritten t (pageParity d))) ∧
      (∀ b, ¬(pageAddr k 0 ≤ b ∧ b < pageAddr k 0 + 4096) → u.mem.byte b = s.mem.byte b) ∧
      (∀ j, j ≠ k → u.mem.record j = s.mem.record j) ∧
      u.cu = s.cu ∧ u.inst = s.inst ∧ u.regions = s.regions ∧ u.coded = s.coded ∧ u.out = s.out

/-- The page code corrects any one wrong byte of a page or of its two parity rows, wherever it lies (R373, R377). -/
def Obligations.PageCodeCorrectsAnyByte : Prop :=
  ∀ (d : List Byte) (row col : Nat) (e : Byte), d.length = 4096 → row < 130 → col < 32 → e ≠ 0 →
    let good := pageRows d ++ [(pageParity d).1, (pageParity d).2]
    let bad := good.set row ((good.getD row []).set col ((good.getD row []).getD col 0 ^^^ e))
    decodeRows bad [] = some (good, true) ∧ decodeRows good [] = some (good, false)

/-! ### The glove code and its layout -/

/-- The coefficients of the default geometry are the table's (R103). -/
def Obligations.DefaultCoefficients : Prop :=
  ((List.range 14).map (coeff 0) =
      [0xE3, 0xE7, 0xB5, 0xEA, 0x03, 0x8F, 0xD3, 0xC9, 0x42, 0xD4, 0xE8, 0x75, 0x7F, 0xFF]) ∧
    ((List.range 14).map (coeff 1) =
      [0xE7, 0xE3, 0xEA, 0xB5, 0x8F, 0x03, 0xC9, 0xD3, 0xD4, 0x42, 0x75, 0xE8, 0xFF, 0x7F])

/-- Folding a delta by R102 gives the parity that R101 computes from the new data, for every seat, stripe width and byte. -/
def Obligations.DeltaFoldEqualsNewParity : Prop :=
  ∀ (k j d : Nat) (data : Nat → Byte) (delta : Byte), d < k →
    let parity := fun (D : Nat → Byte) => (List.range k).foldl (fun a x => a ^^^ gmul (coeff j x) (D x)) 0
    parity (fun x => if x = d then data x ^^^ delta else data x) = parity data ^^^ gmul (coeff j d) delta

/-- One lost data stitch is rebuilt from the surviving data and any one parity seat: the chain's coefficients (R203) applied to the
stripe's contents give the lost byte. -/
def Obligations.LostByteRebuilds : Prop :=
  ∀ (k j x : Nat) (data : Nat → Byte), k ≤ 31 → j < 4 → x < k →
    let parity := (List.range k).foldl (fun a y => a ^^^ gmul (coeff j y) (data y)) 0
    ∃ a, targetCoeffs field8 coeff [j] [x] (.data x) = some a ∧
      data x = ((List.range k).filter (fun y => y != x)).foldl (fun b y => b ^^^ gmul (a (.data y)) (data y))
        (gmul (a (.parity j)) parity)

/-- In stripe `s` parity seat `j` lies on member (s · m + j) mod n, which is r · m + j with r = s mod q (R104). -/
def Obligations.ParitySeatPlace : Prop :=
  ∀ (q m s j : Nat), 2 ≤ q → 1 ≤ m → j < m →
    parityHolder (q * m) m s j = (s * m + j) % (q * m) ∧ parityHolder (q * m) m s j = s % q * m + j

/-- Every member holds exactly one stitch of every stripe, and member, seat and palm index determine one another: the holder of a seat
has that role, and the stripe of a palm index holds it as data (R104 to R107). -/
def Obligations.LayoutPlacesEachStitchOnce : Prop :=
  ∀ (q m : Nat), 2 ≤ q → 1 ≤ m →
    (∀ s j, j < m → roleOf (q * m) m (parityHolder (q * m) m s j) s = (.parity j, s / q)) ∧
    (∀ s d, d < q * m - m → (roleOf (q * m) m (dataHolder (q * m) m s d) s).1 = .data d) ∧
    (∀ s i, i < q * m → seatHolder (q * m) m s (roleOf (q * m) m i s).1 = i) ∧
    (∀ i p, i < q * m → (roleOf (q * m) m i (stripeOf (q * m) m i p)).2 = p ∧
      ∃ d, (roleOf (q * m) m i (stripeOf (q * m) m i p)).1 = .data d) ∧
    (∀ i s d p, i < q * m → roleOf (q * m) m i s = (.data d, p) → stripeOf (q * m) m i p = s)

/-! ### Faults and the interrupt -/

/-- A raised fault sets its bit and counts one capture; the first capture of a command in its unit takes the log entry that SEQ names, and
the first-fault capture takes it only while clear; the mask and every other unit stay (R497, R504, R505). -/
def Obligations.RaiseSetsBitAndCaptures : Prop :=
  ∀ (s : State) (u b : Nat) (d0 d1 : Word), u ≤ 16 →
    let f := s.faultsOf u
    let c : Capture := { code := b, unit := u, seq := f.seq % 2 ^ 31, stamp := s.now, d0 := d0, d1 := d1 }
    let t := s.raise u b d0 d1
    let g := t.faultsOf u
    g.bits = f.bits ||| ((1 : BitVec 34) <<< b) ∧ g.mask = f.mask ∧ g.seq = (f.seq + 1) % 2 ^ 31 ∧
      (∀ v, v ≤ 16 → v ≠ u → t.faultsOf v = s.faultsOf v) ∧
      t.mem = s.mem ∧ t.regions = s.regions ∧ t.coded = s.coded ∧ t.out = s.out ∧ t.marks = s.marks ∧
      (s.mark u = f.seq →
        Tab.get g.log (f.seq % (if u < 16 then 16 else 64)) = some c ∧
        (∀ n, n ≠ f.seq % (if u < 16 then 16 else 64) → Tab.get g.log n = Tab.get f.log n) ∧
        g.first = (if f.first = none then some c else f.first))

/-- The captures of one command in one unit take their SEQ numbers and log entries in ascending code, as captures of one PCLK: a new
capture keeps those that the command has made before, and the first-fault capture that this command filled ends with its lowest code
(R504, R505; that one command is one PCLK is DEDUCED, log entry 54). -/
def Obligations.CapturesOfOneCommandAscend : Prop :=
  ∀ (s : State) (u b : Nat) (d0 d1 : Word), u ≤ 16 →
    let m := s.mark u
    let f := s.faultsOf u
    let old := f.since u m
    let c : Capture := { code := b, unit := u, seq := f.seq % 2 ^ 31, stamp := s.now, d0 := d0, d1 := d1 }
    m + f.count m + 1 < 2 ^ 31 → f.seq = m + f.count m → f.count m < (if u < 16 then 16 else 64) → old.length = f.count m →
    old.Pairwise (fun x y => x.code ≤ y.code) →
    let g := (s.raise u b d0 d1).faultsOf u
    let new := g.since u m
    g.count m = f.count m + 1 ∧ new.length = f.count m + 1 ∧ new.Pairwise (fun x y => x.code ≤ y.code) ∧
      new.map (·.seq) = (List.range (f.count m + 1)).map (fun i => m + i) ∧
      (new.map (fun x => { x with seq := 0 })).Perm ((c :: old).map (fun x => { x with seq := 0 })) ∧
      (f.first = none → g.first = some c) ∧
      (∀ x, f.first = some x → x.seq < m → g.first = some x) ∧
      (∀ x, f.first = some x → m ≤ x.seq → x.seq < f.seq → g.first = some (if b < x.code then { c with seq := x.seq } else x))

/-- The interrupt stands exactly while some unit whose ROUTE bit is set holds a fault bit whose MASK bit is clear (R42, R502). -/
def Obligations.InterruptFollowsUnmaskedFaults : Prop :=
  ∀ s : State, s.irq = true ↔
    ∃ u b, u < 17 ∧ b < 34 ∧ s.cu.irqRoute.getLsbD u = true ∧ (s.faultsOf u).bits.getLsbD b = true ∧
      (s.faultsOf u).mask.getLsbD b = false

/-! ### Reset, start-up and the watchdog -/

/-- CHIP_RESET gives every register its reset value but the fuses, keeps the bytes of memory unless power was lost, and drops page
records, buffers, contexts and everything in flight (R492, R545). That the queue, the clock and what has left the chip are not part of
the reset is the model's choice (log entry 37). RESET_RELEASE samples the straps once and gives every instance its role and lane map
(R534, R535), and the two channels their weights in Bexli (R48, R406); memory and everything else stay. -/
def Obligations.ResetCommandsComplete : Prop :=
  (∀ (e : Ev) (powerLost : Bool) (s : State), ∃ t : State, exec (.chipReset e powerLost) s = .next t ∧
    t.cu = { Cu.reset with fuses := s.cu.fuses } ∧ t.inst = State.reset.inst ∧
    t.mem = { bytes := if powerLost then [] else s.mem.bytes, recs := [], merge := [], repairQ := [] } ∧
    t = { State.reset with pending := s.pending, clock := Nat.max s.clock e.t, ev := e, fresh := s.fresh, serial := s.serial,
                           out := s.out, cu := t.cu, mem := t.mem }) ∧
  (∀ (e : Ev) (straps : BitVec 22) (s : State), s.cu.released = false → ∃ t : State, exec (.resetRelease e straps) s = .next t ∧
    t = { s.at e with inst := t.inst, cu := { s.cu with released := true, straps := straps, weight := straps.extractLsb' 18 2,
                                                        govWeight := straps.extractLsb' 18 2, bexliWeight := straps.extractLsb' 18 2,
                                                        bexliControl := 2 } } ∧
    ∀ i : Fin 16, t.inst[i] = { s.inst[i] with lower := straps.getLsbD i.val, harvest := s.cu.fuses.harvest.getD i.val 0,
                                               arraysAt := Nat.max s.clock e.t })

/-- The firmware: the released image is taken once and whole, FIRMWARE_START writes its SHA-384 and arms the watchdog (R507, R537), a
service restarts the watchdog's count, and 10 ms without one raise FW_FAULT and end what still needs the CU (R28, R29, R31). -/
def Obligations.FirmwareCommandsComplete : Prop :=
  (∀ (e : Ev) (image : List Byte) (s : State), s.cu.released = true → s.cu.fw.state = 0 → s.cu.fw.image = none →
    image.length = 262144 →
    exec (.firmwareRelease e image) s = .next { s.at e with cu := { s.cu with fw := { s.cu.fw with image := some image } } }) ∧
  (∀ (e : Ev) (image : List Byte) (s : State), s.cu.fw.state = 0 → s.cu.fw.image = some image →
    exec (.firmwareStart e) s = .next (State.finish (State.completeStart { s.at e with cu := { s.cu with fw := { s.cu.fw with
      meas := sha384 image, state := 2, service := Nat.max s.clock e.t } } }))) ∧
  (∀ (e : Ev) (s : State), s.cu.fw.state = 2 →
    exec (.watchdogService e) s = .next { s.at e with cu := { s.cu with fw := { s.cu.fw with service := Nat.max s.clock e.t } } }) ∧
  (∀ (e : Ev) (pc : Word) (s : State), s.cu.fw.state = 2 → s.cu.fw.service + 10000000 ≤ Nat.max s.clock e.t →
    let b : State := { s.at e with cu := { s.cu with fwFault := true, fw := { s.cu.fw with state := 3 } } }
    let f := b.raise 16 31 (BitVec.ofNat 64 s.cu.fw.service) pc
    exec (.watchdogExpiry e pc) s = .next ((s.pends.filter f.needsCu).foldl (fun t p => t.post p.cmd 0xFF 0) f))

/-- Start-up of an instance: a controller of the strap's kind with the codes it needs readies the instance, one of the other kind leaves
it in test bypass with TEST_FAIL cause 1, a late one sets cause 3 after 100 ms (R17, R35, R540); an instance whose enabled lanes, four or
more, all pass training and all encode the all-ones input as their ROM does takes them into service and becomes active (R403, R541). -/
def Obligations.ControllerCommandsComplete : Prop :=
  (∀ (e : Ev) (i : Fin 16) (lpddr pseudo : Bool) (s : State), (s.at e).awaitsCtrl i = true → (s.inst[i]).lower = lpddr →
    4 ≤ (enabledLanes s.inst[i]).length → (lpddr || pseudo) = true →
    exec (.controllerReady e i lpddr true pseudo) s = .next ((s.at e).modInst i (fun x => { x with ready := true, ctrlLower := lpddr }))) ∧
  (∀ (e : Ev) (i : Fin 16) (lpddr wordCode pseudo : Bool) (s : State), (s.at e).awaitsCtrl i = true → (s.inst[i]).lower ≠ lpddr →
    exec (.controllerReady e i lpddr wordCode pseudo) s = .next (((s.at e).modInst i (fun x =>
      { x with ready := true, ctrlLower := lpddr, bypass := true, test := { x.test with cause := 1 } })).raise i.val 28 1 0)) ∧
  (∀ (e : Ev) (i : Fin 16) (s : State), (s.at e).awaitsCtrl i = true →
    (s.inst[i]).arraysAt + 100000000 ≤ Nat.max s.clock e.t →
    exec (.controllerReadyTimeout e i) s = .next (((s.at e).modInst i (fun x => { x with test := { x.test with cause := 3 } })).raise
      i.val 28 3 0)) ∧
  (∀ (e : Ev) (i : Fin 16) (passed : BitVec 8) (encoded : List LaneRom) (s : State), (s.inst[i]).ready = true → (s.inst[i]).active = false →
    (s.inst[i]).test.cause = 0 → 4 ≤ (enabledLanes s.inst[i]).length →
    (∀ k ∈ enabledLanes s.inst[i], passed.getLsbD k = true ∧ encoded[k]? = some romImage) →
    ∃ t : State, exec (.laneTrainingDone e i passed encoded) s = .next t ∧ t = { s.at e with inst := t.inst } ∧
      (∀ j : Fin 16, j ≠ i → t.inst[j] = s.inst[j]) ∧
      t.inst[i] = { s.inst[i] with active := true, en := .on, lanes := (t.inst[i]).lanes } ∧
      ∀ k : Fin 8, (t.inst[i]).lanes[k] = if (s.inst[i]).harvest.getLsbD k.val
        then { (s.inst[i]).lanes[k] with trained := true, romOk := true, en := .on } else (s.inst[i]).lanes[k])

/-! ### The band input, the fabric, health and power -/

/-- The band: a first acquisition after every instance has ended its training, and one that ends a band fault, take the input's count
and clear FAULT (R542, R568); a band fault or a stall is raised once with the last good count and the count that broke the rule, and
every context in DECIDED flips at once (R177, R566, R567). -/
def Obligations.BandCommandsComplete : Prop :=
  (∀ (e : Ev) (s : State), (if s.cu.band.acquired then s.cu.band.fault = true
      else s.cu.released = true ∧ ∀ i : Fin 16, (s.inst[i]).trainedUp = true) →
    exec (.bandAcquire e) s = .next (State.finish (State.completeStart { s.at e with clock := e.t, cu := { s.cu with
      band := { s.cu.band with acquired := true, valid := true, fault := false } } }))) ∧
  (∀ (e : Ev) (bad : Nat) (validFell : Bool) (s : State), let b := (s.at e).checkPairs.checkTs
    b.cu.band.acquired = true → b.cu.band.fault = false →
    let w : State := { b with cu := { b.cu with band := { b.cu.band with fault := true, good := b.clock,
                                                                         valid := b.cu.band.valid && !validFell } } }
    exec (.bandFault e bad validFell) s =
      .next (State.finish (State.flipDecided (w.raise 16 25 (BitVec.ofNat 64 b.clock) (BitVec.ofNat 64 bad))))) ∧
  (∀ (e : Ev) (s : State), let b := (s.at e).checkPairs.checkTs
    b.cu.band.acquired = true → b.cu.band.fault = false →
    let w : State := { b with cu := { b.cu with band := { b.cu.band with fault := true, good := b.clock } } }
    exec (.bandStall e) s =
      .next (State.finish (State.flipDecided (w.raise 16 25 (BitVec.ofNat 64 b.clock) (BitVec.ofNat 64 b.clock)))))

/-- The fabric's report replaces the coordinates, the flags, the ports down and the cabling (R39, R40), and a chip that only ports down lead
toward is lost; a link that goes down is recorded, and every chip whose last port it was is lost (R41, R193); residue alarms are counted one by one, saturating (R44, R494, R565). -/
def Obligations.FabricCommandsComplete : Prop :=
  (∀ (e : Ev) (f : FabricStatus) (s : State), let b := s.begin e
    b.cu.fwFault = false →
    exec (.coordVerifiedChange e f) s = .next (State.finish ((f.cables.filter (fun p => p.2 &&& f.down == p.2)).foldl
      (fun t p => t.loseChip p.1) { b with cu := { b.cu with fabric := f } }))) ∧
  (∀ (e : Ev) (port : Fin 48) (s : State),
    let b := s.begin e
    let down := b.cu.fabric.down ||| ((1 : BitVec 48) <<< port.val)
    let u : State := { b with cu := { b.cu with fabric := { b.cu.fabric with down := down } } }
    b.cu.fwFault = false →
    exec (.linkDown e port) s = .next (State.finish ((b.cu.fabric.cables.filter (fun p => p.2.getLsbD port.val && (p.2 &&& down == p.2))).foldl
      (fun t p => t.loseChip p.1) u))) ∧
  (∀ (e : Ev) (pulses : Nat) (s : State), exec (.residueAlarm e pulses) s =
    .next { s.at e with cu := { s.cu with suspicion := Nat.min (s.cu.suspicion + pulses) (2 ^ 32 - 1) } })

/-- Health inputs: a filtered change moves the level, and a rise of an unmasked input sets its latch and, unless the input is kept out of
the triggers, every hatbox request (R256, R562); a glitch counts an edge up to 255 (R563); ten seconds high mask the input with
HEALTH_STUCK, one second low unmasks it (R564). Nothing else of the other inputs or of the chip changes. -/
def Obligations.HealthCommandsComplete : Prop :=
  (∀ (e : Ev) (n : Fin 8) (s : State), (s.cu.hwarn[n]).level = false → (s.cu.hwarn[n]).stuck = false → s.cu.fwFault = false →
    let u := (s.at e).modCu (fun c => { c with hwarn := c.hwarn.set n.val { c.hwarn[n] with
      level := true, since := Nat.max s.clock e.t, latch := true } })
    exec (.hwarnEdgeFiltered e n true) s = .next (if s.cu.trigMask.getLsbD n.val then u
      else { u with coded := s.coded.map (fun p => (p.1, { p.2 with hbReq := p.2.hbReq || p.2.hb.isSome })) })) ∧
  (∀ (e : Ev) (n : Fin 8) (s : State), (s.cu.hwarn[n]).level = true →
    exec (.hwarnEdgeFiltered e n false) s = .next ((s.at e).modCu (fun c => { c with hwarn := c.hwarn.set n.val { c.hwarn[n] with
      level := false, since := Nat.max s.clock e.t } }))) ∧
  (∀ (e : Ev) (n : Fin 8) (s : State), exec (.hwarnGlitch e n) s = .next ((s.at e).modCu (fun c => { c with
    hwarn := c.hwarn.set n.val { c.hwarn[n] with edges := Nat.min ((c.hwarn[n]).edges + 1) 255 } }))) ∧
  (∀ (e : Ev) (n : Fin 8) (s : State), (s.cu.hwarn[n]).level = true → (s.cu.hwarn[n]).stuck = false →
    (s.cu.hwarn[n]).since + 10000000000 ≤ Nat.max s.clock e.t →
    exec (.hwarnStuck e n) s = .next (((s.at e).modCu (fun c => { c with hwarn := c.hwarn.set n.val { c.hwarn[n] with
      stuck := true } })).raise 16 26 (BitVec.ofNat 64 n.val) (BitVec.ofNat 64 (s.cu.hwarn[n]).since))) ∧
  (∀ (e : Ev) (n : Fin 8) (s : State), (s.cu.hwarn[n]).level = false → (s.cu.hwarn[n]).stuck = true →
    (s.cu.hwarn[n]).since + 1000000000 ≤ Nat.max s.clock e.t →
    exec (.hwarnUnstuck e n) s = .next ((s.at e).modCu (fun c => { c with hwarn := c.hwarn.set n.val { c.hwarn[n] with
      stuck := false } })))

/-- Power: CLAMP halves every active upper governor's rate, caps it at half the normal ceiling and raises POWER_CLAMP in its instance, every
other instance keeps its governor, the stitch channel loses its boosted weight (R406), and memory, regions and contexts stay (R162); its
fall lets the governors set their normal rates again (R162); the grant's rise and fall move the ceilings at once, and its fall unboosts the darns (R161, R215, R551); the peak limit drops
BOOST_REQ and sets LIMITED at 400 ms of peak time and clears it at 300 ms (R550). -/
def Obligations.PowerCommandsComplete : Prop :=
  (∀ (e : Ev) (s : State), s.cu.power.clamp = false → ∃ t : State, exec (.clampRise e) s = .next t ∧ t.cu.power.clamp = true ∧
    (∀ i : Fin 16, let x := s.inst[i]
      (x.lower = false ∧ x.active = true →
        (t.inst[i]).gov = { rate := Nat.min (x.gov.rate / 2) (s.normalCeiling / 2), ceiling := s.normalCeiling / 2, boosted := false,
                            clamped := true } ∧ (t.inst[i]).faults = x.faults.raise i.val x.faults.seq 30 (s.at e).now
          (packWord [(0, x.gov.rate / 1000000)]) 0) ∧
      (x.lower = true ∨ x.active = false → t.inst[i] = x)) ∧
    t = { s.at e with inst := t.inst, cu := t.cu } ∧ t.cu = { s.cu with power := t.cu.power, bexliBoost := false }) ∧
  (∀ (e : Ev) (s : State), s.cu.power.clamp = true →
    let u := (s.at e).setPower (fun p => { p with clamp := false })
    exec (.clampFall e) s = .next (State.finish (u.modInsts (fun i x => if x.lower ∨ !x.active then x
      else { x with gov := { x.gov with rate := u.sendRate i.val false } })))) ∧
  (∀ (e : Ev) (s : State), exec (.boostGrantRise e) s = .next ((s.at e).setPower (fun p => { p with grant := true }))) ∧
  (∀ (e : Ev) (s : State), s.cu.power.grant = true →
    let u : State := { s.at e with darns := s.darns.map (fun d => { d with boost := false }) }
    exec (.boostGrantFall e) s = .next (u.setPower (fun p => { p with grant := false })).keepBoost) ∧
  (∀ (e : Ev) (s : State), s.cu.power.limited = false → 400000 ≤ (s.at e).peakUsed →
    exec (.peakLimitReached e) s = .next ((s.at e).setPower (fun p => { p with limited := true, boostReq := false }))) ∧
  (∀ (e : Ev) (s : State), s.cu.power.limited = true → (s.at e).peakUsed ≤ 300000 →
    exec (.peakLimitCleared e) s = .next ((s.at e).setPower (fun p => { p with limited := false })).findBoost)

/-- The test access port: an IEEE 1687 write reaches its instrument, and no other instance, while nothing is mapped on the instance or it is in
bypass, and otherwise only raises ACCESS (R49); a debug halt is granted exactly while no context owns coded state (R50). -/
def Obligations.DebugCommandsComplete : Prop :=
  (∀ (e : Ev) (i : Fin 16) (n : Nat) (v : Word) (s : State), ((s.at e).mapsOn i = false ∨ (s.inst[i]).inBypass = true) →
    exec (.ieee1687Write e i n v) s = .next ((s.at e).modInst i (fun x => { x with instruments := Tab.set x.instruments n v }))) ∧
  (∀ (e : Ev) (i : Fin 16) (n : Nat) (v : Word) (s : State), (s.at e).mapsOn i = true → (s.inst[i]).inBypass = false →
    exec (.ieee1687Write e i n v) s = .next ((s.at e).raise i.val 33 4 (BitVec.ofNat 64 n))) ∧
  (∀ (e : Ev) (s : State), s.coded = [] →
    exec (.debugHaltRequest e) s = .next { s.at e with cu := { s.cu with debugHalted := true } }) ∧
  (∀ (e : Ev) (s : State), s.coded ≠ [] → exec (.debugHaltRequest e) s = .next ((s.at e).raise 16 33 5 0))

/-! ### Registers -/

/-- Fault registers: a 1 written to FAULT clears its bit unless the fault is raised in the same PCLK (R13, R498); a 1 written to
FAULT_SET raises each fault that the unit has, with zero details (R496, R501); a 1 to VALID rearms the first-fault capture alone (R505); a 1
to a latch clears that input's latch alone (R509). Every other unit's registers, memory and
contexts stay. An instance under test holds the write instead, with every fault register as it was (R557). -/
def Obligations.FaultRegisterCommandsComplete : Prop :=
  (∀ (e : Ev) (u : Fin 17) (bits : Word) (raised : BitVec 34) (s : State),
    (u.val < 16 → (s.inst[instIdx u.val]).test.running = false) → ∃ t : State, exec (.faultClear e u bits raised) s = .next t ∧
    (∀ b < 34, (t.faultsOf u.val).bits.getLsbD b =
      ((s.faultsOf u.val).bits.getLsbD b && !(bits.getLsbD b && !raised.getLsbD b))) ∧
    t.faultsOf u.val = { s.faultsOf u.val with bits := (t.faultsOf u.val).bits } ∧
    (∀ v : Fin 17, v ≠ u → t.faultsOf v.val = s.faultsOf v.val) ∧ t = { s.at e with cu := t.cu, inst := t.inst }) ∧
  (∀ (e : Ev) (u : Fin 17) (bits : Word) (s : State),
    (u.val < 16 → (s.inst[instIdx u.val]).test.running = false) → ∃ t : State, exec (.faultSet e u bits) s = .next t ∧
    (∀ b < 34, (t.faultsOf u.val).bits.getLsbD b =
      ((s.faultsOf u.val).bits.getLsbD b || (bits.getLsbD b && raisable u.val b))) ∧
    (t.faultsOf u.val).mask = (s.faultsOf u.val).mask ∧
    (∀ v : Fin 17, v ≠ u → t.faultsOf v.val = s.faultsOf v.val) ∧ t = { s.at e with cu := t.cu, inst := t.inst }) ∧
  (∀ (e : Ev) (u : Fin 17) (b : Nat) (s : State),
    (u.val < 16 → (s.inst[instIdx u.val]).test.running = false) → b < 34 → raisable u.val b = true →
    exec (.faultSet e u ((1 : Word) <<< b)) s = .next ((s.at e).raise u.val b 0 0)) ∧
  (∀ (e : Ev) (u : Fin 17) (s : State),
    (u.val < 16 → (s.inst[instIdx u.val]).test.running = false) → ∃ t : State, exec (.firstFaultRearm e u) s = .next t ∧
    t.faultsOf u.val = { s.faultsOf u.val with first := none } ∧
    (∀ v : Fin 17, v ≠ u → t.faultsOf v.val = s.faultsOf v.val) ∧ t = { s.at e with cu := t.cu, inst := t.inst }) ∧
  (∀ (e : Ev) (u : Fin 17) (bits : Word) (raised : BitVec 34) (s : State), let i := instIdx u.val
    u.val < 16 → (s.inst[i]).test.running = true →
    exec (.faultClear e u bits raised) s = .next { s.at e with heldRegs := s.heldRegs ++ [(instOff i 0x100, bits)] } ∧
    exec (.faultSet e u bits) s = .next { s.at e with heldRegs := s.heldRegs ++ [(instOff i 0x110, bits)] } ∧
    exec (.firstFaultRearm e u) s = .next { s.at e with heldRegs := s.heldRegs ++ [(instOff i 0x118, (1 : Word) <<< 63)] }) ∧
  (∀ (e : Ev) (bits : Word) (s : State), ∃ t : State, exec (.hwarnLatchClear e bits) s = .next t ∧
    (∀ n : Fin 8, t.cu.hwarn[n] = { s.cu.hwarn[n] with latch := (s.cu.hwarn[n]).latch && !bits.getLsbD n.val }) ∧
    t = { s.at e with cu := { s.cu with hwarn := t.cu.hwarn } })

/-- Enables: a lane or an instance in service goes to STOPPING when its bit is cleared, one that is OFF goes ON and one that is
STOPPING becomes DEFERRED when it is set, where R529 does not refuse the write (R528, R530); at the end of the stop it is OFF, or ON where it
was deferred. Every other lane and instance keeps its state. -/
def Obligations.EnableCommandsComplete : Prop :=
  (∀ (e : Ev) (i : Fin 16) (k : Fin 8) (s : State), let x := s.inst[i]
    x.test.running = false → x.active = true → s.heldRegs = [] → (x.lanes[k]).en = .on →
    (s.at e).enableRefused i ((s.at e).enableWith i k.val false) = false →
    exec (.laneDisable e i k) s = .next ((s.at e).modInst i (fun x =>
      { x with lanes := x.lanes.set k.val { x.lanes[k] with en := .stopping }, enBusy := false, enRefused := false }))) ∧
  (∀ (e : Ev) (i : Fin 16) (k : Fin 8) (s : State), let x := s.inst[i]
    x.test.running = false → x.active = true → s.heldRegs = [] → ((x.lanes[k]).en = .off ∨ (x.lanes[k]).en = .stopping) →
    (s.at e).enableRefused i ((s.at e).enableWith i k.val true) = false →
    exec (.laneEnable e i k) s = .next ((s.at e).modInst i (fun x =>
      { x with lanes := x.lanes.set k.val { x.lanes[k] with en := if (x.lanes[k]).en = .off then .on else .deferred },
               enBusy := false, enRefused := false }))) ∧
  (∀ (e : Ev) (i : Fin 16) (s : State), let x := s.inst[i]
    x.test.running = false → x.active = true → s.heldRegs = [] → x.en = .on →
    (s.at e).enableRefused i ((s.at e).enableWith i 8 false) = false →
    exec (.instDisable e i) s = .next ((s.at e).modInst i (fun x => { x with en := .stopping, enBusy := false, enRefused := false }))) ∧
  (∀ (e : Ev) (i : Fin 16) (s : State), let x := s.inst[i]
    x.test.running = false → x.active = true → s.heldRegs = [] → x.en = .off →
    (s.at e).enableRefused i ((s.at e).enableWith i 8 true) = false →
    exec (.instEnable e i) s = .next (((s.at e).modInst i (fun x =>
      { x with en := .on, enBusy := false, enRefused := false })).rebuildStale i)) ∧
  (∀ (e : Ev) (i : Fin 16) (k : Fin 8) (s : State), exec (.laneStopDone e i k) s = .next ((s.at e).modInst i (fun x =>
    { x with lanes := x.lanes.set k.val { x.lanes[k] with en := match (x.lanes[k]).en with
      | .stopping => .off
      | .deferred => .on
      | y => y } }))) ∧
  (∀ (e : Ev) (i : Fin 16) (s : State), s.tracked i = 0 → exec (.instStopDone e i) s = .next ((s.at e).modInst i (fun x =>
    { x with en := match x.en with
      | .stopping => .off
      | .deferred => .on
      | y => y })))

/-- Handles, snapshots and paired registers, read after the crowns whose T has come have taken effect (R517): a word of an invalid handle is written as it is given, KEY and KEY_INV alike (R525, R526); a
read of CU_CTX_CUFF0 snapshots the context's own cuff record and answers its first word (R518); a register whose pair agrees reads its
value, and a C or S whose pair disagrees reads all ones and stops its context (R399, R400, R495). -/
def Obligations.HandleAndPairCommandsComplete : Prop :=
  (∀ (e : Ev) (h : Fin 4096) (w : Fin 4) (v : Word) (s : State), let x := s.handle h.val
    x.valid = false → (w = 1 → v.toNat % 2 ^ 48 ≤ 2 ^ 37) → (w = 0 → v.getLsbD 63 = true → x.keyInv = ~~~x.key) →
    ∃ t : State, exec (.handleWrite e h w v) s = .next t ∧ t = { s.at e with cu := { s.cu with handles := t.cu.handles } } ∧
      t.handle h.val = (if w = 0 then { x with attr := v &&& 0xB0FFFFFFFFFFFFFF } else if w = 1 then { x with target := v }
        else if w = 2 then { x with key := v } else { x with keyInv := v }) ∧
      ∀ n, n ≠ h.val → t.handle n = s.handle n) ∧
  (∀ (e : Ev) (b : Fin 4) (k : Coded) (s : State), let u := (s.at e).crownsDue
    Tab.get u.coded b.val = some k → (∀ r, k.ownCuff = some r → cuffOk r = true) →
    exec (.cuffSnapshotRead e b) s = .next (State.finish ((u.modCoded k.ctx (fun x => { x with
      snapshot := padTo 256 (k.ownCuff.getD []) })).emit
        (.regValue (0x1100 + 0x200 * b.val) (BitVec.ofNat 64 (field (padTo 256 (k.ownCuff.getD [])) 0 8)))))) ∧
  (∀ (e : Ev) (off : Nat) (s : State), let u := (s.at e).crownsDue
    u.pairBroken off = none →
    exec (.complementRegisterRead e off) s = .next (State.finish (u.emit (.regValue off (u.readReg off))))) ∧
  (∀ (e : Ev) (b : Fin 4) (k : Coded) (s : State), let u := (s.at e).crownsDue
    Tab.get u.coded b.val = some k → k.cInv ≠ ~~~k.c →
    exec (.complementRegisterRead e (0x1008 + 0x200 * b.val)) s =
      .next (State.finish ((u.stopCtx k.ctx 2).emit (.regValue (0x1008 + 0x200 * b.val) (~~~(0 : Word))))))

/-- Register writes: a sealed register only raises SEAL_REJECT with the offset and the value (R13, R519); a narrow or misaligned access is
ignored, or reads zero, with ACCESS cause 2 (R12); a value within its range is set, one outside it is ignored with ACCESS cause 7 (R493,
R511); a mask is set; an offset that no register has raises ACCESS cause 9. -/
def Obligations.RegisterWriteCommandsComplete : Prop :=
  (∀ (e : Ev) (off : Nat) (v : Word) (s : State), off = 0x1800 ∨ off = 0x1808 ∨ off = 0x1810 →
    exec (.sealedRegisterWrite e off v) s = .next ((s.at e).raise 16 32 (BitVec.ofNat 64 off) v)) ∧
  (∀ (e : Ev) (off : Nat) (v : Word) (s : State), off < 0x40000 →
    exec (.badRegisterAccess e off true v) s = .next ((s.at e).raise 16 33 2 (BitVec.ofNat 64 off)) ∧
    exec (.badRegisterAccess e off false v) s = .next (((s.at e).raise 16 33 2 (BitVec.ofNat 64 off)).emit (.regValue off 0))) ∧
  (∀ (e : Ev) (v : Word) (s : State), s.cu.released = true → 1000000 ≤ v.toNat % 2 ^ 30 → v.toNat % 2 ^ 30 ≤ 1000000000 →
    exec (.registerWrite e 0x210 v) s =
      .next (State.finish { s.at e with cu := { s.cu with voteTimeout := v.toNat % 2 ^ 30 } })) ∧
  (∀ (e : Ev) (v : Word) (s : State), s.cu.released = true → v.toNat % 2 ^ 30 < 1000000 ∨ 1000000000 < v.toNat % 2 ^ 30 →
    exec (.registerWrite e 0x210 v) s = .next (State.finish ((s.at e).raise 16 33 7 0x210))) ∧
  (∀ (e : Ev) (v : Word) (s : State), s.cu.released = true →
    exec (.registerWrite e 0x108 v) s =
      .next (State.finish ((s.at e).modFaults 16 (fun f => { f with mask := v.truncate 34 })))) ∧
  (∀ (e : Ev) (off : Nat) (v : Word) (s : State), s.cu.released = true → 0x140000 ≤ off → off % 8 = 0 →
    exec (.registerWrite e off v) s = .next (State.finish ((s.at e).raise 16 33 9 (BitVec.ofNat 64 off))))

/-! ### Memory -/

/-- A read that R70 to R73 permit and nothing holds, once the crowns whose T has come have taken effect and the crown guard has counted it
(R73, R179), is served part by part; in a PASS region one within a page answers the stored bytes and
changes nothing else. A write that is permitted is served; in a PASS region one within a page stores its bytes at its address, and no other
byte of memory changes (R70, R385, R386).
A request of a source that R70 does not know, or to an address that no region holds, is refused: a read answers the poison pattern with
its mark, a write answers that it was refused, and the serving instance raises ACCESS; memory stays. -/
def Obligations.NetworkCommandsComplete : Prop :=
  (∀ (e : Ev) (r : Req) (g : Region) (s : State),
    let q : Req := { r with id := r.id % 2 ^ 64 }
    let b := (s.at e).checkPairs.checkTs.crownsDue.countGuard q
    r.src ≤ 4 → b.regionAt r.lower r.addr = some g → rangeWhole g r.addr r.len = true → ctxAllowed g r.src r.ctx false = true →
    (rangeParts r.lower r.addr r.len).all (fun p => b.mayRead g p.1 r.src r.ctx) = true →
    b.firstBlock g (rangeParts r.lower r.addr r.len) false = none →
    exec (.memoryRead e r) s = .next (b.readParts g q).finish) ∧
  (∀ (e : Ev) (r : Req) (g : Region) (s : State), let b := (s.at e).checkPairs.checkTs.crownsDue
    r.src ≤ 4 → b.regionAt r.lower r.addr = some g → g.kind = .pass → g.fill = none →
    r.addr + r.len ≤ g.base + g.len → ctxAllowed g r.src r.ctx false = true → 0 < r.len → r.addr % 4096 + r.len ≤ 4096 →
    b.ev.ctl = [] →
    exec (.memoryRead e r) s = .next (State.finish (b.emit (.readData (r.id % 2 ^ 64)
      (b.mem.read (pageAddr (offKey r.lower r.addr) (r.addr % 4096)) r.len) false)))) ∧
  (∀ (e : Ev) (r : Req) (g : Region) (s : State), let b := (s.at e).checkPairs.checkTs
    b.updateStopped r = false → r.src ≤ 4 → r.src ≠ 3 → b.regionAt r.lower r.addr = some g → g.kind = .pass → g.fill = none →
    r.final = false → r.addr + r.data.length ≤ g.base + g.len → ctxAllowed g r.src r.ctx true = true → 0 < r.data.length →
    r.addr % 4096 + r.data.length ≤ 4096 →
    let a := pageAddr (offKey r.lower r.addr) (r.addr % 4096)
    ∃ t : State, exec (.memoryWrite e r) s = .next t.finish ∧
      t = { b with mem := t.mem, out := .writeDone (r.id % 2 ^ 64) true :: b.out } ∧ t.mem = b.mem.write a r.data) ∧
  (∀ (e : Ev) (r : Req) (s : State), let b := (s.at e).checkPairs.checkTs.crownsDue
    (4 < r.src ∨ b.regionAt r.lower r.addr = none) → ∃ t : State, exec (.memoryRead e r) s = .next t.finish ∧
      t.out = .readData (r.id % 2 ^ 64) (poison r.len) true :: b.out ∧ t.mem = b.mem ∧
      (t.faultsOf (keyInst (offKey r.lower r.addr)).val).bits.getLsbD 33 = true) ∧
  (∀ (e : Ev) (r : Req) (s : State), let b := (s.at e).checkPairs.checkTs
    (4 < r.src ∨ b.regionAt r.lower r.addr = none) → ∃ t : State, exec (.memoryWrite e r) s = .next t.finish ∧
      t.out = .writeDone (r.id % 2 ^ 64) false :: b.out ∧ t.mem = b.mem ∧
      (t.faultsOf (keyInst (offKey r.lower r.addr)).val).bits.getLsbD 33 = true)

/-- The update unit: a read of a stitch of an open step whose crowned left hand was never written answers zeros without a mark and keeps
them for pairing (R75, R76); a partial write to a stitch that a read has paired is accepted, touches the stitch and covers its bytes,
and changes no stored byte and no page record, since the open hand's bytes wait in the merge buffer (R65, R76, R392); no write is taken in a context whose step disagrees with its
complement on the step and key port, and value 3 is then among those that the context was stopped for (R38, R399, R400, R499). -/
def Obligations.UpdateCommandsComplete : Prop :=
  (∀ (e : Ev) (r : Req) (g : Region) (idx : Nat) (s : State), let b := (s.at e).checkPairs.checkTs.crownsDue
    let k := g.handKey idx false
    r.src = 1 → b.regionAt r.lower r.addr = some g → g.kind = .state → g.lower = r.lower → g.lower = false → g.len % 4096 = 0 →
    g.base % 4096 = 0 → idx < g.len / 4096 → k < 2 ^ 51 → g.fill = none → r.ctx = g.owner →
    r.addr / 4096 = g.base / 4096 + idx → 0 < r.len → r.addr % 4096 + r.len ≤ 4096 → b.stepOpen g.owner = true → b.inGuard g.owner = false →
    (b.inst[keyInst k]).test.running = false → b.stitch g.num idx = Stitch.mapped → Tab.get b.mem.recs k = none → b.ev.ctl = [] →
    exec (.updateRead e r) s = .next (State.finish ((b.keepRead g idx r.tag zeroPage).emit
      (.readData (r.id % 2 ^ 64) (List.replicate r.len 0) false)))) ∧
  (∀ (e : Ev) (r : Req) (g : Region) (idx : Nat) (p : Pair) (s : State), let b := (s.at e).checkPairs.checkTs
    let k := g.handKey idx false
    r.src = 1 → (∀ x, b.codedOf g.owner = some x → x.portInv = ~~~x.port) → b.regionAt r.lower r.addr = some g → g.kind = .state → g.lower = r.lower → g.lower = false → g.len % 4096 = 0 →
    g.base % 4096 = 0 → idx < g.len / 4096 → k < 2 ^ 51 → g.fill = none → r.ctx = g.owner → r.final = false →
    r.addr / 4096 = g.base / 4096 + idx → 0 < r.data.length → r.data.length < 4096 → r.addr % 4096 + r.data.length ≤ 4096 →
    b.stepOpen g.owner = true → b.cu.evac = false → b.cu.fwFault = false → (b.inst[keyInst k]).test.running = false →
    b.stitch g.num idx = Stitch.mapped → b.pairs = [p] → p.region = g.num → p.idx = idx → p.tag = r.tag → p.cover = 0 →
    b.mem.merge = [] →
    ∃ t : State, exec (.updateWrite e r) s = .next t.finish ∧ t.out = .writeDone (r.id % 2 ^ 64) true :: b.out ∧
      t.mem.bytes = b.mem.bytes ∧ t.mem.recs = b.mem.recs ∧ t.mem.merge.length = 1 ∧
      t.stitch g.num idx = { Stitch.mapped with touch := true } ∧
      t.pairs = [{ p with cur := overlay p.cur (r.addr % 4096) r.data, cover := coverBits (r.addr % 4096) r.data.length }]) ∧
  (∀ (e : Ev) (r : Req) (g : Region) (k : Coded) (s : State), let b := ((s.at e).checkPairs.checkTs).checkPort r.ctx
    r.src = 1 → b.regionAt r.lower r.addr = some g → g.owner = r.ctx → b.codedOf r.ctx = some k → k.portInv ≠ ~~~k.port →
    exec (.updateWrite e r) s = .next b.finish ∧ 3 ∈ k.found)

/-- What waits in an instance: the oldest write held for a pairing entry is served again once one is free (R77); the oldest queued delta of a
lower TIER write is folded into its parity page, and the writes that waited for it complete (R328); a merge entry to which nothing has
been written for 1 µs is evicted (R389). -/
def Obligations.DeferredMemoryCommandsComplete : Prop :=
  (∀ (e : Ev) (i : Fin 16) (h : Held) (s : State),
    let b := (s.at e).checkPairs.checkTs
    let mine := fun (h : Held) => h.why == .pairing i.val
    b.heldReqs.find? mine = some h → (b.roomForPair i).isSome = true →
    exec (.heldWriteApply e i) s =
      .next (State.finish (State.serveWrite { b with heldReqs := delFirst mine b.heldReqs } h.req true))) ∧
  (∀ (e : Ev) (i : Fin 16) (f : TierFold) (d : List Byte) (u : State) (s : State),
    let b := (s.at e).checkPairs.checkTs
    (b.inst[i]).test.running = false → b.tierFolds.find? (fun f => decide (keyInst f.page = i)) = some f →
    State.rawTier { b with tierFolds := delFirst (fun f => decide (keyInst f.page = i)) b.tierFolds } f.page = (u, some d) →
    exec (.tierParityFold e i) s =
      .next (State.finish ((u.storePage f.page (xorBytes d f.delta) noTags).writesDone f.reqs))) ∧
  (∀ (e : Ev) (page : Nat) (m : Merge) (s : State), let b := (s.at e).checkPairs.checkTs
    b.mergeOf page = some m → m.last + 1000 ≤ b.now →
    exec (.mergeIdleEvict e page) s = .next (b.evict page).finish)

/-- Remote memory: a request that its handle permits leaves for the handle's chip with region, offset, length and key (R437); an operation
on a region whose key matches is served as a request of PADUN, and one with a wrong key is answered KEY_REJECT (R438); an answer OK brings
its data, with the poison indication that it carries (R384), or ends the write (R439, R440); 2.0 ms without an answer end the request with the poison pattern or REMOTE_TIMEOUT. -/
def Obligations.RemoteCommandsComplete : Prop :=
  (∀ (e : Ev) (h : Fin 4096) (r : Req) (s : State), let b := s.at e
    let q : Req := { r with id := r.id % 2 ^ 64 }
    let x := s.handle h.val
    b.remoteRefused x q (!r.data.isEmpty) = false → x.keyInv = ~~~x.key →
    exec (.remoteRequest e h r) s = .next { b with
      serial := s.serial + 1,
      out := .remoteOp x.coord { id := s.serial, src := s.cu.fabric.coord, write := !r.data.isEmpty, region := x.region, off := r.addr,
                                 len := r.len, key := x.key, data := r.data } :: s.out,
      remotes := s.remotes ++ [{ id := s.serial, handle := h.val, write := !r.data.isEmpty, off := r.addr, req := q, at' := b.now }] }) ∧
  (∀ (e : Ev) (op : RemoteOp) (g : Region) (s : State), let b := (s.at e).checkPairs.checkTs
    b.region? op.region = some g → g.keyInv = ~~~g.key → g.key ≠ 0 → g.key = op.key → b.remoteDenied op g = false →
    let id := 2 ^ 64 + b.serial
    let u : State := { b with serial := b.serial + 1, remoteIn := b.remoteIn ++ [(id, op)] }
    exec (.remoteOperation e op) s =
      .next (State.finish (if op.write then u.serveWrite (remoteReq op g id) false else u.serveRead (remoteReq op g id)))) ∧
  (∀ (e : Ev) (op : RemoteOp) (g : Region) (s : State), let b := (s.at e).checkPairs.checkTs
    b.region? op.region = some g → g.keyInv = ~~~g.key →
    g.key = 0 ∨ g.key ≠ op.key → ∃ t : State, exec (.remoteOperation e op) s = .next t.finish ∧
      t.out = .remoteReply op.src op.id 0x16 ⟨[], false⟩ :: b.out ∧ t.mem = b.mem ∧
      (t.faultsOf (keyInst (offKey g.lower (g.base + op.off))).val).bits.getLsbD 22 = true) ∧
  (∀ (e : Ev) (id : Nat) (data : RemoteData) (x : Remote) (s : State), s.remoteOf id = some x →
    exec (.remoteAnswer e id 0 data) s = .next { s.at e with
      remotes := s.remotes.filter (fun r => r.id != id),
      out := (if x.write then .remoteDone x.req.id 0 else .readData x.req.id (padTo x.req.len data.bytes) data.mark) :: s.out }) ∧
  (∀ (e : Ev) (id : Nat) (x : Remote) (s : State), s.remoteOf id = some x → x.at' + 2000000 ≤ (s.at e).now →
    ∃ t : State, exec (.remoteTimeout e id) s = .next t ∧
      t.out = (if x.write then .remoteDone x.req.id 0x43 else .readData x.req.id (poison x.req.len) true) :: s.out ∧
      t.remotes = s.remotes.filter (fun r => r.id != id) ∧ t.mem = s.mem ∧
      (t.faultsOf (x.handle % 16)).bits.getLsbD 23 = true)

/-! ### Command rings -/

/-- The rings: a doorbell written before start-up is complete waits (R543); one to a ring that the CU does not hold reads its descriptor, and a
valid one is taken with HEAD and POSTED as it gives them (R446, R447, R577); the packet at HEAD that passes the checks of R452 is
fetched, one with a wrong CRC ends with BAD_PACKET; a fetched packet whose fence and barrier are met, and which has a tracked transfer where it needs
one, is accepted, HEAD passing it (R449, R457, R461); a deferred command runs when its object has shut down (R466).
The final completion of a command: one entry leaves with the command's fields, the status and the stamp; the command waits no more; its
signal fence is set and no other; and on a held ring the entry stands at POSTED, which advances by one (R454, R462, R463). After FW_FAULT
a CU-scope command posts nothing and sets no fence (R31). -/
def Obligations.RingCommandsComplete : Prop :=
  (∀ (e : Ev) (v : Word) (s : State), s.cu.released = true → s.cu.started = false →
    exec (.doorbell e v) s = .next { s.at e with cu := { s.cu with doorbells := s.cu.doorbells ++ [v.toNat % 65536] } }) ∧
  (∀ (e : Ev) (v : Word) (d : List Byte) (u s : State), s.cu.released = true → s.commandsRun = true → s.cu.doorbells = [] →
    Tab.get s.rings (v.toNat % 65536) = none → (s.at e).readDesc (v.toNat % 65536) = (u, some d) →
    u.descOk d (field d 0x14 4) (field d 0x1C 4) = true →
    exec (.doorbell e v) s =
      .next { u with rings := Tab.set u.rings (v.toNat % 65536) (ringOf d (field d 0x14 4) (field d 0x1C 4)) }) ∧
  (∀ (e : Ev) (ring : Nat) (r : Ring) (bytes : List Byte) (u s : State), Tab.get s.rings ring = some r →
    s.commandsRun = true → r.enable = true → r.stalled = false → r.fetched = none → r.head ≠ r.tail →
    inService s.inst[instIdx (ring / 4096)] = true → (s.at e).ringRoom ring r = true →
    (s.at e).padunRead (r.base + 64 * (r.head % 2 ^ r.log2)) 64 r.owner = (u, some bytes) →
    let c : Cmd := { ring := ring, count := r.head, bytes := bytes }
    (r.fetchFault c = none →
      exec (.packetFetch e ring) s = .next (u.modRing ring (fun x => { x with fetched := some c }))) ∧
    (c.crcOk = false → exec (.packetFetch e ring) s = .next (u.endAtFetch c 0x10 12 none))) ∧
  (∀ (e : Ev) (ring : Nat) (r : Ring) (c : Cmd) (s : State), let b := s.begin e
    Tab.get b.rings ring = some r → r.fetched = some c → b.commandsRun = true →
    (c.waits = true → b.fenceSet c.waitFence = true) → (c.barrier = true → ∀ p ∈ b.pends, p.cmd.ring ≠ c.ring) →
    (needsTransfer c = true → b.tracked (instIdx (c.ring / 4096)) < Config.trackedMax) →
    exec (.commandAccept e ring) s = .next ((b.passHead ring).runOp c).finish) ∧
  (∀ (e : Ev) (ring count : Nat) (p : Pend) (s : State), let b := s.begin e
    b.pends.find? (fun p => p.cmd.ring == ring && p.cmd.count == count && p.job == .deferred) = some p →
    b.cu.fwFault = false → b.cu.debugHalted = false → b.shutting p.cmd = false →
    exec (.deferredStart e ring count) s = .next (b.runOp p.cmd).finish) ∧
  (∀ (s : State) (c : Cmd) (status result : Nat), (s.cu.fwFault && cuScope c) = false →
    let t := s.post c status result
    t.pends = s.pends.filter (fun p => !(p.cmd.ring == c.ring && p.cmd.count == c.count)) ∧
    (∀ n < 8192, t.fenceSet n = (s.fenceSet n || (c.signals && n == c.signalFence))) ∧
    ∃ x : Completion, t.out.head? = some (.completion x) ∧ x.ring = c.ring ∧ x.status = BitVec.ofNat 8 status ∧
      x.opcode = BitVec.ofNat 8 c.opcode ∧ x.context = BitVec.ofNat 8 c.ctx ∧ x.tag = BitVec.ofNat 32 c.tag ∧
      x.slot = c.count % 65536 ∧ x.result = BitVec.ofNat 64 result ∧ x.stamp = s.now ∧ x.detail = 0xFF ∧
      ∀ r, Tab.get s.rings c.ring = some r → x.index = r.posted ∧
        Tab.get t.rings c.ring = some { r with posted := (r.posted + 1) % 2 ^ 32 }) ∧
  (∀ (s : State) (c : Cmd) (status result : Nat), s.cu.fwFault = true → cuScope c = true →
    s.post c status result = { s with pends := s.pends.filter (fun p => !(p.cmd.ring == c.ring && p.cmd.count == c.count)) })

/-! ### Contexts, regions and quotas -/

/-- CTX_OPEN makes a free context open, a coded one in the lowest free block CROWNED at C = S = STEP with both complements and the key
(R470), stopped where the CU has stopped its number before (R400); CTX_CLOSE puts an idle open context into CLOSING and waits for its commands (R471). -/
def Obligations.ContextCommandsComplete : Prop :=
  (∀ (e : Ev) (c : Cmd) (s : State), let b := s.begin e
    b.rowTakes c 0x01 true = true → (∀ p ∈ b.pends, p.job = .deferred → p.cmd.opcode = 1 → p.cmd.ctx ≠ c.ctx) → Tab.get b.ctxs c.ctx = none → c.modeBit 0 = false →
    c.u64 16 = 0 → c.u64 24 = 0 → c.u64 32 = 0 →
    exec (.ctxOpen e c) s = .next (State.finish (State.post { b with
      ctxs := Tab.set b.ctxs c.ctx { closing := false, coded := false, upper := 0, lowerQ := 0 } } c 0 0))) ∧
  (∀ (e : Ev) (c : Cmd) (block : Nat) (s : State), let b := s.begin e
    b.rowTakes c 0x01 true = true → (∀ p ∈ b.pends, p.job = .deferred → p.cmd.opcode = 1 → p.cmd.ctx ≠ c.ctx) → Tab.get b.ctxs c.ctx = none → c.modeBit 0 = true →
    b.freeBlock = some block → c.u64 32 < 2 ^ 56 →
    let step := BitVec.ofNat 64 (c.u64 32)
    let k := { Coded.opened c.ctx step (BitVec.ofNat 128 (field c.bytes 16 16)) with stopped := b.cu.stoppedCtxs.contains c.ctx }
    exec (.ctxOpen e c) s = .next (State.finish (State.post { b with
      ctxs := Tab.set b.ctxs c.ctx { closing := false, coded := true, upper := 0, lowerQ := 0 },
      coded := Tab.set b.coded block k } c 0 0)) ∧
    k.c = step ∧ k.s = step ∧ k.port = step ∧ k.pairsOk = true ∧ k.phase = .crowned ∧ k.glove = none ∧ k.hb = none) ∧
  (∀ (e : Ev) (c : Cmd) (x : Ctx) (s : State), let b := s.begin e
    b.rowTakes c 0x02 true = true → Tab.get b.ctxs c.ctx = some x → x.closing = false → b.gloveOf c.ctx = none → b.ctxBusy c.ctx = false →
    exec (.ctxClose e c) s = .next (State.finish (State.hold { b with
      ctxs := Tab.set b.ctxs c.ctx { x with closing := true } } c (.ctxClose c.ctx))))

/-- Regions: a REGION_MAP whose parameters are sound and whose context has the quota maps a free number with never-written pages and fresh
entries and answers it in RESULT (R52, R63, R347, R382, R472); REGION_UNMAP takes a region away at once, or after the fill that runs in
it (R473); REGION_FILL starts, or waits for the fill before it, and each page of it is the pattern (R386, R387).
QUOTA_SET gives an open context its two quotas (R347); in mode POOL it replaces the tile pool by a fresh area, or with length zero by
none, and serves the promotions that wait (R331). -/
def Obligations.RegionCommandsComplete : Prop :=
  (∀ (e : Ev) (c : Cmd) (kind : Kind) (n : Nat) (s : State), let b := s.begin e
    let r := mapRequest c kind 0
    b.rowTakes c 0x03 true = true → b.mapAgain c = false → b.unmappingUnder c = [] → b.ctxOpen c.ctx = true →
    kindOf (c.mode % 8) = some kind →
    (kind.twoHanded = true → (b.codedOf c.ctx).isSome = true ∧ b.gloveOf c.ctx = none) → b.mapBad c r = none →
    (kind = .tier → (c.modeBit 4 = false → b.upperCharge c.ctx + c.u64 24 / 262144 ≤ b.upperQuota c.ctx) ∧
      (c.modeBit 4 = true → b.lowerCharge c.ctx + c.u64 24 / 262144 ≤ b.lowerQuota c.ctx)) → b.freeRegion = some n →
    exec (.regionMap e c) s = .next (State.finish ((b.addRegion { r with num := n }).post c 0 n))) ∧
  (∀ (e : Ev) (c : Cmd) (r : Region) (s : State), let b := s.begin e
    b.rowTakes c 0x04 true = true → b.ctxOpen c.ctx = true → b.region? (c.u16 16) = some r → r.kind.mappable = true → r.owner = c.ctx →
    r.unmapping = false → (r.kind.twoHanded = true → b.gloveOf c.ctx = none) → (r.lowerTier = true → b.tilesInUse r.num = false) →
    exec (.regionUnmap e c) s = .next (State.finish (if r.fill = none then (b.removeRegion r.num).post c 0 0
      else (b.modRegion r.num (fun r => { r with unmapping := true })).hold c (.regionUnmap r.num)))) ∧
  (∀ (e : Ev) (c : Cmd) (r : Region) (s : State), let b := s.begin e
    b.rowTakes c 0x05 true = true → b.ctxOpen c.ctx = true → b.region? (c.u16 16) = some r → r.kind.mappable = true →
    r.owner = c.ctx → r.kind.twoHanded = false → b.tilesInUse r.num = false →
    exec (.regionFill e c) s = .next (State.finish (if r.fill = none
      then (b.hold c (.regionFill r.num)).startFill r (BitVec.ofNat 64 (c.u64 24)) else b.hold c (.regionFill r.num)))) ∧
  (∀ (e : Ev) (num k : Nat) (i : Fin 16) (r : Region) (f : Fill) (s : State), let b := (s.at e).checkPairs.checkTs
    b.region? num = some r → r.fill = some f → f.todo.find? (fun k => keyInst k = i) = some k →
    let u := if r.kind.pageCoded then b.storePage k (patternPage f.pattern) noTags else b.storePass k 0 (patternPage f.pattern)
    exec (.regionFillPageWrite e num i) s = .next (State.finish (State.modRegion
      { u with lostPages := u.lostPages.filter (fun p => !(p.1 == r.num && pageKey true (r.base / 4096 + p.2.2) == k)) } r.num
      (fun r => { r with fill := r.fill.map (fun f =>
        { f with todo := f.todo.filter (fun q => q != k), written := f.written + 4096 }) })))) ∧
  (∀ (e : Ev) (c : Cmd) (x : Ctx) (s : State), let b := s.begin e
    b.rowTakes c 0x64 (!c.modeBit 0) = true → Tab.get b.ctxs (c.u8 16) = some x → x.closing = false →
    exec (.quotaSet e c) s = .next (State.finish (State.post { b with
      ctxs := Tab.set b.ctxs (c.u8 16) { x with upper := c.u32 24, lowerQ := c.u32 28 } } c 0 0))) ∧
  (∀ (e : Ev) (c : Cmd) (n : Nat) (s : State), let b := s.begin e
    let v : State := { b with frames := [], regions := b.regions.filter (fun r => !(r.kind == .pool)) }
    let u := if c.u64 40 = 0 then v else v.addRegion (areaOf n .pool false 0xFF (c.u64 32) (c.u64 40))
    b.rowTakes c 0x64 (c.modeBit 0) = true → (∀ f ∈ b.frames, f.state = .idle) →
    (match b.pool with
      | some r => some r.num
      | none => b.freeRegion) = some n →
    c.u64 32 % 262144 = 0 → c.u64 40 % 262144 = 0 → c.u64 40 ≤ 2 ^ 38 →
    (0 < c.u64 40 → c.u64 32 + c.u64 40 ≤ tierBytes false ∧
      b.rangeTaken false (c.u64 32) (c.u64 40) (fun r => r.kind == .pool) = false) →
    exec (.quotaSetPool e c) s = .next (State.finish ((serveWaiters u.promos.length u).post c 0 0)))

/-! ### Gloves -/

/-- GLOVE_FORM that passes its local checks makes the context's glove FORMING and starts the FORM collective with the member's record (R126 to
R128); GLOVE_DISSOLVE of an idle formed glove makes it DISSOLVING and starts its collective among the live members (R135, R136);
GLOVE_QUERY writes the 64-byte glove record and answers the glove's state (R134); the form pass sends its next delta (R130).
The record has 64 bytes and names no glove where there is none. -/
def Obligations.GloveCommandsComplete : Prop :=
  (∀ (e : Ev) (c : Cmd) (t : List Byte) (k : Coded) (u w s : State), let b := s.begin e
    let n := c.u8 18
    let m := w.chosenM (c.u8 19)
    let hash := w.placementHash t n
    let rec' : CollRec :=
      { verdict := 1, status := 0, member := c.u8 20, role := 0, c := k.c.toNat, palm := w.palmCount c.ctx,
        layout := (w.layoutHash c.ctx).toNat, lanes := w.lanesWord.toNat, place := hash.toNat,
        tlim := (w.periodLimit c.ctx (c.u64 32)).getD 0, groups := [] }
    b.rowTakes c 0x10 true = true → b.formDeferred c = false → b.dissolving c.ctx (c.u16 16) = false → b.ctxOpen c.ctx = true →
    b.cu.evac = false → 4 ≤ n → n ≤ 32 → c.u8 20 < n → b.readPlacement c.ctx (c.u64 40) n = (u, some t) →
    u.collOf (formKey c.ctx (c.u16 16) 0) = none → u.collOf (formKey c.ctx (c.u16 16) 1) = none →
    u.formCheck c t false = (w, none) → w.codedOf c.ctx = some k →
    exec (.gloveForm e c) s = .next (State.finish (((w.modCoded c.ctx (fun k => { k with
      glove := some (formingGlove c m t hash) })).startColl c (formKey c.ctx (c.u16 16) 0) (c.u16 16) (c.u8 20) 0
        ((List.range n).map (fun i => (i, placeCoord t i))) rec'.bytes t).hold c (.gloveForm c.ctx)))) ∧
  (∀ (e : Ev) (c : Cmd) (k : Coded) (gl : Glove) (s : State), let b := s.begin e
    b.rowTakes c 0x11 true = true → b.ctxOpen c.ctx = true → b.codedOf c.ctx = some k → b.gloveOf c.ctx = some gl →
    gl.state.formed = true → b.gloveBusy c.ctx k = false → b.cu.fabric.verified = true →
    let w := b.modGlove c.ctx (fun g => { g with state := .dissolving })
    let rec' : CollRec :=
      { verdict := 1, status := 0, member := gl.g.me, role := 0, c := k.c.toNat, palm := w.palmCount c.ctx,
        layout := (w.layoutHash c.ctx).toNat, lanes := w.lanesWord.toNat, place := 0, tlim := noLimit, groups := [] }
    exec (.gloveDissolve e c) s = .next (State.finish ((w.startColl c (dissolveKey c.ctx gl.g.id) gl.g.id gl.g.me gl.head
      (gl.live.map (fun i => (i, gl.g.coord i))) rec'.bytes []).hold c (.gloveDissolve c.ctx)))) ∧
  (∀ (e : Ev) (c : Cmd) (s : State), let b := s.begin e
    b.rowTakes c 0x12 true = true → b.ctxOpen c.ctx = true → c.u64 16 % 64 = 0 → b.bufferOk c.ctx (c.u64 16) 64 = true →
    exec (.gloveQuery e c) s = .next (State.finish ((b.bufferWrite (c.u64 16) (b.gloveRecord c.ctx)).post c 0
      (match b.gloveOf c.ctx with
        | some g => g.state.code
        | none => 0)))) ∧
  (∀ (e : Ev) (ctx : Nat) (d : Delta) (s : State), let b := (s.at e).checkPairs.checkTs
    b.deltas.find? (fun d => d.ctx == ctx && d.form) = some d →
    exec (.formPassSend e ctx) s = .next (State.finish (State.sendDelta { b with
      deltas := d :: delFirst (fun x => x == d) b.deltas } (instIdx d.inst)))) ∧
  (∀ (s : State) (ctx : Nat), (s.gloveRecord ctx).length = 64 ∧
    (s.gloveOf ctx = none → field (s.gloveRecord ctx) 0 2 = 0xFFFF) ∧
    ∀ k gl, s.codedOf ctx = some k → s.gloveOf ctx = some gl → gl.g.id < 2 ^ 16 → gl.g.n < 2 ^ 8 → gl.g.m < 2 ^ 8 →
      field (s.gloveRecord ctx) 0 2 = gl.g.id ∧ field (s.gloveRecord ctx) 4 1 = gl.g.n ∧ field (s.gloveRecord ctx) 5 1 = gl.g.m ∧
        field (s.gloveRecord ctx) 8 4 = gl.lostMask.toNat ∧ field (s.gloveRecord ctx) 0x28 8 = k.c.toNat)

/-! ### The step cycle -/

/-- STEP_OPEN opens step C + 1 of a crowned context in a glove that takes steps: S and the step and key port take it with their complements, the
drain window is set from its start, and RESULT is the step (R83, R85, R141 to R143).
DRAIN_CLOSE closes the open step, forms every delta that has a write and waits for the drain (R79, R80, R164); CROWN reads the crown table and
puts the closed step into VOTING with its window, ending an earlier CROWN of the context (R166 to R172, R476); ROLLBACK discards an open
or closed step and an undecided one, marks a voting one, casts NO in a voted one, waits for a discard in progress, is BUSY once the step is decided, and completes at once where the context is
CROWNED (R190, R191). -/
def Obligations.StepCommandsComplete : Prop :=
  (∀ (e : Ev) (c : Cmd) (k : Coded) (s : State), let b := s.begin e
    b.rowTakes c 0x20 true = true → b.ctxOpen c.ctx = true → b.codedOf c.ctx = some k →
    ((b.gloveOf c.ctx).any (fun gl => gl.state.steps) = true ∨ k.asWitness.isSome = true) → k.stopped = false → k.phase = .crowned → c.u64 16 = k.c.toNat + 1 → c.u64 16 < 2 ^ 56 →
    k.sweeping = false → b.bandOk = true → b.stepWithheld c.ctx k = false →
    let start := if c.u64 24 = 0 then b.now else c.u64 24
    let w := if b.coded.all (fun p => p.2.phase == Phase.crowned) then b.modCu (fun c => { c with bexliWeight := c.weight }) else b
    exec (.stepOpen e c) s = .next (State.finish (((w.modCoded c.ctx (fun k => { k with
      s := BitVec.ofNat 64 (c.u64 16), sInv := ~~~BitVec.ofNat 64 (c.u64 16), port := BitVec.ofNat 64 (c.u64 16),
      portInv := ~~~BitVec.ofNat 64 (c.u64 16), phase := .opened, drainStart := start,
      drainDeadline := start + b.cu.drainWindow, govTarget := start + b.cu.drainWindow * b.cu.drainTarget / 100,
      deadlinePast := false, drained := false, sent := [], formed := [], lostInStep := false, rolling := false })).restartRooted
        c.ctx).post c 0 (c.u64 16)))) ∧
  (∀ (e : Ev) (c : Cmd) (k : Coded) (s : State), let b := s.begin e
    b.rowTakes c 0x21 true = true → b.ctxOpen c.ctx = true → b.codedOf c.ctx = some k → k.phase = .opened → c.u64 16 = k.s.toNat →
    let w := (b.applyPairingWrites c.ctx).modCoded c.ctx (fun k => { k with phase := .closed })
    let v : State := { w with pairs := w.pairs.filter (fun p => p.ctx != c.ctx || p.cover != 0) }
    exec (.drainClose e c) s = .next (State.finish (v.formAll.hold c (.drainClose c.ctx)))) ∧
  (∀ (e : Ev) (c : Cmd) (k : Coded) (gl : Glove) (bytes : List Byte) (entries : List (Nat × Coord)) (at' : Nat) (u s : State),
    let b := s.begin e
    b.rowTakes c 0x22 true = true → b.ctxOpen c.ctx = true → b.codedOf c.ctx = some k → b.gloveOf c.ctx = some gl →
    k.stopped = false → k.phase = .closed → c.u64 16 = k.s.toNat → b.readTable c.ctx (c.u64 32) = (u, some (bytes, entries)) →
    (List.range entries.length).filter (fun e => (entries.getD e (0, ⟨0, 0, 0⟩)).1 == gl.g.id) = [at'] →
    let v : CrownVote :=
      { step := k.stepField, parts := gl.live, entries := entries, mine := at', tableHash := sha384Word bytes,
        base := (if c.u64 24 = 0 then k.drainDeadline else c.u64 24) + u.cu.voteTimeout, tmo := u.cu.voteTimeout,
        d := u.cu.crownDist, guard := u.cu.crownGuard, cast := none, holdFrom := none, witnessUntil := 0, testHold := 0,
        drainedAt := if k.drained then k.drainedAt else 0, recs := [], kids := [], sentUp := none, ended := false, skew := false,
        badTable := false }
    exec (.crown e c) s = .next (State.finish (((u.endCrown c.ctx ((k.vote.map (·.step)).getD v.step)).modCoded c.ctx (fun k => { k with phase := .voting, vote := some v })).hold c
      (.crown c.ctx)))) ∧
  (∀ (e : Ev) (c : Cmd) (k : Coded) (s : State), let b := s.begin e
    b.rowTakes c 0x23 true = true → b.ctxOpen c.ctx = true → b.codedOf c.ctx = some k →
    (k.phase = .crowned → exec (.rollback e c) s = .next (State.finish (b.post c 0 0))) ∧
    (k.phase = .opened ∨ k.phase = .closed →
      exec (.rollback e c) s = .next (State.finish ((b.hold c (.rollback c.ctx)).beginDiscard c.ctx b.now))) ∧
    (k.phase = .discarding → exec (.rollback e c) s = .next (State.finish (b.hold c (.rollback c.ctx)))) ∧
    (k.phase = .voting → exec (.rollback e c) s = .next (State.finish ((b.modCoded c.ctx (fun k => { k with
      rolling := true })).hold c (.rollback c.ctx)))) ∧
    (∀ gl, k.phase = .voted → b.gloveOf c.ctx = some gl → b.cu.evac = false → exec (.rollback e c) s = .next (State.finish
      (((b.modCoded c.ctx (fun k => { k with rolling := true })).hold c (.rollback c.ctx)).castVote c.ctx gl .no 0x14))) ∧
    (k.phase = .undecided → exec (.rollback e c) s = .next (State.finish (((b.modCoded c.ctx (fun k => k.modVote (fun v => { v with
      ended := true }))).hold c (.rollback c.ctx)).beginDiscard c.ctx b.now))) ∧
    (k.phase = .decided → exec (.rollback e c) s = .next (State.finish (b.post c 0x14 0))))

/-- The timed events of a step: a chip that has drained ends DRAIN_CLOSE with OK, or DRAIN_LATE past the deadline (R157, R165), and as a
witness freezes its digests and sends them (R316); the passed
deadline raises DRAIN_DEADLINE once and sets every upper rate to its ceiling (R163); a node's close turns its first missing
member into a NO (R173); the discard's end makes the context CROWNED (R81). -/
def Obligations.DrainAndVoteTimersComplete : Prop :=
  (∀ (e : Ev) (ctx : Nat) (k : Coded) (s : State), let b := s.begin e
    b.codedOf ctx = some k → k.phase = .closed ∨ k.phase = .voting → k.drained = false → b.drainedNow ctx = true →
    let w := b.modCoded ctx (fun k => { k.modVote (fun v => { v with drainedAt := b.now }) with drained := true, drainedAt := b.now })
    let u := match k.asWitness with
      | some x => ((w.freezeRooted ctx).rootFaults ctx).sendDigests ctx x
      | none => w
    exec (.chipDrained e ctx) s = .next (State.finish (u.endJobs (fun j => j == .drainClose ctx)
      (if u.now ≤ k.drainDeadline then 0 else 0x31) k.sentBytes u.now))) ∧
  (∀ (e : Ev) (ctx : Nat) (k : Coded) (s : State), let b := (s.at e).checkPairs.checkTs
    b.codedOf ctx = some k → k.phase = .opened ∨ k.phase = .closed ∨ k.phase = .voting → k.drained = false → k.deadlinePast = false →
    k.drainDeadline ≤ b.now →
    let w := (b.raiseAt 16 8 k.drainDeadline (packWord [(32, ctx)]) (BitVec.ofNat 64 (b.unacked ctx))).setBoost false
    exec (.drainDeadline e ctx) s = .next (State.finish ((w.modCoded ctx (fun k => { k with deadlinePast := true })).modUppers
      (fun x => { x with gov := { x.gov with rate := x.gov.ceiling } })))) ∧
  (∀ (e : Ev) (ctx i : Nat) (k : Coded) (gl : Glove) (v : CrownVote) (s : State), let b := s.begin e
    b.codedOf ctx = some k → b.gloveOf ctx = some gl → k.vote = some v → v.ended = false → v.isHead gl = true → v.close gl ≤ b.now →
    v.parts.find? (fun i => (Tab.get v.recs i).isNone) = some i → b.cu.fwFault = false → b.cu.evac = false →
    let no : VoteRec := { verdict := 3, status := 0x32, member := i, hb := 6, origin := v.mine, testHold := 0, holdUntil := 0,
                          drainedAt := 0, hbLast := 0, tableHash := v.tableHash.toNat, groups := [], digest := [], tally := [] }
    exec (.voteClose e ctx) s = .next (State.finish (b.modCoded ctx (fun k => k.modVote (fun v =>
      { v with recs := Tab.set v.recs missingKey no.bytes }))))) ∧
  (∀ (e : Ev) (ctx : Nat) (k : Coded) (s : State), let b := s.begin e
    b.codedOf ctx = some k → k.phase = .discarding →
    exec (.discardDone e ctx) s = .next (State.finish (b.finishDiscard ctx)))

/-- The crown's moment: at T a decided context takes C = S with its complement, is CROWNED at T with attempt 0, takes the decision's bank
for those of its records that pass R91, serves its touched stitches flipped, completes CROWN with OK and the stamp T, and starts the
hatbox and the handover that are due (R84, R139, R180 to R182, R243, R258); nothing of it happens before T. -/
def Obligations.CrownTakesEffectCompletes : Prop :=
  (∀ (e : Ev) (ctx T : Nat) (k : Coded) (gl : Glove) (d : Decision) (bank : List (Nat × List Byte)) (v s : State), let b := s.begin e
    b.codedOf ctx = some k → b.gloveOf ctx = some gl → k.phase = .decided → k.decision = some d → d.time = some T → T ≤ b.now →
    (b.checkSteps ctx).checkBank ctx d.bank = (v, bank) →
    let u := (v.modCoded ctx (fun k => { (k.setC k.s).setBank k.s.toNat bank with
      phase := .crowned, attempt := 0, byCrown := true, expect := k.sent, crownTime := T, sweeping := true,
      drained := false, groupsHash := 0, hostedHash := [], restored := none, lostInStep := false, badHand := false, unfolded := [],
      rolling := false, decision := none, vote := none, witness := k.witness.filter (fun x => !x.completed) })).modCu (fun c =>
        { c with lastCrown := some T, gapOpen := true,
                 gap := match c.gapOpen, c.lastCrown with
                   | true, some u => some (T - u)
                   | _, _ => c.gap })
    let w := (u.crownWeights ctx).endJobs (fun j => j == .crown ctx) 0 (crownResult d) T
    exec (.crownTakesEffect e ctx) s =
      .next (State.finish ((if d.hbStart then w.startHatbox ctx d.hbSlot T else w).beginHandover ctx)) ∧
    ∃ k', u.codedOf ctx = some k' ∧ k'.s = k.s ∧ k'.c = k.s ∧ k'.cInv = ~~~k.s ∧ k'.phase = .crowned ∧ k'.attempt = 0 ∧
      k'.sweeping = true ∧ k'.crownTime = T ∧ k'.vote = none ∧ k'.decision = none) ∧
  (∀ (e : Ev) (ctx T : Nat) (k : Coded) (d : Decision) (s : State), let b := s.begin e
    b.codedOf ctx = some k → k.phase = .decided → k.decision = some d → d.time = some T → b.now < T →
    exec (.crownTakesEffect e ctx) s = .next b.finish)

/-- After the crown: the sweep writes back the folds and flips every touched entry, which then is untouched and has content, and marks the
hosted stitches of a seat under admission for another copy (R64, R66, R183, R242); a
voted member without a decision becomes UNDECIDED, a voting one discards, both with COLL_TIMEOUT (R189, R576); a hold at its bound ends:
the witness's as unresolved, the hatbox copy abandoned, the test abandoned at T − G (R186, R559). -/
def Obligations.CrownTimersComplete : Prop :=
  (∀ (e : Ev) (ctx : Nat) (k : Coded) (s : State), let b := s.begin e
    b.codedOf ctx = some k → k.sweeping = true →
    let hosted := fun (r : Region) => k.admission.any (fun a => !a.isNew && r.kind == .hosting a.member)
    let w := b.writeFolds ctx
    let u := (w.touched ctx).foldl (fun t p => t.sweepStitch (hosted p.1) p.1 p.2) w
    let v := u.dropSent (fun x => x.ctx == ctx && x.msg.type == tDarnDone && k.admission.any (fun a =>
      !a.isNew && x.msg.chSeat 0 == a.member && x.member == 0xFD))
    exec (.flipSweepDone e ctx) s =
      .next (State.finish ((v.modCoded ctx (fun k => { k with sweeping := false })).testGap.retryDeltas))) ∧
  (∀ (s : State) (mark right : Bool) (r : Region) (idx : Nat) (u : State), s.crownedHand r idx = (u, some right) →
    let x := u.stitch r.num idx
    (s.sweepStitch mark r idx).stitch r.num idx =
      { x with hand := handBits right, touch := false, lacks := false, copy := x.copy || mark }) ∧
  (∀ (e : Ev) (ctx : Nat) (k : Coded) (gl : Glove) (v : CrownVote) (s : State), let b := s.begin e
    b.codedOf ctx = some k → b.gloveOf ctx = some gl → k.vote = some v → v.ended = false → v.close gl + v.tmo ≤ b.now →
    (k.phase = .voted → exec (.undecidedTimeout e ctx) s = .next (State.finish (((b.modCoded ctx (fun k => { k with
      phase := .undecided })).raise 16 24 (packWord [(0, 0xFFFF), (16, 1), (32, ctx)]) v.step).endJobs (fun j => j == .crown ctx)
        0x44 0 b.now))) ∧
    (k.phase = .voting → exec (.votingTimeout e ctx) s = .next (State.finish ((((b.modCoded ctx (fun k => k.modVote (fun v => { v with
      ended := true }))).raise 16 24 (packWord [(0, 0xFFFF), (16, 1), (32, ctx)]) v.step).endJobs (fun j => j == .crown ctx)
        0x44 0 b.now).beginDiscard ctx b.now)))) ∧
  (∀ (e : Ev) (ctx since : Nat) (k : Coded) (gl : Glove) (v : CrownVote) (s : State), let b := s.begin e
    b.codedOf ctx = some k → b.gloveOf ctx = some gl → k.vote = some v → v.cast = some .hold → v.holdFrom = some since →
    (k.hatboxHold = true → since + 2000000000 ≤ b.now →
      exec (.holdBound e ctx .hatbox) s = .next (State.finish (b.abandonCopy ctx hbBound gl.g.me))) ∧
    (k.witnessHold = true → v.witnessUntil ≤ b.now →
      let u := b.unresolved ctx 2 gl k.s.toNat
      exec (.holdBound e ctx .witness) s = .next (State.finish ((k.suspectRoles.foldl (fun t x => if x.completed then t
          else t.endWitness ctx x.w roleSuspect 0x37 (x.result.getD 0xFF)) u).modCoded ctx (fun k => { k with
        witness := k.witness.map (fun x => if x.role == roleSuspect && x.step == k.s.toNat then { x with verdict := some 2 }
          else x) }))))) ∧
  (∀ (e : Ev) (ctx : Nat) (k : Coded) (d : Decision) (s : State), let b := s.begin e
    b.codedOf ctx = some k → k.decision = some d → (d.time).getD 0 ≤ b.now + k.voteGuard b.cu.crownGuard →
    exec (.holdBound e ctx .test) s = .next (State.finish b.abandonTests))

/-! ### Witnesses -/

/-- WITNESS_ARM that passes its local checks starts the WITNESS collective of its step, glove and number with the chip's record, on a
member or the suspect and on the witness chip (R311, R409, R427); WITNESS_VERDICT settles every suspect role of the step that waits and
completes each with the status of the verdict (R321, R322). -/
def Obligations.WitnessCommandsComplete : Prop :=
  (∀ (e : Ev) (c : Cmd) (k : Coded) (gl : Glove) (labels : List Byte) (u s : State), let b := s.begin e
    let key := witnessKey c.ctx (c.u64 16) (c.u16 24) (c.u8 27)
    b.rowTakes c 0x24 true = true → b.ctxOpen c.ctx = true → armBad c = none → (∀ x, b.codedOf c.ctx = some x → x.stopped = false) →
    c.mode % 4 ≠ 2 → b.readLabels c = (u, some labels) → u.codedOf c.ctx = some k → u.gloveOf c.ctx = some gl → gl.g.id = c.u16 24 →
    c.u8 26 < gl.g.n → (c.mode % 4 = 1 ↔ gl.g.me = c.u8 26) → u.armRows c k gl (u.reportRow c gl) false = none →
    u.cu.fabric.verified = true → u.collOf key = none →
    let rec' := u.seatRecord c.ctx k none gl.g.me (if c.mode % 4 = 1 then 3 else 0) (u.placementHash gl.g.place gl.g.n).toNat noLimit
    exec (.witnessArm e c) s = .next (State.finish ((u.startColl c key (c.u16 24) gl.g.me (arbiterOf (c.u8 26))
      (armParts gl.g.n gl.g.place c) rec'.bytes (labels ++ gl.g.place)).hold c (.witness c.ctx (c.u8 27) (c.mode % 4))))) ∧
  (∀ (e : Ev) (c : Cmd) (k : Coded) (x : SeatInfo) (labels t : List Byte) (u v w s : State), let b := s.begin e
    let key := witnessKey c.ctx (c.u64 16) (c.u16 24) (c.u8 27)
    b.rowTakes c 0x24 true = true → b.ctxOpen c.ctx = true → armBad c = none → (∀ x, b.codedOf c.ctx = some x → x.stopped = false) →
    c.mode % 4 = 2 → b.readLabels c = (u, some labels) → u.codedOf c.ctx = some k → Tab.get u.infos c.ctx = some x → c.u8 26 < x.n →
    u.collOf key = none → u.tableRow c.ctx (c.u64 56) x.n 56 = (v, t, none) → t ≠ [] →
    v.armWitnessRows c k x none false = (w, none) → w.cu.fabric.verified = true → w.collOf key = none →
    let rec' := w.seatRecord c.ctx k none 254 2 (w.placementHash t x.n).toNat noLimit
    exec (.witnessArm e c) s = .next (State.finish ((w.startColl c key (c.u16 24) 254 (arbiterOf (c.u8 26)) (armParts x.n t c)
      rec'.bytes (labels ++ t)).hold c (.witness c.ctx (c.u8 27) (c.mode % 4))))) ∧
  (∀ (e : Ev) (c : Cmd) (gl : Glove) (s : State), let b := s.begin e
    let roles := (b.witnesses c.ctx).filter (fun x => x.role == 1 && x.step == c.u64 16 && !x.trail && !x.completed)
    b.rowTakes c 0x25 true = true → b.ctxOpen c.ctx = true → b.gloveOf c.ctx = some gl → roles ≠ [] → c.u8 24 ≤ 2 →
    (c.u8 24 = 0 → b.cu.fuses.witness = true → ∃ x ∈ roles, x.result = some 0 ∨ x.result = some 3) →
    let u := if c.u8 24 = 2 then b.unresolved c.ctx 3 gl (c.u64 16) else b
    exec (.witnessVerdict e c) s = .next (State.finish ((roles.foldl (fun t x =>
      (t.modWitness c.ctx x.w 1 (fun y => { y with verdict := some (c.u8 24) })).endWitness c.ctx x.w 1
        (if c.u8 24 = 0 then 0 else if c.u8 24 = 1 then 0x36 else 0x37) (x.result.getD 0xFF)) u).post c 0 0)))

/-! ### Darning and seats -/

/-- DARN_START on a member, of a stand-in and on the spare, and STANDIN_ASSIGN, that pass their local checks start their collective with
the chip's record (R216, R218, R222, R228, R409); DARN_STITCH issues the chain of its stitch, or joins the one that rebuilds it, and waits
for it (R236); a background darn issues the chain of the unfilled stitch of the lowest stripe whose data is in place, and a stitch that no
chain can rebuild has failed (R202, R213). -/
def Obligations.DarnCommandsComplete : Prop :=
  (∀ (e : Ev) (c : Cmd) (k : Coded) (gl : Glove) (t : List Byte) (u w s : State), let b := s.begin e
    let key := darnKey c.ctx gl.g.id (c.u8 17)
    let named := decide (c.u8 16 < gl.g.n) && gl.lostMask.getLsbD (c.u8 16) && !u.darnRuns c.ctx (c.u8 16) &&
      ((gl.dealOf (c.u8 16)).isSome == false)
    b.rowTakes c 0x30 true = true → b.ctxOpen c.ctx = true → c.u8 17 ≤ 3 → b.codedOf c.ctx = some k → k.stopped = false →
    k.glove = some gl → gl.g.id = c.u16 18 → b.cu.evac = false → c.modeBit 0 = false → c.u64 32 = 0 →
    b.tableRow c.ctx (c.u64 24) gl.g.n 24 = (u, t, none) →
    u.memberRows c.ctx gl k none named (u.darnTaken c.ctx (c.u8 17)) true true t = (w, none) → w.collOf key = none →
    let rec' := w.seatRecord c.ctx k none gl.g.me 0 (w.placementHash t gl.g.n).toNat noLimit
    exec (.darnStart e c) s = .next (State.finish ((w.startColl c key gl.g.id gl.g.me gl.head (gl.seatParts (c.u8 16) t) rec'.bytes
      t).hold c (.darn c.ctx (c.u8 17))))) ∧
  (∀ (e : Ev) (c : Cmd) (k : Coded) (gl : Glove) (w s : State), let b := s.begin e
    let key := darnKey c.ctx gl.g.id (c.u8 17)
    let named := decide (c.u8 16 < gl.g.n) && gl.lostMask.getLsbD (c.u8 16) && !b.darnRuns c.ctx (c.u8 16) &&
      ((gl.dealOf (c.u8 16)).isSome == true)
    b.rowTakes c 0x30 true = true → b.ctxOpen c.ctx = true → c.u8 17 ≤ 3 → b.codedOf c.ctx = some k → k.stopped = false →
    k.glove = some gl → gl.g.id = c.u16 18 → b.cu.evac = false → c.modeBit 0 = true → c.u64 24 = 0 → c.u64 32 = 0 →
    b.memberRows c.ctx gl k none named (b.darnTaken c.ctx (c.u8 17)) true true gl.g.place = (w, none) → w.collOf key = none →
    let rec' := w.seatRecord c.ctx k none gl.g.me 0 (w.placementHash gl.g.place gl.g.n).toNat noLimit
    exec (.darnStart e c) s = .next (State.finish ((w.startColl c key gl.g.id gl.g.me gl.head
      (gl.live.map (fun i => (i, gl.g.coord i))) rec'.bytes gl.g.place).hold c (.darn c.ctx (c.u8 17))))) ∧
  (∀ (e : Ev) (c : Cmd) (k : Coded) (x : SeatInfo) (t : List Byte) (u w s : State), let b := s.begin e
    let key := darnKey c.ctx (c.u16 18) (c.u8 17)
    b.rowTakes c 0x30 true = true → b.ctxOpen c.ctx = true → c.u8 17 ≤ 3 → b.codedOf c.ctx = some k → k.stopped = false →
    k.glove = none → Tab.get b.infos c.ctx = some x → c.modeBit 0 = false → c.u8 16 < x.n →
    b.tableRow c.ctx (c.u64 24) x.n 24 = (u, t, none) → t ≠ [] →
    u.spareRows c.ctx (c.u8 16) (c.u64 32) k x none (u.darnTaken c.ctx (c.u8 17)) t = (w, none) → w.collOf key = none →
    let live := (List.range x.n).filter (fun i => !x.lost.getLsbD i && i != c.u8 16)
    let rec' := w.seatRecord c.ctx k none (c.u8 16) 1 (w.placementHash t x.n).toNat ((w.periodLimit c.ctx (c.u64 32)).getD 0)
    exec (.darnStart e c) s = .next (State.finish ((w.startColl c key (c.u16 18) (c.u8 16) (live.head?.getD 0)
      (seatParts live (c.u8 16) t) rec'.bytes t).hold c (.darn c.ctx (c.u8 17))))) ∧
  (∀ (e : Ev) (c : Cmd) (k : Coded) (gl : Glove) (w s : State), let b := s.begin e
    let key := standinKey c.ctx gl.g.id
    let named := decide (c.u8 16 < gl.g.n) && gl.lostMask.getLsbD (c.u8 16) && !b.darnRuns c.ctx (c.u8 16)
    b.rowTakes c 0x32 true = true → b.ctxOpen c.ctx = true → b.codedOf c.ctx = some k → b.gloveOf c.ctx = some gl → c.u8 17 ≤ 16 →
    (c.u8 16 < gl.g.n → c.u64 32 ≤ gl.g.palmOf (c.u8 16)) → b.collOf key = none →
    b.memberRows c.ctx gl k none named b.darnsFull false (b.hostingOk c.ctx gl (c.u8 16) (c.u64 24) (planDeal gl c).2) gl.g.place =
      (w, none) → w.cu.fabric.verified = true →
    let rec' := w.seatRecord c.ctx k none gl.g.me 0 (w.placementHash gl.g.place gl.g.n).toNat noLimit
    exec (.standinAssign e c) s = .next (State.finish ((w.startColl c key gl.g.id gl.g.me gl.head
      (gl.live.map (fun i => (i, gl.g.coord i))) rec'.bytes gl.g.place).hold c (.standin c.ctx)))) ∧
  (∀ (e : Ev) (c : Cmd) (k : Coded) (gl : Glove) (r : Region) (i : Nat) (s : State), let b := s.begin e
    let w := b.hold c (.darnStitch c.ctx r.num i)
    let v := w.issueChain c.ctx r i .stitch
    b.rowTakes c 0x31 true = true → b.ctxOpen c.ctx = true → b.codedOf c.ctx = some k → b.gloveOf c.ctx = some gl →
    gl.state.formed = true → gl.state ≠ .lost → c.u8 16 < gl.g.n →
    c.u64 24 < (if c.modeBit 0 then gl.g.tmax else gl.g.palmOf (c.u8 16)) →
    b.seatAt c.ctx gl (c.u8 16) (c.modeBit 0) (c.u64 24) = some (r, i) →
    (v.erased c.ctx gl (gl.g.stripeFor (c.u8 16) (c.modeBit 0) (c.u64 24))).length ≤ 4 →
    exec (.darnStitch e c) s = .next (State.finish (if (w.chainFor r.num i).isSome then w else v))) ∧
  (∀ (e : Ev) (ctx num : Nat) (d : Darn) (gl : Glove) (r : Region) (i : Nat) (s : State), let b := s.begin e
    let place := fun (p : Region × Nat) => let q := b.seatOf gl p.1 p.2
      (q.1, gl.g.stripeFor q.1 q.2.1 q.2.2)
    let erased := fun (p : Region × Nat) => (place p).1 :: (b.erased ctx gl (place p).2).filter (· != (place p).1)
    b.darns.find? (fun d => d.ctx == ctx && d.num == num && d.dest) = some d → b.chainGlove ctx = some gl →
    (sortOn (fun p => (place p).2) ((b.fillSet ctx d.areas).filter (fun p => (b.chainFor p.1.num p.2).isNone))).find? (fun p =>
      decide (4 < (erased p).length) || (gl.g.plan (place p).2 (place p).1 (erased p)).isSome) = some (r, i) →
    let v := b.issueChain ctx r i (.background num)
    exec (.backgroundDarnChain e ctx num) s =
      .next (State.finish (if (v.chainFor r.num i).isSome then v else v.afterStitch ctx r.num i .failed)))

/-- EVACUATE marks its suspect lost with cause EVACUATED (R237, R238), and with SELF sets EVAC on its own chip (R239); ADMIT that passes its
local checks starts its collective on a member and on the new chip (R241); a host sends the next copy of an admission to the new chip
(R242). -/
def Obligations.SeatCommandsComplete : Prop :=
  (∀ (e : Ev) (c : Cmd) (k : Coded) (gl : Glove) (s : State), let b := s.begin e
    let bit : BitVec 32 := (1 : BitVec 32) <<< c.u8 16
    b.rowTakes c 0x33 (!c.modeBit 0) = true → b.ctxOpen c.ctx = true → b.codedOf c.ctx = some k → b.gloveOf c.ctx = some gl →
    gl.state.formed = true → c.u8 16 < gl.g.n → c.u8 16 ≠ gl.g.me → k.phase = .crowned →
    b.erasures c.ctx { gl with lostMask := gl.lostMask ||| bit, filling := gl.filling &&& ~~~bit } ≤ gl.g.m →
    exec (.evacuate e c) s = .next (State.finish ((b.loseMember c.ctx (c.u8 16) 4).post c 0 0))) ∧
  (∀ (e : Ev) (c : Cmd) (s : State), let b := s.begin e
    b.rowTakes c 0x33 (c.modeBit 0) = true → c.u8 16 = 0 →
    exec (.evacuateSelf e c) s = .next (State.finish (State.post { b with cu := { b.cu with evac := true } } c 0 0))) ∧
  (∀ (e : Ev) (c : Cmd) (k : Coded) (gl : Glove) (t : List Byte) (u w s : State), let b := s.begin e
    let key := admitKey c.ctx gl.g.id
    b.rowTakes c 0x34 true = true → b.ctxOpen c.ctx = true → b.codedOf c.ctx = some k → k.stopped = false → k.glove = some gl →
    c.modeBit 0 = false → gl.g.id = c.u16 18 → b.cu.evac = false → c.u64 32 = 0 → b.tableRow c.ctx (c.u64 24) gl.g.n 24 = (u, t, none) →
    u.collOf key = none →
    u.memberRows c.ctx gl k none (gl.hosted (c.u8 16) && (u.darnRuns c.ctx (c.u8 16) || u.seatFilled c.ctx gl (c.u8 16)))
      (u.darnRuns c.ctx (c.u8 16) || k.admission.isSome || u.darnsFull) true true t = (w, none) →
    let rec' := w.seatRecord c.ctx k none gl.g.me 0 (w.placementHash t gl.g.n).toNat noLimit
    exec (.admission e c) s = .next (State.finish ((w.startColl c key gl.g.id gl.g.me gl.head (gl.seatParts (c.u8 16) t) rec'.bytes
      t).hold c (.admission c.ctx)))) ∧
  (∀ (e : Ev) (c : Cmd) (k : Coded) (x : SeatInfo) (t : List Byte) (u w s : State), let b := s.begin e
    let key := admitKey c.ctx (c.u16 18)
    b.rowTakes c 0x34 true = true → b.ctxOpen c.ctx = true → b.codedOf c.ctx = some k → k.stopped = false → k.glove = none →
    Tab.get b.infos c.ctx = some x → c.modeBit 0 = true → c.u8 16 < x.n → b.tableRow c.ctx (c.u64 24) x.n 24 = (u, t, none) → t ≠ [] →
    u.collOf key = none →
    u.spareRows c.ctx (c.u8 16) (c.u64 32) k x none (k.admission.isSome || u.darnsFull) t = (w, none) →
    let live := (List.range x.n).filter (fun i => !x.lost.getLsbD i && i != c.u8 16)
    let rec' := w.seatRecord c.ctx k none (c.u8 16) 1 (w.placementHash t x.n).toNat ((w.periodLimit c.ctx (c.u64 32)).getD 0)
    exec (.admission e c) s = .next (State.finish ((w.startColl c key (c.u16 18) (c.u8 16) (live.head?.getD 0)
      (seatParts live (c.u8 16) t) rec'.bytes t).hold c (.admission c.ctx)))) ∧
  (∀ (e : Ev) (ctx : Nat) (a : Admission) (gl : Glove) (r : Region) (i : Nat) (k : Coded) (d y : List Byte) (tag : Word)
      (key : Option Nat) (u w s : State), let b := s.begin e
    let stripe := fun (i : Nat) => let q := b.seatOf gl r i
      gl.g.stripeFor q.1 q.2.1 q.2.2
    let lane := match key with
      | some p => u.codeLane p
      | none => 0
    b.admitRegion ctx = some (a, gl, r) → b.codedOf ctx = some k → b.inGuard ctx = false → k.sweeping = false →
    (b.copySet ctx).find? (fun i => !b.sent.any (fun x => x.ctx == ctx && x.msg.type == tDarnDone && x.member == 0xFD &&
      x.msg.chStripe == stripe i)) = some i →
    b.gloveTerm ctx gl a.member (stripe i) = (u, some (d, tag, key)) → (u.inst[keyInst (r.handKey i false)]).test.running = false →
    u.checked (keyInst (r.handKey i false)) lane pChain d = (w, some y) →
    exec (.admitCopySend e ctx) s = .next (State.finish (w.send (keyInst (r.handKey i false)).val ctx 0xFD
      (placeCoord a.place a.member) (mkWire tDarnDone 0 ctx gl.g.id a.member
        (chainBody (chainWord (stripe i) [a.member] k.c.toNat 0 false) tag 0) (padTo 4096 y)))))

/-! ### Hatboxes and images -/

/-- HATBOX_WRITE asks for a hatbox and waits (R256, R259), other OP values are BAD_PARAM (R481), and CONFIGURE that passes its local checks
starts the HBCONF collective with the group record (R247); a data piece of the copy goes into its slot with the step tag of its hand and,
where this member contributes first, starts the stripe's parity chains (R261); the complete copy is sealed once: the seal record is stored, sent
to every other member and counted (R264). -/
def Obligations.HatboxCommandsComplete : Prop :=
  (∀ (e : Ev) (c : Cmd) (k : Coded) (s : State), let b := s.begin e
    b.rowTakes c 0x40 (c.mode % 4 != 1) = true → b.ctxOpen c.ctx = true →
    (c.mode % 4 = 0 → b.codedOf c.ctx = some k → k.stopped = false → k.hb.isSome = true →
      exec (.hatboxWrite e c) s = .next (State.finish ((b.modCoded c.ctx (fun k => { k with hbReq := true })).hold c
        (.hbWrite c.ctx false)))) ∧
    (2 ≤ c.mode % 4 → exec (.hatboxWrite e c) s = .next (State.finish (b.badParam c 3)))) ∧
  (∀ (e : Ev) (c : Cmd) (k : Coded) (t : List Byte) (u w s : State), let b := s.begin e
    let n := c.u8 18
    let seq := seqLength (lanesUpper u.lanesWord) (u.palmCount c.ctx)
    b.rowTakes c 0x40 (c.mode % 4 == 1) = true → b.ctxOpen c.ctx = true → b.codedOf c.ctx = some k → k.stopped = false →
    k.hbBusy = false → b.collOf (hbKey c.ctx (c.u16 16)) = none → n ≤ 64 → b.readPlacement c.ctx (c.u64 48) n = (u, some t) →
    u.confCheck c seq t = (w, none) → 4 ≤ n → c.u8 20 < n →
    let keeps := match k.hb with
      | some h => h.g.base == c.u64 40 && h.seqLen == seq && h.g.n == n && h.g.m == c.u8 19
      | none => false
    let rec' : GroupRec :=
      { verdict := 1, status := 0, member := c.u8 20, c := k.c.toNat, seq := seq, layout := (w.layoutHash c.ctx).toNat,
        place := (w.placementHash t n).toNat, tlim := if keeps then noLimit else (w.hbLimit c.ctx (c.u64 40) seq).getD 0 }
    exec (.hatboxConfigure e c) s = .next (State.finish ((w.startColl c (hbKey c.ctx (c.u16 16)) (c.u16 16) (c.u8 20) 0
      ((List.range n).map (fun i => (i, placeCoord t i))) rec'.bytes t).hold c (.hbConf c.ctx)))) ∧
  (∀ (e : Ev) (ctx : Nat) (h : HbGroup) (k : Coded) (c : HbCopy) (data : List Byte) (tag : Word) (u s : State), let b := s.begin e
    b.hbOf ctx = some h → b.codedOf ctx = some k → h.copy = some c → c.next < h.g.tmax * (h.g.period - 1) → b.cu.fwFault = false →
    b.pieceTested ctx h c.slot c.next = false → (c.next < h.seqLen → (b.useGroup ctx h.g).pieceAt ctx k c.next = (u, .piece data tag)) →
    (h.seqLen ≤ c.next → u = b.useGroup ctx h.g ∧ data = zeroPage ∧ tag = 0) →
    let stripe := stripeOf h.g.n h.g.m h.g.me c.next
    let v := if c.next < h.seqLen then u.storePage (h.pieceKey c.slot false c.next) data (pieceTags false tag) else u
    let w := v.modCopy ctx (fun c => { c with next := c.next + 1 })
    exec (.hatboxPieceWrite e ctx) s = .next (State.finish (if (h.g.dataMembers stripe).head? = some h.g.me then
      (List.range h.g.m).foldl (fun s j => s.hatboxLink ctx h stripe j c.step data tag zeroPage 0) w else w))) ∧
  (∀ (e : Ev) (ctx : Nat) (h : HbGroup) (c : HbCopy) (s : State), let b := s.begin e
    b.hbOf ctx = some h → h.copy = some c → h.written c = true → c.sealed = false → b.cu.fwFault = false →
    b.testing (h.sealKey c.slot) = false →
    let page := padTo 4096 (sealBytes ctx c.slot h c.step c.start)
    let u := (b.storePage (h.sealKey c.slot) page noTags).modCopy ctx (fun c =>
      { c with sealed := true, seals := h.g.me :: c.seals.filter (· != h.g.me) })
    exec (.sealWrite e ctx) s = .next (State.finish (State.checkQuorum (((List.range h.g.n).filter (fun i => i != h.g.me)).foldl
      (fun s i => s.send cuUnit ctx i (h.g.coord i) (mkWire tSeal 0 ctx h.g.id h.g.me
        (leBytes 8 c.step ++ leBytes 1 (if c.slot then 1 else 0)) page)) u) ctx)))

/-- HATBOX_RESTORE that passes its local checks drops a LOST glove, keeps its table and starts the RESTORE collective with the steps of its
valid seals (R268 to R270); the header stitch is read first and checked (R269, R271), and each data piece of the decided slot goes into the left hand of its stitch with its step tag and the restore
moves on, or is complete (R273, R274); a piece that its member does not hold is rebuilt by a chain (R271, R272). -/
def Obligations.RestoreCommandsComplete : Prop :=
  (∀ (e : Ev) (c : Cmd) (k : Coded) (h : HbGroup) (bytes : List Byte) (entries : List (Nat × Coord)) (at' head x y : Nat)
      (u v w s : State), let b := s.begin e
    b.rowTakes c 0x41 true = true → b.ctxOpen c.ctx = true → b.codedOf c.ctx = some k → k.hb = some h → k.phase = .crowned →
    (∀ g ∈ k.glove, g.state = .lost) → h.copying = false → k.image = none → k.restore = none →
    b.collOf (restoreKey c.ctx (c.u64 16)) = none → b.readTable c.ctx (c.u64 32) = (u, some (bytes, entries)) →
    (List.range entries.length).filter (fun e => (entries.getD e (0, ⟨0, 0, 0⟩)).1 == h.g.id) = [at'] →
    h.g.memberAt (entries.getD at' (0, ⟨0, 0, 0⟩)).2 = some head → u.bufferOk c.ctx (c.u64 40) 1024 = true →
    (u.dropGlove c.ctx).slotSeal c.ctx h false = (v, x) → v.slotSeal c.ctx h true = (w, y) →
    let r : Restore :=
      { want := c.u64 16, entries := entries, mine := at', report := c.u64 40, voteStart := c.u64 24, decided := none, slot := false,
        next := 0, recs := [], kids := [], sentUp := false, lastWrite := w.now, header := none }
    exec (.hatboxRestore e c) s = .next (State.finish (((w.modCoded c.ctx (fun k => { k with restore := some r })).startColl c
      (restoreKey c.ctx (c.u64 16)) h.g.id h.g.me head ((List.range h.g.n).map (fun i => (i, h.g.coord i)))
        (restoreRec h.g.me x y) []).hold c (.restore c.ctx)))) ∧
  (∀ (e : Ev) (ctx : Nat) (h : HbGroup) (k : Coded) (r : Restore) (x : Nat) (d : List Byte) (tag : Word) (u s : State),
    let b := s.begin e
    let w := b.useGroup ctx h.g
    b.codedOf ctx = some k → k.hb = some h → k.restore = some r → r.decided = some x → r.header = none → b.cu.fwFault = false →
    w.pieceTested ctx h r.slot 0 = false → w.presentPiece ctx h r 0 = (u, some (d, tag)) →
    exec (.restorePieceWrite e ctx) s = .next (State.finish ((u.takeHeader ctx h d).checkRestore ctx))) ∧
  (∀ (e : Ev) (ctx : Nat) (h : HbGroup) (k : Coded) (r : Restore) (x : Nat) (u s : State), let b := s.begin e
    let w := b.useGroup ctx h.g
    let pos := if r.header.isNone then 0 else r.next
    b.codedOf ctx = some k → k.hb = some h → k.restore = some r → r.decided = some x → b.cu.fwFault = false →
    (r.header.isNone = false → r.next < h.seqLen ∧ (seqPalm (lanesUpper w.lanesWord) (w.palmCount ctx) r.next).isSome = true) →
    w.pieceTested ctx h r.slot pos = false → w.presentPiece ctx h r pos = (u, none) →
    exec (.restorePieceWrite e ctx) s = .next (State.finish (u.rebuildPiece ctx h r pos x))) ∧
  (∀ (e : Ev) (ctx : Nat) (h : HbGroup) (k : Coded) (r : Restore) (x : Nat) (d t : List Byte) (tag : Word) (u s : State),
    let b := s.begin e
    let w := b.useGroup ctx h.g
    b.codedOf ctx = some k → k.hb = some h → k.restore = some r → r.decided = some x → r.header = some t → r.next < h.seqLen →
    b.cu.fwFault = false → w.pieceTested ctx h r.slot r.next = false →
    (seqPalm (lanesUpper w.lanesWord) (w.palmCount ctx) r.next).isSome = true → w.presentPiece ctx h r r.next = (u, some (d, tag)) →
    exec (.restorePieceWrite e ctx) s = .next (State.finish (((u.restorePalm ctx r.next d tag).modCoded ctx (fun k =>
      { k with restore := k.restore.map (fun r => { r with next := r.next + 1 }) })).checkRestore ctx)))

/-- IMAGE_EXPORT and IMAGE_IMPORT that pass their checks keep their tiles and what is left to do and wait, an import with its palm made
never-written first (R281 to R284); each message of a job goes to its storage port and awaits its answer (R281, R283); two
milliseconds without one end the job with REMOTE_TIMEOUT (R283, R285). Where an export writes no header, the bases of its cuff and digest
records are free values (log entry 21). -/
def Obligations.ImageCommandsComplete : Prop :=
  (∀ (e : Ev) (c : Cmd) (k : Coded) (ts : List TileEntry) (desc list : List Byte) (outside : Nat) (u v w x y s : State), let b := s.begin e
    b.rowTakes c 0x42 true = true → b.ctxOpen c.ctx = true → b.codedOf c.ctx = some k → c.mode % 4 ≤ 2 → c.u8 60 ≤ 5 → c.u8 61 ≤ 64 →
    k.image = none → k.restore = none → b.readTiles c.ctx (c.u64 32) (c.u32 56) (c.mode % 4 == 0) = (u, some ts) →
    (c.modeBit 2 = false → c.u64 48 = 0) → (0 < c.u8 61 → u.bufferOk c.ctx (c.u64 40) (16 * c.u8 61) = true) → (c.modeBit 2 = true → u.bufferOk c.ctx (c.u64 48) 48 = true) →
    u.bufferRead c.ctx (c.u64 40) (16 * c.u8 61) = (v, some list) → digestsClean (c.u8 61) list = true →
    v.bufferRead c.ctx (c.u64 48) (if c.modeBit 2 then 48 else 0) = (w, some desc) →
    w.exportStep k (c.mode % 4) (c.u64 16) = (x, none) → x.outsideTiles c.ctx k (c.mode % 4) ts = (y, outside) →
    let j : ImageJob :=
      { isImport := false, step := c.u64 16, handle := BitVec.ofNat 64 (c.u64 24), port := c.u8 60, tiles := ts, source := c.mode % 4,
        todo := exportParts (c.modeBit 2) ts, waiting := none, sentAt := 0, outside := outside, descriptor := desc,
        digests := (List.range (c.u8 61)).map (fun i => (field list (16 * i) 2, field list (16 * i + 8) 8)), cuffIndex := c.u16 62,
        cuffBase := if c.modeBit 2 then field desc 24 8 else Config.freeNat y.fresh,
        digestBase := if c.modeBit 2 then field desc 40 8 else Config.freeNat (y.fresh + 1), header := [], record := [], got := [], read := [],
        misfit := false }
    exec (.imageExport e c) s = .next (State.finish ((y.bump.bump.modCoded c.ctx (fun k => { k with image := some j })).hold c
      (.imageExport c.ctx)))) ∧
  (∀ (e : Ev) (c : Cmd) (k : Coded) (ts : List TileEntry) (u s : State), let b := s.begin e
    b.rowTakes c 0x43 true = true → b.ctxOpen c.ctx = true → b.codedOf c.ctx = some k → k.phase = .crowned → k.glove = none →
    c.u8 44 ≤ 5 → k.image = none → k.restore = none → b.readTiles c.ctx (c.u64 32) (c.u32 40) false = (u, some ts) →
    let j : ImageJob :=
      { isImport := true, step := c.u64 16, handle := BitVec.ofNat 64 (c.u64 24), port := c.u8 44, tiles := ts, source := 0,
        todo := ImagePart.header :: (List.range ts.length).map (fun e => .record e), waiting := none, sentAt := 0, outside := 0,
        descriptor := [], digests := [], cuffIndex := 0, cuffBase := 0, digestBase := 0, header := [], record := [], got := [],
        read := [], misfit := false }
    exec (.imageImport e c) s = .next (State.finish (((u.blankPalm c.ctx).modCoded c.ctx (fun k => { k with image := some j })).hold c
      (.imageImport c.ctx)))) ∧
  (∀ (e : Ev) (ctx : Nat) (k : Coded) (j : ImageJob) (p : ImagePart) (rest : List ImagePart) (s : State), let b := s.begin e
    b.codedOf ctx = some k → k.image = some j → j.waiting = none → j.todo = p :: rest → b.cu.fwFault = false → b.cu.evac = false →
    (j.isImport = true → exec (.exportPartSend e ctx) s = .next (State.finish ((b.emit (.storage j.port (mkWire tExport 2 ctx 0xFFFF
      k.storageSeat (exportBody j.handle (j.wanted p).1 (j.wanted p).2 j.port) []))).modImage ctx (fun j =>
        { j with waiting := some (j.wanted p), sentAt := b.now })))) ∧
    (∀ (off : Nat) (d : List Byte) (u : State), j.isImport = false → (j.source = 0 → b.inGuard ctx = false ∧ k.c.toNat = j.step) →
      b.imagePart ctx k j p = (u, some (off, d)) → u.cu.evac = false →
      exec (.exportPartSend e ctx) s = .next (State.finish ((u.emit (.storage j.port (mkWire tExport 0 ctx 0xFFFF k.storageSeat
        (exportBody j.handle off d.length j.port) (padTo 4096 d)))).modImage ctx (fun j =>
          { j with waiting := some (off, d.length), sentAt := u.now }))))) ∧
  (∀ (e : Ev) (ctx : Nat) (k : Coded) (j : ImageJob) (part : Nat × Nat) (s : State), let b := (s.at e).checkPairs.checkTs
    b.codedOf ctx = some k → k.image = some j → j.waiting = some part → b.cu.fwFault = false → j.sentAt + 2000000 ≤ b.now →
    exec (.storageTimeout e ctx) s = .next (State.finish (if j.isImport then b.failImport ctx 0x43 else b.endImage ctx 0x43 0)))

/-! ### Digests and tallies -/

/-- Arming fills a free slot from its packet and, for a WRITE digest, its 32-byte layout record, with the value zero (R287, R297, R300);
RELEASE frees a slot that its context holds (R484); a read writes the slot's record into the buffer, clears what clear-on-read clears, and answers OK or
PARTIAL (R295, R296, R307); the scan of a WEIGHTS slot ends with the sum over its stitches, and a deferred read of
it completes (R305). -/
def Obligations.SlotCommandsComplete : Prop :=
  (∀ (e : Ev) (c : Cmd) (g : Digest) (s : State), let b := s.begin e
    b.rowTakes c 0x50 true = true → b.ctxOpen c.ctx = true → c.u16 16 < 4096 → Tab.get b.digests (c.u16 16) = some g → g.ctx = c.ctx →
    c.modeBit 1 = true →
    exec (.digestArm e c) s = .next (State.finish (State.post { b with digests := Tab.del b.digests (c.u16 16) } c 0 0))) ∧
  (∀ (e : Ev) (c : Cmd) (l : List Byte) (u s : State), let b := s.begin e
    b.rowTakes c 0x50 true = true → b.ctxOpen c.ctx = true → c.u16 16 < 4096 → Tab.get b.digests (c.u16 16) = none → c.modeBit 1 = false →
    (c.u8 18 = 1 → b.bufferOk c.ctx (c.u64 56) 32 = true ∧ b.bufferRead c.ctx (c.u64 56) 32 = (u, some l)) →
    (c.u8 18 ≠ 1 → u = b ∧ l = [] ∧ (b.codedOf c.ctx).isSome = true) → u.digestBad c (digestOf c l) = none →
    (c.modeBit 0 = true → u.rootStatus c.ctx = none) →
    exec (.digestArm e c) s = .next (State.finish (State.post { u with
      digests := Tab.set u.digests (c.u16 16) (digestOf c l) } c 0 0)) ∧ (digestOf c l).value = 0) ∧
  (∀ (e : Ev) (c : Cmd) (g : Digest) (s : State), let b := s.begin e
    b.rowTakes c 0x51 true = true → b.ctxOpen c.ctx = true → Tab.get b.digests (c.u16 16) = some g → g.ctx = c.ctx →
    b.bufferOk c.ctx (c.u64 24) 64 = true →
    let u := b.bufferWrite (c.u64 24) (g.record (c.u16 16) b.now)
    exec (.digestRead e c) s = .next (State.finish (State.post (if g.clearOnRead && !g.root then { u with
      digests := Tab.set u.digests (c.u16 16) { g with value := 0, bytes := 0, tiles := 0, written := [], twice := false, late := 0 } } else u) c
        (if g.result = 1 then 3 else 0) g.result))) ∧
  (∀ (e : Ev) (c : Cmd) (t : Tally) (s : State), let b := s.begin e
    b.rowTakes c 0x52 true = true → b.ctxOpen c.ctx = true → c.u16 16 < 4096 → Tab.get b.tallies (c.u16 16) = some t → t.ctx = c.ctx →
    c.modeBit 1 = true →
    exec (.tallyArm e c) s = .next (State.finish (State.post { b with tallies := Tab.del b.tallies (c.u16 16) } c 0 0))) ∧
  (∀ (e : Ev) (c : Cmd) (s : State), let b := s.begin e
    b.rowTakes c 0x52 true = true → b.ctxOpen c.ctx = true → c.u16 16 < 4096 → Tab.get b.tallies (c.u16 16) = none → c.modeBit 1 = false →
    (c.u8 19 ≠ 0 → (b.codedOf c.ctx).isSome = true) → b.tallyBad c (tallyOf c) = none →
    (c.modeBit 0 = true ∨ c.u8 19 = 1 → b.rootStatus c.ctx = none) →
    exec (.tallyArm e c) s = .next (State.finish (State.post { b with
      tallies := Tab.set b.tallies (c.u16 16) (tallyOf c) } c 0 0)) ∧ (tallyOf c).acc = 0) ∧
  (∀ (e : Ev) (c : Cmd) (t : Tally) (s : State), let b := s.begin e
    b.rowTakes c 0x53 true = true → b.ctxOpen c.ctx = true → Tab.get b.tallies (c.u16 16) = some t → t.ctx = c.ctx →
    b.bufferOk c.ctx (c.u64 24) 128 = true →
    (t.scanning = false → exec (.tallyRead e c) s = .next (State.finish (b.readTally c (c.u16 16) t))) ∧
    (t.scanning = true → b.hasJob (fun j => j == Job.tallyRead (c.u16 16)) = false →
      exec (.tallyRead e c) s = .next (State.finish (b.postDeferred c (.tallyRead (c.u16 16)))))) ∧
  (∀ (e : Ev) (slot : Nat) (t : Tally) (s : State), let b := (s.at e).checkPairs.checkTs
    Tab.get b.tallies slot = some t → t.scanning = true → (∀ p ∈ b.weightStitches t, b.testing (p.1.handKey p.2 false) = false) →
    (∀ p ∈ b.weightStitches t, (b.stitch p.1.num p.2).fill = false) →
    let r := (b.weightStitches t).foldl (fun acc p => acc.1.scanStitch acc.2 p)
      (b, { t with acc := 0, excluded := 0, scanning := false })
    let u : State := { r.1 with tallies := Tab.set r.1.tallies slot r.2 }
    exec (.weightsScanDone e slot) s = .next (State.finish ((u.jobs (fun j => j == Job.tallyRead slot)).foldl (fun t p =>
      match Tab.get t.tallies slot with
        | some x => t.readTally p.cmd slot x
        | none => t) u)))

/-! ### Tiles and brims -/

/-- TILE_PROMOTE past its checks answers at once where the context holds the tile or its frame is filled, and else waits for the copy, with
a frame allocated where one can be had (R338 to R340); TILE_EVICT drops the direct reference, after a promotion in progress (R345); a copy
that is done, a deadline that has passed and a frame that is free move the promotions on (R339 to R343). -/
def Obligations.TileCommandsComplete : Prop :=
  (∀ (e : Ev) (c : Cmd) (p r : Region) (s : State), let b := s.begin e
    let region := c.u16 16
    let tile := c.u32 20
    let h := Holder.direct c.ctx
    let wait := fun (t : State) (shared : Bool) =>
      ((t.addRef h region tile).addPromo h region tile (c.u64 24) shared).hold c (.promote region tile c.ctx)
    b.rowTakes c 0x60 true = true → b.ctxOpen c.ctx = true → b.pool = some p → b.region? region = some r → r.lowerTier = true →
    tile < r.len / 262144 → (r.owner = c.ctx ∨ r.share = true) → b.quarantined region tile = false →
    (b.holds h region tile = true →
      exec (.tilePromote e c) s = .next (State.finish (b.post c 0 (b.tileAddr region tile)))) ∧
    (∀ f, b.holds h region tile = false → b.upperCharge c.ctx + 1 ≤ b.upperQuota c.ctx → b.frameOf region tile = some f →
      (f.state = .resident → exec (.tilePromote e c) s =
        .next (State.finish ((b.addRef h region tile).post c 1 (b.tileAddr region tile)))) ∧
      (f.state = .idle → exec (.tilePromote e c) s = .next (State.finish (State.post { b.addRef h region tile with
        frames := b.frames.map (fun g => if g.num == f.num then { g with state := .resident } else g) } c 0
          (State.tileAddr { b.addRef h region tile with
            frames := b.frames.map (fun g => if g.num == f.num then { g with state := .resident } else g) } region tile)))) ∧
      (f.state = .copying → exec (.tilePromote e c) s = .next (State.finish (wait b true)))) ∧
    (b.holds h region tile = false → b.upperCharge c.ctx + 1 ≤ b.upperQuota c.ctx → b.frameOf region tile = none →
      let v := serveWaiters b.promos.length b
      ((v.frameOf region tile).isSome = true → exec (.tilePromote e c) s = .next (State.finish (wait v true))) ∧
      (∀ t, v.frameOf region tile = none → v.allocFrame region tile = some t →
        exec (.tilePromote e c) s = .next (State.finish (wait t false))) ∧
      (v.frameOf region tile = none → v.allocFrame region tile = none → c.u64 24 ≠ 0 →
        exec (.tilePromote e c) s = .next (State.finish (wait v false))))) ∧
  (∀ (e : Ev) (c : Cmd) (s : State), let b := s.begin e
    let region := c.u16 16
    let tile := c.u32 20
    b.rowTakes c 0x61 true = true → b.ctxOpen c.ctx = true →
    (b.promoting c.ctx region tile = true →
      exec (.tileEvict e c) s = .next (State.finish (b.hold c (.evict region tile c.ctx)))) ∧
    (b.promoting c.ctx region tile = false → b.holds (.direct c.ctx) region tile = true →
      let u := b.dropRef (.direct c.ctx) region tile
      exec (.tileEvict e c) s = .next (State.finish (u.post c (if u.referenced region tile then 1 else 0) 0)))) ∧
  (∀ (e : Ev) (region tile : Nat) (r : Region) (f : Frame) (u s : State), let b := (s.at e).checkPairs.checkTs
    b.nextCopy = some (region, tile) → b.region? region = some r → b.frameOf region tile = some f → b.tileTested r f = false →
    (b.copyTile r f = (u, true) →
      exec (.promotionCopyDone e region tile) s = .next (State.finish (u.endCopy region tile).settle.settleEvicts)) ∧
    (b.copyTile r f = (u, false) → exec (.promotionCopyDone e region tile) s = .next (State.finish u.settle.settleEvicts))) ∧
  (∀ (e : Ev) (id : Nat) (p : Promo) (s : State), let b := s.at e
    b.promos.find? (fun p => p.id == id) = some p → p.deadline ≠ 0 → p.deadline ≤ b.now →
    let u := (b.dropPromo p.holder p.region p.tile).dropRef p.holder p.region p.tile
    (∀ n, p.holder = .brim n → exec (.promotionDeadline e id) s = .next (State.finish u.settle.settleEvicts)) ∧
    (∀ ctx, p.holder = .direct ctx → exec (.promotionDeadline e id) s = .next (State.finish
      ((u.jobs (fun j => j == Job.promote p.region p.tile ctx)).foldl (fun (t : State) q =>
        (t.raise (q.cmd.ring / 4096 % 16) 19 (packWord [(0, p.region), (16, 0x3F), (32, ctx)]) 1).post q.cmd 0x40 0)
          u).settle.settleEvicts))) ∧
  (∀ (e : Ev) (s : State), let b := s.at e
    exec (.frameFreed e) s = .next (State.finish (serveWaiters b.promos.length b)) ∧
    (∀ (p : Promo) (t : State), b.waiters = [p] → b.allocFrame p.region p.tile = some t → t.waiters = [] →
      exec (.frameFreed e) s = .next t.finish))

/-- BRIM_OPEN past its checks opens the brim and promotes its first groups (R352 to R356); BRIM_ADVANCE takes its turn on the brim, and with
CLOSE closes it and answers that no group stands at its slot (R357, R358, R361). -/
def Obligations.BrimCommandsComplete : Prop :=
  (∀ (e : Ev) (c : Cmd) (tmax : Nat) (gs : List TileGroup) (u s : State), let b := s.begin e
    let d := c.u8 17
    b.rowTakes c 0x62 true = true → b.ctxOpen c.ctx = true → c.u8 16 ≤ 63 → b.readGroups c.ctx (c.u64 32) = (u, some (tmax, gs)) →
    u.plainTable c.ctx (c.u64 40) (d * (16 + 8 * tmax)) = true → u.brimOf (c.u8 16) = none → u.brimBad d tmax gs = none →
    (∀ g ∈ gs, u.groupAllowed c.ctx g = true) →
    u.upperCharge c.ctx + reservation (c.modeBit 0) d gs ≤ u.upperQuota c.ctx →
    let n : Brim := { num := c.u8 16, ctx := c.ctx, depth := d, wrap := c.modeBit 0, groups := gs, slots := c.u64 40, tmax := tmax,
                      reserve := reservation (c.modeBit 0) d gs, seq := 0, held := [], past := [] }
    exec (.brimOpen e c) s = .next (State.finish ((List.range d).foldl (fun t g => t.promoteGroup n g (c.u64 24))
      (State.hold { u with brims := u.brims ++ [n] } c (.brim (c.u8 16) 0))).settle)) ∧
  (∀ (e : Ev) (c : Cmd) (n : Brim) (s : State), let b := s.begin e
    b.rowTakes c 0x63 (!c.modeBit 0) = true → b.ctxOpen c.ctx = true → b.brimOf (c.u8 16) = some n → n.ctx = c.ctx →
    exec (.brimAdvance e c) s = .next (State.finish (b.hold c (.advance n.num)).settle)) ∧
  (∀ (e : Ev) (c : Cmd) (n : Brim) (s : State), let b := s.begin e
    b.rowTakes c 0x63 (c.modeBit 0) = true → b.ctxOpen c.ctx = true → b.brimOf (c.u8 16) = some n → n.ctx = c.ctx →
    exec (.brimClose e c) s = .next (State.finish ((b.closeBrim n.num).post c 0 (0xFFFF * 2 ^ 32))))

/-! ### Chip service and upkeep -/

/-- The chip-service commands: NOP ends with OK (R468); FENCE_SIGNAL sets or clears its fence (R454, R455); MEASURE_GET writes the 64-byte
measurement (R487); SEAL_SET answers the changes left, and a change is logged (R488, R520); SCRUB_CTRL pauses, resumes or restarts the
lap and answers where it was (R393); TEST_RUN makes its instance's test due and waits for it (R486, R554). -/
def Obligations.ServiceCommandsComplete : Prop :=
  (∀ (e : Ev) (c : Cmd) (s : State), let b := s.begin e
    b.rowTakes c 0x7F true = true → exec (.nop e c) s = .next (State.finish (b.post c 0 0))) ∧
  (∀ (e : Ev) (c : Cmd) (s : State), let b := s.begin e
    b.rowTakes c 0x74 true = true → b.fenceAllowed c.ring (c.u16 16) = true → c.u16 16 < 8192 →
    exec (.fenceSignal e c) s = .next (State.finish
      (State.post (if c.modeBit 0 then b.clearFence (c.u16 16) else b.setFence (c.u16 16)) c 0 0))) ∧
  (∀ (e : Ev) (c : Cmd) (s : State), let b := s.begin e
    b.rowTakes c 0x72 true = true → b.ctxOpen c.ctx = true → b.bufferOk c.ctx (c.u64 16) 64 = true →
    exec (.measureGet e c) s = .next (State.finish ((b.bufferWrite (c.u64 16) (padTo 64 (padTo 48 b.cu.fw.meas ++ leBytes 4 262144 ++
      [if b.cu.straps.getLsbD 20 then 1 else 0]))).post c 0 0))) ∧
  (∀ (e : Ev) (c : Cmd) (s : State), let b := s.begin e
    let f := b.cu.fuses
    let v := c.u8 16
    let entry := fun (old : Nat) => ({ stamp := b.now, requester := BitVec.ofNat 64 (c.u64 24),
                                       change := packWord [(0, c.mode % 4), (8, old), (16, v)] } : SealLog)
    b.rowTakes c 0x73 true = true →
    (c.mode % 4 = 0 → 1 ≤ v → v ≤ 4 → v = f.mMin → exec (.sealSet e c) s = .next (State.finish (b.post c 0 f.mMinLeft))) ∧
    (c.mode % 4 = 0 → 1 ≤ v → v ≤ 4 → v ≠ f.mMin → f.log.length < 32 → (v < f.mMin → 0 < f.mMinLeft) →
      let left := if v < f.mMin then f.mMinLeft - 1 else f.mMinLeft
      exec (.sealSet e c) s = .next (State.finish (State.post { b with cu := { b.cu with fuses := { f with
        mMin := v, mMinLeft := left, log := f.log ++ [entry f.mMin] } } } c 0 left))) ∧
    (c.mode % 4 = 1 → v ≤ 1 → v ≠ (if f.witness then 1 else 0) → f.log.length < 32 → 0 < f.witnessLeft →
      exec (.sealSet e c) s = .next (State.finish (State.post { b with cu := { b.cu with fuses := { f with
        witness := v == 1, witnessLeft := f.witnessLeft - 1, log := f.log ++ [entry (if f.witness then 1 else 0)] } } } c 0
          (f.witnessLeft - 1)))) ∧
    (c.mode % 4 = 2 → exec (.sealSet e c) s = .next (State.finish (b.post c 0x51 0))) ∧
    (c.mode % 4 = 3 → exec (.sealSet e c) s = .next (State.finish (b.badParam c 3)))) ∧
  (∀ (e : Ev) (c : Cmd) (s : State), let b := s.begin e
    let i := instIdx (c.ring / 4096)
    b.rowTakes c 0x70 true = true → exec (.scrubCtrl e c) s = .next (State.finish (if c.mode % 4 = 3 then b.badParam c 3
      else (b.modScrub i (fun x => if c.mode % 4 = 2 then { x with pos := 0, lapStart := b.now, lapLate := false }
        else { x with paused := c.mode % 4 == 0 })).post c 0 (b.inst[i]).scrub.pos))) ∧
  (∀ (e : Ev) (c : Cmd) (s : State), let b := s.begin e
    let i := instIdx (c.ring / 4096)
    b.rowTakes c 0x71 true = true → c.mode % 4 ≤ 2 → (b.inst[i]).test.running = false → (b.inst[i]).test.pending = false →
    b.cu.power.clamp = false → exec (.testRun e c) s = .next (State.finish ((b.modTest i (fun x =>
      { x with pending := true, mode := c.mode % 4, dueAt := b.now, deferrals := 0 })).hold c (.test i.val))))

/-- Upkeep of the instances: the correction windows restart together with the limit written meanwhile (R368, R533); the scrubber
serves the repair queue, then the next page of its lap, and ends the lap after the last (R393 to R397); a lap past its limit is
reported once (R397); a scheduled test falls due and overdue (R554, R558), and its end records what passed, clears PENDING and
OVERDUE, and a failed part raises TEST_FAIL and stops every coded context (R496, R561). -/
def Obligations.UpkeepCommandsComplete : Prop :=
  (∀ (e : Ev) (s : State), let b := s.at e
    (s.cu.ceWindow + 1000000000 ≤ b.now ∨ b.now < s.cu.ceWindow) →
    ∃ t : State, exec (.wordCeWindow e) s = .next t ∧ t = { b with inst := t.inst, cu := { b.cu with ceWindow := b.now } } ∧
    ∀ i : Fin 16, t.inst[i] = { s.inst[i] with lanes := (t.inst[i]).lanes } ∧
      ∀ k : Fin 8, (t.inst[i]).lanes[k] =
        { (s.inst[i]).lanes[k] with window := 0, rated := false, limit := ((s.inst[i]).lanes[k]).limitNext }) ∧
  (∀ (e : Ev) (i : Fin 16) (idle : Nat) (s : State), let b := (s.at e).checkPairs.checkTs
    let x := b.inst[i]
    let waiting := b.mem.repairQ.find? (fun k => decide (keyInst k = i) && (b.mergeOf k).isNone)
    inService x = true → x.test.running = false → x.scrub.paused = false → x.scrub.idle ≤ idle →
    (∀ k, waiting = some k → let u := b.scrubPage k
      exec (.scrubRead e i idle) s =
        .next (State.finish { u with mem := { u.mem with repairQ := u.mem.repairQ.filter (· != k) } })) ∧
    (∀ k, waiting = none → leastPage (b.lapPages i x.scrub.pos) = some k →
      exec (.scrubRead e i idle) s = .next (State.finish ((b.scrubPage k).passPage i k))) ∧
    (waiting = none → b.lapPages i x.scrub.pos = [] → exec (.scrubRead e i idle) s = .next (State.finish (b.endLap i)))) ∧
  (∀ (e : Ev) (i : Fin 16) (s : State), let b := s.at e
    let x := (s.inst[i]).scrub
    (s.inst[i]).active = true → x.lapLate = false → x.lapStart + x.lapLimit * 3600000000000 ≤ b.now →
    exec (.scrubLapLimit e i) s = .next ((b.modScrub i (fun x => { x with lapLate := true })).raise i.val 27 (BitVec.ofNat 64 x.pos)
      (BitVec.ofNat 64 x.lapStart))) ∧
  (∀ (e : Ev) (i : Fin 16) (s : State), let b := s.at e
    let x := (s.inst[i]).test
    s.cu.started = true → (s.inst[i]).active = true → x.pending = false → x.running = false →
    (if x.last = 0 then x.dueAt else x.last) + s.cu.testInterval * 1000000000 ≤ b.now →
    exec (.testDue e i) s = .next (State.finish (b.modTest i (fun x =>
      { x with pending := true, mode := 0, dueAt := b.now, deferrals := 0 })))) ∧
  (∀ (e : Ev) (i : Fin 16) (s : State), let b := s.at e
    let x := (s.inst[i]).test
    x.pending = true → x.overdue = false → x.running = false → (64 ≤ x.deferrals ∨ x.dueAt + 14400000000000 ≤ b.now) →
    exec (.testOverdue e i) s = .next (State.finish ((b.modTest i (fun x => { x with overdue := true })).raise i.val 29
      (BitVec.ofNat 64 x.deferrals) (BitVec.ofNat 64 x.dueAt)))) ∧
  (∀ (e : Ev) (i : Fin 16) (s : State), let b := (s.at e).checkPairs.checkTs
    let x := (b.inst[i]).test
    let l := x.mode != 2
    let m := x.mode != 1
    x.running = true →
    exec (.testComplete e i true true) s = .next (State.finish (((b.modTest i (fun x => { x with
      lbist := l, mbist := m, okL := x.okL || l, okM := x.okM || m, last := b.now, running := false, pending := false,
      overdue := false })).endJobs (fun j => j == Job.test i.val) 0 ((if l then 1 else 0) + 2 * (if m then 1 else 0)) b.now).retryHeld
        (fun w => w == .test)))) ∧
  (∀ (e : Ev) (i : Fin 16) (s : State), let b := (s.at e).checkPairs.checkTs
    let x := (b.inst[i]).test
    x.running = true → x.mode = 0 → ((b.inst[i]).lower = false ∨ b.ordered i = false) →
    let u := ((b.modTest i (fun x => { x with
      lbist := false, mbist := true, okM := true, last := b.now, running := false, pending := false, overdue := false })).failInst i 5 0).stopAll
    exec (.testComplete e i false true) s = .next (State.finish ((u.endJobs (fun j => j == Job.test i.val) 0x50
      ((if (u.inst[i]).test.lbist then 1 else 0) + 2 * (if (u.inst[i]).test.mbist then 1 else 0)) b.now).retryHeld
        (fun w => w == .test))))

/-! ### Sending, timers and arriving messages -/

/-- What an instance and the CU send: a governor tick sets the rate and the ceiling and reviews BOOST_REQ (R158 to R161); the lane agents
send the first queued delta, one message for each seat while transfers are free (R145, R148); a message unanswered for 250 µs leaves again, and nothing
else changes (R434); after 2 ms its addressee is lost (R193, R434). The gatherer's close aborts a collective (R429), a participant without a
decision completes alone (R433), and kept messages expire (R431). -/
def Obligations.SendingAndTimersComplete : Prop :=
  (∀ (e : Ev) (i : Fin 16) (busy : Bool) (s : State), let u := (s.at e).takeWeight i.val
    (s.inst[i]).lower = false → (s.inst[i]).active = true →
    exec (.governorUpdate e i busy) s = .next (State.findBoost (if (s.inst[i]).gov.clamped then u else
      u.modInst i (fun x => { x with gov := { x.gov with rate := u.sendRate i.val busy, ceiling := u.ceilingNow } })))) ∧
  (∀ (e : Ev) (i : Fin 16) (d : Delta) (gl : Glove) (s : State), let b := (s.at e).checkPairs.checkTs
    b.deltas.find? (fun d => d.inst == i.val) = some d → (b.inst[i]).halted = false → b.agentWaits i = false →
    b.gloveOf d.ctx = some gl →
    let u := b.useGroup d.ctx gl.g
    let r := (u.trimDelta d).seats.foldl (fun (acc : State × List Nat) j =>
      if acc.1.agentWaits i ∨ acc.1.inst[i].halted then (acc.1, acc.2 ++ [j])
      else ((acc.1.sendSeat gl d j).1, if (acc.1.sendSeat gl d j).2 then acc.2 else acc.2 ++ [j])) (u, [])
    (r.2 = [] → exec (.deltaSend e i) s = .next (State.finish { r.1 with deltas := delFirst (fun x => x == d) r.1.deltas })) ∧
    (r.2 ≠ [] → exec (.deltaSend e i) s = .next (State.finish { r.1 with
      deltas := updFirst (fun x => x == d) (fun x => { x with seats := r.2 }) r.1.deltas }))) ∧
  (∀ (e : Ev) (id : Nat) (x : Sent) (s : State), let b := s.at e
    s.sent.find? (fun x => x.id == id) = some x → x.last + 250000 ≤ b.now → x.msg.type ≠ tExport → s.cu.evac = false →
    (s.cu.fwFault = false ∨ x.msg.type = tDelta) →
    exec (.messageResend e id) s = .next { b.carry x.dst x.msg with
      sent := s.sent.map (fun y => if y.id == id then { y with last := b.now } else y) } ∧
    (x.dst ≠ s.cu.fabric.coord → b.carry x.dst x.msg = { b with out := .message x.dst x.msg :: s.out })) ∧
  (∀ (e : Ev) (id : Nat) (x : Sent) (s : State), let b := s.begin e
    let u := b.dropSent (fun y => y.id == id)
    b.sent.find? (fun x => x.id == id) = some x → x.first + 2000000 ≤ b.now → x.msg.type ≠ tExport → b.cu.fwFault = false →
    x.member < 0xFD →
    (Wire.toHatbox x.msg = false → ((x.msg.type ≠ tVote ∧ x.msg.type ≠ tCrown) ∨ x.msg.phase = 1) → (b.gloveOf x.ctx).isSome = true →
      exec (.memberTimeout e id) s = .next (State.finish (u.loseMember x.ctx x.member 2))) ∧
    (∀ gl, Wire.toHatbox x.msg = false → (x.msg.type = tVote ∨ x.msg.type = tCrown) → x.msg.phase ≠ 1 → b.gloveOf x.ctx = some gl →
      gl.g.id = x.msg.cGlove → gl.g.coord x.member = x.dst →
      exec (.memberTimeout e id) s = .next (State.finish ((u.loseMember x.ctx x.member 2).collLoss x.msg.key x.member 2))) ∧
    (Wire.toHatbox x.msg = true → x.msg.type ≠ tSeal → x.msg.type ≠ tAbort →
      exec (.memberTimeout e id) s = .next (State.finish (u.hbLoss x.ctx x.member 2)))) ∧
  (∀ (e : Ev) (k : CollKey) (c : Coll) (s : State), let b := s.begin e
    b.collOf k = some c → b.cu.fwFault = false → CollKey.isRound k = false →
    (c.me = c.gatherer → c.acceptedAt + c.timeout ≤ b.now → k.phase ≠ phRestore → c.complete = false →
      exec (.collectiveClose e k) s = .next (State.finish (b.decideColl c (abortBlock 0x44 (c.acceptedAt + c.timeout))))) ∧
    (c.acceptedAt + 2 * c.timeout + 2000000 ≤ b.now →
      exec (.collectiveAloneTimeout e k) s =
        .next (State.finish (b.conclude c c.recs (abortBlock 0x44 (c.acceptedAt + c.timeout)))))) ∧
  (∀ (e : Ev) (k : CollKey) (s : State), let b := s.begin e
    exec (.keptKeyExpiry e k) s = .next (State.finish { b with
      kept := b.kept.filter (fun x => x.key != k || decide (b.now < x.at' + b.cu.collTimeout)) }))

/-- Arriving stitch messages that no check of R414 drops: a DELTA of the step is folded into its parity stitch, with its tag, and acknowledged
(R151 to R156); its acknowledgement frees the transfer (R156); a chain request and a partial sum are contributed to (R204, R205), and
a result ends its chain (R209, R210). -/
def Obligations.StitchMessagesComplete : Prop :=
  (∀ (e : Ev) (src : Coord) (m : Wire) (gl : Glove) (k : Coded) (r : Region) (idx : Nat) (f : Fold) (u s : State), let b := s.begin e
    let ctx := m.cCtx
    let stripe := m.bodyField 0x0D 4
    let j := m.bodyField 0x11 1
    let d := m.bodyField 0x12 1
    let holder := parityHolder gl.g.n gl.g.m stripe j
    let unit := keyInst (r.handKey idx false)
    m.type = tDelta → m.sub = 0 → b.cu.fwFault = false → b.dropReason src m = none → b.repeated src m = false →
    b.gloveOf ctx = some gl → b.codedOf ctx = some k → j < gl.g.m → stripe < gl.g.stripes → d < gl.g.k →
    b.seatAt ctx gl holder true (stripe / gl.g.period) = some (r, idx) → (b.inst[unit]).test.running = false →
    m.stepField % 2 ^ 56 = k.c.toNat + 1 → m.stepField / 2 ^ 56 = k.attempt → k.sweeping = false → k.phase ≠ .discarding →
    b.foldFailed ctx r idx = false → b.getFold ctx r idx false = (u, .entry f) →
    let tau := BitVec.ofNat 64 (m.bodyField 0x13 8) ^^^ BitVec.ofNat 64 (m.stepField % 2 ^ 56)
    (f.mask.getLsbD d = false → exec (.delta e src m) s = .next (State.finish (State.ackDelta (u.putFold unit { f with
      bytes := xorBytes f.bytes (padTo 4096 m.payload), tag := f.tag ^^^ wmul (tagWeight gl.g.tagKey j stripe d) tau,
      mask := f.mask ||| ((1 : BitVec 32) <<< d) }) src m holder))) ∧
    (f.mask.getLsbD d = true → exec (.delta e src m) s = .next (State.finish (u.ackDelta src m holder)))) ∧
  (∀ (e : Ev) (src : Coord) (m : Wire) (s : State), let b := s.begin e
    m.type = tDeltaAck → b.dropReason src m = none → exec (.deltaAck e src m) s = .next (State.finish (State.formAll { b with
      sent := b.sent.filter (fun x =>
        !(x.dst == src && [(tDelta, 0), (tDelta, 2)].contains (x.msg.type, x.msg.sub) && x.msg.matches m)) }))) ∧
  (∀ (e : Ev) (src : Coord) (m : Wire) (s : State), let b := s.begin e
    m.type = tDarnReq → b.cu.fwFault = false → b.dropReason src m = none → b.chainWaits m = false →
    (m.sub = 3 → exec (.darnReq e src m) s = .next (State.finish ((b.answerCheck src m).remember src m))) ∧
    (m.sub = 0 → b.repeated src m = false → b.chainsOver m = false → let t := if m.chHb then b.contributePiece m else b.contribute m
      (t.serial ≠ b.serial ∨ t.stitchQ.length ≠ b.stitchQ.length) → exec (.darnReq e src m) s = .next (State.finish (t.remember src m)))) ∧
  (∀ (e : Ev) (src : Coord) (m : Wire) (s : State), let b := s.begin e
    m.type = tDarnPart → b.cu.fwFault = false → b.dropReason src m = none →
    (m.sub = 0 → b.repeated src m = false → b.chainWaits m = false → (m.chHb = true → (b.hbSlotStep m.cCtx).isSome = true) →
      let t := (b.ackChain src m).remember src m
      exec (.darnPart e src m) s = .next (State.finish (if m.chHb then t.contributePiece m else t.contribute m))) ∧
    (m.sub = 1 → exec (.darnPart e src m) s =
      .next (State.finish ((b.copyAcked src m).answered src m [(tDarnPart, 0), (tDarnDone, 0), (tDarnReq, 0)])))) ∧
  (∀ (e : Ev) (src : Coord) (m : Wire) (c : Chain) (s : State), let b := s.begin e
    m.type = tDarnDone → b.cu.fwFault = false → b.dropReason src m = none → b.repeated src m = false → b.chainNow m = some c →
    b.destWaits c = false →
    let d : Chain := { c with result := some (padTo 4096 m.payload, m.solve, m.checkAcc) }
    let u := ((b.ackChain src m).remember src m).dropSent (fun x =>
      x.ctx == m.cCtx && x.msg.type == tDarnReq && x.msg.sub == 0 && x.msg.chain == m.chain)
    exec (.darnDone e src m) s = .next (State.finish ((u.modChain c (fun _ => d)).finishChain d)))

/-- Arriving messages of agreements and of the hatbox: a VOTE gives its record to the gatherer and a CROWN concludes the collective (R428); an ABORT
of phase 0 marks its member lost without telling it on (R194); a last HATBOX_PART is stored as the parity piece (R261), and a valid SEAL counts
toward the quorum (R264); the digests of a WITNESS_DIGEST are kept and compared (R316, R318); the acknowledgement of an EXPORT_PART lets the export
go on (R283, R422). Each is acknowledged and remembered (R413, R435). -/
def Obligations.AgreementMessagesComplete : Prop :=
  (∀ (e : Ev) (src : Coord) (m : Wire) (c : Coll) (s : State), let b := s.begin e
    let u := (b.ackColl src m).remember src m
    m.sub = 0 → m.legal = true → m.seal.crc = m.crc → b.cu.fwFault = false → b.collOf m.key = some c →
    b.collDrop src m c = none → b.repeated src m = false →
    (∀ r, m.type = tVote → c.key.phase ≠ phRestore → c.me = c.gatherer → Tab.get (pageRecords c.key.phase m.payload) m.cMember = some r →
      exec (.vote e src m) s = .next (State.finish (u.modColl c.key (fun x => { x with recs := Tab.set x.recs m.cMember (cleanRecord c.key.phase false r) })))) ∧
    (m.type = tCrown → c.key.phase ≠ phRestore →
      exec (.crownMessage e src m) s =
        .next (State.finish (u.conclude c (pageRecords c.key.phase m.payload) (readBlock m.payload))))) ∧
  (∀ (e : Ev) (src : Coord) (m : Wire) (s : State), let b := s.begin e
    m.type = tAbort → m.sub = 0 → m.phase = 0 → b.cu.fwFault = false → b.dropReason src m = none → b.repeated src m = false →
    exec (.abort e src m) s = .next (State.finish (State.loseMember ((b.reply src (m.answer tAbort 1 (b.myMember m.cCtx false))).remember
      src m) m.cCtx (m.bodyField 0x0F 1) 3))) ∧
  (∀ (e : Ev) (src : Coord) (m : Wire) (h : HbGroup) (k : Coded) (c : HbCopy) (j : Nat) (s : State), let b := s.begin e
    let stripe := m.chStripe
    m.type = tHatbox → m.sub = 0 → m.last = true → b.cu.fwFault = false → b.dropReason src m = none → b.repeated src m = false →
    b.cu.evac = false → b.inGuard m.cCtx = false → b.hbOf m.cCtx = some h → b.codedOf m.cCtx = some k → h.copy = some c →
    c.step % 4 = m.chStep → h.g.seatIn h.g.me stripe = .parity j →
    b.testing (h.pieceKey c.slot true (stripe / h.g.period)) = false →
    let u := (b.storePage (h.pieceKey c.slot true (stripe / h.g.period)) m.payload (pieceTags true m.solve)).modCopy m.cCtx
      (fun c => { c with parity := c.parity + 1 })
    exec (.hatboxPart e src m) s =
      .next (State.finish ((u.reply src (m.answer tHatbox 1 (u.myMember m.cCtx true))).remember src m))) ∧
  (∀ (e : Ev) (src : Coord) (m : Wire) (h : HbGroup) (c : HbCopy) (s : State), let b := s.begin e
    let u := (b.reply src (m.answer tSeal 1 (b.myMember m.cCtx true))).remember src m
    m.type = tSeal → m.sub = 0 → b.cu.fwFault = false → b.dropReason src m = none → b.repeated src m = false →
    b.hbOf m.cCtx = some h → h.copy = some c → m.stepField = c.step → (m.bodyField 0x0D 1 == 1) = c.slot →
    sealOk h c.slot m.payload = true → sealStep m.payload = c.step → field m.payload 0x0C 1 = m.cMember →
    exec (.seal e src m) s = .next (State.finish ((u.modCopy m.cCtx (fun c => { c with
      seals := if c.seals.contains m.cMember then c.seals else c.seals ++ [m.cMember] })).checkQuorum m.cCtx))) ∧
  (∀ (e : Ev) (src : Coord) (m : Wire) (s : State), let b := s.begin e
    let u := (b.reply src (m.answer tWitness 1 (b.myMember m.cCtx false))).remember src m
    let n := m.bodyField 0x0D 1
    m.type = tWitness → m.sub = 0 → b.cu.fwFault = false → b.dropReason src m = none → b.repeated src m = false →
    (m.len = true → exec (.witnessDigest e src m) s = .next (State.finish (State.tryCompare { u with
      coded := u.coded.map (fun p => if p.2.ctx != m.cCtx then p else (p.1, { p.2 with witness := p.2.witness.map (fun x =>
        if x.role == 0 && x.step == m.stepField && (n == 0 || x.w == n) then { x with digests := Tab.set x.digests n m.payload }
        else x) })) } m.cCtx))) ∧
    (m.len = false → exec (.witnessDigest e src m) s = .next (State.finish (u.modWitness m.cCtx n 1 (fun x =>
      if x.step = m.stepField then { x with result := some (m.bodyField 0x0E 1) } else x))))) ∧
  (∀ (e : Ev) (m : Wire) (k : Coded) (j : ImageJob) (s : State), let b := s.begin e
    let off := m.bodyField 0x0D 8
    let count := m.bodyField 0x15 2
    m.type = tExport → m.legal = true → m.seal.crc = m.crc → b.codedOf m.cCtx = some k → k.image = some j → m.cGlove = 0xFFFF →
    b.cu.fwFault = false → m.cMember = 0xFF → m.bodyField 0x05 8 = j.handle.toNat → m.bodyField 0x17 1 = j.port → j.waiting = some (off, count) →
    (m.sub = 1 → j.isImport = false → exec (.exportPart e m) s = .next (State.finish ((b.modImage m.cCtx (fun j =>
      { j with waiting := none, todo := j.todo.drop 1 })).checkImage m.cCtx))) ∧
    (m.sub = 0 → j.isImport = true → exec (.exportPart e m) s = .next (State.finish ((State.takeImageData
      (b.emit (.storage j.port (m.answer tExport 1 k.storageSeat))) m.cCtx j (slice m.payload 0 count)).checkImage m.cCtx))))
end

