-- ==== Sys2Proof/Laws/Memory.lean ====
section
/-! SUPPORT. Memory's canonical form, and what one byte reads after a write. -/

namespace Sys2Proof.Machine

set_option linter.all false

/-- The canonical form in words: every address from `lo` on, no zero byte, addresses rising. -/
theorem cellsWf_iff : ∀ (l : List Host.Cell) (lo : Nat),
    cellsWf lo l = true ↔ (∀ c ∈ l, lo ≤ c.1 ∧ c.2 ≠ 0) ∧ l.Pairwise (fun x y => x.1 < y.1)
  | [], lo => by simp [cellsWf]
  | (a, b) :: l, lo => by
    simp only [cellsWf, Bool.and_eq_true, decide_eq_true_eq, bne_iff_ne, cellsWf_iff l, List.mem_cons, forall_eq_or_imp,
      List.pairwise_cons]
    constructor
    · rintro ⟨⟨h1, h2⟩, h3, h4⟩
      exact ⟨⟨⟨h1, h2⟩, fun c hc => ⟨by have := (h3 c hc).1; omega, (h3 c hc).2⟩⟩, fun c hc => by have := (h3 c hc).1; omega, h4⟩
    · rintro ⟨⟨⟨h1, h2⟩, h3⟩, h4, h5⟩
      exact ⟨⟨h1, h2⟩, fun c hc => ⟨by have := h4 c hc; omega, (h3 c hc).2⟩, h5⟩

/-- The cells of a byte list lie in its range, are not zero, and rise. -/
theorem cellsFrom_spec : ∀ (d : List Byte) (a : Nat),
    (∀ c ∈ cellsFrom a d, a ≤ c.1 ∧ c.1 < a + d.length ∧ c.2 ≠ 0) ∧ (cellsFrom a d).Pairwise (fun x y => x.1 < y.1)
  | [], a => by simp [cellsFrom]
  | b :: d, a => by
    have ih := cellsFrom_spec d (a + 1)
    have wide : ∀ c ∈ cellsFrom (a + 1) d, a ≤ c.1 ∧ c.1 < a + (b :: d).length ∧ c.2 ≠ 0 := fun c hc => by
      have g := ih.1 c hc
      exact ⟨by omega, by simp only [List.length_cons]; omega, g.2.2⟩
    unfold cellsFrom
    split
    · exact ⟨wide, ih.2⟩
    · next hb =>
      refine ⟨?_, List.pairwise_cons.2 ⟨fun c hc => by have := (ih.1 c hc).1; simp only; omega, ih.2⟩⟩
      intro c hc
      rcases List.mem_cons.1 hc with rfl | hc
      · exact ⟨Nat.le_refl _, by simp, hb⟩
      · exact wide c hc

/-- A write keeps the canonical form. -/
theorem Mem.write_wf {m : Mem} (h : m.wf = true) (a : Nat) (d : List Byte) : (m.write a d).wf = true := by
  unfold Mem.wf Mem.write at *
  rw [cellsWf_iff] at *
  have g := cellsFrom_spec d a
  refine ⟨?_, ?_⟩
  · intro c hc
    simp only [List.mem_append, List.mem_filter] at hc
    rcases hc with (hc | hc) | hc
    · exact h.1 c hc.1
    · exact ⟨Nat.zero_le _, (g.1 c hc).2.2⟩
    · exact h.1 c hc.1
  · rw [List.pairwise_append, List.pairwise_append]
    refine ⟨⟨h.2.filter _, g.2, ?_⟩, h.2.filter _, ?_⟩
    · intro x hx y hy
      have hx := (List.mem_filter.1 hx).2
      have := (g.1 y hy).1
      simp only [decide_eq_true_eq] at hx
      omega
    · intro x hx y hy
      have hy := (List.mem_filter.1 hy).2
      simp only [decide_eq_true_eq] at hy
      rcases List.mem_append.1 hx with hx | hx
      · have hx := (List.mem_filter.1 hx).2
        simp only [decide_eq_true_eq] at hx
        omega
      · have := (g.1 x hx).2.1
        omega

/-- Empty memory is canonical. -/
theorem Mem.wf_nil {m : Mem} (h : m.bytes = []) : m.wf = true := by simp [Mem.wf, h, cellsWf]

end Sys2Proof.Machine
end

