-- ==== Sys2Proof/Laws/Keeps.lean ====
section
/-! SUPPORT. What no operation of the block touches: the queue of waiting commands, the clock, and (but for SEAL_SET) the fuses; and
what every operation keeps: memory's canonical form and the complement pairs of the coded contexts. One lemma per shared operation
says so of it; this file holds the relation and the rules by which those lemmas compose. -/

namespace Sys2Proof.Machine

set_option linter.all false

/-- Work on `b` has led to `s`; with `F`, work that is not a SEAL_SET. -/
structure Keeps (F : Prop) (b s : State) : Prop where
  pending : s.pending = b.pending
  clock : s.clock = b.clock
  fuses : F → s.cu.fuses = b.cu.fuses
  mem : b.mem.wf = true → s.mem.wf = true
  out : b.out.length ≤ s.out.length
  pairs : b.pairsOk = true → s.pairsOk = true

theorem Keeps.refl {F : Prop} (s : State) : Keeps F s s :=
  ⟨rfl, rfl, fun _ => rfl, id, Nat.le_refl _, id⟩

theorem Keeps.trans {F : Prop} {a b c : State} (h : Keeps F a b) (g : Keeps F b c) : Keeps F a c :=
  ⟨g.pending.trans h.pending, g.clock.trans h.clock, fun f => (g.fuses f).trans (h.fuses f), fun w => g.mem (h.mem w),
   Nat.le_trans h.out g.out, fun w => g.pairs (h.pairs w)⟩

/-- A record update of a state that is kept: the five fields that the relation reads. -/
theorem Keeps.upd {F : Prop} {b s t : State} (h : Keeps F b s) (hp : t.pending = s.pending) (hc : t.clock = s.clock)
    (hf : F → t.cu.fuses = s.cu.fuses) (hm : s.mem.wf = true → t.mem.wf = true) (ho : s.out.length ≤ t.out.length)
    (hk : s.pairsOk = true → t.pairsOk = true) : Keeps F b t :=
  h.trans ⟨hp, hc, hf, hm, ho, hk⟩

/-- The same, for a record as it is written out. -/
theorem Keeps.made {F : Prop} {b s : State} (h : Keeps F b s)
    {ev : Ev} {marks : Vector Nat 17} {fresh : Nat} {serial : Nat} {inst : Vector Inst 16} {regions : List Region} {stitches : List (Nat × Stitch)}
    {pairs : List Pair} {deltas : List Delta} {folds : List Fold} {heldReqs : List Held} {heldRegs : List (Nat × Word)}
    {heldDeltas : List (Coord × Wire)} {tierFolds : List TierFold} {rings : List (Nat × Ring)} {pends : List Pend} {ctxs
    : List (Nat × Ctx)} {darns : List Darn} {chains : List Chain} {sent : List Sent} {stitchQ : List Queued}
    {loop : List Wire} {seen : List Seen} {colls : List
    Coll} {kept : List Kept} {remotes : List Remote} {remoteIn : List (Nat × RemoteOp)} {infos : List (Nat × SeatInfo)}
    {digests : List (Nat × Digest)} {tallies : List (Nat × Tally)} {frames : List Frame} {promos : List Promo} {tileRefs
    : List TileRef} {brims : List Brim} {lostPages : List (Nat × Nat × Nat)} {stalePages : List Nat}
    {cu : Cu} {mem : Mem} {coded : List (Nat × Coded)} {out : List Out}
    (hf : F → cu.fuses = s.cu.fuses) (hm : s.mem.wf = true → mem.wf = true) (ho : s.out.length ≤ out.length)
    (hk : s.pairsOk = true → coded.all (fun p => p.2.pairsOk) = true) :
    Keeps F b (State.mk s.pending s.clock ev marks fresh serial cu inst mem regions stitches pairs deltas folds heldReqs heldRegs heldDeltas tierFolds
      rings pends ctxs coded darns chains sent stitchQ loop seen colls kept remotes remoteIn infos digests tallies frames promos
      tileRefs brims lostPages stalePages out) :=
  h.upd rfl rfl hf hm ho hk

/-- A change of every coded context that keeps each one's pairs. -/
theorem Coded.all_map {l : List (Nat × Coded)} {g : Nat × Coded → Nat × Coded}
    (hg : ∀ p, p.2.pairsOk = true → (g p).2.pairsOk = true) (h : l.all (fun p => p.2.pairsOk) = true) :
    (l.map g).all (fun p => p.2.pairsOk) = true := by
  simp only [List.all_eq_true, List.mem_map] at h ⊢
  rintro p ⟨q, hq, rfl⟩
  exact hg q (h q hq)

/-- A cuff bank stands beside the steps. -/
@[simp] theorem Coded.setBank_c (k : Coded) (n : Nat) (b : List (Nat × List Byte)) : (k.setBank n b).c = k.c := by
  unfold Coded.setBank
  split <;> rfl
@[simp] theorem Coded.setBank_cInv (k : Coded) (n : Nat) (b : List (Nat × List Byte)) : (k.setBank n b).cInv = k.cInv := by
  unfold Coded.setBank
  split <;> rfl
@[simp] theorem Coded.setBank_s (k : Coded) (n : Nat) (b : List (Nat × List Byte)) : (k.setBank n b).s = k.s := by
  unfold Coded.setBank
  split <;> rfl
@[simp] theorem Coded.setBank_sInv (k : Coded) (n : Nat) (b : List (Nat × List Byte)) : (k.setBank n b).sInv = k.sInv := by
  unfold Coded.setBank
  split <;> rfl
@[simp] theorem Coded.setBank_port (k : Coded) (n : Nat) (b : List (Nat × List Byte)) : (k.setBank n b).port = k.port := by
  unfold Coded.setBank
  split <;> rfl
@[simp] theorem Coded.setBank_portInv (k : Coded) (n : Nat) (b : List (Nat × List Byte)) : (k.setBank n b).portInv = k.portInv := by
  unfold Coded.setBank
  split <;> rfl

/-- A chip that takes a seat sets C and S with their complements, and its port with C. -/
theorem Coded.takeSeat_pairsOk (k : Coded) (gl : Glove) (attempt step : Nat) (bank : List (Nat × List Byte)) :
    (k.takeSeat gl attempt step bank).pairsOk = true := by
  unfold Coded.takeSeat
  simp [Coded.pairsOk, Coded.setC, Coded.setS]

/-- A block set to a context whose pairs agree, and a list with blocks left out. -/
theorem Coded.all_set {k : Nat} {v : Coded} (hv : v.pairsOk = true) : ∀ {l : List (Nat × Coded)},
    l.all (fun p => p.2.pairsOk) = true → (Tab.set l k v).all (fun p => p.2.pairsOk) = true
  | [], _ => by simp [Tab.set, hv]
  | (j, w) :: l, h => by
    simp only [List.all_cons, Bool.and_eq_true] at h
    unfold Tab.set
    split
    · simp only [List.all_cons, hv, h.1, h.2, Bool.and_self]
    · split
      · simp only [List.all_cons, hv, h.2, Bool.and_self]
      · simp only [List.all_cons, h.1, Coded.all_set hv h.2, Bool.and_self]
theorem Coded.all_filter {l : List (Nat × Coded)} {q : Nat × Coded → Bool}
    (h : l.all (fun p => p.2.pairsOk) = true) : (l.filter q).all (fun p => p.2.pairsOk) = true := by
  simp only [List.all_eq_true, List.mem_filter] at h ⊢
  exact fun p hp => h p hp.1

/-- The state that a function has answered beside a value. -/
theorem Keeps.ofFst {F : Prop} {b t : State} {α : Type} {y : α} {p : State × α} (e : p = (t, y)) (h : Keeps F b p.1) :
    Keeps F b t := by
  subst e
  exact h

theorem Keeps.foldl {F : Prop} {b : State} {α : Type} {f : State → α → State} {l : List α}
    (hf : ∀ s a, Keeps F b s → Keeps F b (f s a)) : ∀ {s}, Keeps F b s → Keeps F b (l.foldl f s) := by
  induction l with
  | nil => exact fun h => h
  | cons a l ih => exact fun h => ih (hf _ a h)

theorem Keeps.foldlFst {F : Prop} {b : State} {α β : Type} {f : State × β → α → State × β} {l : List α}
    (hf : ∀ p a, Keeps F b p.1 → Keeps F b (f p a).1) : ∀ {p}, Keeps F b p.1 → Keeps F b (l.foldl f p).1 := by
  induction l with
  | nil => exact fun h => h
  | cons a l ih => exact fun h => ih (hf _ a h)

end Sys2Proof.Machine
end

