-- ==== Sys2Proof/Laws/KeepsOps.lean ====
section
/-! SUPPORT. Each operation of State, Layout, Ops, Operands, Page, Complete leaves the queue, the clock and the fuses alone, and keeps memory's
canonical form and the complement pairs. -/

namespace Sys2Proof.Machine

theorem State.modInst_keeps {F : Prop} {b s : State} (h : Keeps F b s) (i : Fin 16) (f : Inst → Inst) :
    Keeps F b (s.modInst i f) := by
  unfold State.modInst
  try dsimp only
  exact Keeps.made h (fun _ => rfl) (fun h => h) (Nat.le_refl _) (fun h => h)

theorem State.modInsts_keeps {F : Prop} {b s : State} (h : Keeps F b s) (f : Fin 16 → Inst → Inst) :
    Keeps F b (s.modInsts f) := by
  unfold State.modInsts
  try dsimp only
  repeat' (first
    | with_reducible assumption
    | with_reducible apply State.modInst_keeps
    | (with_reducible refine Keeps.foldl (fun s a h => ?_) ?_)
    | dsimp only)

theorem State.modUppers_keeps {F : Prop} {b s : State} (h : Keeps F b s) (f : Inst → Inst) :
    Keeps F b (s.modUppers f) := by
  unfold State.modUppers
  try dsimp only
  repeat' (first
    | with_reducible assumption
    | with_reducible apply State.modInsts_keeps)

theorem State.modCu_keeps {F : Prop} {b s : State} (h : Keeps F b s) (f : Cu → Cu) (hw : ∀ x, (f x).fuses = x.fuses) :
    Keeps F b (s.modCu f) :=
  h.upd rfl rfl (fun _ => hw _) (fun h => h) (Nat.le_refl _) (fun h => h)

theorem State.emit_keeps {F : Prop} {b s : State} (h : Keeps F b s) (o : Out) : Keeps F b (s.emit o) :=
  h.upd rfl rfl (fun _ => rfl) (fun h => h) (Nat.le_succ _) (fun h => h)

theorem State.bump_keeps {F : Prop} {b s : State} (h : Keeps F b s) :
    Keeps F b (s.bump) := by
  unfold State.bump
  try dsimp only
  exact Keeps.made h (fun _ => rfl) (fun h => h) (Nat.le_refl _) (fun h => h)

theorem State.modFaults_keeps {F : Prop} {b s : State} (h : Keeps F b s) (u : Nat) (g' : Faults → Faults) :
    Keeps F b (s.modFaults u g') := by
  unfold State.modFaults
  try dsimp only
  repeat' (first
    | with_reducible assumption
    | with_reducible apply State.modInst_keeps
    | with_reducible apply State.modCu_keeps
    | exact fun _ => rfl
    | split
    | dsimp only)

theorem State.raiseAt_keeps {F : Prop} {b s : State} (h : Keeps F b s) (u x2 stamp : Nat) (d0 d1 : Word) :
    Keeps F b (s.raiseAt u x2 stamp d0 d1) := by
  unfold State.raiseAt
  try dsimp only
  repeat' (first
    | with_reducible assumption
    | with_reducible apply State.modFaults_keeps
    | exact fun h => h
    | exact fun _ => rfl
    | exact Nat.le_refl _
    | exact fun w => Mem.write_wf w _ _
    | exact fun _ h => h
    | exact fun _ _ => rfl
    | (intro w; refine Coded.all_map ?_ w; intro p h; first | exact h | (split <;> exact h))
    | exact fun w => Coded.all_filter w
    | (exact fun w => Coded.all_set (by simp [Coded.pairsOk, Coded.opened]) w)
    | (intro k w; simp_all [Coded.pairsOk, Coded.setC, Coded.setS, Coded.modGlove]; done)
    | (with_reducible refine Keeps.foldl (fun s a h => ?_) ?_)
    | (with_reducible refine Keeps.foldlFst (fun s a h => ?_) ?_)
    | (refine Keeps.ofFst (by with_reducible assumption) ?_)
    | split
    | dsimp only)

theorem State.raise_keeps {F : Prop} {b s : State} (h : Keeps F b s) (u x2 : Nat) (d0 d1 : Word) :
    Keeps F b (s.raise u x2 d0 d1) := by
  unfold State.raise
  try dsimp only
  repeat' (first
    | with_reducible assumption
    | with_reducible apply State.raiseAt_keeps)

theorem State.capture_keeps {F : Prop} {b s : State} (h : Keeps F b s) (u code : Nat) (d0 d1 : Word) :
    Keeps F b (s.capture u code d0 d1) := by
  unfold State.capture
  try dsimp only
  repeat' (first
    | with_reducible assumption
    | with_reducible apply State.modFaults_keeps)

theorem State.access_keeps {F : Prop} {b s : State} (h : Keeps F b s) (u cause src ctx : Nat) (d1 : Word) :
    Keeps F b (s.access u cause src ctx d1) := by
  unfold State.access
  try dsimp only
  repeat' (first
    | with_reducible assumption
    | with_reducible apply State.raise_keeps)

theorem State.modCoded_keeps {F : Prop} {b s : State} (h : Keeps F b s) (ctx : Nat) (f : Coded → Coded)
    (hw : ∀ k, k.pairsOk = true → (f k).pairsOk = true) : Keeps F b (s.modCoded ctx f) := by
  refine h.upd rfl rfl (fun _ => rfl) (fun h => h) (Nat.le_refl _) (Coded.all_map (fun p h => ?_))
  split
  · exact hw _ h
  · exact h

theorem State.stopCtx_keeps {F : Prop} {b s : State} (h : Keeps F b s) (ctx value : Nat) :
    Keeps F b (s.stopCtx ctx value) := by
  unfold State.stopCtx
  try dsimp only
  repeat' (first
    | with_reducible assumption
    | with_reducible apply State.modCoded_keeps
    | with_reducible apply State.raise_keeps
    | exact fun h => h
    | exact fun _ h => h
    | split
    | dsimp only)

theorem State.checkPort_keeps {F : Prop} {b s : State} (h : Keeps F b s) (ctx : Nat) :
    Keeps F b (s.checkPort ctx) := by
  unfold State.checkPort
  try dsimp only
  repeat' (first
    | with_reducible assumption
    | with_reducible apply State.stopCtx_keeps
    | exact fun h => h
    | exact fun _ => rfl
    | exact Nat.le_refl _
    | exact fun w => Mem.write_wf w _ _
    | exact fun _ h => h
    | exact fun _ _ => rfl
    | (intro w; refine Coded.all_map ?_ w; intro p h; first | exact h | (split <;> exact h))
    | exact fun w => Coded.all_filter w
    | (exact fun w => Coded.all_set (by simp [Coded.pairsOk, Coded.opened]) w)
    | (intro k w; simp_all [Coded.pairsOk, Coded.setC, Coded.setS, Coded.modGlove]; done)
    | (with_reducible refine Keeps.foldl (fun s a h => ?_) ?_)
    | (with_reducible refine Keeps.foldlFst (fun s a h => ?_) ?_)
    | (refine Keeps.ofFst (by with_reducible assumption) ?_)
    | split
    | dsimp only)

theorem State.checkSteps_keeps {F : Prop} {b s : State} (h : Keeps F b s) (ctx : Nat) :
    Keeps F b (s.checkSteps ctx) := by
  unfold State.checkSteps
  try dsimp only
  repeat' (first
    | with_reducible assumption
    | with_reducible apply State.stopCtx_keeps
    | exact fun h => h
    | exact fun _ => rfl
    | exact Nat.le_refl _
    | exact fun w => Mem.write_wf w _ _
    | exact fun _ h => h
    | exact fun _ _ => rfl
    | (intro w; refine Coded.all_map ?_ w; intro p h; first | exact h | (split <;> exact h))
    | exact fun w => Coded.all_filter w
    | (exact fun w => Coded.all_set (by simp [Coded.pairsOk, Coded.opened]) w)
    | (intro k w; simp_all [Coded.pairsOk, Coded.setC, Coded.setS, Coded.modGlove]; done)
    | (with_reducible refine Keeps.foldl (fun s a h => ?_) ?_)
    | (with_reducible refine Keeps.foldlFst (fun s a h => ?_) ?_)
    | (refine Keeps.ofFst (by with_reducible assumption) ?_)
    | split
    | dsimp only)

theorem State.stopAll_keeps {F : Prop} {b s : State} (h : Keeps F b s) : Keeps F b s.stopAll :=
  h.upd rfl rfl (fun _ => rfl) (fun h => h) (Nat.le_refl _) (Coded.all_map (fun _ h => h))

theorem State.useGroup_keeps {F : Prop} {b s : State} (h : Keeps F b s) (ctx : Nat) (g' : Group) :
    Keeps F b (s.useGroup ctx g') := by
  unfold State.useGroup
  try dsimp only
  repeat' (first
    | with_reducible assumption
    | with_reducible apply State.stopCtx_keeps
    | split
    | dsimp only)

theorem State.checkCoded_keeps {F : Prop} {b s : State} (h : Keeps F b s) (k : Coded) :
    Keeps F b (s.checkCoded k) := by
  unfold State.checkCoded
  try dsimp only
  repeat' (first
    | with_reducible assumption
    | with_reducible apply State.checkPort_keeps
    | with_reducible apply State.checkSteps_keeps
    | with_reducible apply State.useGroup_keeps
    | exact fun h => h
    | exact fun _ => rfl
    | exact Nat.le_refl _
    | exact fun w => Mem.write_wf w _ _
    | exact fun _ h => h
    | exact fun _ _ => rfl
    | (intro w; refine Coded.all_map ?_ w; intro p h; first | exact h | (split <;> exact h))
    | exact fun w => Coded.all_filter w
    | (exact fun w => Coded.all_set (by simp [Coded.pairsOk, Coded.opened]) w)
    | (intro k w; simp_all [Coded.pairsOk, Coded.setC, Coded.setS, Coded.modGlove]; done)
    | (with_reducible refine Keeps.foldl (fun s a h => ?_) ?_)
    | (with_reducible refine Keeps.foldlFst (fun s a h => ?_) ?_)
    | (refine Keeps.ofFst (by with_reducible assumption) ?_)
    | split
    | dsimp only)

theorem State.checkPairs_keeps {F : Prop} {b s : State} (h : Keeps F b s) :
    Keeps F b (s.checkPairs) := by
  unfold State.checkPairs
  try dsimp only
  repeat' (first
    | with_reducible assumption
    | with_reducible apply State.checkCoded_keeps
    | exact fun h => h
    | exact fun _ => rfl
    | exact Nat.le_refl _
    | exact fun w => Mem.write_wf w _ _
    | exact fun _ h => h
    | exact fun _ _ => rfl
    | (intro w; refine Coded.all_map ?_ w; intro p h; first | exact h | (split <;> exact h))
    | exact fun w => Coded.all_filter w
    | (exact fun w => Coded.all_set (by simp [Coded.pairsOk, Coded.opened]) w)
    | (intro k w; simp_all [Coded.pairsOk, Coded.setC, Coded.setS, Coded.modGlove]; done)
    | (with_reducible refine Keeps.foldl (fun s a h => ?_) ?_)
    | (with_reducible refine Keeps.foldlFst (fun s a h => ?_) ?_)
    | (refine Keeps.ofFst (by with_reducible assumption) ?_)
    | split
    | dsimp only)

theorem State.setFence_keeps {F : Prop} {b s : State} (h : Keeps F b s) (n : Nat) :
    Keeps F b (s.setFence n) := by
  unfold State.setFence
  try dsimp only
  exact Keeps.made h (fun _ => rfl) (fun h => h) (Nat.le_refl _) (fun h => h)

theorem State.clearFence_keeps {F : Prop} {b s : State} (h : Keeps F b s) (n : Nat) :
    Keeps F b (s.clearFence n) := by
  unfold State.clearFence
  try dsimp only
  exact Keeps.made h (fun _ => rfl) (fun h => h) (Nat.le_refl _) (fun h => h)

theorem State.modRegion_keeps {F : Prop} {b s : State} (h : Keeps F b s) (n : Nat) (f : Region → Region) :
    Keeps F b (s.modRegion n f) := by
  unfold State.modRegion
  try dsimp only
  exact Keeps.made h (fun _ => rfl) (fun h => h) (Nat.le_refl _) (fun h => h)

theorem State.modStitch_keeps {F : Prop} {b s : State} (h : Keeps F b s) (region idx : Nat) (f : Stitch → Stitch) :
    Keeps F b (s.modStitch region idx f) := by
  unfold State.modStitch
  try dsimp only
  exact Keeps.made h (fun _ => rfl) (fun h => h) (Nat.le_refl _) (fun h => h)

theorem State.dropStitches_keeps {F : Prop} {b s : State} (h : Keeps F b s) (region : Nat) :
    Keeps F b (s.dropStitches region) := by
  unfold State.dropStitches
  try dsimp only
  exact Keeps.made h (fun _ => rfl) (fun h => h) (Nat.le_refl _) (fun h => h)

theorem State.carry_keeps {F : Prop} {b s : State} (h : Keeps F b s) (dst : Coord) (w : Wire) :
    Keeps F b (s.carry dst w) := by
  unfold State.carry
  try dsimp only
  repeat' (first
    | with_reducible assumption
    | with_reducible apply State.emit_keeps
    | exact fun h => h
    | exact fun _ => rfl
    | exact Nat.le_refl _
    | exact fun w => Mem.write_wf w _ _
    | exact fun _ h => h
    | exact fun _ _ => rfl
    | (intro w; refine Coded.all_map ?_ w; intro p h; first | exact h | (split <;> exact h))
    | exact fun w => Coded.all_filter w
    | (exact fun w => Coded.all_set (by simp [Coded.pairsOk, Coded.opened]) w)
    | (intro k w; simp_all [Coded.pairsOk, Coded.setC, Coded.setS, Coded.modGlove]; done)
    | (with_reducible refine Keeps.foldl (fun s a h => ?_) ?_)
    | (with_reducible refine Keeps.foldlFst (fun s a h => ?_) ?_)
    | (refine Keeps.ofFst (by with_reducible assumption) ?_)
    | split
    | dsimp only
    | with_reducible apply Keeps.made)

theorem State.send_keeps {F : Prop} {b s : State} (h : Keeps F b s) (unit ctx member : Nat) (dst : Coord) (w : Wire) :
    Keeps F b (s.send unit ctx member dst w) := by
  unfold State.send
  try dsimp only
  repeat' (first
    | with_reducible assumption
    | with_reducible apply State.carry_keeps
    | exact fun h => h
    | exact fun _ => rfl
    | exact Nat.le_refl _
    | exact fun w => Mem.write_wf w _ _
    | exact fun _ h => h
    | exact fun _ _ => rfl
    | (intro w; refine Coded.all_map ?_ w; intro p h; first | exact h | (split <;> exact h))
    | exact fun w => Coded.all_filter w
    | (exact fun w => Coded.all_set (by simp [Coded.pairsOk, Coded.opened]) w)
    | (intro k w; simp_all [Coded.pairsOk, Coded.setC, Coded.setS, Coded.modGlove]; done)
    | (with_reducible refine Keeps.foldl (fun s a h => ?_) ?_)
    | (with_reducible refine Keeps.foldlFst (fun s a h => ?_) ?_)
    | (refine Keeps.ofFst (by with_reducible assumption) ?_)
    | split
    | dsimp only
    | with_reducible apply Keeps.made)

theorem State.sendRanked_keeps {F : Prop} {b s : State} (h : Keeps F b s) (r unit ctx member : Nat) (dst : Coord) (w : Wire) :
    Keeps F b (s.sendRanked r unit ctx member dst w) := by
  unfold State.sendRanked
  try dsimp only
  repeat' (first
    | with_reducible assumption
    | with_reducible apply State.send_keeps
    | exact fun h => h
    | exact fun _ => rfl
    | exact Nat.le_refl _
    | exact fun w => Mem.write_wf w _ _
    | exact fun _ h => h
    | exact fun _ _ => rfl
    | (intro w; refine Coded.all_map ?_ w; intro p h; first | exact h | (split <;> exact h))
    | exact fun w => Coded.all_filter w
    | (exact fun w => Coded.all_set (by simp [Coded.pairsOk, Coded.opened]) w)
    | (intro k w; simp_all [Coded.pairsOk, Coded.setC, Coded.setS, Coded.modGlove]; done)
    | (with_reducible refine Keeps.foldl (fun s a h => ?_) ?_)
    | (with_reducible refine Keeps.foldlFst (fun s a h => ?_) ?_)
    | (refine Keeps.ofFst (by with_reducible assumption) ?_)
    | split
    | dsimp only
    | with_reducible apply Keeps.made)

theorem State.sendWaiting_keeps {F : Prop} {b s : State} (h : Keeps F b s) :
    Keeps F b (s.sendWaiting) := by
  unfold State.sendWaiting
  try dsimp only
  repeat' (first
    | with_reducible assumption
    | with_reducible apply State.send_keeps
    | exact fun h => h
    | exact fun _ => rfl
    | exact Nat.le_refl _
    | exact fun w => Mem.write_wf w _ _
    | exact fun _ h => h
    | exact fun _ _ => rfl
    | (intro w; refine Coded.all_map ?_ w; intro p h; first | exact h | (split <;> exact h))
    | exact fun w => Coded.all_filter w
    | (exact fun w => Coded.all_set (by simp [Coded.pairsOk, Coded.opened]) w)
    | (intro k w; simp_all [Coded.pairsOk, Coded.setC, Coded.setS, Coded.modGlove]; done)
    | (with_reducible refine Keeps.foldl (fun s a h => ?_) ?_)
    | (with_reducible refine Keeps.foldlFst (fun s a h => ?_) ?_)
    | (refine Keeps.ofFst (by with_reducible assumption) ?_)
    | split
    | dsimp only
    | with_reducible apply Keeps.made)

theorem State.reply_keeps {F : Prop} {b s : State} (h : Keeps F b s) (dst : Coord) (w : Wire) :
    Keeps F b (s.reply dst w) := by
  unfold State.reply
  try dsimp only
  repeat' (first
    | with_reducible assumption
    | with_reducible apply State.carry_keeps)

theorem State.dropSent_keeps {F : Prop} {b s : State} (h : Keeps F b s) (p : Sent → Bool) :
    Keeps F b (s.dropSent p) := by
  unfold State.dropSent
  try dsimp only
  exact Keeps.made h (fun _ => rfl) (fun h => h) (Nat.le_refl _) (fun h => h)

theorem State.dropQueued_keeps {F : Prop} {b s : State} (h : Keeps F b s) (p : Queued → Bool) :
    Keeps F b (s.dropQueued p) := by
  unfold State.dropQueued
  try dsimp only
  repeat' (first
    | with_reducible assumption
    | exact fun h => h
    | exact fun _ => rfl
    | exact Nat.le_refl _
    | exact fun w => Mem.write_wf w _ _
    | exact fun _ h => h
    | exact fun _ _ => rfl
    | (intro w; refine Coded.all_map ?_ w; intro p h; first | exact h | (split <;> exact h))
    | exact fun w => Coded.all_filter w
    | (exact fun w => Coded.all_set (by simp [Coded.pairsOk, Coded.opened]) w)
    | (intro k w; simp_all [Coded.pairsOk, Coded.setC, Coded.setS, Coded.modGlove]; done)
    | (with_reducible refine Keeps.foldl (fun s a h => ?_) ?_)
    | (with_reducible refine Keeps.foldlFst (fun s a h => ?_) ?_)
    | (refine Keeps.ofFst (by with_reducible assumption) ?_)
    | split
    | dsimp only
    | with_reducible apply Keeps.made)

theorem State.modMeta_keeps {F : Prop} {b s : State} (h : Keeps F b s) (k : Nat) (f : PageRec → PageRec) :
    Keeps F b (s.modMeta k f) := by
  unfold State.modMeta
  try dsimp only
  repeat' (first
    | with_reducible assumption
    | exact fun h => h
    | exact fun _ => rfl
    | exact Nat.le_refl _
    | exact fun w => Mem.write_wf w _ _
    | exact fun _ h => h
    | exact fun _ _ => rfl
    | (intro w; refine Coded.all_map ?_ w; intro p h; first | exact h | (split <;> exact h))
    | exact fun w => Coded.all_filter w
    | (exact fun w => Coded.all_set (by simp [Coded.pairsOk, Coded.opened]) w)
    | (intro k w; simp_all [Coded.pairsOk, Coded.setC, Coded.setS, Coded.modGlove]; done)
    | (with_reducible refine Keeps.foldl (fun s a h => ?_) ?_)
    | (with_reducible refine Keeps.foldlFst (fun s a h => ?_) ?_)
    | (refine Keeps.ofFst (by with_reducible assumption) ?_)
    | split
    | dsimp only
    | with_reducible apply Keeps.made)

theorem State.markPoisoned_keeps {F : Prop} {b s : State} (h : Keeps F b s) (k : Nat) :
    Keeps F b (s.markPoisoned k) := by
  unfold State.markPoisoned
  try dsimp only
  exact Keeps.made h (fun _ => rfl) (fun h => h) (Nat.le_refl _) (fun h => h)

theorem State.neverPages_keeps {F : Prop} {b s : State} (h : Keeps F b s) (k n : Nat) :
    Keeps F b (s.neverPages k n) := by
  unfold State.neverPages
  try dsimp only
  exact Keeps.made h (fun _ => rfl) (fun h => h) (Nat.le_refl _) (fun h => h)

theorem State.haltCoding_keeps {F : Prop} {b s : State} (h : Keeps F b s) (i : Fin 16) (lane : Nat) :
    Keeps F b (s.haltCoding i lane) := by
  unfold State.haltCoding
  try dsimp only
  repeat' (first
    | with_reducible assumption
    | with_reducible apply State.stopAll_keeps
    | with_reducible apply State.modCu_keeps
    | with_reducible apply State.raise_keeps
    | with_reducible apply State.modInst_keeps
    | exact fun _ => rfl
    | split
    | dsimp only)

theorem State.retireLane_keeps {F : Prop} {b s : State} (h : Keeps F b s) (i : Fin 16) (lane : Nat) :
    Keeps F b (s.retireLane i lane) := by
  unfold State.retireLane
  try dsimp only
  repeat' (first
    | with_reducible assumption
    | with_reducible apply State.modInst_keeps
    | with_reducible apply State.haltCoding_keeps
    | split
    | dsimp only)

theorem State.shadowFault_keeps {F : Prop} {b s : State} (h : Keeps F b s) (i : Fin 16) (lane nb outcome product : Nat) :
    Keeps F b (s.shadowFault i lane nb outcome product) := by
  unfold State.shadowFault
  try dsimp only
  repeat' (first
    | with_reducible assumption
    | with_reducible apply State.raise_keeps)

theorem State.checked_keeps {F : Prop} {b s : State} (h : Keeps F b s) (i : Fin 16) (lane product : Nat) (y' : List Byte) :
    Keeps F b (s.checked i lane product y').1 := by
  unfold State.checked
  try dsimp only
  repeat' (first
    | with_reducible assumption
    | with_reducible apply State.shadowFault_keeps
    | with_reducible apply State.modInst_keeps
    | with_reducible apply State.retireLane_keeps
    | with_reducible apply State.haltCoding_keeps
    | exact fun h => h
    | exact fun _ => rfl
    | exact Nat.le_refl _
    | exact fun w => Mem.write_wf w _ _
    | exact fun _ h => h
    | exact fun _ _ => rfl
    | (intro w; refine Coded.all_map ?_ w; intro p h; first | exact h | (split <;> exact h))
    | exact fun w => Coded.all_filter w
    | (exact fun w => Coded.all_set (by simp [Coded.pairsOk, Coded.opened]) w)
    | (intro k w; simp_all [Coded.pairsOk, Coded.setC, Coded.setS, Coded.modGlove]; done)
    | (with_reducible refine Keeps.foldl (fun s a h => ?_) ?_)
    | (with_reducible refine Keeps.foldlFst (fun s a h => ?_) ?_)
    | (refine Keeps.ofFst (by with_reducible assumption) ?_)
    | split
    | dsimp only
    | with_reducible apply Keeps.made)

theorem State.countCe_keeps {F : Prop} {b s : State} (h : Keeps F b s) (i : Fin 16) (lane n : Nat) :
    Keeps F b (s.countCe i lane n) := by
  unfold State.countCe
  try dsimp only
  repeat' (first
    | with_reducible assumption
    | with_reducible apply State.modInst_keeps
    | with_reducible apply State.raise_keeps
    | split
    | dsimp only)

theorem State.countBursts_keeps {F : Prop} {b s : State} (h : Keeps F b s) (k : Nat) (bs : List Burst) (pass : Bool) :
    Keeps F b (s.countBursts k bs pass) := by
  unfold State.countBursts
  try dsimp only
  repeat' (first
    | with_reducible assumption
    | with_reducible apply State.countCe_keeps
    | with_reducible apply State.raise_keeps
    | (with_reducible refine Keeps.foldl (fun s a h => ?_) ?_)
    | split
    | dsimp only)

theorem State.corrected_keeps {F : Prop} {b s : State} (h : Keeps F b s) (k : Nat) :
    Keeps F b (s.corrected k) := by
  unfold State.corrected
  try dsimp only
  repeat' (first
    | with_reducible assumption
    | with_reducible apply State.modInst_keeps
    | with_reducible apply State.raise_keeps
    | exact fun h => h
    | exact fun _ => rfl
    | exact Nat.le_refl _
    | exact fun w => Mem.write_wf w _ _
    | exact fun _ h => h
    | exact fun _ _ => rfl
    | (intro w; refine Coded.all_map ?_ w; intro p h; first | exact h | (split <;> exact h))
    | exact fun w => Coded.all_filter w
    | (exact fun w => Coded.all_set (by simp [Coded.pairsOk, Coded.opened]) w)
    | (intro k w; simp_all [Coded.pairsOk, Coded.setC, Coded.setS, Coded.modGlove]; done)
    | (with_reducible refine Keeps.foldl (fun s a h => ?_) ?_)
    | (with_reducible refine Keeps.foldlFst (fun s a h => ?_) ?_)
    | (refine Keeps.ofFst (by with_reducible assumption) ?_)
    | split
    | dsimp only
    | with_reducible apply Keeps.made)

theorem State.uncorrectable_keeps {F : Prop} {b s : State} (h : Keeps F b s) (k : Nat) :
    Keeps F b (s.uncorrectable k) := by
  unfold State.uncorrectable
  try dsimp only
  repeat' (first
    | with_reducible assumption
    | with_reducible apply State.modInst_keeps
    | with_reducible apply State.raise_keeps)

theorem State.decodePage_keeps {F : Prop} {b s : State} (h : Keeps F b s) (k : Nat) :
    Keeps F b (s.decodePage k).1 := by
  unfold State.decodePage
  try dsimp only
  repeat' (first
    | with_reducible assumption
    | with_reducible apply State.uncorrectable_keeps
    | with_reducible apply State.countBursts_keeps
    | with_reducible apply State.corrected_keeps
    | exact fun h => h
    | exact fun _ => rfl
    | exact Nat.le_refl _
    | exact fun w => Mem.write_wf w _ _
    | exact fun _ h => h
    | exact fun _ _ => rfl
    | (intro w; refine Coded.all_map ?_ w; intro p h; first | exact h | (split <;> exact h))
    | exact fun w => Coded.all_filter w
    | (exact fun w => Coded.all_set (by simp [Coded.pairsOk, Coded.opened]) w)
    | (intro k w; simp_all [Coded.pairsOk, Coded.setC, Coded.setS, Coded.modGlove]; done)
    | (with_reducible refine Keeps.foldl (fun s a h => ?_) ?_)
    | (with_reducible refine Keeps.foldlFst (fun s a h => ?_) ?_)
    | (refine Keeps.ofFst (by with_reducible assumption) ?_)
    | split
    | dsimp only)

theorem State.fetchPage_keeps {F : Prop} {b s : State} (h : Keeps F b s) (k : Nat) :
    Keeps F b (s.fetchPage k).1 := by
  unfold State.fetchPage
  try dsimp only
  repeat' (first
    | with_reducible assumption
    | with_reducible apply State.decodePage_keeps
    | split
    | dsimp only)

theorem State.fetchPass_keeps {F : Prop} {b s : State} (h : Keeps F b s) (k off n : Nat) :
    Keeps F b (s.fetchPass k off n).1 := by
  unfold State.fetchPass
  try dsimp only
  repeat' (first
    | with_reducible assumption
    | with_reducible apply State.countBursts_keeps)

theorem State.storePage_keeps {F : Prop} {b s : State} (h : Keeps F b s) (k : Nat) (data : List Byte) (t' : Tags) :
    Keeps F b (s.storePage k data t') := by
  unfold State.storePage
  try dsimp only
  repeat' (first
    | with_reducible assumption
    | with_reducible apply State.checked_keeps
    | exact fun h => h
    | exact fun _ => rfl
    | exact Nat.le_refl _
    | exact fun w => Mem.write_wf w _ _
    | exact fun _ h => h
    | exact fun _ _ => rfl
    | (intro w; refine Coded.all_map ?_ w; intro p h; first | exact h | (split <;> exact h))
    | exact fun w => Coded.all_filter w
    | (exact fun w => Coded.all_set (by simp [Coded.pairsOk, Coded.opened]) w)
    | (intro k w; simp_all [Coded.pairsOk, Coded.setC, Coded.setS, Coded.modGlove]; done)
    | (with_reducible refine Keeps.foldl (fun s a h => ?_) ?_)
    | (with_reducible refine Keeps.foldlFst (fun s a h => ?_) ?_)
    | (refine Keeps.ofFst (by with_reducible assumption) ?_)
    | split
    | dsimp only
    | with_reducible apply Keeps.made)

theorem State.storePass_keeps {F : Prop} {b s : State} (h : Keeps F b s) (k off : Nat) (data : List Byte) :
    Keeps F b (s.storePass k off data) := by
  unfold State.storePass
  try dsimp only
  repeat' (first
    | with_reducible assumption
    | exact fun h => h
    | exact fun _ => rfl
    | exact Nat.le_refl _
    | exact fun w => Mem.write_wf w _ _
    | exact fun _ h => h
    | exact fun _ _ => rfl
    | (intro w; refine Coded.all_map ?_ w; intro p h; first | exact h | (split <;> exact h))
    | exact fun w => Coded.all_filter w
    | (exact fun w => Coded.all_set (by simp [Coded.pairsOk, Coded.opened]) w)
    | (intro k w; simp_all [Coded.pairsOk, Coded.setC, Coded.setS, Coded.modGlove]; done)
    | (with_reducible refine Keeps.foldl (fun s a h => ?_) ?_)
    | (with_reducible refine Keeps.foldlFst (fun s a h => ?_) ?_)
    | (refine Keeps.ofFst (by with_reducible assumption) ?_)
    | split
    | dsimp only
    | with_reducible apply Keeps.made)

theorem State.dropMerge_keeps {F : Prop} {b s : State} (h : Keeps F b s) (k : Nat) :
    Keeps F b (s.dropMerge k) := by
  unfold State.dropMerge
  try dsimp only
  exact Keeps.made h (fun _ => rfl) (fun h => h) (Nat.le_refl _) (fun h => h)

theorem State.mergeInto_keeps {F : Prop} {b s : State} (h : Keeps F b s) (k off : Nat) (d : List Byte) (reqs : List Nat) :
    Keeps F b (s.mergeInto k off d reqs) := by
  unfold State.mergeInto
  try dsimp only
  repeat' (first
    | with_reducible assumption
    | with_reducible apply State.dropMerge_keeps
    | exact fun h => h
    | exact fun _ => rfl
    | exact Nat.le_refl _
    | exact fun w => Mem.write_wf w _ _
    | exact fun _ h => h
    | exact fun _ _ => rfl
    | (intro w; refine Coded.all_map ?_ w; intro p h; first | exact h | (split <;> exact h))
    | exact fun w => Coded.all_filter w
    | (exact fun w => Coded.all_set (by simp [Coded.pairsOk, Coded.opened]) w)
    | (intro k w; simp_all [Coded.pairsOk, Coded.setC, Coded.setS, Coded.modGlove]; done)
    | (with_reducible refine Keeps.foldl (fun s a h => ?_) ?_)
    | (with_reducible refine Keeps.foldlFst (fun s a h => ?_) ?_)
    | (refine Keeps.ofFst (by with_reducible assumption) ?_)
    | split
    | dsimp only
    | with_reducible apply Keeps.made)

theorem State.fillOne_keeps {F : Prop} {b s : State} (h : Keeps F b s) (r : Region) (f : Fill) (k : Nat) :
    Keeps F b (s.fillOne r f k) := by
  unfold State.fillOne
  try dsimp only
  repeat' (first
    | with_reducible assumption
    | with_reducible apply State.storePage_keeps
    | with_reducible apply State.storePass_keeps
    | with_reducible apply State.modRegion_keeps
    | exact fun h => h
    | exact fun _ => rfl
    | exact Nat.le_refl _
    | exact fun w => Mem.write_wf w _ _
    | exact fun _ h => h
    | exact fun _ _ => rfl
    | (intro w; refine Coded.all_map ?_ w; intro p h; first | exact h | (split <;> exact h))
    | exact fun w => Coded.all_filter w
    | (exact fun w => Coded.all_set (by simp [Coded.pairsOk, Coded.opened]) w)
    | (intro k w; simp_all [Coded.pairsOk, Coded.setC, Coded.setS, Coded.modGlove]; done)
    | (with_reducible refine Keeps.foldl (fun s a h => ?_) ?_)
    | (with_reducible refine Keeps.foldlFst (fun s a h => ?_) ?_)
    | (refine Keeps.ofFst (by with_reducible assumption) ?_)
    | split
    | dsimp only
    | with_reducible apply Keeps.made)

theorem State.fillTo_keeps {F : Prop} {b s : State} (h : Keeps F b s) (k : Nat) :
    Keeps F b (s.fillTo k) := by
  unfold State.fillTo
  try dsimp only
  repeat' (first
    | with_reducible assumption
    | with_reducible apply State.fillOne_keeps
    | exact fun h => h
    | exact fun _ => rfl
    | exact Nat.le_refl _
    | exact fun w => Mem.write_wf w _ _
    | exact fun _ h => h
    | exact fun _ _ => rfl
    | (intro w; refine Coded.all_map ?_ w; intro p h; first | exact h | (split <;> exact h))
    | exact fun w => Coded.all_filter w
    | (exact fun w => Coded.all_set (by simp [Coded.pairsOk, Coded.opened]) w)
    | (intro k w; simp_all [Coded.pairsOk, Coded.setC, Coded.setS, Coded.modGlove]; done)
    | (with_reducible refine Keeps.foldl (fun s a h => ?_) ?_)
    | (with_reducible refine Keeps.foldlFst (fun s a h => ?_) ?_)
    | (refine Keeps.ofFst (by with_reducible assumption) ?_)
    | split
    | dsimp only)

theorem State.partialInit_keeps {F : Prop} {b s : State} (h : Keeps F b s) (k : Nat) :
    Keeps F b (s.partialInit k) := by
  unfold State.partialInit
  try dsimp only
  repeat' (first
    | with_reducible assumption
    | with_reducible apply State.modInst_keeps)

theorem State.uninitRead_keeps {F : Prop} {b s : State} (h : Keeps F b s) (k src ctx : Nat) :
    Keeps F b (s.uninitRead k src ctx) := by
  unfold State.uninitRead
  try dsimp only
  repeat' (first
    | with_reducible assumption
    | with_reducible apply State.modInst_keeps
    | with_reducible apply State.raise_keeps)

theorem State.patchPage_keeps {F : Prop} {b s : State} (h : Keeps F b s) (k : Nat) (f : List Byte → List Byte) :
    Keeps F b (s.patchPage k f) := by
  unfold State.patchPage
  try dsimp only
  repeat' (first
    | with_reducible assumption
    | with_reducible apply State.fetchPage_keeps
    | with_reducible apply State.storePage_keeps
    | with_reducible apply State.partialInit_keeps
    | (with_reducible refine Keeps.foldl (fun s a h => ?_) ?_)
    | (refine Keeps.ofFst (by with_reducible assumption) ?_)
    | split
    | dsimp only)

theorem State.evictPlain_keeps {F : Prop} {b s : State} (h : Keeps F b s) (k : Nat) :
    Keeps F b (s.evictPlain k) := by
  unfold State.evictPlain
  try dsimp only
  repeat' (first
    | with_reducible assumption
    | with_reducible apply State.patchPage_keeps
    | with_reducible apply State.dropMerge_keeps
    | split
    | dsimp only)

theorem State.readPlain_keeps {F : Prop} {b s : State} (h : Keeps F b s) (k ctx : Nat) :
    Keeps F b (s.readPlain k ctx).1 := by
  unfold State.readPlain
  try dsimp only
  repeat' (first
    | with_reducible assumption
    | with_reducible apply State.fetchPage_keeps
    | with_reducible apply State.evictPlain_keeps
    | with_reducible apply State.uninitRead_keeps
    | exact fun h => h
    | exact fun _ => rfl
    | exact Nat.le_refl _
    | exact fun w => Mem.write_wf w _ _
    | exact fun _ h => h
    | exact fun _ _ => rfl
    | (intro w; refine Coded.all_map ?_ w; intro p h; first | exact h | (split <;> exact h))
    | exact fun w => Coded.all_filter w
    | (exact fun w => Coded.all_set (by simp [Coded.pairsOk, Coded.opened]) w)
    | (intro k w; simp_all [Coded.pairsOk, Coded.setC, Coded.setS, Coded.modGlove]; done)
    | (with_reducible refine Keeps.foldl (fun s a h => ?_) ?_)
    | (with_reducible refine Keeps.foldlFst (fun s a h => ?_) ?_)
    | (refine Keeps.ofFst (by with_reducible assumption) ?_)
    | split
    | dsimp only)

theorem State.padunWrite_keeps {F : Prop} {b s : State} (h : Keeps F b s) (a : Nat) (data : List Byte) :
    Keeps F b (s.padunWrite a data) := by
  unfold State.padunWrite
  try dsimp only
  repeat' (first
    | with_reducible assumption
    | with_reducible apply State.fillTo_keeps
    | with_reducible apply State.storePass_keeps
    | with_reducible apply State.storePage_keeps
    | with_reducible apply State.dropMerge_keeps
    | with_reducible apply State.patchPage_keeps
    | with_reducible apply State.evictPlain_keeps
    | with_reducible apply State.mergeInto_keeps
    | (with_reducible refine Keeps.foldl (fun s a h => ?_) ?_)
    | split
    | dsimp only)

theorem State.padunPage_keeps {F : Prop} {b s : State} (h : Keeps F b s) (k off n ctx : Nat) :
    Keeps F b (s.padunPage k off n ctx).1 := by
  unfold State.padunPage
  try dsimp only
  repeat' (first
    | with_reducible assumption
    | with_reducible apply State.fillTo_keeps
    | with_reducible apply State.readPlain_keeps
    | with_reducible apply State.fetchPass_keeps
    | (with_reducible refine Keeps.foldl (fun s a h => ?_) ?_)
    | (refine Keeps.ofFst (by with_reducible assumption) ?_)
    | split
    | dsimp only)

theorem State.padunRead_keeps {F : Prop} {b s : State} (h : Keeps F b s) (a n ctx : Nat) :
    Keeps F b (s.padunRead a n ctx).1 := by
  unfold State.padunRead
  try dsimp only
  repeat' (first
    | with_reducible assumption
    | with_reducible apply State.padunPage_keeps
    | exact fun h => h
    | exact fun _ => rfl
    | exact Nat.le_refl _
    | exact fun w => Mem.write_wf w _ _
    | exact fun _ h => h
    | exact fun _ _ => rfl
    | (intro w; refine Coded.all_map ?_ w; intro p h; first | exact h | (split <;> exact h))
    | exact fun w => Coded.all_filter w
    | (exact fun w => Coded.all_set (by simp [Coded.pairsOk, Coded.opened]) w)
    | (intro k w; simp_all [Coded.pairsOk, Coded.setC, Coded.setS, Coded.modGlove]; done)
    | (with_reducible refine Keeps.foldl (fun s a h => ?_) ?_)
    | (with_reducible refine Keeps.foldlFst (fun s a h => ?_) ?_)
    | (refine Keeps.ofFst (by with_reducible assumption) ?_)
    | split
    | dsimp only)

theorem State.modRing_keeps {F : Prop} {b s : State} (h : Keeps F b s) (ring : Nat) (f : Ring → Ring) :
    Keeps F b (s.modRing ring f) := by
  unfold State.modRing
  try dsimp only
  repeat' (first
    | with_reducible assumption
    | exact fun h => h
    | exact fun _ => rfl
    | exact Nat.le_refl _
    | exact fun w => Mem.write_wf w _ _
    | exact fun _ h => h
    | exact fun _ _ => rfl
    | (intro w; refine Coded.all_map ?_ w; intro p h; first | exact h | (split <;> exact h))
    | exact fun w => Coded.all_filter w
    | (exact fun w => Coded.all_set (by simp [Coded.pairsOk, Coded.opened]) w)
    | (intro k w; simp_all [Coded.pairsOk, Coded.setC, Coded.setS, Coded.modGlove]; done)
    | (with_reducible refine Keeps.foldl (fun s a h => ?_) ?_)
    | (with_reducible refine Keeps.foldlFst (fun s a h => ?_) ?_)
    | (refine Keeps.ofFst (by with_reducible assumption) ?_)
    | split
    | dsimp only
    | with_reducible apply Keeps.made)

theorem State.writeCount_keeps {F : Prop} {b s : State} (h : Keeps F b s) (ring off v : Nat) :
    Keeps F b (s.writeCount ring off v) := by
  unfold State.writeCount
  try dsimp only
  repeat' (first
    | with_reducible assumption
    | with_reducible apply State.padunWrite_keeps)

theorem State.putEntry_keeps {F : Prop} {b s : State} (h : Keeps F b s) (c : Completion) (cqBase log2 posted : Nat) :
    Keeps F b (s.putEntry c cqBase log2 posted) := by
  unfold State.putEntry
  try dsimp only
  repeat' (first
    | with_reducible assumption
    | with_reducible apply State.padunWrite_keeps
    | with_reducible apply State.emit_keeps
    | with_reducible apply State.writeCount_keeps
    | with_reducible apply State.modRing_keeps
    | exact fun h => h
    | exact fun _ => rfl
    | exact Nat.le_refl _
    | exact fun w => Mem.write_wf w _ _
    | exact fun _ h => h
    | exact fun _ _ => rfl
    | (intro w; refine Coded.all_map ?_ w; intro p h; first | exact h | (split <;> exact h))
    | exact fun w => Coded.all_filter w
    | (exact fun w => Coded.all_set (by simp [Coded.pairsOk, Coded.opened]) w)
    | (intro k w; simp_all [Coded.pairsOk, Coded.setC, Coded.setS, Coded.modGlove]; done)
    | (with_reducible refine Keeps.foldl (fun s a h => ?_) ?_)
    | (with_reducible refine Keeps.foldlFst (fun s a h => ?_) ?_)
    | (refine Keeps.ofFst (by with_reducible assumption) ?_)
    | split
    | dsimp only)

theorem State.writeEntry_keeps {F : Prop} {b s : State} (h : Keeps F b s) (c : Completion) :
    Keeps F b (s.writeEntry c) := by
  unfold State.writeEntry
  try dsimp only
  repeat' (first
    | with_reducible assumption
    | with_reducible apply State.emit_keeps
    | with_reducible apply State.putEntry_keeps
    | split
    | dsimp only)

theorem State.dropPend_keeps {F : Prop} {b s : State} (h : Keeps F b s) (c : Cmd) :
    Keeps F b (s.dropPend c) := by
  unfold State.dropPend
  try dsimp only
  exact Keeps.made h (fun _ => rfl) (fun h => h) (Nat.le_refl _) (fun h => h)

theorem State.postAt_keeps {F : Prop} {b s : State} (h : Keeps F b s) (c : Cmd) (status result detail stamp : Nat) :
    Keeps F b (s.postAt c status result detail stamp) := by
  unfold State.postAt
  try dsimp only
  repeat' (first
    | with_reducible assumption
    | with_reducible apply State.dropPend_keeps
    | with_reducible apply State.writeEntry_keeps
    | with_reducible apply State.setFence_keeps
    | split
    | dsimp only)

theorem State.post_keeps {F : Prop} {b s : State} (h : Keeps F b s) (c : Cmd) (status result : Nat) :
    Keeps F b (s.post c status result) := by
  unfold State.post
  try dsimp only
  repeat' (first
    | with_reducible assumption
    | with_reducible apply State.postAt_keeps)

theorem State.badParam_keeps {F : Prop} {b s : State} (h : Keeps F b s) (c : Cmd) (byte : Nat) :
    Keeps F b (s.badParam c byte) := by
  unfold State.badParam
  try dsimp only
  repeat' (first
    | with_reducible assumption
    | with_reducible apply State.postAt_keeps)

theorem State.hold_keeps {F : Prop} {b s : State} (h : Keeps F b s) (c : Cmd) (j : Job) :
    Keeps F b (s.hold c j) := by
  unfold State.hold
  try dsimp only
  repeat' (first
    | with_reducible assumption
    | exact fun h => h
    | exact fun _ => rfl
    | exact Nat.le_refl _
    | exact fun w => Mem.write_wf w _ _
    | exact fun _ h => h
    | exact fun _ _ => rfl
    | (intro w; refine Coded.all_map ?_ w; intro p h; first | exact h | (split <;> exact h))
    | exact fun w => Coded.all_filter w
    | (exact fun w => Coded.all_set (by simp [Coded.pairsOk, Coded.opened]) w)
    | (intro k w; simp_all [Coded.pairsOk, Coded.setC, Coded.setS, Coded.modGlove]; done)
    | (with_reducible refine Keeps.foldl (fun s a h => ?_) ?_)
    | (with_reducible refine Keeps.foldlFst (fun s a h => ?_) ?_)
    | (refine Keeps.ofFst (by with_reducible assumption) ?_)
    | split
    | dsimp only
    | with_reducible apply Keeps.made)

theorem State.postDeferred_keeps {F : Prop} {b s : State} (h : Keeps F b s) (c : Cmd) (j : Job) :
    Keeps F b (s.postDeferred c j) := by
  unfold State.postDeferred
  try dsimp only
  repeat' (first
    | with_reducible assumption
    | with_reducible apply State.hold_keeps
    | with_reducible apply State.writeEntry_keeps
    | exact fun h => h
    | exact fun _ => rfl
    | exact Nat.le_refl _
    | exact fun w => Mem.write_wf w _ _
    | exact fun _ h => h
    | exact fun _ _ => rfl
    | (intro w; refine Coded.all_map ?_ w; intro p h; first | exact h | (split <;> exact h))
    | exact fun w => Coded.all_filter w
    | (exact fun w => Coded.all_set (by simp [Coded.pairsOk, Coded.opened]) w)
    | (intro k w; simp_all [Coded.pairsOk, Coded.setC, Coded.setS, Coded.modGlove]; done)
    | (with_reducible refine Keeps.foldl (fun s a h => ?_) ?_)
    | (with_reducible refine Keeps.foldlFst (fun s a h => ?_) ?_)
    | (refine Keeps.ofFst (by with_reducible assumption) ?_)
    | split
    | dsimp only
    | with_reducible apply Keeps.made)

theorem State.endJobs_keeps {F : Prop} {b s : State} (h : Keeps F b s) (p : Job → Bool) (status result stamp : Nat) :
    Keeps F b (s.endJobs p status result stamp) := by
  unfold State.endJobs
  try dsimp only
  repeat' (first
    | with_reducible assumption
    | with_reducible apply State.postAt_keeps
    | (with_reducible refine Keeps.foldl (fun s a h => ?_) ?_)
    | dsimp only)

theorem State.readDesc_keeps {F : Prop} {b s : State} (h : Keeps F b s) (ring : Nat) :
    Keeps F b (s.readDesc ring).1 := by
  unfold State.readDesc
  try dsimp only
  repeat' (first
    | with_reducible assumption
    | with_reducible apply State.padunRead_keeps
    | split
    | dsimp only)

theorem State.dropNotice_keeps {F : Prop} {b s : State} (h : Keeps F b s) (ring status result : Nat) :
    Keeps F b (s.dropNotice ring status result) := by
  unfold State.dropNotice
  try dsimp only
  exact Keeps.made h (fun _ => rfl) (fun h => h) (Nat.le_refl _) (fun h => h)

theorem State.notice_keeps {F : Prop} {b s : State} (h : Keeps F b s) (ring status ctx result : Nat) :
    Keeps F b (s.notice ring status ctx result) := by
  unfold State.notice
  try dsimp only
  repeat' (first
    | with_reducible assumption
    | with_reducible apply State.readDesc_keeps
    | with_reducible apply State.dropNotice_keeps
    | with_reducible apply State.putEntry_keeps
    | exact fun h => h
    | exact fun _ => rfl
    | exact Nat.le_refl _
    | exact fun w => Mem.write_wf w _ _
    | exact fun _ h => h
    | exact fun _ _ => rfl
    | (intro w; refine Coded.all_map ?_ w; intro p h; first | exact h | (split <;> exact h))
    | exact fun w => Coded.all_filter w
    | (exact fun w => Coded.all_set (by simp [Coded.pairsOk, Coded.opened]) w)
    | (intro k w; simp_all [Coded.pairsOk, Coded.setC, Coded.setS, Coded.modGlove]; done)
    | (with_reducible refine Keeps.foldl (fun s a h => ?_) ?_)
    | (with_reducible refine Keeps.foldlFst (fun s a h => ?_) ?_)
    | (refine Keeps.ofFst (by with_reducible assumption) ?_)
    | split
    | dsimp only)

end Sys2Proof.Machine
end

