-- ==== Sys2Proof/Laws/KeepsTiers.lean ====
section
/-! SUPPORT. Each operation of Pool, TierPage, Stitch, Memory, Seats, Fabric, Chain leaves the queue, the clock and the fuses alone, and keeps memory's
canonical form and the complement pairs. -/

namespace Sys2Proof.Machine

theorem State.quotaFault_keeps {F : Prop} {b s : State} (h : Keeps F b s) (c : Cmd) (ctx : Nat) (upper : Bool) (asked : Nat) :
    Keeps F b (s.quotaFault c ctx upper asked) := by
  unfold State.quotaFault
  try dsimp only
  repeat' (first
    | with_reducible assumption
    | with_reducible apply State.raise_keeps)

theorem State.addRef_keeps {F : Prop} {b s : State} (h : Keeps F b s) (h' : Holder) (region tile : Nat) :
    Keeps F b (s.addRef h' region tile) := by
  unfold State.addRef
  try dsimp only
  repeat' (first
    | with_reducible assumption
    | exact fun h => h
    | exact fun _ => rfl
    | exact Nat.le_refl _
    | exact fun w => Mem.write_wf w _ _
    | exact fun _ h => h
    | exact fun _ _ => rfl
    | (intro w; refine Coded.all_map ?_ w; intro p h; first | exact h | (split <;> exact h))
    | exact fun w => Coded.all_filter w
    | (exact fun w => Coded.all_set (by simp [Coded.pairsOk, Coded.opened]) w)
    | (intro k w; simp_all [Coded.pairsOk, Coded.setC, Coded.setS, Coded.modGlove]; done)
    | (with_reducible refine Keeps.foldl (fun s a h => ?_) ?_)
    | (with_reducible refine Keeps.foldlFst (fun s a h => ?_) ?_)
    | (refine Keeps.ofFst (by with_reducible assumption) ?_)
    | split
    | dsimp only
    | with_reducible apply Keeps.made)

theorem State.freeFrame_keeps {F : Prop} {b s : State} (h : Keeps F b s) (region tile : Nat) :
    Keeps F b (s.freeFrame region tile) := by
  unfold State.freeFrame
  try dsimp only
  exact Keeps.made h (fun _ => rfl) (fun h => h) (Nat.le_refl _) (fun h => h)

theorem State.dropRef_keeps {F : Prop} {b s : State} (h : Keeps F b s) (h' : Holder) (region tile : Nat) :
    Keeps F b (s.dropRef h' region tile) := by
  unfold State.dropRef
  try dsimp only
  repeat' (first
    | with_reducible assumption
    | with_reducible apply State.freeFrame_keeps
    | exact fun h => h
    | exact fun _ => rfl
    | exact Nat.le_refl _
    | exact fun w => Mem.write_wf w _ _
    | exact fun _ h => h
    | exact fun _ _ => rfl
    | (intro w; refine Coded.all_map ?_ w; intro p h; first | exact h | (split <;> exact h))
    | exact fun w => Coded.all_filter w
    | (exact fun w => Coded.all_set (by simp [Coded.pairsOk, Coded.opened]) w)
    | (intro k w; simp_all [Coded.pairsOk, Coded.setC, Coded.setS, Coded.modGlove]; done)
    | (with_reducible refine Keeps.foldl (fun s a h => ?_) ?_)
    | (with_reducible refine Keeps.foldlFst (fun s a h => ?_) ?_)
    | (refine Keeps.ofFst (by with_reducible assumption) ?_)
    | split
    | dsimp only
    | with_reducible apply Keeps.made)

theorem State.allocFrame_keeps {F : Prop} {b s t : State} {region tile : Nat} (h : Keeps F b s)
    (e : s.allocFrame region tile = some t) : Keeps F b t := by
  unfold State.allocFrame at e
  dsimp only at e
  split at e
  · cases e
    exact Keeps.made (State.bump_keeps h) (fun _ => rfl) (fun h => h) (Nat.le_refl _) (fun h => h)
  · split at e
    · cases e
      exact Keeps.made (State.freeFrame_keeps h _ _) (fun _ => rfl) (fun h => h) (Nat.le_refl _) (fun h => h)
    · cases e

theorem serveWaiters_keeps {F : Prop} {b : State} : ∀ {s : State}, Keeps F b s → ∀ n, Keeps F b (serveWaiters n s)
  | _, h, 0 => h
  | _, h, n + 1 => by
    unfold serveWaiters
    split
    · exact h
    · split
      · exact h
      · exact serveWaiters_keeps (State.allocFrame_keeps h (by with_reducible assumption)) n

theorem State.dropPromo_keeps {F : Prop} {b s : State} (h : Keeps F b s) (h' : Holder) (region tile : Nat) :
    Keeps F b (s.dropPromo h' region tile) := by
  unfold State.dropPromo
  try dsimp only
  exact Keeps.made h (fun _ => rfl) (fun h => h) (Nat.le_refl _) (fun h => h)

theorem State.modBrim_keeps {F : Prop} {b s : State} (h : Keeps F b s) (x1 : Nat) (f : Brim → Brim) :
    Keeps F b (s.modBrim x1 f) := by
  unfold State.modBrim
  try dsimp only
  exact Keeps.made h (fun _ => rfl) (fun h => h) (Nat.le_refl _) (fun h => h)

theorem State.brimFaults_keeps {F : Prop} {b s : State} (h : Keeps F b s) (x1 : Brim) (c : Cmd) (gs : List BrimGroup) :
    Keeps F b (s.brimFaults x1 c gs) := by
  unfold State.brimFaults
  try dsimp only
  repeat' (first
    | with_reducible assumption
    | with_reducible apply State.raise_keeps
    | split
    | dsimp only)

theorem State.readyGroups_keeps {F : Prop} {b s : State} (h : Keeps F b s) (x1 : Brim) :
    Keeps F b (s.readyGroups x1) := by
  unfold State.readyGroups
  try dsimp only
  repeat' (first
    | with_reducible assumption
    | with_reducible apply State.modBrim_keeps
    | with_reducible apply State.padunWrite_keeps
    | (with_reducible refine Keeps.foldl (fun s a h => ?_) ?_)
    | dsimp only)

theorem State.promoteForBrim_keeps {F : Prop} {b s : State} (h : Keeps F b s) (x1 deadline : Nat) (rt : Nat × Nat) :
    Keeps F b (s.promoteForBrim x1 deadline rt) := by
  unfold State.promoteForBrim
  try dsimp only
  repeat' (first
    | with_reducible assumption
    | with_reducible apply State.addRef_keeps
    | with_reducible apply serveWaiters_keeps
    | refine State.allocFrame_keeps ?_ (by with_reducible assumption)
    | with_reducible apply State.dropRef_keeps
    | exact fun h => h
    | exact fun _ => rfl
    | exact Nat.le_refl _
    | exact fun w => Mem.write_wf w _ _
    | exact fun _ h => h
    | exact fun _ _ => rfl
    | (intro w; refine Coded.all_map ?_ w; intro p h; first | exact h | (split <;> exact h))
    | exact fun w => Coded.all_filter w
    | (exact fun w => Coded.all_set (by simp [Coded.pairsOk, Coded.opened]) w)
    | (intro k w; simp_all [Coded.pairsOk, Coded.setC, Coded.setS, Coded.modGlove]; done)
    | (with_reducible refine Keeps.foldl (fun s a h => ?_) ?_)
    | (with_reducible refine Keeps.foldlFst (fun s a h => ?_) ?_)
    | (refine Keeps.ofFst (by with_reducible assumption) ?_)
    | split
    | dsimp only
    | with_reducible apply Keeps.made)

theorem State.promoteGroup_keeps {F : Prop} {b s : State} (h : Keeps F b s) (x1 : Brim) (g' deadline : Nat) :
    Keeps F b (s.promoteGroup x1 g' deadline) := by
  unfold State.promoteGroup
  try dsimp only
  repeat' (first
    | with_reducible assumption
    | with_reducible apply State.modBrim_keeps
    | with_reducible apply State.promoteForBrim_keeps
    | (with_reducible refine Keeps.foldl (fun s a h => ?_) ?_)
    | split
    | dsimp only)

theorem State.retireGroup_keeps {F : Prop} {b s : State} (h : Keeps F b s) (x1 : Brim) (g' : BrimGroup) :
    Keeps F b (s.retireGroup x1 g') := by
  unfold State.retireGroup
  try dsimp only
  repeat' (first
    | with_reducible assumption
    | with_reducible apply State.dropRef_keeps
    | with_reducible apply State.dropPromo_keeps
    | with_reducible apply State.modBrim_keeps
    | (with_reducible refine Keeps.foldl (fun s a h => ?_) ?_)
    | dsimp only)

theorem State.applyAdvance_keeps {F : Prop} {b s : State} (h : Keeps F b s) (p : Pend) (x2 : Brim) :
    Keeps F b (s.applyAdvance p x2) := by
  unfold State.applyAdvance
  try dsimp only
  repeat' (first
    | with_reducible assumption
    | with_reducible apply State.badParam_keeps
    | with_reducible apply State.retireGroup_keeps
    | with_reducible apply State.post_keeps
    | with_reducible apply State.promoteGroup_keeps
    | with_reducible apply State.hold_keeps
    | split
    | dsimp only)

theorem State.finishBrimCmd_keeps {F : Prop} {b s : State} (h : Keeps F b s) (p : Pend) (x2 : Brim) (seq : Nat) :
    Keeps F b (s.finishBrimCmd p x2 seq) := by
  unfold State.finishBrimCmd
  try dsimp only
  repeat' (first
    | with_reducible assumption
    | with_reducible apply State.brimFaults_keeps
    | with_reducible apply State.post_keeps
    | split
    | dsimp only)

theorem State.brimRound_keeps {F : Prop} {b s : State} (h : Keeps F b s) :
    Keeps F b (s.brimRound) := by
  unfold State.brimRound
  try dsimp only
  repeat' (first
    | with_reducible assumption
    | with_reducible apply State.readyGroups_keeps
    | with_reducible apply State.finishBrimCmd_keeps
    | with_reducible apply State.applyAdvance_keeps
    | (with_reducible refine Keeps.foldl (fun s a h => ?_) ?_)
    | split
    | dsimp only)

theorem settleBrims_keeps {F : Prop} {b : State} : ∀ {s : State}, Keeps F b s → ∀ n, Keeps F b (settleBrims n s)
  | _, h, 0 => h
  | _, h, n + 1 => settleBrims_keeps (State.brimRound_keeps h) n

theorem State.settle_keeps {F : Prop} {b s : State} (h : Keeps F b s) :
    Keeps F b (s.settle) := by
  unfold State.settle
  try dsimp only
  repeat' (first
    | with_reducible assumption
    | with_reducible apply settleBrims_keeps)

theorem State.closeBrim_keeps {F : Prop} {b s : State} (h : Keeps F b s) (n : Nat) :
    Keeps F b (s.closeBrim n) := by
  unfold State.closeBrim
  try dsimp only
  repeat' (first
    | with_reducible assumption
    | with_reducible apply State.retireGroup_keeps
    | with_reducible apply State.endJobs_keeps
    | exact fun h => h
    | exact fun _ => rfl
    | exact Nat.le_refl _
    | exact fun w => Mem.write_wf w _ _
    | exact fun _ h => h
    | exact fun _ _ => rfl
    | (intro w; refine Coded.all_map ?_ w; intro p h; first | exact h | (split <;> exact h))
    | exact fun w => Coded.all_filter w
    | (exact fun w => Coded.all_set (by simp [Coded.pairsOk, Coded.opened]) w)
    | (intro k w; simp_all [Coded.pairsOk, Coded.setC, Coded.setS, Coded.modGlove]; done)
    | (with_reducible refine Keeps.foldl (fun s a h => ?_) ?_)
    | (with_reducible refine Keeps.foldlFst (fun s a h => ?_) ?_)
    | (refine Keeps.ofFst (by with_reducible assumption) ?_)
    | split
    | dsimp only
    | with_reducible apply Keeps.made)

theorem State.rawTier_keeps {F : Prop} {b s : State} (h : Keeps F b s) (k : Nat) :
    Keeps F b (s.rawTier k).1 := by
  unfold State.rawTier
  try dsimp only
  repeat' (first
    | with_reducible assumption
    | with_reducible apply State.fetchPage_keeps
    | with_reducible apply State.fillTo_keeps
    | (with_reducible refine Keeps.foldl (fun s a h => ?_) ?_)
    | (refine Keeps.ofFst (by with_reducible assumption) ?_)
    | split
    | dsimp only)

theorem State.fromFrame_keeps {F : Prop} {b s : State} (h : Keeps F b s) (r : Region) (k : Nat) :
    Keeps F b (s.fromFrame r k).1 := by
  unfold State.fromFrame
  try dsimp only
  repeat' (first
    | with_reducible assumption
    | with_reducible apply State.fetchPage_keeps
    | (with_reducible refine Keeps.foldl (fun s a h => ?_) ?_)
    | (refine Keeps.ofFst (by with_reducible assumption) ?_)
    | split
    | dsimp only)

theorem State.countRepair_keeps {F : Prop} {b s : State} (h : Keeps F b s) (i : Fin 16) :
    Keeps F b (s.countRepair i) := by
  unfold State.countRepair
  try dsimp only
  repeat' (first
    | with_reducible assumption
    | with_reducible apply State.modInst_keeps)

theorem State.putRepaired_keeps {F : Prop} {b s : State} (h : Keeps F b s) (k : Nat) (d : List Byte) :
    Keeps F b (s.putRepaired k d) := by
  unfold State.putRepaired
  try dsimp only
  repeat' (first
    | with_reducible assumption
    | with_reducible apply State.countRepair_keeps
    | with_reducible apply State.storePage_keeps
    | exact fun h => h
    | exact fun _ => rfl
    | exact Nat.le_refl _
    | exact fun w => Mem.write_wf w _ _
    | exact fun _ h => h
    | exact fun _ _ => rfl
    | (intro w; refine Coded.all_map ?_ w; intro p h; first | exact h | (split <;> exact h))
    | exact fun w => Coded.all_filter w
    | (exact fun w => Coded.all_set (by simp [Coded.pairsOk, Coded.opened]) w)
    | (intro k w; simp_all [Coded.pairsOk, Coded.setC, Coded.setS, Coded.modGlove]; done)
    | (with_reducible refine Keeps.foldl (fun s a h => ?_) ?_)
    | (with_reducible refine Keeps.foldlFst (fun s a h => ?_) ?_)
    | (refine Keeps.ofFst (by with_reducible assumption) ?_)
    | split
    | dsimp only)

theorem State.sourcePage_keeps {F : Prop} {b s : State} (h : Keeps F b s) (r : Region) (k : Nat) :
    Keeps F b (s.sourcePage r k).1 := by
  unfold State.sourcePage
  try dsimp only
  repeat' (first
    | with_reducible assumption
    | with_reducible apply State.rawTier_keeps
    | with_reducible apply State.fromFrame_keeps
    | with_reducible apply State.putRepaired_keeps
    | with_reducible apply State.neverPages_keeps
    | exact fun h => h
    | exact fun _ => rfl
    | exact Nat.le_refl _
    | exact fun w => Mem.write_wf w _ _
    | exact fun _ h => h
    | exact fun _ _ => rfl
    | (intro w; refine Coded.all_map ?_ w; intro p h; first | exact h | (split <;> exact h))
    | exact fun w => Coded.all_filter w
    | (exact fun w => Coded.all_set (by simp [Coded.pairsOk, Coded.opened]) w)
    | (intro k w; simp_all [Coded.pairsOk, Coded.setC, Coded.setS, Coded.modGlove]; done)
    | (with_reducible refine Keeps.foldl (fun s a h => ?_) ?_)
    | (with_reducible refine Keeps.foldlFst (fun s a h => ?_) ?_)
    | (refine Keeps.ofFst (by with_reducible assumption) ?_)
    | split
    | dsimp only)

theorem State.sources_keeps {F : Prop} {b s : State} (h : Keeps F b s) (r : Region) (ks : List Nat) :
    Keeps F b (s.sources r ks).1 := by
  unfold State.sources
  try dsimp only
  repeat' (first
    | with_reducible assumption
    | with_reducible apply State.sourcePage_keeps
    | exact fun h => h
    | exact fun _ => rfl
    | exact Nat.le_refl _
    | exact fun w => Mem.write_wf w _ _
    | exact fun _ h => h
    | exact fun _ _ => rfl
    | (intro w; refine Coded.all_map ?_ w; intro p h; first | exact h | (split <;> exact h))
    | exact fun w => Coded.all_filter w
    | (exact fun w => Coded.all_set (by simp [Coded.pairsOk, Coded.opened]) w)
    | (intro k w; simp_all [Coded.pairsOk, Coded.setC, Coded.setS, Coded.modGlove]; done)
    | (with_reducible refine Keeps.foldl (fun s a h => ?_) ?_)
    | (with_reducible refine Keeps.foldlFst (fun s a h => ?_) ?_)
    | (refine Keeps.ofFst (by with_reducible assumption) ?_)
    | split
    | dsimp only)

theorem State.quarantineTile_keeps {F : Prop} {b s : State} (h : Keeps F b s) (r : Region) (tile i : Nat) :
    Keeps F b (s.quarantineTile r tile i) := by
  unfold State.quarantineTile
  try dsimp only
  repeat' (first
    | with_reducible assumption
    | with_reducible apply State.raise_keeps
    | with_reducible apply State.capture_keeps
    | with_reducible apply State.notice_keeps
    | with_reducible apply State.dropRef_keeps
    | with_reducible apply State.dropPromo_keeps
    | with_reducible apply State.freeFrame_keeps
    | with_reducible apply State.endJobs_keeps
    | with_reducible apply State.settle_keeps
    | (with_reducible refine Keeps.foldl (fun s a h => ?_) ?_)
    | split
    | dsimp only)

theorem State.losePages_keeps {F : Prop} {b s : State} (h : Keeps F b s) (r : Region) (ks : List Nat) (i : Nat) :
    Keeps F b (s.losePages r ks i) := by
  unfold State.losePages
  try dsimp only
  repeat' (first
    | with_reducible assumption
    | with_reducible apply State.markPoisoned_keeps
    | with_reducible apply State.quarantineTile_keeps
    | exact fun h => h
    | exact fun _ => rfl
    | exact Nat.le_refl _
    | exact fun w => Mem.write_wf w _ _
    | exact fun _ h => h
    | exact fun _ _ => rfl
    | (intro w; refine Coded.all_map ?_ w; intro p h; first | exact h | (split <;> exact h))
    | exact fun w => Coded.all_filter w
    | (exact fun w => Coded.all_set (by simp [Coded.pairsOk, Coded.opened]) w)
    | (intro k w; simp_all [Coded.pairsOk, Coded.setC, Coded.setS, Coded.modGlove]; done)
    | (with_reducible refine Keeps.foldl (fun s a h => ?_) ?_)
    | (with_reducible refine Keeps.foldlFst (fun s a h => ?_) ?_)
    | (refine Keeps.ofFst (by with_reducible assumption) ?_)
    | split
    | dsimp only
    | with_reducible apply Keeps.made)

theorem State.writesDone_keeps {F : Prop} {b s : State} (h : Keeps F b s) (reqs : List Nat) :
    Keeps F b (s.writesDone reqs) := by
  unfold State.writesDone
  try dsimp only
  repeat' (first
    | with_reducible assumption
    | with_reducible apply State.emit_keeps
    | exact fun h => h
    | exact fun _ => rfl
    | exact Nat.le_refl _
    | exact fun w => Mem.write_wf w _ _
    | exact fun _ h => h
    | exact fun _ _ => rfl
    | (intro w; refine Coded.all_map ?_ w; intro p h; first | exact h | (split <;> exact h))
    | exact fun w => Coded.all_filter w
    | (exact fun w => Coded.all_set (by simp [Coded.pairsOk, Coded.opened]) w)
    | (intro k w; simp_all [Coded.pairsOk, Coded.setC, Coded.setS, Coded.modGlove]; done)
    | (with_reducible refine Keeps.foldl (fun s a h => ?_) ?_)
    | (with_reducible refine Keeps.foldlFst (fun s a h => ?_) ?_)
    | (refine Keeps.ofFst (by with_reducible assumption) ?_)
    | split
    | dsimp only)

theorem State.makeParity_keeps {F : Prop} {b s : State} (h : Keeps F b s) (r : Region) (g' : Nat) :
    Keeps F b (s.makeParity r g').1 := by
  unfold State.makeParity
  try dsimp only
  repeat' (first
    | with_reducible assumption
    | with_reducible apply State.sources_keeps
    | with_reducible apply State.losePages_keeps
    | with_reducible apply State.writesDone_keeps
    | with_reducible apply State.storePage_keeps
    | exact fun h => h
    | exact fun _ => rfl
    | exact Nat.le_refl _
    | exact fun w => Mem.write_wf w _ _
    | exact fun _ h => h
    | exact fun _ _ => rfl
    | (intro w; refine Coded.all_map ?_ w; intro p h; first | exact h | (split <;> exact h))
    | exact fun w => Coded.all_filter w
    | (exact fun w => Coded.all_set (by simp [Coded.pairsOk, Coded.opened]) w)
    | (intro k w; simp_all [Coded.pairsOk, Coded.setC, Coded.setS, Coded.modGlove]; done)
    | (with_reducible refine Keeps.foldl (fun s a h => ?_) ?_)
    | (with_reducible refine Keeps.foldlFst (fun s a h => ?_) ?_)
    | (refine Keeps.ofFst (by with_reducible assumption) ?_)
    | split
    | dsimp only
    | with_reducible apply Keeps.made)

theorem State.repairParity_keeps {F : Prop} {b s : State} (h : Keeps F b s) (k : Nat) :
    Keeps F b (s.repairParity k).1 := by
  unfold State.repairParity
  try dsimp only
  repeat' (first
    | with_reducible assumption
    | with_reducible apply State.makeParity_keeps
    | with_reducible apply State.countRepair_keeps
    | exact fun h => h
    | exact fun _ => rfl
    | exact Nat.le_refl _
    | exact fun w => Mem.write_wf w _ _
    | exact fun _ h => h
    | exact fun _ _ => rfl
    | (intro w; refine Coded.all_map ?_ w; intro p h; first | exact h | (split <;> exact h))
    | exact fun w => Coded.all_filter w
    | (exact fun w => Coded.all_set (by simp [Coded.pairsOk, Coded.opened]) w)
    | (intro k w; simp_all [Coded.pairsOk, Coded.setC, Coded.setS, Coded.modGlove]; done)
    | (with_reducible refine Keeps.foldl (fun s a h => ?_) ?_)
    | (with_reducible refine Keeps.foldlFst (fun s a h => ?_) ?_)
    | (refine Keeps.ofFst (by with_reducible assumption) ?_)
    | split
    | dsimp only)

theorem State.applyFold_keeps {F : Prop} {b s : State} (h : Keeps F b s) (f : TierFold) :
    Keeps F b (s.applyFold f) := by
  unfold State.applyFold
  try dsimp only
  repeat' (first
    | with_reducible assumption
    | with_reducible apply State.rawTier_keeps
    | with_reducible apply State.storePage_keeps
    | with_reducible apply State.repairParity_keeps
    | with_reducible apply State.writesDone_keeps
    | (with_reducible refine Keeps.foldl (fun s a h => ?_) ?_)
    | (refine Keeps.ofFst (by with_reducible assumption) ?_)
    | split
    | dsimp only)

theorem State.foldNow_keeps {F : Prop} {b s : State} (h : Keeps F b s) (pk : Nat) :
    Keeps F b (s.foldNow pk) := by
  unfold State.foldNow
  try dsimp only
  repeat' (first
    | with_reducible assumption
    | with_reducible apply State.applyFold_keeps
    | exact fun h => h
    | exact fun _ => rfl
    | exact Nat.le_refl _
    | exact fun w => Mem.write_wf w _ _
    | exact fun _ h => h
    | exact fun _ _ => rfl
    | (intro w; refine Coded.all_map ?_ w; intro p h; first | exact h | (split <;> exact h))
    | exact fun w => Coded.all_filter w
    | (exact fun w => Coded.all_set (by simp [Coded.pairsOk, Coded.opened]) w)
    | (intro k w; simp_all [Coded.pairsOk, Coded.setC, Coded.setS, Coded.modGlove]; done)
    | (with_reducible refine Keeps.foldl (fun s a h => ?_) ?_)
    | (with_reducible refine Keeps.foldlFst (fun s a h => ?_) ?_)
    | (refine Keeps.ofFst (by with_reducible assumption) ?_)
    | split
    | dsimp only
    | with_reducible apply Keeps.made)

theorem State.groupSources_keeps {F : Prop} {b s : State} (h : Keeps F b s) (r : Region) (k : Nat) :
    Keeps F b (s.groupSources r k).1 := by
  unfold State.groupSources
  try dsimp only
  repeat' (first
    | with_reducible assumption
    | with_reducible apply State.sources_keeps
    | with_reducible apply State.foldNow_keeps
    | exact fun h => h
    | exact fun _ => rfl
    | exact Nat.le_refl _
    | exact fun w => Mem.write_wf w _ _
    | exact fun _ h => h
    | exact fun _ _ => rfl
    | (intro w; refine Coded.all_map ?_ w; intro p h; first | exact h | (split <;> exact h))
    | exact fun w => Coded.all_filter w
    | (exact fun w => Coded.all_set (by simp [Coded.pairsOk, Coded.opened]) w)
    | (intro k w; simp_all [Coded.pairsOk, Coded.setC, Coded.setS, Coded.modGlove]; done)
    | (with_reducible refine Keeps.foldl (fun s a h => ?_) ?_)
    | (with_reducible refine Keeps.foldlFst (fun s a h => ?_) ?_)
    | (refine Keeps.ofFst (by with_reducible assumption) ?_)
    | split
    | dsimp only)

theorem State.repairData_keeps {F : Prop} {b s : State} (h : Keeps F b s) (r : Region) (k : Nat) (bad : Bool) :
    Keeps F b (s.repairData r k bad).1 := by
  unfold State.repairData
  try dsimp only
  repeat' (first
    | with_reducible assumption
    | with_reducible apply State.groupSources_keeps
    | with_reducible apply State.losePages_keeps
    | with_reducible apply State.putRepaired_keeps
    | with_reducible apply State.storePage_keeps
    | exact fun h => h
    | exact fun _ => rfl
    | exact Nat.le_refl _
    | exact fun w => Mem.write_wf w _ _
    | exact fun _ h => h
    | exact fun _ _ => rfl
    | (intro w; refine Coded.all_map ?_ w; intro p h; first | exact h | (split <;> exact h))
    | exact fun w => Coded.all_filter w
    | (exact fun w => Coded.all_set (by simp [Coded.pairsOk, Coded.opened]) w)
    | (intro k w; simp_all [Coded.pairsOk, Coded.setC, Coded.setS, Coded.modGlove]; done)
    | (with_reducible refine Keeps.foldl (fun s a h => ?_) ?_)
    | (with_reducible refine Keeps.foldlFst (fun s a h => ?_) ?_)
    | (refine Keeps.ofFst (by with_reducible assumption) ?_)
    | split
    | dsimp only)

theorem State.repairPage_keeps {F : Prop} {b s : State} (h : Keeps F b s) (r : Region) (k : Nat) (frame : Bool) :
    Keeps F b (s.repairPage r k frame).1 := by
  unfold State.repairPage
  try dsimp only
  repeat' (first
    | with_reducible assumption
    | with_reducible apply State.repairParity_keeps
    | with_reducible apply State.repairData_keeps
    | with_reducible apply State.fromFrame_keeps
    | with_reducible apply State.putRepaired_keeps
    | with_reducible apply State.neverPages_keeps
    | (with_reducible refine Keeps.foldl (fun s a h => ?_) ?_)
    | (refine Keeps.ofFst (by with_reducible assumption) ?_)
    | split
    | dsimp only)

theorem State.tierOld_keeps {F : Prop} {b s : State} (h : Keeps F b s) (r : Region) (k : Nat) (frame : Bool) :
    Keeps F b (s.tierOld r k frame).1 := by
  unfold State.tierOld
  try dsimp only
  repeat' (first
    | with_reducible assumption
    | with_reducible apply State.fetchPage_keeps
    | with_reducible apply State.repairPage_keeps
    | with_reducible apply State.groupSources_keeps
    | with_reducible apply State.countRepair_keeps
    | with_reducible apply State.fromFrame_keeps
    | with_reducible apply State.losePages_keeps
    | exact fun h => h
    | exact fun _ => rfl
    | exact Nat.le_refl _
    | exact fun w => Mem.write_wf w _ _
    | exact fun _ h => h
    | exact fun _ _ => rfl
    | (intro w; refine Coded.all_map ?_ w; intro p h; first | exact h | (split <;> exact h))
    | exact fun w => Coded.all_filter w
    | (exact fun w => Coded.all_set (by simp [Coded.pairsOk, Coded.opened]) w)
    | (intro k w; simp_all [Coded.pairsOk, Coded.setC, Coded.setS, Coded.modGlove]; done)
    | (with_reducible refine Keeps.foldl (fun s a h => ?_) ?_)
    | (with_reducible refine Keeps.foldlFst (fun s a h => ?_) ?_)
    | (refine Keeps.ofFst (by with_reducible assumption) ?_)
    | split
    | dsimp only)

theorem State.tierRead_keeps {F : Prop} {b s : State} (h : Keeps F b s) (r : Region) (k : Nat) :
    Keeps F b (s.tierRead r k).1 := by
  unfold State.tierRead
  try dsimp only
  repeat' (first
    | with_reducible assumption
    | with_reducible apply State.tierOld_keeps
    | (with_reducible refine Keeps.foldl (fun s a h => ?_) ?_)
    | (refine Keeps.ofFst (by with_reducible assumption) ?_)
    | split
    | dsimp only)

theorem State.writeThrough_keeps {F : Prop} {b s : State} (h : Keeps F b s) (r : Region) (k : Nat) (data : List Byte) :
    Keeps F b (s.writeThrough r k data) := by
  unfold State.writeThrough
  try dsimp only
  repeat' (first
    | with_reducible assumption
    | with_reducible apply State.storePage_keeps
    | with_reducible apply State.freeFrame_keeps
    | split
    | dsimp only)

theorem State.markStale_keeps {F : Prop} {b s : State} (h : Keeps F b s) (k : Nat) :
    Keeps F b (s.markStale k) := by
  unfold State.markStale
  try dsimp only
  repeat' (first
    | with_reducible assumption
    | exact fun h => h
    | exact fun _ => rfl
    | exact Nat.le_refl _
    | exact fun w => Mem.write_wf w _ _
    | exact fun _ h => h
    | exact fun _ _ => rfl
    | (intro w; refine Coded.all_map ?_ w; intro p h; first | exact h | (split <;> exact h))
    | exact fun w => Coded.all_filter w
    | (exact fun w => Coded.all_set (by simp [Coded.pairsOk, Coded.opened]) w)
    | (intro k w; simp_all [Coded.pairsOk, Coded.setC, Coded.setS, Coded.modGlove]; done)
    | (with_reducible refine Keeps.foldl (fun s a h => ?_) ?_)
    | (with_reducible refine Keeps.foldlFst (fun s a h => ?_) ?_)
    | (refine Keeps.ofFst (by with_reducible assumption) ?_)
    | split
    | dsimp only
    | with_reducible apply Keeps.made)

theorem State.recoverPage_keeps {F : Prop} {b s : State} (h : Keeps F b s) (r : Region) (k : Nat) :
    Keeps F b (s.recoverPage r k) := by
  unfold State.recoverPage
  try dsimp only
  repeat' (first
    | with_reducible assumption
    | with_reducible apply State.makeParity_keeps
    | with_reducible apply State.markStale_keeps
    | exact fun h => h
    | exact fun _ => rfl
    | exact Nat.le_refl _
    | exact fun w => Mem.write_wf w _ _
    | exact fun _ h => h
    | exact fun _ _ => rfl
    | (intro w; refine Coded.all_map ?_ w; intro p h; first | exact h | (split <;> exact h))
    | exact fun w => Coded.all_filter w
    | (exact fun w => Coded.all_set (by simp [Coded.pairsOk, Coded.opened]) w)
    | (intro k w; simp_all [Coded.pairsOk, Coded.setC, Coded.setS, Coded.modGlove]; done)
    | (with_reducible refine Keeps.foldl (fun s a h => ?_) ?_)
    | (with_reducible refine Keeps.foldlFst (fun s a h => ?_) ?_)
    | (refine Keeps.ofFst (by with_reducible assumption) ?_)
    | split
    | dsimp only
    | with_reducible apply Keeps.made)

theorem State.tierStore_keeps {F : Prop} {b s : State} (h : Keeps F b s) (r : Region) (k : Nat) (old data : List Byte) (reqs : List Nat) :
    Keeps F b (s.tierStore r k old data reqs) := by
  unfold State.tierStore
  try dsimp only
  repeat' (first
    | with_reducible assumption
    | with_reducible apply State.writeThrough_keeps
    | with_reducible apply State.writesDone_keeps
    | with_reducible apply State.recoverPage_keeps
    | with_reducible apply State.storePage_keeps
    | with_reducible apply State.emit_keeps
    | with_reducible apply State.losePages_keeps
    | with_reducible apply State.markStale_keeps
    | exact fun h => h
    | exact fun _ => rfl
    | exact Nat.le_refl _
    | exact fun w => Mem.write_wf w _ _
    | exact fun _ h => h
    | exact fun _ _ => rfl
    | (intro w; refine Coded.all_map ?_ w; intro p h; first | exact h | (split <;> exact h))
    | exact fun w => Coded.all_filter w
    | (exact fun w => Coded.all_set (by simp [Coded.pairsOk, Coded.opened]) w)
    | (intro k w; simp_all [Coded.pairsOk, Coded.setC, Coded.setS, Coded.modGlove]; done)
    | (with_reducible refine Keeps.foldl (fun s a h => ?_) ?_)
    | (with_reducible refine Keeps.foldlFst (fun s a h => ?_) ?_)
    | (refine Keeps.ofFst (by with_reducible assumption) ?_)
    | split
    | dsimp only
    | with_reducible apply Keeps.made)

theorem State.tierWrite_keeps {F : Prop} {b s : State} (h : Keeps F b s) (r : Region) (k : Nat) (data : List Byte) (reqs : List Nat) :
    Keeps F b (s.tierWrite r k data reqs) := by
  unfold State.tierWrite
  try dsimp only
  repeat' (first
    | with_reducible assumption
    | with_reducible apply State.tierStore_keeps
    | with_reducible apply State.tierOld_keeps
    | exact fun h => h
    | exact fun _ => rfl
    | exact Nat.le_refl _
    | exact fun w => Mem.write_wf w _ _
    | exact fun _ h => h
    | exact fun _ _ => rfl
    | (intro w; refine Coded.all_map ?_ w; intro p h; first | exact h | (split <;> exact h))
    | exact fun w => Coded.all_filter w
    | (exact fun w => Coded.all_set (by simp [Coded.pairsOk, Coded.opened]) w)
    | (intro k w; simp_all [Coded.pairsOk, Coded.setC, Coded.setS, Coded.modGlove]; done)
    | (with_reducible refine Keeps.foldl (fun s a h => ?_) ?_)
    | (with_reducible refine Keeps.foldlFst (fun s a h => ?_) ?_)
    | (refine Keeps.ofFst (by with_reducible assumption) ?_)
    | split
    | dsimp only)

theorem State.rebuildStale_keeps {F : Prop} {b s : State} (h : Keeps F b s) (i : Fin 16) :
    Keeps F b (s.rebuildStale i) := by
  unfold State.rebuildStale
  try dsimp only
  repeat' (first
    | with_reducible assumption
    | with_reducible apply State.groupSources_keeps
    | with_reducible apply State.storePage_keeps
    | with_reducible apply State.losePages_keeps
    | exact fun h => h
    | exact fun _ => rfl
    | exact Nat.le_refl _
    | exact fun w => Mem.write_wf w _ _
    | exact fun _ h => h
    | exact fun _ _ => rfl
    | (intro w; refine Coded.all_map ?_ w; intro p h; first | exact h | (split <;> exact h))
    | exact fun w => Coded.all_filter w
    | (exact fun w => Coded.all_set (by simp [Coded.pairsOk, Coded.opened]) w)
    | (intro k w; simp_all [Coded.pairsOk, Coded.setC, Coded.setS, Coded.modGlove]; done)
    | (with_reducible refine Keeps.foldl (fun s a h => ?_) ?_)
    | (with_reducible refine Keeps.foldlFst (fun s a h => ?_) ?_)
    | (refine Keeps.ofFst (by with_reducible assumption) ?_)
    | split
    | dsimp only
    | with_reducible apply Keeps.made)

theorem State.toFrame_keeps {F : Prop} {b s : State} (h : Keeps F b s) (r : Region) (f : Frame) (k : Nat) (got : Got) :
    Keeps F b (s.toFrame r f k got).1 := by
  unfold State.toFrame
  try dsimp only
  repeat' (first
    | with_reducible assumption
    | with_reducible apply State.storePage_keeps
    | with_reducible apply State.neverPages_keeps
    | exact fun h => h
    | exact fun _ => rfl
    | exact Nat.le_refl _
    | exact fun w => Mem.write_wf w _ _
    | exact fun _ h => h
    | exact fun _ _ => rfl
    | (intro w; refine Coded.all_map ?_ w; intro p h; first | exact h | (split <;> exact h))
    | exact fun w => Coded.all_filter w
    | (exact fun w => Coded.all_set (by simp [Coded.pairsOk, Coded.opened]) w)
    | (intro k w; simp_all [Coded.pairsOk, Coded.setC, Coded.setS, Coded.modGlove]; done)
    | (with_reducible refine Keeps.foldl (fun s a h => ?_) ?_)
    | (with_reducible refine Keeps.foldlFst (fun s a h => ?_) ?_)
    | (refine Keeps.ofFst (by with_reducible assumption) ?_)
    | split
    | dsimp only)

theorem State.poolRead_keeps {F : Prop} {b s : State} (h : Keeps F b s) (f : Frame) (k : Nat) :
    Keeps F b (s.poolRead f k).1 := by
  unfold State.poolRead
  try dsimp only
  repeat' (first
    | with_reducible assumption
    | with_reducible apply State.fetchPage_keeps
    | with_reducible apply State.tierOld_keeps
    | with_reducible apply State.toFrame_keeps
    | with_reducible apply State.freeFrame_keeps
    | (with_reducible refine Keeps.foldl (fun s a h => ?_) ?_)
    | (refine Keeps.ofFst (by with_reducible assumption) ?_)
    | split
    | dsimp only)

theorem State.setHand_keeps {F : Prop} {b s : State} (h : Keeps F b s) (r : Region) (idx : Nat) (right : Bool) :
    Keeps F b (s.setHand r idx right) := by
  unfold State.setHand
  try dsimp only
  repeat' (first
    | with_reducible assumption
    | with_reducible apply State.modStitch_keeps)

theorem State.recordTag_keeps {F : Prop} {b s : State} (h : Keeps F b s) (k : Nat) :
    Keeps F b (s.recordTag k).1 := by
  unfold State.recordTag
  try dsimp only
  repeat' (first
    | with_reducible assumption
    | with_reducible apply State.countBursts_keeps
    | exact fun h => h
    | exact fun _ => rfl
    | exact Nat.le_refl _
    | exact fun w => Mem.write_wf w _ _
    | exact fun _ h => h
    | exact fun _ _ => rfl
    | (intro w; refine Coded.all_map ?_ w; intro p h; first | exact h | (split <;> exact h))
    | exact fun w => Coded.all_filter w
    | (exact fun w => Coded.all_set (by simp [Coded.pairsOk, Coded.opened]) w)
    | (intro k w; simp_all [Coded.pairsOk, Coded.setC, Coded.setS, Coded.modGlove]; done)
    | (with_reducible refine Keeps.foldl (fun s a h => ?_) ?_)
    | (with_reducible refine Keeps.foldlFst (fun s a h => ?_) ?_)
    | (refine Keeps.ofFst (by with_reducible assumption) ?_)
    | split
    | dsimp only)

theorem State.spoilStep_keeps {F : Prop} {b s : State} (h : Keeps F b s) (ctx : Nat) :
    Keeps F b (s.spoilStep ctx) := by
  unfold State.spoilStep
  try dsimp only
  repeat' (first
    | with_reducible assumption
    | with_reducible apply State.modCoded_keeps
    | exact fun h => h
    | exact fun _ h => h
    | split
    | dsimp only)

theorem State.lackStitch_keeps {F : Prop} {b s : State} (h : Keeps F b s) (r : Region) (idx : Nat) :
    Keeps F b (s.lackStitch r idx) := by
  unfold State.lackStitch
  try dsimp only
  repeat' (first
    | with_reducible assumption
    | with_reducible apply State.modCoded_keeps
    | with_reducible apply State.modStitch_keeps
    | with_reducible apply State.spoilStep_keeps
    | exact fun h => h
    | exact fun _ => rfl
    | exact Nat.le_refl _
    | exact fun w => Mem.write_wf w _ _
    | exact fun _ h => h
    | exact fun _ _ => rfl
    | (intro w; refine Coded.all_map ?_ w; intro p h; first | exact h | (split <;> exact h))
    | exact fun w => Coded.all_filter w
    | (exact fun w => Coded.all_set (by simp [Coded.pairsOk, Coded.opened]) w)
    | (intro k w; simp_all [Coded.pairsOk, Coded.setC, Coded.setS, Coded.modGlove]; done)
    | (with_reducible refine Keeps.foldl (fun s a h => ?_) ?_)
    | (with_reducible refine Keeps.foldlFst (fun s a h => ?_) ?_)
    | (refine Keeps.ofFst (by with_reducible assumption) ?_)
    | split
    | dsimp only)

theorem State.handFault_keeps {F : Prop} {b s : State} (h : Keeps F b s) (r : Region) (idx : Nat) (resolved : Bool) :
    Keeps F b (s.handFault r idx resolved) := by
  unfold State.handFault
  try dsimp only
  repeat' (first
    | with_reducible assumption
    | with_reducible apply State.raise_keeps)

theorem State.unresolve_keeps {F : Prop} {b s : State} (h : Keeps F b s) (r : Region) (idx : Nat) :
    Keeps F b (s.unresolve r idx) := by
  unfold State.unresolve
  try dsimp only
  repeat' (first
    | with_reducible assumption
    | with_reducible apply State.lackStitch_keeps
    | with_reducible apply State.modStitch_keeps
    | exact fun h => h
    | exact fun _ => rfl
    | exact Nat.le_refl _
    | exact fun w => Mem.write_wf w _ _
    | exact fun _ h => h
    | exact fun _ _ => rfl
    | (intro w; refine Coded.all_map ?_ w; intro p h; first | exact h | (split <;> exact h))
    | exact fun w => Coded.all_filter w
    | (exact fun w => Coded.all_set (by simp [Coded.pairsOk, Coded.opened]) w)
    | (intro k w; simp_all [Coded.pairsOk, Coded.setC, Coded.setS, Coded.modGlove]; done)
    | (with_reducible refine Keeps.foldl (fun s a h => ?_) ?_)
    | (with_reducible refine Keeps.foldlFst (fun s a h => ?_) ?_)
    | (refine Keeps.ofFst (by with_reducible assumption) ?_)
    | split
    | dsimp only)

theorem State.recordHand_keeps {F : Prop} {b s : State} (h : Keeps F b s) (r : Region) (idx : Nat) :
    Keeps F b (s.recordHand r idx).1 := by
  unfold State.recordHand
  try dsimp only
  repeat' (first
    | with_reducible assumption
    | with_reducible apply State.recordTag_keeps
    | exact fun h => h
    | exact fun _ => rfl
    | exact Nat.le_refl _
    | exact fun w => Mem.write_wf w _ _
    | exact fun _ h => h
    | exact fun _ _ => rfl
    | (intro w; refine Coded.all_map ?_ w; intro p h; first | exact h | (split <;> exact h))
    | exact fun w => Coded.all_filter w
    | (exact fun w => Coded.all_set (by simp [Coded.pairsOk, Coded.opened]) w)
    | (intro k w; simp_all [Coded.pairsOk, Coded.setC, Coded.setS, Coded.modGlove]; done)
    | (with_reducible refine Keeps.foldl (fun s a h => ?_) ?_)
    | (with_reducible refine Keeps.foldlFst (fun s a h => ?_) ?_)
    | (refine Keeps.ofFst (by with_reducible assumption) ?_)
    | split
    | dsimp only)

theorem State.resolve_keeps {F : Prop} {b s : State} (h : Keeps F b s) (r : Region) (idx : Nat) :
    Keeps F b (s.resolve r idx).1 := by
  unfold State.resolve
  try dsimp only
  repeat' (first
    | with_reducible assumption
    | with_reducible apply State.recordHand_keeps
    | with_reducible apply State.setHand_keeps
    | with_reducible apply State.handFault_keeps
    | with_reducible apply State.unresolve_keeps
    | exact fun h => h
    | exact fun _ => rfl
    | exact Nat.le_refl _
    | exact fun w => Mem.write_wf w _ _
    | exact fun _ h => h
    | exact fun _ _ => rfl
    | (intro w; refine Coded.all_map ?_ w; intro p h; first | exact h | (split <;> exact h))
    | exact fun w => Coded.all_filter w
    | (exact fun w => Coded.all_set (by simp [Coded.pairsOk, Coded.opened]) w)
    | (intro k w; simp_all [Coded.pairsOk, Coded.setC, Coded.setS, Coded.modGlove]; done)
    | (with_reducible refine Keeps.foldl (fun s a h => ?_) ?_)
    | (with_reducible refine Keeps.foldlFst (fun s a h => ?_) ?_)
    | (refine Keeps.ofFst (by with_reducible assumption) ?_)
    | split
    | dsimp only)

theorem State.crownedHand_keeps {F : Prop} {b s : State} (h : Keeps F b s) (r : Region) (idx : Nat) :
    Keeps F b (s.crownedHand r idx).1 := by
  unfold State.crownedHand
  try dsimp only
  repeat' (first
    | with_reducible assumption
    | with_reducible apply State.resolve_keeps
    | split
    | dsimp only)

theorem State.fetchHand_keeps {F : Prop} {b s : State} (h : Keeps F b s) (r : Region) (idx : Nat) (right : Bool) :
    Keeps F b (s.fetchHand r idx right).1 := by
  unfold State.fetchHand
  try dsimp only
  repeat' (first
    | with_reducible assumption
    | with_reducible apply State.fetchPage_keeps
    | with_reducible apply State.lackStitch_keeps
    | (with_reducible refine Keeps.foldl (fun s a h => ?_) ?_)
    | (refine Keeps.ofFst (by with_reducible assumption) ?_)
    | split
    | dsimp only)

theorem State.badCrowned_keeps {F : Prop} {b s : State} (h : Keeps F b s) (r : Region) (idx : Nat) (right : Bool) :
    Keeps F b (s.badCrowned r idx right).1 := by
  unfold State.badCrowned
  try dsimp only
  repeat' (first
    | with_reducible assumption
    | with_reducible apply State.recordHand_keeps
    | with_reducible apply State.lackStitch_keeps
    | with_reducible apply State.fetchHand_keeps
    | with_reducible apply State.setHand_keeps
    | with_reducible apply State.handFault_keeps
    | with_reducible apply State.unresolve_keeps
    | exact fun h => h
    | exact fun _ => rfl
    | exact Nat.le_refl _
    | exact fun w => Mem.write_wf w _ _
    | exact fun _ h => h
    | exact fun _ _ => rfl
    | (intro w; refine Coded.all_map ?_ w; intro p h; first | exact h | (split <;> exact h))
    | exact fun w => Coded.all_filter w
    | (exact fun w => Coded.all_set (by simp [Coded.pairsOk, Coded.opened]) w)
    | (intro k w; simp_all [Coded.pairsOk, Coded.setC, Coded.setS, Coded.modGlove]; done)
    | (with_reducible refine Keeps.foldl (fun s a h => ?_) ?_)
    | (with_reducible refine Keeps.foldlFst (fun s a h => ?_) ?_)
    | (refine Keeps.ofFst (by with_reducible assumption) ?_)
    | split
    | dsimp only)

theorem State.readCrowned_keeps {F : Prop} {b s : State} (h : Keeps F b s) (r : Region) (idx : Nat) :
    Keeps F b (s.readCrowned r idx).1 := by
  unfold State.readCrowned
  try dsimp only
  repeat' (first
    | with_reducible assumption
    | with_reducible apply State.crownedHand_keeps
    | with_reducible apply State.fetchPage_keeps
    | with_reducible apply State.resolve_keeps
    | with_reducible apply State.fetchHand_keeps
    | with_reducible apply State.badCrowned_keeps
    | (with_reducible refine Keeps.foldl (fun s a h => ?_) ?_)
    | (refine Keeps.ofFst (by with_reducible assumption) ?_)
    | split
    | dsimp only)

theorem State.crownedOrZero_keeps {F : Prop} {b s : State} (h : Keeps F b s) (r : Region) (idx : Nat) :
    Keeps F b (s.crownedOrZero r idx).1 := by
  unfold State.crownedOrZero
  try dsimp only
  repeat' (first
    | with_reducible assumption
    | with_reducible apply State.readCrowned_keeps
    | (with_reducible refine Keeps.foldl (fun s a h => ?_) ?_)
    | (refine Keeps.ofFst (by with_reducible assumption) ?_)
    | split
    | dsimp only)

theorem State.discardStitch_keeps {F : Prop} {b s : State} (h : Keeps F b s) (r : Region) (idx : Nat) :
    Keeps F b (s.discardStitch r idx) := by
  unfold State.discardStitch
  try dsimp only
  repeat' (first
    | with_reducible assumption
    | with_reducible apply State.crownedHand_keeps
    | with_reducible apply State.modStitch_keeps
    | with_reducible apply State.dropMerge_keeps
    | with_reducible apply State.modMeta_keeps
    | (with_reducible refine Keeps.foldl (fun s a h => ?_) ?_)
    | (refine Keeps.ofFst (by with_reducible assumption) ?_)
    | split
    | dsimp only)

theorem State.discardOpen_keeps {F : Prop} {b s : State} (h : Keeps F b s) (ctx : Nat) :
    Keeps F b (s.discardOpen ctx) := by
  unfold State.discardOpen
  try dsimp only
  repeat' (first
    | with_reducible assumption
    | with_reducible apply State.discardStitch_keeps
    | exact fun h => h
    | exact fun _ => rfl
    | exact Nat.le_refl _
    | exact fun w => Mem.write_wf w _ _
    | exact fun _ h => h
    | exact fun _ _ => rfl
    | (intro w; refine Coded.all_map ?_ w; intro p h; first | exact h | (split <;> exact h))
    | exact fun w => Coded.all_filter w
    | (exact fun w => Coded.all_set (by simp [Coded.pairsOk, Coded.opened]) w)
    | (intro k w; simp_all [Coded.pairsOk, Coded.setC, Coded.setS, Coded.modGlove]; done)
    | (with_reducible refine Keeps.foldl (fun s a h => ?_) ?_)
    | (with_reducible refine Keeps.foldlFst (fun s a h => ?_) ?_)
    | (refine Keeps.ofFst (by with_reducible assumption) ?_)
    | split
    | dsimp only
    | with_reducible apply Keeps.made)

theorem State.evictOpen_keeps {F : Prop} {b s : State} (h : Keeps F b s) (r : Region) (k : Nat) (m : Merge) :
    Keeps F b (s.evictOpen r k m) := by
  unfold State.evictOpen
  try dsimp only
  repeat' (first
    | with_reducible assumption
    | with_reducible apply State.dropMerge_keeps
    | with_reducible apply State.storePage_keeps
    | split
    | dsimp only)

theorem State.commitPage_keeps {F : Prop} {b s : State} (h : Keeps F b s) (r : Region) (k : Nat) (data : List Byte) (reqs : List Nat) :
    Keeps F b (s.commitPage r k data reqs) := by
  unfold State.commitPage
  try dsimp only
  repeat' (first
    | with_reducible assumption
    | with_reducible apply State.tierWrite_keeps
    | with_reducible apply State.writesDone_keeps
    | with_reducible apply State.storePage_keeps
    | (with_reducible refine Keeps.foldl (fun s a h => ?_) ?_)
    | split
    | dsimp only)

theorem State.readCoded_keeps {F : Prop} {b s : State} (h : Keeps F b s) (r : Region) (k : Nat) :
    Keeps F b (s.readCoded r k).1 := by
  unfold State.readCoded
  try dsimp only
  repeat' (first
    | with_reducible assumption
    | with_reducible apply State.tierRead_keeps
    | with_reducible apply State.poolRead_keeps
    | with_reducible apply State.fetchPage_keeps
    | split
    | dsimp only)

theorem State.evict_keeps {F : Prop} {b s : State} (h : Keeps F b s) (k : Nat) :
    Keeps F b (s.evict k) := by
  unfold State.evict
  try dsimp only
  repeat' (first
    | with_reducible assumption
    | with_reducible apply State.dropMerge_keeps
    | with_reducible apply State.evictOpen_keeps
    | with_reducible apply State.tierStore_keeps
    | with_reducible apply State.commitPage_keeps
    | with_reducible apply State.tierOld_keeps
    | with_reducible apply State.fetchPage_keeps
    | with_reducible apply State.partialInit_keeps
    | with_reducible apply State.writesDone_keeps
    | (with_reducible refine Keeps.foldl (fun s a h => ?_) ?_)
    | (refine Keeps.ofFst (by with_reducible assumption) ?_)
    | split
    | dsimp only)

theorem State.commitFull_keeps {F : Prop} {b s : State} (h : Keeps F b s) (k : Nat) :
    Keeps F b (s.commitFull k) := by
  unfold State.commitFull
  try dsimp only
  repeat' (first
    | with_reducible assumption
    | with_reducible apply State.commitPage_keeps
    | with_reducible apply State.dropMerge_keeps
    | exact fun h => h
    | exact fun _ => rfl
    | exact Nat.le_refl _
    | exact fun w => Mem.write_wf w _ _
    | exact fun _ h => h
    | exact fun _ _ => rfl
    | (intro w; refine Coded.all_map ?_ w; intro p h; first | exact h | (split <;> exact h))
    | exact fun w => Coded.all_filter w
    | (exact fun w => Coded.all_set (by simp [Coded.pairsOk, Coded.opened]) w)
    | (intro k w; simp_all [Coded.pairsOk, Coded.setC, Coded.setS, Coded.modGlove]; done)
    | (with_reducible refine Keeps.foldl (fun s a h => ?_) ?_)
    | (with_reducible refine Keeps.foldlFst (fun s a h => ?_) ?_)
    | (refine Keeps.ofFst (by with_reducible assumption) ?_)
    | split
    | dsimp only)

theorem settleEntries_keeps {F : Prop} {b : State} : ∀ {s : State}, Keeps F b s → ∀ n, Keeps F b (settleEntries n s)
  | _, h, 0 => h
  | _, h, n + 1 => by
    unfold settleEntries
    split
    · exact settleEntries_keeps (State.evict_keeps h _) n
    · exact h

theorem State.settleMerge_keeps {F : Prop} {b s : State} (h : Keeps F b s) :
    Keeps F b (s.settleMerge) := by
  unfold State.settleMerge
  try dsimp only
  repeat' (first
    | with_reducible assumption
    | with_reducible apply State.commitFull_keeps
    | with_reducible apply settleEntries_keeps
    | exact fun h => h
    | exact fun _ => rfl
    | exact Nat.le_refl _
    | exact fun w => Mem.write_wf w _ _
    | exact fun _ h => h
    | exact fun _ _ => rfl
    | (intro w; refine Coded.all_map ?_ w; intro p h; first | exact h | (split <;> exact h))
    | exact fun w => Coded.all_filter w
    | (exact fun w => Coded.all_set (by simp [Coded.pairsOk, Coded.opened]) w)
    | (intro k w; simp_all [Coded.pairsOk, Coded.setC, Coded.setS, Coded.modGlove]; done)
    | (with_reducible refine Keeps.foldl (fun s a h => ?_) ?_)
    | (with_reducible refine Keeps.foldlFst (fun s a h => ?_) ?_)
    | (refine Keeps.ofFst (by with_reducible assumption) ?_)
    | split
    | dsimp only)

theorem State.writeCoded_keeps {F : Prop} {b s : State} (h : Keeps F b s) (r : Region) (k off : Nat) (d : List Byte) (ids : List Nat) :
    Keeps F b (s.writeCoded r k off d ids) := by
  unfold State.writeCoded
  try dsimp only
  repeat' (first
    | with_reducible assumption
    | with_reducible apply State.commitPage_keeps
    | with_reducible apply State.dropMerge_keeps
    | with_reducible apply State.mergeInto_keeps
    | with_reducible apply State.writesDone_keeps
    | with_reducible apply State.commitFull_keeps
    | (with_reducible refine Keeps.foldl (fun s a h => ?_) ?_)
    | split
    | dsimp only)

theorem State.readOneHanded_keeps {F : Prop} {b s : State} (h : Keeps F b s) (r : Region) (k off n : Nat) :
    Keeps F b (s.readOneHanded r k off n).1 := by
  unfold State.readOneHanded
  try dsimp only
  repeat' (first
    | with_reducible assumption
    | with_reducible apply State.readCoded_keeps
    | with_reducible apply State.evict_keeps
    | split
    | dsimp only)

theorem State.modGlove_keeps {F : Prop} {b s : State} (h : Keeps F b s) (ctx : Nat) (f : Glove → Glove) :
    Keeps F b (s.modGlove ctx f) := by
  unfold State.modGlove
  try dsimp only
  repeat' (first
    | with_reducible assumption
    | with_reducible apply State.modCoded_keeps
    | exact fun h => h
    | exact fun _ h => h
    | split
    | dsimp only)

theorem State.stopChains_keeps {F : Prop} {b s : State} (h : Keeps F b s) (ctx : Nat) :
    Keeps F b (s.stopChains ctx) := by
  unfold State.stopChains
  try dsimp only
  repeat' (first
    | with_reducible assumption
    | with_reducible apply State.dropQueued_keeps
    | with_reducible apply State.dropSent_keeps
    | exact fun h => h
    | exact fun _ => rfl
    | exact Nat.le_refl _
    | exact fun w => Mem.write_wf w _ _
    | exact fun _ h => h
    | exact fun _ _ => rfl
    | (intro w; refine Coded.all_map ?_ w; intro p h; first | exact h | (split <;> exact h))
    | exact fun w => Coded.all_filter w
    | (exact fun w => Coded.all_set (by simp [Coded.pairsOk, Coded.opened]) w)
    | (intro k w; simp_all [Coded.pairsOk, Coded.setC, Coded.setS, Coded.modGlove]; done)
    | (with_reducible refine Keeps.foldl (fun s a h => ?_) ?_)
    | (with_reducible refine Keeps.foldlFst (fun s a h => ?_) ?_)
    | (refine Keeps.ofFst (by with_reducible assumption) ?_)
    | split
    | dsimp only
    | with_reducible apply Keeps.made)

theorem State.endFills_keeps {F : Prop} {b s : State} (h : Keeps F b s) (ctx : Nat) :
    Keeps F b (s.endFills ctx) := by
  unfold State.endFills
  try dsimp only
  repeat' (first
    | with_reducible assumption
    | with_reducible apply State.modStitch_keeps
    | exact fun h => h
    | exact fun _ => rfl
    | exact Nat.le_refl _
    | exact fun w => Mem.write_wf w _ _
    | exact fun _ h => h
    | exact fun _ _ => rfl
    | (intro w; refine Coded.all_map ?_ w; intro p h; first | exact h | (split <;> exact h))
    | exact fun w => Coded.all_filter w
    | (exact fun w => Coded.all_set (by simp [Coded.pairsOk, Coded.opened]) w)
    | (intro k w; simp_all [Coded.pairsOk, Coded.setC, Coded.setS, Coded.modGlove]; done)
    | (with_reducible refine Keeps.foldl (fun s a h => ?_) ?_)
    | (with_reducible refine Keeps.foldlFst (fun s a h => ?_) ?_)
    | (refine Keeps.ofFst (by with_reducible assumption) ?_)
    | split
    | dsimp only)

theorem State.loseGlove_keeps {F : Prop} {b s : State} (h : Keeps F b s) (ctx : Nat) (gl : Glove) (count : Nat) :
    Keeps F b (s.loseGlove ctx gl count) := by
  unfold State.loseGlove
  try dsimp only
  repeat' (first
    | with_reducible assumption
    | with_reducible apply State.endFills_keeps
    | with_reducible apply State.modGlove_keeps
    | with_reducible apply State.raise_keeps
    | with_reducible apply State.notice_keeps
    | with_reducible apply State.stopChains_keeps
    | with_reducible apply State.post_keeps
    | exact fun h => h
    | exact fun _ => rfl
    | exact Nat.le_refl _
    | exact fun w => Mem.write_wf w _ _
    | exact fun _ h => h
    | exact fun _ _ => rfl
    | (intro w; refine Coded.all_map ?_ w; intro p h; first | exact h | (split <;> exact h))
    | exact fun w => Coded.all_filter w
    | (exact fun w => Coded.all_set (by simp [Coded.pairsOk, Coded.opened]) w)
    | (intro k w; simp_all [Coded.pairsOk, Coded.setC, Coded.setS, Coded.modGlove]; done)
    | (with_reducible refine Keeps.foldl (fun s a h => ?_) ?_)
    | (with_reducible refine Keeps.foldlFst (fun s a h => ?_) ?_)
    | (refine Keeps.ofFst (by with_reducible assumption) ?_)
    | split
    | dsimp only
    | with_reducible apply Keeps.made)

theorem State.regradeLoss_keeps {F : Prop} {b s : State} (h : Keeps F b s) (ctx : Nat) :
    Keeps F b (s.regradeLoss ctx) := by
  unfold State.regradeLoss
  try dsimp only
  repeat' (first
    | with_reducible assumption
    | with_reducible apply State.loseGlove_keeps
    | with_reducible apply State.modGlove_keeps
    | split
    | dsimp only)

theorem State.gradeLosses_keeps {F : Prop} {b s : State} (h : Keeps F b s) :
    Keeps F b (s.gradeLosses) := by
  unfold State.gradeLosses
  try dsimp only
  repeat' (first
    | with_reducible assumption
    | with_reducible apply State.regradeLoss_keeps
    | with_reducible apply State.modCoded_keeps
    | exact fun h => h
    | exact fun _ => rfl
    | exact Nat.le_refl _
    | exact fun w => Mem.write_wf w _ _
    | exact fun _ h => h
    | exact fun _ _ => rfl
    | (intro w; refine Coded.all_map ?_ w; intro p h; first | exact h | (split <;> exact h))
    | exact fun w => Coded.all_filter w
    | (exact fun w => Coded.all_set (by simp [Coded.pairsOk, Coded.opened]) w)
    | (intro k w; simp_all [Coded.pairsOk, Coded.setC, Coded.setS, Coded.modGlove]; done)
    | (with_reducible refine Keeps.foldl (fun s a h => ?_) ?_)
    | (with_reducible refine Keeps.foldlFst (fun s a h => ?_) ?_)
    | (refine Keeps.ofFst (by with_reducible assumption) ?_)
    | split
    | dsimp only)

theorem State.regradeGain_keeps {F : Prop} {b s : State} (h : Keeps F b s) (ctx : Nat) :
    Keeps F b (s.regradeGain ctx) := by
  unfold State.regradeGain
  try dsimp only
  repeat' (first
    | with_reducible assumption
    | with_reducible apply State.modGlove_keeps
    | split
    | dsimp only)

theorem State.countDrop_keeps {F : Prop} {b s : State} (h : Keeps F b s) (i : Nat) :
    Keeps F b (s.countDrop i) := by
  unfold State.countDrop
  try dsimp only
  exact Keeps.made h (fun _ => rfl) (fun h => h) (Nat.le_refl _) (fun h => h)

theorem State.note_keeps {F : Prop} {b s : State} (h : Keeps F b s) (mute : Bool) (src : Coord) (w : Wire) :
    Keeps F b (s.note mute src w) := by
  unfold State.note
  try dsimp only
  repeat' (first
    | with_reducible assumption
    | exact fun h => h
    | exact fun _ => rfl
    | exact Nat.le_refl _
    | exact fun w => Mem.write_wf w _ _
    | exact fun _ h => h
    | exact fun _ _ => rfl
    | (intro w; refine Coded.all_map ?_ w; intro p h; first | exact h | (split <;> exact h))
    | exact fun w => Coded.all_filter w
    | (exact fun w => Coded.all_set (by simp [Coded.pairsOk, Coded.opened]) w)
    | (intro k w; simp_all [Coded.pairsOk, Coded.setC, Coded.setS, Coded.modGlove]; done)
    | (with_reducible refine Keeps.foldl (fun s a h => ?_) ?_)
    | (with_reducible refine Keeps.foldlFst (fun s a h => ?_) ?_)
    | (refine Keeps.ofFst (by with_reducible assumption) ?_)
    | split
    | dsimp only
    | with_reducible apply Keeps.made)

theorem State.remember_keeps {F : Prop} {b s : State} (h : Keeps F b s) (src : Coord) (w : Wire) :
    Keeps F b (s.remember src w) := by
  unfold State.remember
  try dsimp only
  exact Keeps.made h (fun _ => rfl) (fun h => h) (Nat.le_refl _) (fun h => h)

theorem State.answered_keeps {F : Prop} {b s : State} (h : Keeps F b s) (src : Coord) (w : Wire) (types : List (Nat × Nat)) :
    Keeps F b (s.answered src w types) := by
  unfold State.answered
  try dsimp only
  repeat' (first
    | with_reducible assumption
    | with_reducible apply State.dropSent_keeps)

theorem State.tellMembers_keeps {F : Prop} {b s : State} (h : Keeps F b s) (ctx : Nat) (gl : Glove) (body : List Byte) (except : Nat) :
    Keeps F b (s.tellMembers ctx gl body except) := by
  unfold State.tellMembers
  try dsimp only
  repeat' (first
    | with_reducible assumption
    | with_reducible apply State.send_keeps
    | (with_reducible refine Keeps.foldl (fun s a h => ?_) ?_)
    | dsimp only)

theorem State.trimDeltas_keeps {F : Prop} {b s : State} (h : Keeps F b s) (ctx : Nat) :
    Keeps F b (s.trimDeltas ctx) := by
  unfold State.trimDeltas
  try dsimp only
  exact Keeps.made h (fun _ => rfl) (fun h => h) (Nat.le_refl _) (fun h => h)

theorem State.markLost_keeps {F : Prop} {b s : State} (h : Keeps F b s) (ctx member cause : Nat) :
    Keeps F b (s.markLost ctx member cause) := by
  unfold State.markLost
  try dsimp only
  repeat' (first
    | with_reducible assumption
    | with_reducible apply State.modCoded_keeps
    | with_reducible apply State.raise_keeps
    | with_reducible apply State.notice_keeps
    | with_reducible apply State.dropSent_keeps
    | with_reducible apply State.dropQueued_keeps
    | with_reducible apply State.trimDeltas_keeps
    | with_reducible apply State.tellMembers_keeps
    | with_reducible apply State.regradeLoss_keeps
    | exact fun h => h
    | exact fun _ h => h
    | split
    | dsimp only)

theorem State.readPiece_keeps {F : Prop} {b s : State} (h : Keeps F b s) (h' : HbGroup) (slot parity : Bool) (i : Nat) :
    Keeps F b (s.readPiece h' slot parity i).1 := by
  unfold State.readPiece
  try dsimp only
  repeat' (first
    | with_reducible assumption
    | with_reducible apply State.fetchPage_keeps
    | (with_reducible refine Keeps.foldl (fun s a h => ?_) ?_)
    | (refine Keeps.ofFst (by with_reducible assumption) ?_)
    | split
    | dsimp only)

theorem State.readStored_keeps {F : Prop} {b s : State} (h : Keeps F b s) (ctx : Nat) (h' : HbGroup) (slot : Bool) (i : Nat) :
    Keeps F b (s.readStored ctx h' slot i).1 := by
  unfold State.readStored
  try dsimp only
  repeat' (first
    | with_reducible assumption
    | with_reducible apply State.fetchPage_keeps
    | with_reducible apply State.uninitRead_keeps
    | exact fun h => h
    | exact fun _ => rfl
    | exact Nat.le_refl _
    | exact fun w => Mem.write_wf w _ _
    | exact fun _ h => h
    | exact fun _ _ => rfl
    | (intro w; refine Coded.all_map ?_ w; intro p h; first | exact h | (split <;> exact h))
    | exact fun w => Coded.all_filter w
    | (exact fun w => Coded.all_set (by simp [Coded.pairsOk, Coded.opened]) w)
    | (intro k w; simp_all [Coded.pairsOk, Coded.setC, Coded.setS, Coded.modGlove]; done)
    | (with_reducible refine Keeps.foldl (fun s a h => ?_) ?_)
    | (with_reducible refine Keeps.foldlFst (fun s a h => ?_) ?_)
    | (refine Keeps.ofFst (by with_reducible assumption) ?_)
    | split
    | dsimp only)

theorem State.gloveTerm_keeps {F : Prop} {b s : State} (h : Keeps F b s) (ctx : Nat) (gl : Glove) (member stripe : Nat) :
    Keeps F b (s.gloveTerm ctx gl member stripe).1 := by
  unfold State.gloveTerm
  try dsimp only
  repeat' (first
    | with_reducible assumption
    | with_reducible apply State.crownedOrZero_keeps
    | (with_reducible refine Keeps.foldl (fun s a h => ?_) ?_)
    | (refine Keeps.ofFst (by with_reducible assumption) ?_)
    | split
    | dsimp only)

theorem State.pieceTerm_keeps {F : Prop} {b s : State} (h : Keeps F b s) (h' : HbGroup) (slot : Bool) (member stripe : Nat) :
    Keeps F b (s.pieceTerm h' slot member stripe).1 := by
  unfold State.pieceTerm
  try dsimp only
  repeat' (first
    | with_reducible assumption
    | with_reducible apply State.readPiece_keeps
    | (with_reducible refine Keeps.foldl (fun s a h => ?_) ?_)
    | (refine Keeps.ofFst (by with_reducible assumption) ?_)
    | split
    | dsimp only)

theorem State.dropChain_keeps {F : Prop} {b s : State} (h : Keeps F b s) (c : Chain) :
    Keeps F b (s.dropChain c) := by
  unfold State.dropChain
  try dsimp only
  exact Keeps.made h (fun _ => rfl) (fun h => h) (Nat.le_refl _) (fun h => h)

theorem State.failStitch_keeps {F : Prop} {b s : State} (h : Keeps F b s) (ctx id stripe member darn region idx : Nat) :
    Keeps F b (s.failStitch ctx id stripe member darn region idx) := by
  unfold State.failStitch
  try dsimp only
  repeat' (first
    | with_reducible assumption
    | with_reducible apply State.modStitch_keeps
    | with_reducible apply State.raise_keeps
    | with_reducible apply State.regradeLoss_keeps
    | exact fun h => h
    | exact fun _ => rfl
    | exact Nat.le_refl _
    | exact fun w => Mem.write_wf w _ _
    | exact fun _ h => h
    | exact fun _ _ => rfl
    | (intro w; refine Coded.all_map ?_ w; intro p h; first | exact h | (split <;> exact h))
    | exact fun w => Coded.all_filter w
    | (exact fun w => Coded.all_set (by simp [Coded.pairsOk, Coded.opened]) w)
    | (intro k w; simp_all [Coded.pairsOk, Coded.setC, Coded.setS, Coded.modGlove]; done)
    | (with_reducible refine Keeps.foldl (fun s a h => ?_) ?_)
    | (with_reducible refine Keeps.foldlFst (fun s a h => ?_) ?_)
    | (refine Keeps.ofFst (by with_reducible assumption) ?_)
    | split
    | dsimp only
    | with_reducible apply Keeps.made)

theorem State.sendRequests_keeps {F : Prop} {b s : State} (h : Keeps F b s) (rank unit ctx : Nat) (g' : Group) (coordOf : Nat → Coord) (chipOf : Nat → Nat) (me : Nat) (p : Plan) (word stripe : Nat) :
    Keeps F b (s.sendRequests rank unit ctx g' coordOf chipOf me p word stripe) := by
  unfold State.sendRequests
  try dsimp only
  repeat' (first
    | with_reducible assumption
    | with_reducible apply State.sendRanked_keeps
    | split
    | dsimp only)

theorem State.issueChain_keeps {F : Prop} {b s : State} (h : Keeps F b s) (ctx : Nat) (r : Region) (idx : Nat) (why : Purpose) :
    Keeps F b (s.issueChain ctx r idx why) := by
  unfold State.issueChain
  try dsimp only
  repeat' (first
    | with_reducible assumption
    | with_reducible apply State.useGroup_keeps
    | with_reducible apply State.failStitch_keeps
    | with_reducible apply State.sendRequests_keeps
    | exact fun h => h
    | exact fun _ => rfl
    | exact Nat.le_refl _
    | exact fun w => Mem.write_wf w _ _
    | exact fun _ h => h
    | exact fun _ _ => rfl
    | (intro w; refine Coded.all_map ?_ w; intro p h; first | exact h | (split <;> exact h))
    | exact fun w => Coded.all_filter w
    | (exact fun w => Coded.all_set (by simp [Coded.pairsOk, Coded.opened]) w)
    | (intro k w; simp_all [Coded.pairsOk, Coded.setC, Coded.setS, Coded.modGlove]; done)
    | (with_reducible refine Keeps.foldl (fun s a h => ?_) ?_)
    | (with_reducible refine Keeps.foldlFst (fun s a h => ?_) ?_)
    | (refine Keeps.ofFst (by with_reducible assumption) ?_)
    | split
    | dsimp only
    | with_reducible apply Keeps.made)

theorem State.issuePiece_keeps {F : Prop} {b s : State} (h : Keeps F b s) (ctx : Nat) (h' : HbGroup) (pos : Nat) (absent : List Nat) (x : Nat) :
    Keeps F b (s.issuePiece ctx h' pos absent x) := by
  unfold State.issuePiece
  try dsimp only
  repeat' (first
    | with_reducible assumption
    | with_reducible apply State.useGroup_keeps
    | with_reducible apply State.sendRequests_keeps
    | exact fun h => h
    | exact fun _ => rfl
    | exact Nat.le_refl _
    | exact fun w => Mem.write_wf w _ _
    | exact fun _ h => h
    | exact fun _ _ => rfl
    | (intro w; refine Coded.all_map ?_ w; intro p h; first | exact h | (split <;> exact h))
    | exact fun w => Coded.all_filter w
    | (exact fun w => Coded.all_set (by simp [Coded.pairsOk, Coded.opened]) w)
    | (intro k w; simp_all [Coded.pairsOk, Coded.setC, Coded.setS, Coded.modGlove]; done)
    | (with_reducible refine Keeps.foldl (fun s a h => ?_) ?_)
    | (with_reducible refine Keeps.foldlFst (fun s a h => ?_) ?_)
    | (refine Keeps.ofFst (by with_reducible assumption) ?_)
    | split
    | dsimp only
    | with_reducible apply Keeps.made)

theorem State.demandDarn_keeps {F : Prop} {b s : State} (h : Keeps F b s) (ctx : Nat) (r : Region) (idx : Nat) :
    Keeps F b (s.demandDarn ctx r idx) := by
  unfold State.demandDarn
  try dsimp only
  repeat' (first
    | with_reducible assumption
    | with_reducible apply State.issueChain_keeps
    | with_reducible apply State.modInst_keeps
    | split
    | dsimp only)

theorem State.reissue_keeps {F : Prop} {b s : State} (h : Keeps F b s) (c : Chain) :
    Keeps F b (s.reissue c) := by
  unfold State.reissue
  try dsimp only
  repeat' (first
    | with_reducible assumption
    | with_reducible apply State.issueChain_keeps
    | with_reducible apply State.dropChain_keeps
    | split
    | dsimp only)

theorem State.passOn_keeps {F : Prop} {b s : State} (h : Keeps F b s) (w : Wire) (g' : Group) (p : Plan) (me : Nat) (d : List Byte) (tag : Word) (key : Option Nat) (next : Option (Nat × Coord)) (dest : Nat × Coord) :
    Keeps F b (s.passOn w g' p me d tag key next dest) := by
  unfold State.passOn
  try dsimp only
  repeat' (first
    | with_reducible assumption
    | with_reducible apply State.checked_keeps
    | with_reducible apply State.sendRanked_keeps
    | split
    | dsimp only)

theorem State.contribute_keeps {F : Prop} {b s : State} (h : Keeps F b s) (w : Wire) :
    Keeps F b (s.contribute w) := by
  unfold State.contribute
  try dsimp only
  repeat' (first
    | with_reducible assumption
    | with_reducible apply State.useGroup_keeps
    | with_reducible apply State.reply_keeps
    | with_reducible apply State.gloveTerm_keeps
    | with_reducible apply State.passOn_keeps
    | (with_reducible refine Keeps.foldl (fun s a h => ?_) ?_)
    | (refine Keeps.ofFst (by with_reducible assumption) ?_)
    | split
    | dsimp only)

theorem State.contributePiece_keeps {F : Prop} {b s : State} (h : Keeps F b s) (w : Wire) :
    Keeps F b (s.contributePiece w) := by
  unfold State.contributePiece
  try dsimp only
  repeat' (first
    | with_reducible assumption
    | with_reducible apply State.useGroup_keeps
    | with_reducible apply State.reply_keeps
    | with_reducible apply State.pieceTerm_keeps
    | with_reducible apply State.passOn_keeps
    | (with_reducible refine Keeps.foldl (fun s a h => ?_) ?_)
    | (refine Keeps.ofFst (by with_reducible assumption) ?_)
    | split
    | dsimp only)

theorem State.answerCheck_keeps {F : Prop} {b s : State} (h : Keeps F b s) (src : Coord) (w : Wire) :
    Keeps F b (s.answerCheck src w) := by
  unfold State.answerCheck
  try dsimp only
  repeat' (first
    | with_reducible assumption
    | with_reducible apply State.reply_keeps
    | with_reducible apply State.pieceTerm_keeps
    | with_reducible apply State.gloveTerm_keeps
    | (with_reducible refine Keeps.foldl (fun s a h => ?_) ?_)
    | (refine Keeps.ofFst (by with_reducible assumption) ?_)
    | split
    | dsimp only)

theorem State.rebuiltHand_keeps {F : Prop} {b s : State} (h : Keeps F b s) (r : Region) (idx : Nat) :
    Keeps F b (s.rebuiltHand r idx).1 := by
  unfold State.rebuiltHand
  try dsimp only
  repeat' (first
    | with_reducible assumption
    | with_reducible apply State.crownedHand_keeps
    | with_reducible apply State.modStitch_keeps
    | with_reducible apply State.neverPages_keeps
    | with_reducible apply State.setHand_keeps
    | exact fun h => h
    | exact fun _ => rfl
    | exact Nat.le_refl _
    | exact fun w => Mem.write_wf w _ _
    | exact fun _ h => h
    | exact fun _ _ => rfl
    | (intro w; refine Coded.all_map ?_ w; intro p h; first | exact h | (split <;> exact h))
    | exact fun w => Coded.all_filter w
    | (exact fun w => Coded.all_set (by simp [Coded.pairsOk, Coded.opened]) w)
    | (intro k w; simp_all [Coded.pairsOk, Coded.setC, Coded.setS, Coded.modGlove]; done)
    | (with_reducible refine Keeps.foldl (fun s a h => ?_) ?_)
    | (with_reducible refine Keeps.foldlFst (fun s a h => ?_) ?_)
    | (refine Keeps.ofFst (by with_reducible assumption) ?_)
    | split
    | dsimp only)

theorem State.writeRebuilt_keeps {F : Prop} {b s : State} (h : Keeps F b s) (ctx : Nat) (r : Region) (idx : Nat) (parity : Bool) (step : Nat) (data : List Byte) (tag : Word) :
    Keeps F b (s.writeRebuilt ctx r idx parity step data tag) := by
  unfold State.writeRebuilt
  try dsimp only
  repeat' (first
    | with_reducible assumption
    | with_reducible apply State.rebuiltHand_keeps
    | with_reducible apply State.neverPages_keeps
    | with_reducible apply State.storePage_keeps
    | with_reducible apply State.modStitch_keeps
    | split
    | dsimp only)

theorem State.endChain_keeps {F : Prop} {b s : State} (h : Keeps F b s) (c : Chain) (data : List Byte) (tag checkAcc : Word) :
    Keeps F b (s.endChain c data tag checkAcc).1 := by
  unfold State.endChain
  try dsimp only
  repeat' (first
    | with_reducible assumption
    | with_reducible apply State.dropChain_keeps
    | with_reducible apply State.writeRebuilt_keeps
    | with_reducible apply State.failStitch_keeps
    | exact fun h => h
    | exact fun _ => rfl
    | exact Nat.le_refl _
    | exact fun w => Mem.write_wf w _ _
    | exact fun _ h => h
    | exact fun _ _ => rfl
    | (intro w; refine Coded.all_map ?_ w; intro p h; first | exact h | (split <;> exact h))
    | exact fun w => Coded.all_filter w
    | (exact fun w => Coded.all_set (by simp [Coded.pairsOk, Coded.opened]) w)
    | (intro k w; simp_all [Coded.pairsOk, Coded.setC, Coded.setS, Coded.modGlove]; done)
    | (with_reducible refine Keeps.foldl (fun s a h => ?_) ?_)
    | (with_reducible refine Keeps.foldlFst (fun s a h => ?_) ?_)
    | (refine Keeps.ofFst (by with_reducible assumption) ?_)
    | split
    | dsimp only
    | with_reducible apply Keeps.made)

end Sys2Proof.Machine
end

