-- ==== Sys2Proof/Laws/KeepsDrain.lean ====
section
/-! SUPPORT. Each operation of Digest, Drain, Access, Cuff, Hatbox, Witness, Trial leaves the queue, the clock and the fuses alone, and keeps memory's
canonical form and the complement pairs. -/

namespace Sys2Proof.Machine

theorem State.mapDigests_keeps {F : Prop} {b s : State} (h : Keeps F b s) (f : Digest → Digest) :
    Keeps F b (s.mapDigests f) := by
  unfold State.mapDigests
  try dsimp only
  exact Keeps.made h (fun _ => rfl) (fun h => h) (Nat.le_refl _) (fun h => h)

theorem State.mapTallies_keeps {F : Prop} {b s : State} (h : Keeps F b s) (f : Tally → Tally) :
    Keeps F b (s.mapTallies f) := by
  unfold State.mapTallies
  try dsimp only
  exact Keeps.made h (fun _ => rfl) (fun h => h) (Nat.le_refl _) (fun h => h)

theorem State.finalWrite_keeps {F : Prop} {b s : State} (h : Keeps F b s) (r : Region) (off : Nat) (d : List Byte) :
    Keeps F b (s.finalWrite r off d) := by
  unfold State.finalWrite
  try dsimp only
  repeat' (first
    | with_reducible assumption
    | with_reducible apply State.mapDigests_keeps
    | with_reducible apply State.mapTallies_keeps)

theorem State.tallyDelta_keeps {F : Prop} {b s : State} (h : Keeps F b s) (ctx hosted palm : Nat) (state : Bool) (old new : List Byte) :
    Keeps F b (s.tallyDelta ctx hosted palm state old new) := by
  unfold State.tallyDelta
  try dsimp only
  repeat' (first
    | with_reducible assumption
    | with_reducible apply State.mapDigests_keeps
    | with_reducible apply State.mapTallies_keeps)

theorem State.groupsDelta_keeps {F : Prop} {b s : State} (h : Keeps F b s) (ctx hosted palm : Nat) (wasWritten : Bool) (old new : List Byte) :
    Keeps F b (s.groupsDelta ctx hosted palm wasWritten old new) := by
  unfold State.groupsDelta
  try dsimp only
  repeat' (first
    | with_reducible assumption
    | with_reducible apply State.modCoded_keeps
    | exact fun h => h
    | exact fun _ h => h
    | split
    | dsimp only)

theorem State.restartRooted_keeps {F : Prop} {b s : State} (h : Keeps F b s) (ctx : Nat) :
    Keeps F b (s.restartRooted ctx) := by
  unfold State.restartRooted
  try dsimp only
  repeat' (first
    | with_reducible assumption
    | with_reducible apply State.mapDigests_keeps
    | with_reducible apply State.mapTallies_keeps)

theorem State.freezeRooted_keeps {F : Prop} {b s : State} (h : Keeps F b s) (ctx : Nat) :
    Keeps F b (s.freezeRooted ctx) := by
  unfold State.freezeRooted
  try dsimp only
  repeat' (first
    | with_reducible assumption
    | with_reducible apply State.mapDigests_keeps
    | with_reducible apply State.mapTallies_keeps)

theorem State.crownWeights_keeps {F : Prop} {b s : State} (h : Keeps F b s) (ctx : Nat) :
    Keeps F b (s.crownWeights ctx) := by
  unfold State.crownWeights
  try dsimp only
  repeat' (first
    | with_reducible assumption
    | with_reducible apply State.mapTallies_keeps)

theorem State.discardWeights_keeps {F : Prop} {b s : State} (h : Keeps F b s) (ctx : Nat) :
    Keeps F b (s.discardWeights ctx) := by
  unfold State.discardWeights
  try dsimp only
  repeat' (first
    | with_reducible assumption
    | with_reducible apply State.mapTallies_keeps)

theorem State.rootFaults_keeps {F : Prop} {b s : State} (h : Keeps F b s) (ctx : Nat) :
    Keeps F b (s.rootFaults ctx) := by
  unfold State.rootFaults
  try dsimp only
  repeat' (first
    | with_reducible assumption
    | with_reducible apply State.raise_keeps
    | (with_reducible refine Keeps.foldl (fun s a h => ?_) ?_)
    | dsimp only)

theorem State.formDelta_keeps {F : Prop} {b s : State} (h : Keeps F b s) (p : Pair) :
    Keeps F b (s.formDelta p) := by
  unfold State.formDelta
  try dsimp only
  repeat' (first
    | with_reducible assumption
    | with_reducible apply State.crownedHand_keeps
    | with_reducible apply State.dropMerge_keeps
    | with_reducible apply State.storePage_keeps
    | with_reducible apply State.tallyDelta_keeps
    | with_reducible apply State.groupsDelta_keeps
    | with_reducible apply State.modCoded_keeps
    | exact fun h => h
    | exact fun _ => rfl
    | exact Nat.le_refl _
    | exact fun w => Mem.write_wf w _ _
    | exact fun _ h => h
    | exact fun _ _ => rfl
    | (intro w; refine Coded.all_map ?_ w; intro p h; first | exact h | (split <;> exact h))
    | exact fun w => Coded.all_filter w
    | (exact fun w => Coded.all_set (by simp [Coded.pairsOk, Coded.opened]) w)
    | (intro k w; simp_all [Coded.pairsOk, Coded.setC, Coded.setS, Coded.modGlove]; done)
    | (with_reducible refine Keeps.foldl (fun s a h => ?_) ?_)
    | (with_reducible refine Keeps.foldlFst (fun s a h => ?_) ?_)
    | (refine Keeps.ofFst (by with_reducible assumption) ?_)
    | split
    | dsimp only
    | with_reducible apply Keeps.made)

theorem State.formReady_keeps {F : Prop} {b s : State} (h : Keeps F b s) (i : Fin 16) :
    Keeps F b (s.formReady i) := by
  unfold State.formReady
  try dsimp only
  repeat' (first
    | with_reducible assumption
    | with_reducible apply State.formDelta_keeps
    | (with_reducible refine Keeps.foldl (fun s a h => ?_) ?_)
    | split
    | dsimp only)

theorem State.formAll_keeps {F : Prop} {b s : State} (h : Keeps F b s) :
    Keeps F b (s.formAll) := by
  unfold State.formAll
  try dsimp only
  repeat' (first
    | with_reducible assumption
    | with_reducible apply State.formReady_keeps
    | (with_reducible refine Keeps.foldl (fun s a h => ?_) ?_)
    | dsimp only)

theorem State.sendSeat_keeps {F : Prop} {b s : State} (h : Keeps F b s) (gl : Glove) (d : Delta) (j : Nat) :
    Keeps F b (s.sendSeat gl d j).1 := by
  unfold State.sendSeat
  try dsimp only
  repeat' (first
    | with_reducible assumption
    | with_reducible apply State.checked_keeps
    | with_reducible apply State.modCoded_keeps
    | with_reducible apply State.send_keeps
    | exact fun h => h
    | exact fun _ => rfl
    | exact Nat.le_refl _
    | exact fun w => Mem.write_wf w _ _
    | exact fun _ h => h
    | exact fun _ _ => rfl
    | (intro w; refine Coded.all_map ?_ w; intro p h; first | exact h | (split <;> exact h))
    | exact fun w => Coded.all_filter w
    | (exact fun w => Coded.all_set (by simp [Coded.pairsOk, Coded.opened]) w)
    | (intro k w; simp_all [Coded.pairsOk, Coded.setC, Coded.setS, Coded.modGlove]; done)
    | (with_reducible refine Keeps.foldl (fun s a h => ?_) ?_)
    | (with_reducible refine Keeps.foldlFst (fun s a h => ?_) ?_)
    | (refine Keeps.ofFst (by with_reducible assumption) ?_)
    | split
    | dsimp only)

theorem State.sendDelta_keeps {F : Prop} {b s : State} (h : Keeps F b s) (i : Fin 16) :
    Keeps F b (s.sendDelta i) := by
  unfold State.sendDelta
  try dsimp only
  repeat' (first
    | with_reducible assumption
    | with_reducible apply State.useGroup_keeps
    | with_reducible apply State.sendSeat_keeps
    | exact fun h => h
    | exact fun _ => rfl
    | exact Nat.le_refl _
    | exact fun w => Mem.write_wf w _ _
    | exact fun _ h => h
    | exact fun _ _ => rfl
    | (intro w; refine Coded.all_map ?_ w; intro p h; first | exact h | (split <;> exact h))
    | exact fun w => Coded.all_filter w
    | (exact fun w => Coded.all_set (by simp [Coded.pairsOk, Coded.opened]) w)
    | (intro k w; simp_all [Coded.pairsOk, Coded.setC, Coded.setS, Coded.modGlove]; done)
    | (with_reducible refine Keeps.foldl (fun s a h => ?_) ?_)
    | (with_reducible refine Keeps.foldlFst (fun s a h => ?_) ?_)
    | (refine Keeps.ofFst (by with_reducible assumption) ?_)
    | split
    | dsimp only
    | with_reducible apply Keeps.made)

theorem State.writeFold_keeps {F : Prop} {b s : State} (h : Keeps F b s) (f : Fold) :
    Keeps F b (s.writeFold f) := by
  unfold State.writeFold
  try dsimp only
  repeat' (first
    | with_reducible assumption
    | with_reducible apply State.crownedHand_keeps
    | with_reducible apply State.storePage_keeps
    | exact fun h => h
    | exact fun _ => rfl
    | exact Nat.le_refl _
    | exact fun w => Mem.write_wf w _ _
    | exact fun _ h => h
    | exact fun _ _ => rfl
    | (intro w; refine Coded.all_map ?_ w; intro p h; first | exact h | (split <;> exact h))
    | exact fun w => Coded.all_filter w
    | (exact fun w => Coded.all_set (by simp [Coded.pairsOk, Coded.opened]) w)
    | (intro k w; simp_all [Coded.pairsOk, Coded.setC, Coded.setS, Coded.modGlove]; done)
    | (with_reducible refine Keeps.foldl (fun s a h => ?_) ?_)
    | (with_reducible refine Keeps.foldlFst (fun s a h => ?_) ?_)
    | (refine Keeps.ofFst (by with_reducible assumption) ?_)
    | split
    | dsimp only
    | with_reducible apply Keeps.made)

theorem State.putFold_keeps {F : Prop} {b s : State} (h : Keeps F b s) (i : Fin 16) (f : Fold) :
    Keeps F b (s.putFold i f) := by
  unfold State.putFold
  try dsimp only
  repeat' (first
    | with_reducible assumption
    | with_reducible apply State.writeFold_keeps
    | exact fun h => h
    | exact fun _ => rfl
    | exact Nat.le_refl _
    | exact fun w => Mem.write_wf w _ _
    | exact fun _ h => h
    | exact fun _ _ => rfl
    | (intro w; refine Coded.all_map ?_ w; intro p h; first | exact h | (split <;> exact h))
    | exact fun w => Coded.all_filter w
    | (exact fun w => Coded.all_set (by simp [Coded.pairsOk, Coded.opened]) w)
    | (intro k w; simp_all [Coded.pairsOk, Coded.setC, Coded.setS, Coded.modGlove]; done)
    | (with_reducible refine Keeps.foldl (fun s a h => ?_) ?_)
    | (with_reducible refine Keeps.foldlFst (fun s a h => ?_) ?_)
    | (refine Keeps.ofFst (by with_reducible assumption) ?_)
    | split
    | dsimp only
    | with_reducible apply Keeps.made)

theorem State.getFold_keeps {F : Prop} {b s : State} (h : Keeps F b s) (ctx : Nat) (r : Region) (idx : Nat) (form : Bool) :
    Keeps F b (s.getFold ctx r idx form).1 := by
  unfold State.getFold
  try dsimp only
  repeat' (first
    | with_reducible assumption
    | with_reducible apply State.readCrowned_keeps
    | with_reducible apply State.spoilStep_keeps
    | with_reducible apply State.demandDarn_keeps
    | with_reducible apply State.crownedOrZero_keeps
    | with_reducible apply State.modStitch_keeps
    | with_reducible apply State.crownedHand_keeps
    | with_reducible apply State.modInst_keeps
    | with_reducible apply State.fetchPage_keeps
    | (with_reducible refine Keeps.foldl (fun s a h => ?_) ?_)
    | (refine Keeps.ofFst (by with_reducible assumption) ?_)
    | split
    | dsimp only)

theorem State.ackDelta_keeps {F : Prop} {b s : State} (h : Keeps F b s) (src : Coord) (w : Wire) (holder : Nat) :
    Keeps F b (s.ackDelta src w holder) := by
  unfold State.ackDelta
  try dsimp only
  repeat' (first
    | with_reducible assumption
    | with_reducible apply State.reply_keeps
    | with_reducible apply State.remember_keeps)

theorem State.holdDelta_keeps {F : Prop} {b s : State} (h : Keeps F b s) (src : Coord) (w : Wire) :
    Keeps F b (s.holdDelta src w) := by
  unfold State.holdDelta
  try dsimp only
  repeat' (first
    | with_reducible assumption
    | exact fun h => h
    | exact fun _ => rfl
    | exact Nat.le_refl _
    | exact fun w => Mem.write_wf w _ _
    | exact fun _ h => h
    | exact fun _ _ => rfl
    | (intro w; refine Coded.all_map ?_ w; intro p h; first | exact h | (split <;> exact h))
    | exact fun w => Coded.all_filter w
    | (exact fun w => Coded.all_set (by simp [Coded.pairsOk, Coded.opened]) w)
    | (intro k w; simp_all [Coded.pairsOk, Coded.setC, Coded.setS, Coded.modGlove]; done)
    | (with_reducible refine Keeps.foldl (fun s a h => ?_) ?_)
    | (with_reducible refine Keeps.foldlFst (fun s a h => ?_) ?_)
    | (refine Keeps.ofFst (by with_reducible assumption) ?_)
    | split
    | dsimp only
    | with_reducible apply Keeps.made)

theorem State.leaveUnfolded_keeps {F : Prop} {b s : State} (h : Keeps F b s) (ctx region idx : Nat) :
    Keeps F b (s.leaveUnfolded ctx region idx) := by
  unfold State.leaveUnfolded
  try dsimp only
  repeat' (first
    | with_reducible assumption
    | with_reducible apply State.modCoded_keeps
    | exact fun h => h
    | exact fun _ => rfl
    | exact Nat.le_refl _
    | exact fun w => Mem.write_wf w _ _
    | exact fun _ h => h
    | exact fun _ _ => rfl
    | (intro w; refine Coded.all_map ?_ w; intro p h; first | exact h | (split <;> exact h))
    | exact fun w => Coded.all_filter w
    | (exact fun w => Coded.all_set (by simp [Coded.pairsOk, Coded.opened]) w)
    | (intro k w; simp_all [Coded.pairsOk, Coded.setC, Coded.setS, Coded.modGlove]; done)
    | (with_reducible refine Keeps.foldl (fun s a h => ?_) ?_)
    | (with_reducible refine Keeps.foldlFst (fun s a h => ?_) ?_)
    | (refine Keeps.ofFst (by with_reducible assumption) ?_)
    | split
    | dsimp only)

theorem State.foldDelta_keeps {F : Prop} {b s : State} (h : Keeps F b s) (src : Coord) (w : Wire) (gl : Glove) (holder : Nat) (r : Region) (idx : Nat) (form : Bool) :
    Keeps F b (s.foldDelta src w gl holder r idx form) := by
  unfold State.foldDelta
  try dsimp only
  repeat' (first
    | with_reducible assumption
    | with_reducible apply State.ackDelta_keeps
    | with_reducible apply State.getFold_keeps
    | with_reducible apply State.leaveUnfolded_keeps
    | with_reducible apply State.holdDelta_keeps
    | with_reducible apply State.putFold_keeps
    | (with_reducible refine Keeps.foldl (fun s a h => ?_) ?_)
    | (refine Keeps.ofFst (by with_reducible assumption) ?_)
    | split
    | dsimp only)

theorem State.skewFault_keeps {F : Prop} {b s : State} (h : Keeps F b s) (unit id member phase ctx step : Nat) :
    Keeps F b (s.skewFault unit id member phase ctx step) := by
  unfold State.skewFault
  try dsimp only
  repeat' (first
    | with_reducible assumption
    | with_reducible apply State.raise_keeps)

theorem State.decideDelta_keeps {F : Prop} {b s : State} (h : Keeps F b s) (src : Coord) (w : Wire) :
    Keeps F b (s.decideDelta src w) := by
  unfold State.decideDelta
  try dsimp only
  repeat' (first
    | with_reducible assumption
    | with_reducible apply State.countDrop_keeps
    | with_reducible apply State.foldDelta_keeps
    | with_reducible apply State.ackDelta_keeps
    | with_reducible apply State.modInst_keeps
    | with_reducible apply State.note_keeps
    | with_reducible apply State.skewFault_keeps
    | with_reducible apply State.holdDelta_keeps
    | split
    | dsimp only)

theorem State.retryDeltas_keeps {F : Prop} {b s : State} (h : Keeps F b s) :
    Keeps F b (s.retryDeltas) := by
  unfold State.retryDeltas
  try dsimp only
  repeat' (first
    | with_reducible assumption
    | with_reducible apply State.decideDelta_keeps
    | exact fun h => h
    | exact fun _ => rfl
    | exact Nat.le_refl _
    | exact fun w => Mem.write_wf w _ _
    | exact fun _ h => h
    | exact fun _ _ => rfl
    | (intro w; refine Coded.all_map ?_ w; intro p h; first | exact h | (split <;> exact h))
    | exact fun w => Coded.all_filter w
    | (exact fun w => Coded.all_set (by simp [Coded.pairsOk, Coded.opened]) w)
    | (intro k w; simp_all [Coded.pairsOk, Coded.setC, Coded.setS, Coded.modGlove]; done)
    | (with_reducible refine Keeps.foldl (fun s a h => ?_) ?_)
    | (with_reducible refine Keeps.foldlFst (fun s a h => ?_) ?_)
    | (refine Keeps.ofFst (by with_reducible assumption) ?_)
    | split
    | dsimp only
    | with_reducible apply Keeps.made)

theorem State.writeFolds_keeps {F : Prop} {b s : State} (h : Keeps F b s) (ctx : Nat) :
    Keeps F b (s.writeFolds ctx) := by
  unfold State.writeFolds
  try dsimp only
  repeat' (first
    | with_reducible assumption
    | with_reducible apply State.writeFold_keeps
    | (with_reducible refine Keeps.foldl (fun s a h => ?_) ?_)
    | dsimp only)

theorem State.refuse_keeps {F : Prop} {b s : State} (h : Keeps F b s) (q : Req) (write : Bool) (cause : Nat) :
    Keeps F b (s.refuse q write cause) := by
  unfold State.refuse
  try dsimp only
  repeat' (first
    | with_reducible assumption
    | with_reducible apply State.emit_keeps
    | with_reducible apply State.access_keeps
    | split
    | dsimp only)

theorem State.holdReq_keeps {F : Prop} {b s : State} (h : Keeps F b s) (q : Req) (write : Bool) (why : Wait) :
    Keeps F b (s.holdReq q write why) := by
  unfold State.holdReq
  try dsimp only
  exact Keeps.made h (fun _ => rfl) (fun h => h) (Nat.le_refl _) (fun h => h)

theorem State.startWait_keeps {F : Prop} {b s : State} (h : Keeps F b s) (r : Region) (k : Nat) (w : Wait) :
    Keeps F b (s.startWait r k w) := by
  unfold State.startWait
  try dsimp only
  repeat' (first
    | with_reducible assumption
    | with_reducible apply State.demandDarn_keeps
    | split
    | dsimp only)

theorem State.dropPair_keeps {F : Prop} {b s : State} (h : Keeps F b s) (p : Pair) :
    Keeps F b (s.dropPair p) := by
  unfold State.dropPair
  try dsimp only
  exact Keeps.made h (fun _ => rfl) (fun h => h) (Nat.le_refl _) (fun h => h)

theorem State.roomForPair_keeps {F : Prop} {b s t : State} {i : Fin 16} (h : Keeps F b s)
    (e : s.roomForPair i = some t) : Keeps F b t := by
  unfold State.roomForPair at e
  dsimp only at e
  split at e
  · cases e
    exact h
  · obtain ⟨p, -, rfl⟩ := Option.map_eq_some_iff.1 e
    exact State.dropPair_keeps h p

theorem State.keepRead_keeps {F : Prop} {b s : State} (h : Keeps F b s) (r : Region) (idx tag : Nat) (d : List Byte) :
    Keeps F b (s.keepRead r idx tag d) := by
  unfold State.keepRead
  try dsimp only
  repeat' (first
    | with_reducible assumption
    | refine State.roomForPair_keeps ?_ (by with_reducible assumption)
    | exact fun h => h
    | exact fun _ => rfl
    | exact Nat.le_refl _
    | exact fun w => Mem.write_wf w _ _
    | exact fun _ h => h
    | exact fun _ _ => rfl
    | (intro w; refine Coded.all_map ?_ w; intro p h; first | exact h | (split <;> exact h))
    | exact fun w => Coded.all_filter w
    | (exact fun w => Coded.all_set (by simp [Coded.pairsOk, Coded.opened]) w)
    | (intro k w; simp_all [Coded.pairsOk, Coded.setC, Coded.setS, Coded.modGlove]; done)
    | (with_reducible refine Keeps.foldl (fun s a h => ?_) ?_)
    | (with_reducible refine Keeps.foldlFst (fun s a h => ?_) ?_)
    | (refine Keeps.ofFst (by with_reducible assumption) ?_)
    | split
    | dsimp only
    | with_reducible apply Keeps.made)

theorem State.readPart_keeps {F : Prop} {b s : State} (h : Keeps F b s) (r : Region) (q : Req) (k off n : Nat) :
    Keeps F b (s.readPart r q k off n).1 := by
  unfold State.readPart
  try dsimp only
  repeat' (first
    | with_reducible assumption
    | with_reducible apply State.readCrowned_keeps
    | with_reducible apply State.keepRead_keeps
    | with_reducible apply State.uninitRead_keeps
    | with_reducible apply State.readOneHanded_keeps
    | with_reducible apply State.fetchPass_keeps
    | (with_reducible refine Keeps.foldl (fun s a h => ?_) ?_)
    | (refine Keeps.ofFst (by with_reducible assumption) ?_)
    | split
    | dsimp only)

theorem State.readParts_keeps {F : Prop} {b s : State} (h : Keeps F b s) (r : Region) (q : Req) :
    Keeps F b (s.readParts r q) := by
  unfold State.readParts
  try dsimp only
  repeat' (first
    | with_reducible assumption
    | with_reducible apply State.readPart_keeps
    | with_reducible apply State.emit_keeps
    | exact fun h => h
    | exact fun _ => rfl
    | exact Nat.le_refl _
    | exact fun w => Mem.write_wf w _ _
    | exact fun _ h => h
    | exact fun _ _ => rfl
    | (intro w; refine Coded.all_map ?_ w; intro p h; first | exact h | (split <;> exact h))
    | exact fun w => Coded.all_filter w
    | (exact fun w => Coded.all_set (by simp [Coded.pairsOk, Coded.opened]) w)
    | (intro k w; simp_all [Coded.pairsOk, Coded.setC, Coded.setS, Coded.modGlove]; done)
    | (with_reducible refine Keeps.foldl (fun s a h => ?_) ?_)
    | (with_reducible refine Keeps.foldlFst (fun s a h => ?_) ?_)
    | (refine Keeps.ofFst (by with_reducible assumption) ?_)
    | split
    | dsimp only)

theorem State.countGuard_keeps {F : Prop} {b s : State} (h : Keeps F b s) (q : Req) :
    Keeps F b (s.countGuard q) := by
  unfold State.countGuard
  try dsimp only
  repeat' (first
    | with_reducible assumption
    | with_reducible apply State.modInst_keeps
    | exact fun h => h
    | exact fun _ => rfl
    | exact Nat.le_refl _
    | exact fun w => Mem.write_wf w _ _
    | exact fun _ h => h
    | exact fun _ _ => rfl
    | (intro w; refine Coded.all_map ?_ w; intro p h; first | exact h | (split <;> exact h))
    | exact fun w => Coded.all_filter w
    | (exact fun w => Coded.all_set (by simp [Coded.pairsOk, Coded.opened]) w)
    | (intro k w; simp_all [Coded.pairsOk, Coded.setC, Coded.setS, Coded.modGlove]; done)
    | (with_reducible refine Keeps.foldl (fun s a h => ?_) ?_)
    | (with_reducible refine Keeps.foldlFst (fun s a h => ?_) ?_)
    | (refine Keeps.ofFst (by with_reducible assumption) ?_)
    | split
    | dsimp only)

theorem State.serveRead_keeps {F : Prop} {b s : State} (h : Keeps F b s) (q : Req) :
    Keeps F b (s.serveRead q) := by
  unfold State.serveRead
  try dsimp only
  repeat' (first
    | with_reducible assumption
    | with_reducible apply State.refuse_keeps
    | with_reducible apply State.startWait_keeps
    | with_reducible apply State.holdReq_keeps
    | with_reducible apply State.readParts_keeps
    | split
    | dsimp only)

theorem State.observe_keeps {F : Prop} {b s : State} (h : Keeps F b s) (r : Region) (q : Req) :
    Keeps F b (s.observe r q) := by
  unfold State.observe
  try dsimp only
  repeat' (first
    | with_reducible assumption
    | with_reducible apply State.finalWrite_keeps
    | split
    | dsimp only)

theorem State.writePart_keeps {F : Prop} {b s : State} (h : Keeps F b s) (r : Region) (k off : Nat) (d : List Byte) (ids : List Nat) :
    Keeps F b (s.writePart r k off d ids) := by
  unfold State.writePart
  try dsimp only
  repeat' (first
    | with_reducible assumption
    | with_reducible apply State.emit_keeps
    | with_reducible apply State.storePass_keeps
    | with_reducible apply State.storePage_keeps
    | with_reducible apply State.dropMerge_keeps
    | with_reducible apply State.patchPage_keeps
    | with_reducible apply State.evict_keeps
    | with_reducible apply State.writeCoded_keeps
    | (with_reducible refine Keeps.foldl (fun s a h => ?_) ?_)
    | split
    | dsimp only)

theorem State.writeParts_keeps {F : Prop} {b s : State} (h : Keeps F b s) (r : Region) (q : Req) :
    Keeps F b (s.writeParts r q) := by
  unfold State.writeParts
  try dsimp only
  repeat' (first
    | with_reducible assumption
    | with_reducible apply State.writePart_keeps
    | with_reducible apply State.observe_keeps
    | (with_reducible refine Keeps.foldl (fun s a h => ?_) ?_)
    | dsimp only)

theorem State.pairForWrite_keeps {F : Prop} {b s : State} (h : Keeps F b s) (r : Region) (idx tag : Nat) (force : Bool) :
    Keeps F b (s.pairForWrite r idx tag force).1 := by
  unfold State.pairForWrite
  have g := State.crownedHand_keeps h r idx
  split
  · rename_i e
    exact Keeps.ofFst e g
  · rename_i e
    replace g := Keeps.ofFst e g
    split
    · exact g
    · split
      · exact g
      · split
        · exact g
        · dsimp only
          split
          · exact g
          · rename_i t e
            have k : Keeps F b t := by
              split at e
              · cases e
                exact g
              · exact State.roomForPair_keeps g e
            replace k := State.crownedOrZero_keeps k r idx
            split
            · rename_i e
              exact Keeps.ofFst e k
            · rename_i e
              replace k := Keeps.ofFst e k
              exact Keeps.made (State.modInst_keeps k _ _) (fun _ => rfl) (fun h => h) (Nat.le_refl _) (fun h => h)

theorem State.endGap_keeps {F : Prop} {b s : State} (h : Keeps F b s) :
    Keeps F b (s.endGap) := by
  unfold State.endGap
  try dsimp only
  repeat' (first
    | with_reducible assumption
    | with_reducible apply State.modCu_keeps
    | exact fun _ => rfl
    | split
    | dsimp only)

theorem State.mergeOpen_keeps {F : Prop} {b s : State} (h : Keeps F b s) (r : Region) (k off : Nat) (d : List Byte) :
    Keeps F b (s.mergeOpen r k off d) := by
  unfold State.mergeOpen
  try dsimp only
  repeat' (first
    | with_reducible assumption
    | with_reducible apply State.dropMerge_keeps
    | with_reducible apply State.storePage_keeps
    | with_reducible apply State.mergeInto_keeps
    | with_reducible apply State.evictOpen_keeps
    | exact fun h => h
    | exact fun _ => rfl
    | exact Nat.le_refl _
    | exact fun w => Mem.write_wf w _ _
    | exact fun _ h => h
    | exact fun _ _ => rfl
    | (intro w; refine Coded.all_map ?_ w; intro p h; first | exact h | (split <;> exact h))
    | exact fun w => Coded.all_filter w
    | (exact fun w => Coded.all_set (by simp [Coded.pairsOk, Coded.opened]) w)
    | (intro k w; simp_all [Coded.pairsOk, Coded.setC, Coded.setS, Coded.modGlove]; done)
    | (with_reducible refine Keeps.foldl (fun s a h => ?_) ?_)
    | (with_reducible refine Keeps.foldlFst (fun s a h => ?_) ?_)
    | (refine Keeps.ofFst (by with_reducible assumption) ?_)
    | split
    | dsimp only)

theorem State.writeOpen_keeps {F : Prop} {b s : State} (h : Keeps F b s) (r : Region) (idx off : Nat) (d : List Byte) (p : Pair) :
    Keeps F b (s.writeOpen r idx off d p) := by
  unfold State.writeOpen
  try dsimp only
  repeat' (first
    | with_reducible assumption
    | with_reducible apply State.endGap_keeps
    | with_reducible apply State.modStitch_keeps
    | with_reducible apply State.crownedHand_keeps
    | with_reducible apply State.mergeOpen_keeps
    | with_reducible apply State.formReady_keeps
    | exact fun h => h
    | exact fun _ => rfl
    | exact Nat.le_refl _
    | exact fun w => Mem.write_wf w _ _
    | exact fun _ h => h
    | exact fun _ _ => rfl
    | (intro w; refine Coded.all_map ?_ w; intro p h; first | exact h | (split <;> exact h))
    | exact fun w => Coded.all_filter w
    | (exact fun w => Coded.all_set (by simp [Coded.pairsOk, Coded.opened]) w)
    | (intro k w; simp_all [Coded.pairsOk, Coded.setC, Coded.setS, Coded.modGlove]; done)
    | (with_reducible refine Keeps.foldl (fun s a h => ?_) ?_)
    | (with_reducible refine Keeps.foldlFst (fun s a h => ?_) ?_)
    | (refine Keeps.ofFst (by with_reducible assumption) ?_)
    | split
    | dsimp only
    | with_reducible apply Keeps.made)

theorem State.writePalm_keeps {F : Prop} {b s : State} (h : Keeps F b s) (r : Region) (q : Req) (force again : Bool) :
    Keeps F b (s.writePalm r q force again) := by
  unfold State.writePalm
  try dsimp only
  repeat' (first
    | with_reducible assumption
    | with_reducible apply State.refuse_keeps
    | with_reducible apply State.pairForWrite_keeps
    | with_reducible apply State.spoilStep_keeps
    | with_reducible apply State.holdReq_keeps
    | with_reducible apply State.raise_keeps
    | with_reducible apply State.emit_keeps
    | with_reducible apply State.observe_keeps
    | with_reducible apply State.writeOpen_keeps
    | exact fun h => h
    | exact fun _ => rfl
    | exact Nat.le_refl _
    | exact fun w => Mem.write_wf w _ _
    | exact fun _ h => h
    | exact fun _ _ => rfl
    | (intro w; refine Coded.all_map ?_ w; intro p h; first | exact h | (split <;> exact h))
    | exact fun w => Coded.all_filter w
    | (exact fun w => Coded.all_set (by simp [Coded.pairsOk, Coded.opened]) w)
    | (intro k w; simp_all [Coded.pairsOk, Coded.setC, Coded.setS, Coded.modGlove]; done)
    | (with_reducible refine Keeps.foldl (fun s a h => ?_) ?_)
    | (with_reducible refine Keeps.foldlFst (fun s a h => ?_) ?_)
    | (refine Keeps.ofFst (by with_reducible assumption) ?_)
    | split
    | dsimp only)

theorem State.serveWrite_keeps {F : Prop} {b s : State} (h : Keeps F b s) (q : Req) (again : Bool) :
    Keeps F b (s.serveWrite q again) := by
  unfold State.serveWrite
  try dsimp only
  repeat' (first
    | with_reducible assumption
    | with_reducible apply State.refuse_keeps
    | with_reducible apply State.startWait_keeps
    | with_reducible apply State.holdReq_keeps
    | with_reducible apply State.writePalm_keeps
    | with_reducible apply State.writeParts_keeps
    | split
    | dsimp only)

theorem State.serveHeld_keeps {F : Prop} {b s : State} (h : Keeps F b s) (h' : Held) :
    Keeps F b (s.serveHeld h') := by
  unfold State.serveHeld
  try dsimp only
  repeat' (first
    | with_reducible assumption
    | with_reducible apply State.serveWrite_keeps
    | with_reducible apply State.serveRead_keeps
    | split
    | dsimp only)

theorem State.retryHeld_keeps {F : Prop} {b s : State} (h : Keeps F b s) (why : Wait → Bool) :
    Keeps F b (s.retryHeld why) := by
  unfold State.retryHeld
  try dsimp only
  repeat' (first
    | with_reducible assumption
    | with_reducible apply State.serveHeld_keeps
    | exact fun h => h
    | exact fun _ => rfl
    | exact Nat.le_refl _
    | exact fun w => Mem.write_wf w _ _
    | exact fun _ h => h
    | exact fun _ _ => rfl
    | (intro w; refine Coded.all_map ?_ w; intro p h; first | exact h | (split <;> exact h))
    | exact fun w => Coded.all_filter w
    | (exact fun w => Coded.all_set (by simp [Coded.pairsOk, Coded.opened]) w)
    | (intro k w; simp_all [Coded.pairsOk, Coded.setC, Coded.setS, Coded.modGlove]; done)
    | (with_reducible refine Keeps.foldl (fun s a h => ?_) ?_)
    | (with_reducible refine Keeps.foldlFst (fun s a h => ?_) ?_)
    | (refine Keeps.ofFst (by with_reducible assumption) ?_)
    | split
    | dsimp only
    | with_reducible apply Keeps.made)

theorem State.releaseFills_keeps {F : Prop} {b s : State} (h : Keeps F b s) :
    Keeps F b (s.releaseFills) := by
  unfold State.releaseFills
  try dsimp only
  repeat' (first
    | with_reducible assumption
    | with_reducible apply State.serveHeld_keeps
    | exact fun h => h
    | exact fun _ => rfl
    | exact Nat.le_refl _
    | exact fun w => Mem.write_wf w _ _
    | exact fun _ h => h
    | exact fun _ _ => rfl
    | (intro w; refine Coded.all_map ?_ w; intro p h; first | exact h | (split <;> exact h))
    | exact fun w => Coded.all_filter w
    | (exact fun w => Coded.all_set (by simp [Coded.pairsOk, Coded.opened]) w)
    | (intro k w; simp_all [Coded.pairsOk, Coded.setC, Coded.setS, Coded.modGlove]; done)
    | (with_reducible refine Keeps.foldl (fun s a h => ?_) ?_)
    | (with_reducible refine Keeps.foldlFst (fun s a h => ?_) ?_)
    | (refine Keeps.ofFst (by with_reducible assumption) ?_)
    | split
    | dsimp only
    | with_reducible apply Keeps.made)

theorem State.applyHeldWrite_keeps {F : Prop} {b s : State} (h : Keeps F b s) (i : Fin 16) :
    Keeps F b (s.applyHeldWrite i) := by
  unfold State.applyHeldWrite
  try dsimp only
  repeat' (first
    | with_reducible assumption
    | refine State.roomForPair_keeps ?_ (by with_reducible assumption)
    | with_reducible apply State.serveWrite_keeps
    | exact fun h => h
    | exact fun _ => rfl
    | exact Nat.le_refl _
    | exact fun w => Mem.write_wf w _ _
    | exact fun _ h => h
    | exact fun _ _ => rfl
    | (intro w; refine Coded.all_map ?_ w; intro p h; first | exact h | (split <;> exact h))
    | exact fun w => Coded.all_filter w
    | (exact fun w => Coded.all_set (by simp [Coded.pairsOk, Coded.opened]) w)
    | (intro k w; simp_all [Coded.pairsOk, Coded.setC, Coded.setS, Coded.modGlove]; done)
    | (with_reducible refine Keeps.foldl (fun s a h => ?_) ?_)
    | (with_reducible refine Keeps.foldlFst (fun s a h => ?_) ?_)
    | (refine Keeps.ofFst (by with_reducible assumption) ?_)
    | split
    | dsimp only
    | with_reducible apply Keeps.made)

theorem State.applyPairingWrites_keeps {F : Prop} {b s : State} (h : Keeps F b s) (ctx : Nat) :
    Keeps F b (s.applyPairingWrites ctx) := by
  unfold State.applyPairingWrites
  try dsimp only
  repeat' (first
    | with_reducible assumption
    | with_reducible apply State.writePalm_keeps
    | exact fun h => h
    | exact fun _ => rfl
    | exact Nat.le_refl _
    | exact fun w => Mem.write_wf w _ _
    | exact fun _ h => h
    | exact fun _ _ => rfl
    | (intro w; refine Coded.all_map ?_ w; intro p h; first | exact h | (split <;> exact h))
    | exact fun w => Coded.all_filter w
    | (exact fun w => Coded.all_set (by simp [Coded.pairsOk, Coded.opened]) w)
    | (intro k w; simp_all [Coded.pairsOk, Coded.setC, Coded.setS, Coded.modGlove]; done)
    | (with_reducible refine Keeps.foldl (fun s a h => ?_) ?_)
    | (with_reducible refine Keeps.foldlFst (fun s a h => ?_) ?_)
    | (refine Keeps.ofFst (by with_reducible assumption) ?_)
    | split
    | dsimp only
    | with_reducible apply Keeps.made)

theorem State.refuseHeldWrites_keeps {F : Prop} {b s : State} (h : Keeps F b s) (ctx : Nat) :
    Keeps F b (s.refuseHeldWrites ctx) := by
  unfold State.refuseHeldWrites
  try dsimp only
  repeat' (first
    | with_reducible assumption
    | with_reducible apply State.refuse_keeps
    | exact fun h => h
    | exact fun _ => rfl
    | exact Nat.le_refl _
    | exact fun w => Mem.write_wf w _ _
    | exact fun _ h => h
    | exact fun _ _ => rfl
    | (intro w; refine Coded.all_map ?_ w; intro p h; first | exact h | (split <;> exact h))
    | exact fun w => Coded.all_filter w
    | (exact fun w => Coded.all_set (by simp [Coded.pairsOk, Coded.opened]) w)
    | (intro k w; simp_all [Coded.pairsOk, Coded.setC, Coded.setS, Coded.modGlove]; done)
    | (with_reducible refine Keeps.foldl (fun s a h => ?_) ?_)
    | (with_reducible refine Keeps.foldlFst (fun s a h => ?_) ?_)
    | (refine Keeps.ofFst (by with_reducible assumption) ?_)
    | split
    | dsimp only
    | with_reducible apply Keeps.made)

theorem State.bufferRead_keeps {F : Prop} {b s : State} (h : Keeps F b s) (ctx a n : Nat) :
    Keeps F b (s.bufferRead ctx a n).1 := by
  unfold State.bufferRead
  try dsimp only
  repeat' (first
    | with_reducible assumption
    | with_reducible apply State.fillTo_keeps
    | with_reducible apply State.readPart_keeps
    | exact fun h => h
    | exact fun _ => rfl
    | exact Nat.le_refl _
    | exact fun w => Mem.write_wf w _ _
    | exact fun _ h => h
    | exact fun _ _ => rfl
    | (intro w; refine Coded.all_map ?_ w; intro p h; first | exact h | (split <;> exact h))
    | exact fun w => Coded.all_filter w
    | (exact fun w => Coded.all_set (by simp [Coded.pairsOk, Coded.opened]) w)
    | (intro k w; simp_all [Coded.pairsOk, Coded.setC, Coded.setS, Coded.modGlove]; done)
    | (with_reducible refine Keeps.foldl (fun s a h => ?_) ?_)
    | (with_reducible refine Keeps.foldlFst (fun s a h => ?_) ?_)
    | (refine Keeps.ofFst (by with_reducible assumption) ?_)
    | split
    | dsimp only)

theorem State.bufferWrite_keeps {F : Prop} {b s : State} (h : Keeps F b s) (a : Nat) (data : List Byte) :
    Keeps F b (s.bufferWrite a data) := by
  unfold State.bufferWrite
  try dsimp only
  repeat' (first
    | with_reducible assumption
    | with_reducible apply State.fillTo_keeps
    | with_reducible apply State.access_keeps
    | with_reducible apply State.writePart_keeps
    | (with_reducible refine Keeps.foldl (fun s a h => ?_) ?_)
    | split
    | dsimp only)

theorem State.checkBank_keeps {F : Prop} {b s : State} (h : Keeps F b s) (ctx : Nat) (x2 : List (Nat × List Byte)) :
    Keeps F b (s.checkBank ctx x2).1 := by
  unfold State.checkBank
  try dsimp only
  repeat' (first
    | with_reducible assumption
    | with_reducible apply State.raise_keeps
    | exact fun h => h
    | exact fun _ => rfl
    | exact Nat.le_refl _
    | exact fun w => Mem.write_wf w _ _
    | exact fun _ h => h
    | exact fun _ _ => rfl
    | (intro w; refine Coded.all_map ?_ w; intro p h; first | exact h | (split <;> exact h))
    | exact fun w => Coded.all_filter w
    | (exact fun w => Coded.all_set (by simp [Coded.pairsOk, Coded.opened]) w)
    | (intro k w; simp_all [Coded.pairsOk, Coded.setC, Coded.setS, Coded.modGlove]; done)
    | (with_reducible refine Keeps.foldl (fun s a h => ?_) ?_)
    | (with_reducible refine Keeps.foldlFst (fun s a h => ?_) ?_)
    | (refine Keeps.ofFst (by with_reducible assumption) ?_)
    | split
    | dsimp only)

theorem State.statusFault_keeps {F : Prop} {b s : State} (h : Keeps F b s) (ctx status : Nat) (f : FaultInfo) :
    Keeps F b (s.statusFault ctx status f) := by
  unfold State.statusFault
  try dsimp only
  repeat' (first
    | with_reducible assumption
    | with_reducible apply State.raise_keeps
    | with_reducible apply State.skewFault_keeps
    | split
    | dsimp only)

theorem State.slotSeal_keeps {F : Prop} {b s : State} (h : Keeps F b s) (ctx : Nat) (h' : HbGroup) (slot : Bool) :
    Keeps F b (s.slotSeal ctx h' slot).1 := by
  unfold State.slotSeal
  try dsimp only
  repeat' (first
    | with_reducible assumption
    | with_reducible apply State.fetchPage_keeps
    | with_reducible apply State.uninitRead_keeps
    | (with_reducible refine Keeps.foldl (fun s a h => ?_) ?_)
    | (refine Keeps.ofFst (by with_reducible assumption) ?_)
    | split
    | dsimp only)

theorem State.pieceAt_keeps {F : Prop} {b s : State} (h : Keeps F b s) (ctx : Nat) (k : Coded) (pos : Nat) :
    Keeps F b (s.pieceAt ctx k pos).1 := by
  unfold State.pieceAt
  try dsimp only
  repeat' (first
    | with_reducible assumption
    | with_reducible apply State.crownedOrZero_keeps
    | (with_reducible refine Keeps.foldl (fun s a h => ?_) ?_)
    | (refine Keeps.ofFst (by with_reducible assumption) ?_)
    | split
    | dsimp only)

theorem State.modCopy_keeps {F : Prop} {b s : State} (h : Keeps F b s) (ctx : Nat) (f : HbCopy → HbCopy) :
    Keeps F b (s.modCopy ctx f) := by
  unfold State.modCopy
  try dsimp only
  repeat' (first
    | with_reducible assumption
    | with_reducible apply State.modCoded_keeps
    | exact fun h => h
    | exact fun _ h => h
    | split
    | dsimp only)

theorem State.dropHbSent_keeps {F : Prop} {b s : State} (h : Keeps F b s) (ctx : Nat) :
    Keeps F b (s.dropHbSent ctx) := by
  unfold State.dropHbSent
  try dsimp only
  repeat' (first
    | with_reducible assumption
    | with_reducible apply State.dropQueued_keeps
    | with_reducible apply State.dropSent_keeps)

theorem State.abandonCopy_keeps {F : Prop} {b s : State} (h : Keeps F b s) (ctx cause member : Nat) :
    Keeps F b (s.abandonCopy ctx cause member) := by
  unfold State.abandonCopy
  try dsimp only
  repeat' (first
    | with_reducible assumption
    | with_reducible apply State.modCoded_keeps
    | with_reducible apply State.dropHbSent_keeps
    | with_reducible apply State.raise_keeps
    | with_reducible apply State.send_keeps
    | with_reducible apply State.endJobs_keeps
    | exact fun h => h
    | exact fun _ => rfl
    | exact Nat.le_refl _
    | exact fun w => Mem.write_wf w _ _
    | exact fun _ h => h
    | exact fun _ _ => rfl
    | (intro w; refine Coded.all_map ?_ w; intro p h; first | exact h | (split <;> exact h))
    | exact fun w => Coded.all_filter w
    | (exact fun w => Coded.all_set (by simp [Coded.pairsOk, Coded.opened]) w)
    | (intro k w; simp_all [Coded.pairsOk, Coded.setC, Coded.setS, Coded.modGlove]; done)
    | (with_reducible refine Keeps.foldl (fun s a h => ?_) ?_)
    | (with_reducible refine Keeps.foldlFst (fun s a h => ?_) ?_)
    | (refine Keeps.ofFst (by with_reducible assumption) ?_)
    | split
    | dsimp only)

theorem State.startHatbox_keeps {F : Prop} {b s : State} (h : Keeps F b s) (ctx : Nat) (slot : Bool) (t' : Nat) :
    Keeps F b (s.startHatbox ctx slot t') := by
  unfold State.startHatbox
  try dsimp only
  repeat' (first
    | with_reducible assumption
    | with_reducible apply State.modCoded_keeps
    | with_reducible apply State.storePage_keeps
    | exact fun h => h
    | exact fun _ => rfl
    | exact Nat.le_refl _
    | exact fun w => Mem.write_wf w _ _
    | exact fun _ h => h
    | exact fun _ _ => rfl
    | (intro w; refine Coded.all_map ?_ w; intro p h; first | exact h | (split <;> exact h))
    | exact fun w => Coded.all_filter w
    | (exact fun w => Coded.all_set (by simp [Coded.pairsOk, Coded.opened]) w)
    | (intro k w; simp_all [Coded.pairsOk, Coded.setC, Coded.setS, Coded.modGlove]; done)
    | (with_reducible refine Keeps.foldl (fun s a h => ?_) ?_)
    | (with_reducible refine Keeps.foldlFst (fun s a h => ?_) ?_)
    | (refine Keeps.ofFst (by with_reducible assumption) ?_)
    | split
    | dsimp only
    | with_reducible apply Keeps.made)

theorem State.checkQuorum_keeps {F : Prop} {b s : State} (h : Keeps F b s) (ctx : Nat) :
    Keeps F b (s.checkQuorum ctx) := by
  unfold State.checkQuorum
  try dsimp only
  repeat' (first
    | with_reducible assumption
    | with_reducible apply State.modCoded_keeps
    | with_reducible apply State.modCopy_keeps
    | with_reducible apply State.endJobs_keeps
    | exact fun h => h
    | exact fun _ h => h
    | split
    | dsimp only)

theorem State.hatboxLink_keeps {F : Prop} {b s : State} (h : Keeps F b s) (ctx : Nat) (h' : HbGroup) (stripe j step : Nat) (data : List Byte) (tag : Word) (prev : List Byte) (acc : Word) :
    Keeps F b (s.hatboxLink ctx h' stripe j step data tag prev acc) := by
  unfold State.hatboxLink
  try dsimp only
  repeat' (first
    | with_reducible assumption
    | with_reducible apply State.checked_keeps
    | with_reducible apply State.sendRanked_keeps
    | (with_reducible refine Keeps.foldl (fun s a h => ?_) ?_)
    | (refine Keeps.ofFst (by with_reducible assumption) ?_)
    | split
    | dsimp only)

theorem State.copyPiece_keeps {F : Prop} {b s : State} (h : Keeps F b s) (ctx : Nat) :
    Keeps F b (s.copyPiece ctx) := by
  unfold State.copyPiece
  try dsimp only
  repeat' (first
    | with_reducible assumption
    | with_reducible apply State.storePage_keeps
    | with_reducible apply State.modCopy_keeps
    | with_reducible apply State.hatboxLink_keeps
    | with_reducible apply State.useGroup_keeps
    | with_reducible apply State.pieceAt_keeps
    | with_reducible apply State.demandDarn_keeps
    | with_reducible apply State.abandonCopy_keeps
    | (with_reducible refine Keeps.foldl (fun s a h => ?_) ?_)
    | (refine Keeps.ofFst (by with_reducible assumption) ?_)
    | split
    | dsimp only)

theorem State.copiedPiece_keeps {F : Prop} {b s : State} (h : Keeps F b s) (ctx : Nat) (h' : HbGroup) (k : Coded) (c : HbCopy) (pos : Nat) :
    Keeps F b (s.copiedPiece ctx h' k c pos).1 := by
  unfold State.copiedPiece
  try dsimp only
  repeat' (first
    | with_reducible assumption
    | with_reducible apply State.readPiece_keeps
    | with_reducible apply State.pieceAt_keeps
    | exact fun h => h
    | exact fun _ => rfl
    | exact Nat.le_refl _
    | exact fun w => Mem.write_wf w _ _
    | exact fun _ h => h
    | exact fun _ _ => rfl
    | (intro w; refine Coded.all_map ?_ w; intro p h; first | exact h | (split <;> exact h))
    | exact fun w => Coded.all_filter w
    | (exact fun w => Coded.all_set (by simp [Coded.pairsOk, Coded.opened]) w)
    | (intro k w; simp_all [Coded.pairsOk, Coded.setC, Coded.setS, Coded.modGlove]; done)
    | (with_reducible refine Keeps.foldl (fun s a h => ?_) ?_)
    | (with_reducible refine Keeps.foldlFst (fun s a h => ?_) ?_)
    | (refine Keeps.ofFst (by with_reducible assumption) ?_)
    | split
    | dsimp only)

theorem State.takeHatboxPart_keeps {F : Prop} {b s : State} (h : Keeps F b s) (w : Wire) :
    Keeps F b (s.takeHatboxPart w).1 := by
  unfold State.takeHatboxPart
  try dsimp only
  repeat' (first
    | with_reducible assumption
    | with_reducible apply State.storePage_keeps
    | with_reducible apply State.modCopy_keeps
    | with_reducible apply State.useGroup_keeps
    | with_reducible apply State.hatboxLink_keeps
    | with_reducible apply State.copiedPiece_keeps
    | with_reducible apply State.demandDarn_keeps
    | with_reducible apply State.abandonCopy_keeps
    | (with_reducible refine Keeps.foldl (fun s a h => ?_) ?_)
    | (refine Keeps.ofFst (by with_reducible assumption) ?_)
    | split
    | dsimp only)

theorem State.writeSeal_keeps {F : Prop} {b s : State} (h : Keeps F b s) (ctx : Nat) :
    Keeps F b (s.writeSeal ctx) := by
  unfold State.writeSeal
  try dsimp only
  repeat' (first
    | with_reducible assumption
    | with_reducible apply State.storePage_keeps
    | with_reducible apply State.modCopy_keeps
    | with_reducible apply State.send_keeps
    | with_reducible apply State.checkQuorum_keeps
    | (with_reducible refine Keeps.foldl (fun s a h => ?_) ?_)
    | split
    | dsimp only)

theorem State.takeSeal_keeps {F : Prop} {b s : State} (h : Keeps F b s) (w : Wire) :
    Keeps F b (s.takeSeal w) := by
  unfold State.takeSeal
  try dsimp only
  repeat' (first
    | with_reducible assumption
    | with_reducible apply State.checkQuorum_keeps
    | with_reducible apply State.modCopy_keeps
    | split
    | dsimp only)

theorem State.modWitness_keeps {F : Prop} {b s : State} (h : Keeps F b s) (ctx w role : Nat) (f : Witness → Witness) :
    Keeps F b (s.modWitness ctx w role f) := by
  unfold State.modWitness
  try dsimp only
  repeat' (first
    | with_reducible assumption
    | with_reducible apply State.modCoded_keeps
    | exact fun h => h
    | exact fun _ h => h
    | split
    | dsimp only)

theorem State.endWitness_keeps {F : Prop} {b s : State} (h : Keeps F b s) (ctx w role status result : Nat) :
    Keeps F b (s.endWitness ctx w role status result) := by
  unfold State.endWitness
  try dsimp only
  repeat' (first
    | with_reducible assumption
    | with_reducible apply State.endJobs_keeps
    | with_reducible apply State.modWitness_keeps
    | exact fun h => h
    | exact fun _ => rfl
    | exact Nat.le_refl _
    | exact fun w => Mem.write_wf w _ _
    | exact fun _ h => h
    | exact fun _ _ => rfl
    | (intro w; refine Coded.all_map ?_ w; intro p h; first | exact h | (split <;> exact h))
    | exact fun w => Coded.all_filter w
    | (exact fun w => Coded.all_set (by simp [Coded.pairsOk, Coded.opened]) w)
    | (intro k w; simp_all [Coded.pairsOk, Coded.setC, Coded.setS, Coded.modGlove]; done)
    | (with_reducible refine Keeps.foldl (fun s a h => ?_) ?_)
    | (with_reducible refine Keeps.foldlFst (fun s a h => ?_) ?_)
    | (refine Keeps.ofFst (by with_reducible assumption) ?_)
    | split
    | dsimp only
    | with_reducible apply Keeps.made)

theorem State.sendDigests_keeps {F : Prop} {b s : State} (h : Keeps F b s) (ctx : Nat) (x : Witness) :
    Keeps F b (s.sendDigests ctx x) := by
  unfold State.sendDigests
  try dsimp only
  repeat' (first
    | with_reducible assumption
    | with_reducible apply State.send_keeps
    | with_reducible apply State.modWitness_keeps
    | split
    | dsimp only)

theorem State.suspectFrozen_keeps {F : Prop} {b s : State} (h : Keeps F b s) (ctx : Nat) :
    Keeps F b (s.suspectFrozen ctx) := by
  unfold State.suspectFrozen
  try dsimp only
  repeat' (first
    | with_reducible assumption
    | with_reducible apply State.sendDigests_keeps
    | with_reducible apply State.endWitness_keeps
    | (with_reducible refine Keeps.foldl (fun s a h => ?_) ?_)
    | split
    | dsimp only)

theorem State.writeReport_keeps {F : Prop} {b s : State} (h : Keeps F b s) (gl : Glove) (x : Witness) (code : Nat) (pages : List Byte × List Byte × List Byte) :
    Keeps F b (s.writeReport gl x code pages) := by
  unfold State.writeReport
  try dsimp only
  repeat' (first
    | with_reducible assumption
    | with_reducible apply State.bufferWrite_keeps)

theorem State.settleWitness_keeps {F : Prop} {b s : State} (h : Keeps F b s) (ctx : Nat) (x : Witness) (code status : Nat) :
    Keeps F b (s.settleWitness ctx x code status) := by
  unfold State.settleWitness
  try dsimp only
  repeat' (first
    | with_reducible assumption
    | with_reducible apply State.writeReport_keeps
    | with_reducible apply State.raise_keeps
    | with_reducible apply State.send_keeps
    | with_reducible apply State.endWitness_keeps
    | with_reducible apply State.modWitness_keeps
    | split
    | dsimp only)

theorem State.tryCompare_keeps {F : Prop} {b s : State} (h : Keeps F b s) (ctx : Nat) :
    Keeps F b (s.tryCompare ctx) := by
  unfold State.tryCompare
  try dsimp only
  repeat' (first
    | with_reducible assumption
    | with_reducible apply State.settleWitness_keeps
    | (with_reducible refine Keeps.foldl (fun s a h => ?_) ?_)
    | split
    | dsimp only)

theorem State.takeWitnessDigest_keeps {F : Prop} {b s : State} (h : Keeps F b s) (w : Wire) :
    Keeps F b (s.takeWitnessDigest w) := by
  unfold State.takeWitnessDigest
  try dsimp only
  repeat' (first
    | with_reducible assumption
    | with_reducible apply State.tryCompare_keeps
    | with_reducible apply State.modWitness_keeps
    | exact fun h => h
    | exact fun _ => rfl
    | exact Nat.le_refl _
    | exact fun w => Mem.write_wf w _ _
    | exact fun _ h => h
    | exact fun _ _ => rfl
    | (intro w; refine Coded.all_map ?_ w; intro p h; first | exact h | (split <;> exact h))
    | exact fun w => Coded.all_filter w
    | (exact fun w => Coded.all_set (by simp [Coded.pairsOk, Coded.opened]) w)
    | (intro k w; simp_all [Coded.pairsOk, Coded.setC, Coded.setS, Coded.modGlove]; done)
    | (with_reducible refine Keeps.foldl (fun s a h => ?_) ?_)
    | (with_reducible refine Keeps.foldlFst (fun s a h => ?_) ?_)
    | (refine Keeps.ofFst (by with_reducible assumption) ?_)
    | split
    | dsimp only
    | with_reducible apply Keeps.made)

theorem State.tellWitness_keeps {F : Prop} {b s : State} (h : Keeps F b s) (ctx : Nat) (x : Witness) (status : Nat) :
    Keeps F b (s.tellWitness ctx x status) := by
  unfold State.tellWitness
  try dsimp only
  repeat' (first
    | with_reducible assumption
    | with_reducible apply State.send_keeps
    | split
    | dsimp only)

theorem State.abortWitness_keeps {F : Prop} {b s : State} (h : Keeps F b s) (ctx status : Nat) :
    Keeps F b (s.abortWitness ctx status) := by
  unfold State.abortWitness
  try dsimp only
  repeat' (first
    | with_reducible assumption
    | with_reducible apply State.endWitness_keeps
    | with_reducible apply State.tellWitness_keeps
    | with_reducible apply State.stopChains_keeps
    | exact fun h => h
    | exact fun _ => rfl
    | exact Nat.le_refl _
    | exact fun w => Mem.write_wf w _ _
    | exact fun _ h => h
    | exact fun _ _ => rfl
    | (intro w; refine Coded.all_map ?_ w; intro p h; first | exact h | (split <;> exact h))
    | exact fun w => Coded.all_filter w
    | (exact fun w => Coded.all_set (by simp [Coded.pairsOk, Coded.opened]) w)
    | (intro k w; simp_all [Coded.pairsOk, Coded.setC, Coded.setS, Coded.modGlove]; done)
    | (with_reducible refine Keeps.foldl (fun s a h => ?_) ?_)
    | (with_reducible refine Keeps.foldlFst (fun s a h => ?_) ?_)
    | (refine Keeps.ofFst (by with_reducible assumption) ?_)
    | split
    | dsimp only)

theorem State.abandonWitness_keeps {F : Prop} {b s : State} (h : Keeps F b s) (ctx w : Nat) :
    Keeps F b (s.abandonWitness ctx w) := by
  unfold State.abandonWitness
  try dsimp only
  repeat' (first
    | with_reducible assumption
    | with_reducible apply State.settleWitness_keeps
    | with_reducible apply State.endWitness_keeps
    | (with_reducible refine Keeps.foldl (fun s a h => ?_) ?_)
    | split
    | dsimp only)

theorem State.fillEnded_keeps {F : Prop} {b s : State} (h : Keeps F b s) (ctx w failed : Nat) :
    Keeps F b (s.fillEnded ctx w failed) := by
  unfold State.fillEnded
  try dsimp only
  repeat' (first
    | with_reducible assumption
    | with_reducible apply State.settleWitness_keeps
    | with_reducible apply State.endWitness_keeps
    | exact fun h => h
    | exact fun _ => rfl
    | exact Nat.le_refl _
    | exact fun w => Mem.write_wf w _ _
    | exact fun _ h => h
    | exact fun _ _ => rfl
    | (intro w; refine Coded.all_map ?_ w; intro p h; first | exact h | (split <;> exact h))
    | exact fun w => Coded.all_filter w
    | (exact fun w => Coded.all_set (by simp [Coded.pairsOk, Coded.opened]) w)
    | (intro k w; simp_all [Coded.pairsOk, Coded.setC, Coded.setS, Coded.modGlove]; done)
    | (with_reducible refine Keeps.foldl (fun s a h => ?_) ?_)
    | (with_reducible refine Keeps.foldlFst (fun s a h => ?_) ?_)
    | (refine Keeps.ofFst (by with_reducible assumption) ?_)
    | split
    | dsimp only
    | with_reducible apply Keeps.made)

theorem State.witnessGone_keeps {F : Prop} {b s : State} (h : Keeps F b s) (ctx : Nat) (at' : Coord) :
    Keeps F b (s.witnessGone ctx at') := by
  unfold State.witnessGone
  try dsimp only
  repeat' (first
    | with_reducible assumption
    | with_reducible apply State.settleWitness_keeps
    | with_reducible apply State.endWitness_keeps
    | (with_reducible refine Keeps.foldl (fun s a h => ?_) ?_)
    | split
    | dsimp only)

theorem State.modTest_keeps {F : Prop} {b s : State} (h : Keeps F b s) (i : Fin 16) (f : Test → Test) :
    Keeps F b (s.modTest i f) := by
  unfold State.modTest
  try dsimp only
  repeat' (first
    | with_reducible assumption
    | with_reducible apply State.modInst_keeps)

theorem State.writeOut_keeps {F : Prop} {b s : State} (h : Keeps F b s) (i : Fin 16) :
    Keeps F b (s.writeOut i) := by
  unfold State.writeOut
  try dsimp only
  repeat' (first
    | with_reducible assumption
    | with_reducible apply State.evict_keeps
    | (with_reducible refine Keeps.foldl (fun s a h => ?_) ?_)
    | dsimp only)

theorem State.startTest_keeps {F : Prop} {b s : State} (h : Keeps F b s) (i : Fin 16) :
    Keeps F b (s.startTest i) := by
  unfold State.startTest
  try dsimp only
  repeat' (first
    | with_reducible assumption
    | with_reducible apply State.writeOut_keeps
    | with_reducible apply State.modTest_keeps
    | split
    | dsimp only)

theorem State.startFree_keeps {F : Prop} {b s : State} (h : Keeps F b s) :
    Keeps F b (s.startFree) := by
  unfold State.startFree
  try dsimp only
  repeat' (first
    | with_reducible assumption
    | with_reducible apply State.startTest_keeps
    | (with_reducible refine Keeps.foldl (fun s a h => ?_) ?_)
    | split
    | dsimp only)

theorem State.testGap_keeps {F : Prop} {b s : State} (h : Keeps F b s) :
    Keeps F b (s.testGap) := by
  unfold State.testGap
  try dsimp only
  repeat' (first
    | with_reducible assumption
    | with_reducible apply State.startTest_keeps
    | with_reducible apply State.modTest_keeps
    | (with_reducible refine Keeps.foldl (fun s a h => ?_) ?_)
    | split
    | dsimp only)

theorem State.startOverdue_keeps {F : Prop} {b s : State} (h : Keeps F b s) :
    Keeps F b (s.startOverdue) := by
  unfold State.startOverdue
  try dsimp only
  repeat' (first
    | with_reducible assumption
    | with_reducible apply State.startTest_keeps
    | (with_reducible refine Keeps.foldl (fun s a h => ?_) ?_)
    | dsimp only)

theorem State.abandonTests_keeps {F : Prop} {b s : State} (h : Keeps F b s) :
    Keeps F b (s.abandonTests) := by
  unfold State.abandonTests
  try dsimp only
  repeat' (first
    | with_reducible assumption
    | with_reducible apply State.modInsts_keeps
    | with_reducible apply State.retryHeld_keeps)

end Sys2Proof.Machine
end

