-- ==== Sys2Proof/Laws/KeepsCrown.lean ====
section
/-! SUPPORT. Each operation of Crown, Collective, Contexts leaves the queue, the clock and the fuses alone, and keeps memory's
canonical form and the complement pairs. -/

namespace Sys2Proof.Machine

theorem State.beginDiscard_keeps {F : Prop} {b s : State} (h : Keeps F b s) (ctx stamp : Nat) :
    Keeps F b (s.beginDiscard ctx stamp) := by
  unfold State.beginDiscard
  try dsimp only
  repeat' (first
    | with_reducible assumption
    | with_reducible apply State.modCoded_keeps
    | with_reducible apply State.dropSent_keeps
    | with_reducible apply State.refuseHeldWrites_keeps
    | with_reducible apply State.endJobs_keeps
    | with_reducible apply State.abortWitness_keeps
    | exact fun h => h
    | exact fun _ => rfl
    | exact Nat.le_refl _
    | exact fun w => Mem.write_wf w _ _
    | exact fun _ h => h
    | exact fun _ _ => rfl
    | (intro w; refine Coded.all_map ?_ w; intro p h; first | exact h | (split <;> exact h))
    | exact fun w => Coded.all_filter w
    | (exact fun w => Coded.all_set (by simp [Coded.pairsOk, Coded.opened]) w)
    | (intro k w; simp_all [Coded.pairsOk, Coded.setC, Coded.setS, Coded.modGlove]; done)
    | (with_reducible refine Keeps.foldl (fun s a h => ?_) ?_)
    | (with_reducible refine Keeps.foldlFst (fun s a h => ?_) ?_)
    | (refine Keeps.ofFst (by with_reducible assumption) ?_)
    | split
    | dsimp only
    | with_reducible apply Keeps.made)

theorem State.finishDiscard_keeps {F : Prop} {b s : State} (h : Keeps F b s) (ctx : Nat) :
    Keeps F b (s.finishDiscard ctx) := by
  unfold State.finishDiscard
  try dsimp only
  repeat' (first
    | with_reducible assumption
    | with_reducible apply State.discardWeights_keeps
    | with_reducible apply State.discardOpen_keeps
    | with_reducible apply State.modCoded_keeps
    | with_reducible apply State.endJobs_keeps
    | with_reducible apply State.retryDeltas_keeps
    | exact fun h => h
    | exact fun _ h => h
    | split
    | dsimp only)

theorem State.opStepOpen_keeps {F : Prop} {b s : State} (h : Keeps F b s) (c : Cmd) :
    Keeps F b (s.opStepOpen c) := by
  unfold State.opStepOpen
  try dsimp only
  repeat' (first
    | with_reducible assumption
    | with_reducible apply State.post_keeps
    | with_reducible apply State.badParam_keeps
    | with_reducible apply State.modCu_keeps
    | with_reducible apply State.modCoded_keeps
    | with_reducible apply State.restartRooted_keeps
    | exact fun h => h
    | exact fun _ => rfl
    | exact Nat.le_refl _
    | exact fun w => Mem.write_wf w _ _
    | exact fun _ h => h
    | exact fun _ _ => rfl
    | (intro w; refine Coded.all_map ?_ w; intro p h; first | exact h | (split <;> exact h))
    | exact fun w => Coded.all_filter w
    | (exact fun w => Coded.all_set (by simp [Coded.pairsOk, Coded.opened]) w)
    | (intro k w; simp_all [Coded.pairsOk, Coded.setC, Coded.setS, Coded.modGlove]; done)
    | (with_reducible refine Keeps.foldl (fun s a h => ?_) ?_)
    | (with_reducible refine Keeps.foldlFst (fun s a h => ?_) ?_)
    | (refine Keeps.ofFst (by with_reducible assumption) ?_)
    | split
    | dsimp only)

theorem State.opDrainClose_keeps {F : Prop} {b s : State} (h : Keeps F b s) (c : Cmd) :
    Keeps F b (s.opDrainClose c) := by
  unfold State.opDrainClose
  try dsimp only
  repeat' (first
    | with_reducible assumption
    | with_reducible apply State.post_keeps
    | with_reducible apply State.badParam_keeps
    | with_reducible apply State.applyPairingWrites_keeps
    | with_reducible apply State.modCoded_keeps
    | with_reducible apply State.hold_keeps
    | with_reducible apply State.formAll_keeps
    | exact fun h => h
    | exact fun _ => rfl
    | exact Nat.le_refl _
    | exact fun w => Mem.write_wf w _ _
    | exact fun _ h => h
    | exact fun _ _ => rfl
    | (intro w; refine Coded.all_map ?_ w; intro p h; first | exact h | (split <;> exact h))
    | exact fun w => Coded.all_filter w
    | (exact fun w => Coded.all_set (by simp [Coded.pairsOk, Coded.opened]) w)
    | (intro k w; simp_all [Coded.pairsOk, Coded.setC, Coded.setS, Coded.modGlove]; done)
    | (with_reducible refine Keeps.foldl (fun s a h => ?_) ?_)
    | (with_reducible refine Keeps.foldlFst (fun s a h => ?_) ?_)
    | (refine Keeps.ofFst (by with_reducible assumption) ?_)
    | split
    | dsimp only
    | with_reducible apply Keeps.made)

theorem State.castVote_keeps {F : Prop} {b s : State} (h : Keeps F b s) (ctx : Nat) (gl : Glove) (verdict : Verdict) (status : Nat) :
    Keeps F b (s.castVote ctx gl verdict status) := by
  unfold State.castVote
  try dsimp only
  repeat' (first
    | with_reducible assumption
    | with_reducible apply State.suspectFrozen_keeps
    | with_reducible apply State.rootFaults_keeps
    | with_reducible apply State.freezeRooted_keeps
    | with_reducible apply State.modCoded_keeps
    | with_reducible apply State.beginDiscard_keeps
    | exact fun h => h
    | exact fun _ h => h
    | split
    | dsimp only)

theorem State.tryCast_keeps {F : Prop} {b s : State} (h : Keeps F b s) (ctx : Nat) :
    Keeps F b (s.tryCast ctx) := by
  unfold State.tryCast
  try dsimp only
  repeat' (first
    | with_reducible assumption
    | with_reducible apply State.castVote_keeps
    | split
    | dsimp only)

theorem State.sendDown_keeps {F : Prop} {b s : State} (h : Keeps F b s) (ctx : Nat) (gl : Glove) (v : CrownVote) (x4 : Block) :
    Keeps F b (s.sendDown ctx gl v x4) := by
  unfold State.sendDown
  try dsimp only
  repeat' (first
    | with_reducible assumption
    | with_reducible apply State.send_keeps
    | (with_reducible refine Keeps.foldl (fun s a h => ?_) ?_)
    | dsimp only)

theorem State.beginHandover_keeps {F : Prop} {b s : State} (h : Keeps F b s) (ctx : Nat) :
    Keeps F b (s.beginHandover ctx) := by
  unfold State.beginHandover
  try dsimp only
  repeat' (first
    | with_reducible assumption
    | with_reducible apply State.modCoded_keeps
    | exact fun h => h
    | exact fun _ h => h
    | split
    | dsimp only)

theorem State.crownNow_keeps {F : Prop} {b s : State} (h : Keeps F b s) (ctx : Nat) :
    Keeps F b (s.crownNow ctx) := by
  unfold State.crownNow
  try dsimp only
  repeat' (first
    | with_reducible assumption
    | with_reducible apply State.checkSteps_keeps
    | with_reducible apply State.checkBank_keeps
    | with_reducible apply State.modCoded_keeps
    | with_reducible apply State.modCu_keeps
    | with_reducible apply State.crownWeights_keeps
    | with_reducible apply State.endJobs_keeps
    | with_reducible apply State.beginHandover_keeps
    | with_reducible apply State.startHatbox_keeps
    | exact fun h => h
    | exact fun _ => rfl
    | exact Nat.le_refl _
    | exact fun w => Mem.write_wf w _ _
    | exact fun _ h => h
    | exact fun _ _ => rfl
    | (intro w; refine Coded.all_map ?_ w; intro p h; first | exact h | (split <;> exact h))
    | exact fun w => Coded.all_filter w
    | (exact fun w => Coded.all_set (by simp [Coded.pairsOk, Coded.opened]) w)
    | (intro k w; simp_all [Coded.pairsOk, Coded.setC, Coded.setS, Coded.modGlove]; done)
    | (with_reducible refine Keeps.foldl (fun s a h => ?_) ?_)
    | (with_reducible refine Keeps.foldlFst (fun s a h => ?_) ?_)
    | (refine Keeps.ofFst (by with_reducible assumption) ?_)
    | split
    | dsimp only
    | with_reducible apply Keeps.made)

theorem State.checkT_keeps {F : Prop} {b s : State} (h : Keeps F b s) (ctx : Nat) :
    Keeps F b (s.checkT ctx) := by
  unfold State.checkT
  try dsimp only
  repeat' (first
    | with_reducible assumption
    | with_reducible apply State.raise_keeps
    | with_reducible apply State.modCoded_keeps
    | with_reducible apply State.crownNow_keeps
    | exact fun h => h
    | exact fun _ => rfl
    | exact Nat.le_refl _
    | exact fun w => Mem.write_wf w _ _
    | exact fun _ h => h
    | exact fun _ _ => rfl
    | (intro w; refine Coded.all_map ?_ w; intro p h; first | exact h | (split <;> exact h))
    | exact fun w => Coded.all_filter w
    | (exact fun w => Coded.all_set (by simp [Coded.pairsOk, Coded.opened]) w)
    | (intro k w; simp_all [Coded.pairsOk, Coded.setC, Coded.setS, Coded.modGlove]; done)
    | (with_reducible refine Keeps.foldl (fun s a h => ?_) ?_)
    | (with_reducible refine Keeps.foldlFst (fun s a h => ?_) ?_)
    | (refine Keeps.ofFst (by with_reducible assumption) ?_)
    | split
    | dsimp only)

theorem State.checkTs_keeps {F : Prop} {b s : State} (h : Keeps F b s) :
    Keeps F b (s.checkTs) := by
  unfold State.checkTs
  try dsimp only
  repeat' (first
    | with_reducible assumption
    | with_reducible apply State.checkT_keeps
    | exact fun h => h
    | exact fun _ => rfl
    | exact Nat.le_refl _
    | exact fun w => Mem.write_wf w _ _
    | exact fun _ h => h
    | exact fun _ _ => rfl
    | (intro w; refine Coded.all_map ?_ w; intro p h; first | exact h | (split <;> exact h))
    | exact fun w => Coded.all_filter w
    | (exact fun w => Coded.all_set (by simp [Coded.pairsOk, Coded.opened]) w)
    | (intro k w; simp_all [Coded.pairsOk, Coded.setC, Coded.setS, Coded.modGlove]; done)
    | (with_reducible refine Keeps.foldl (fun s a h => ?_) ?_)
    | (with_reducible refine Keeps.foldlFst (fun s a h => ?_) ?_)
    | (refine Keeps.ofFst (by with_reducible assumption) ?_)
    | split
    | dsimp only)

theorem State.crownDue_keeps {F : Prop} {b s : State} (h : Keeps F b s) (ctx : Nat) :
    Keeps F b (s.crownDue ctx) := by
  unfold State.crownDue
  try dsimp only
  repeat' (first
    | with_reducible assumption
    | with_reducible apply State.crownNow_keeps
    | split
    | dsimp only)

theorem State.crownsDue_keeps {F : Prop} {b s : State} (h : Keeps F b s) :
    Keeps F b (s.crownsDue) := by
  unfold State.crownsDue
  try dsimp only
  repeat' (first
    | with_reducible assumption
    | with_reducible apply State.crownDue_keeps
    | exact fun h => h
    | exact fun _ => rfl
    | exact Nat.le_refl _
    | exact fun w => Mem.write_wf w _ _
    | exact fun _ h => h
    | exact fun _ _ => rfl
    | (intro w; refine Coded.all_map ?_ w; intro p h; first | exact h | (split <;> exact h))
    | exact fun w => Coded.all_filter w
    | (exact fun w => Coded.all_set (by simp [Coded.pairsOk, Coded.opened]) w)
    | (intro k w; simp_all [Coded.pairsOk, Coded.setC, Coded.setS, Coded.modGlove]; done)
    | (with_reducible refine Keeps.foldl (fun s a h => ?_) ?_)
    | (with_reducible refine Keeps.foldlFst (fun s a h => ?_) ?_)
    | (refine Keeps.ofFst (by with_reducible assumption) ?_)
    | split
    | dsimp only)

theorem State.sweepStitch_keeps {F : Prop} {b s : State} (h : Keeps F b s) (mark : Bool) (r : Region) (idx : Nat) :
    Keeps F b (s.sweepStitch mark r idx) := by
  unfold State.sweepStitch
  try dsimp only
  repeat' (first
    | with_reducible assumption
    | with_reducible apply State.crownedHand_keeps
    | with_reducible apply State.modStitch_keeps
    | exact fun h => h
    | exact fun _ => rfl
    | exact Nat.le_refl _
    | exact fun w => Mem.write_wf w _ _
    | exact fun _ h => h
    | exact fun _ _ => rfl
    | (intro w; refine Coded.all_map ?_ w; intro p h; first | exact h | (split <;> exact h))
    | exact fun w => Coded.all_filter w
    | (exact fun w => Coded.all_set (by simp [Coded.pairsOk, Coded.opened]) w)
    | (intro k w; simp_all [Coded.pairsOk, Coded.setC, Coded.setS, Coded.modGlove]; done)
    | (with_reducible refine Keeps.foldl (fun s a h => ?_) ?_)
    | (with_reducible refine Keeps.foldlFst (fun s a h => ?_) ?_)
    | (refine Keeps.ofFst (by with_reducible assumption) ?_)
    | split
    | dsimp only)

theorem State.finishSweep_keeps {F : Prop} {b s : State} (h : Keeps F b s) (ctx : Nat) :
    Keeps F b (s.finishSweep ctx) := by
  unfold State.finishSweep
  try dsimp only
  repeat' (first
    | with_reducible assumption
    | with_reducible apply State.writeFolds_keeps
    | with_reducible apply State.sweepStitch_keeps
    | with_reducible apply State.dropSent_keeps
    | with_reducible apply State.modCoded_keeps
    | with_reducible apply State.retryDeltas_keeps
    | with_reducible apply State.testGap_keeps
    | exact fun h => h
    | exact fun _ => rfl
    | exact Nat.le_refl _
    | exact fun w => Mem.write_wf w _ _
    | exact fun _ h => h
    | exact fun _ _ => rfl
    | (intro w; refine Coded.all_map ?_ w; intro p h; first | exact h | (split <;> exact h))
    | exact fun w => Coded.all_filter w
    | (exact fun w => Coded.all_set (by simp [Coded.pairsOk, Coded.opened]) w)
    | (intro k w; simp_all [Coded.pairsOk, Coded.setC, Coded.setS, Coded.modGlove]; done)
    | (with_reducible refine Keeps.foldl (fun s a h => ?_) ?_)
    | (with_reducible refine Keeps.foldlFst (fun s a h => ?_) ?_)
    | (refine Keeps.ofFst (by with_reducible assumption) ?_)
    | split
    | dsimp only)

theorem State.takeAbort_keeps {F : Prop} {b s : State} (h : Keeps F b s) (ctx : Nat) (step : Word) (status member entry time : Nat) :
    Keeps F b (s.takeAbort ctx step status member entry time) := by
  unfold State.takeAbort
  try dsimp only
  repeat' (first
    | with_reducible assumption
    | with_reducible apply State.modCoded_keeps
    | with_reducible apply State.raiseAt_keeps
    | with_reducible apply State.endJobs_keeps
    | with_reducible apply State.beginDiscard_keeps
    | exact fun h => h
    | exact fun _ h => h
    | split
    | dsimp only)

theorem State.takeCrown_keeps {F : Prop} {b s : State} (h : Keeps F b s) (ctx : Nat) (recs : List (Nat × List Byte)) (x3 : Block) :
    Keeps F b (s.takeCrown ctx recs x3) := by
  unfold State.takeCrown
  try dsimp only
  repeat' (first
    | with_reducible assumption
    | with_reducible apply State.modCoded_keeps
    | with_reducible apply State.endJobs_keeps
    | with_reducible apply State.crownNow_keeps
    | with_reducible apply State.startOverdue_keeps
    | exact fun h => h
    | exact fun _ h => h
    | split
    | dsimp only)

theorem State.takeBlock_keeps {F : Prop} {b s : State} (h : Keeps F b s) (ctx : Nat) (recs : List (Nat × List Byte)) (x3 : Block) :
    Keeps F b (s.takeBlock ctx recs x3) := by
  unfold State.takeBlock
  try dsimp only
  repeat' (first
    | with_reducible assumption
    | with_reducible apply State.modCoded_keeps
    | with_reducible apply State.sendDown_keeps
    | with_reducible apply State.takeCrown_keeps
    | with_reducible apply State.takeAbort_keeps
    | exact fun h => h
    | exact fun _ h => h
    | split
    | dsimp only)

theorem State.rootDecide_keeps {F : Prop} {b s : State} (h : Keeps F b s) (ctx : Nat) (k : Coded) (v : CrownVote) (r : VoteRec) :
    Keeps F b (s.rootDecide ctx k v r) := by
  unfold State.rootDecide
  try dsimp only
  repeat' (first
    | with_reducible assumption
    | with_reducible apply State.takeBlock_keeps
    | split
    | dsimp only)

theorem State.pumpVote_keeps {F : Prop} {b s : State} (h : Keeps F b s) (ctx : Nat) :
    Keeps F b (s.pumpVote ctx) := by
  unfold State.pumpVote
  try dsimp only
  repeat' (first
    | with_reducible assumption
    | with_reducible apply State.tryCast_keeps
    | with_reducible apply State.modCoded_keeps
    | with_reducible apply State.rootDecide_keeps
    | with_reducible apply State.send_keeps
    | exact fun h => h
    | exact fun _ h => h
    | split
    | dsimp only)

theorem State.pumpVotes_keeps {F : Prop} {b s : State} (h : Keeps F b s) :
    Keeps F b (s.pumpVotes) := by
  unfold State.pumpVotes
  try dsimp only
  repeat' (first
    | with_reducible assumption
    | with_reducible apply State.pumpVote_keeps
    | (with_reducible refine Keeps.foldl (fun s a h => ?_) ?_)
    | dsimp only)

theorem State.takeVote_keeps {F : Prop} {b s : State} (h : Keeps F b s) (w : Wire) (ctx : Nat) :
    Keeps F b (s.takeVote w ctx) := by
  unfold State.takeVote
  try dsimp only
  repeat' (first
    | with_reducible assumption
    | with_reducible apply State.modCoded_keeps
    | exact fun h => h
    | exact fun _ h => h
    | split
    | dsimp only)

theorem State.seeSkew_keeps {F : Prop} {b s : State} (h : Keeps F b s) (w : Wire) (ctx : Nat) :
    Keeps F b (s.seeSkew w ctx) := by
  unfold State.seeSkew
  try dsimp only
  repeat' (first
    | with_reducible assumption
    | with_reducible apply State.skewFault_keeps
    | with_reducible apply State.modCoded_keeps
    | exact fun h => h
    | exact fun _ h => h
    | split
    | dsimp only)

theorem State.readTable_keeps {F : Prop} {b s : State} (h : Keeps F b s) (ctx a : Nat) :
    Keeps F b (s.readTable ctx a).1 := by
  unfold State.readTable
  try dsimp only
  repeat' (first
    | with_reducible assumption
    | with_reducible apply State.padunRead_keeps
    | (with_reducible refine Keeps.foldl (fun s a h => ?_) ?_)
    | (refine Keeps.ofFst (by with_reducible assumption) ?_)
    | split
    | dsimp only)

theorem State.endCrown_keeps {F : Prop} {b s : State} (h : Keeps F b s) (ctx : Nat) (step : Word) :
    Keeps F b (s.endCrown ctx step) := by
  unfold State.endCrown
  try dsimp only
  repeat' (first
    | with_reducible assumption
    | with_reducible apply State.raise_keeps
    | with_reducible apply State.endJobs_keeps
    | exact fun h => h
    | exact fun _ => rfl
    | exact Nat.le_refl _
    | exact fun w => Mem.write_wf w _ _
    | exact fun _ h => h
    | exact fun _ _ => rfl
    | (intro w; refine Coded.all_map ?_ w; intro p h; first | exact h | (split <;> exact h))
    | exact fun w => Coded.all_filter w
    | (exact fun w => Coded.all_set (by simp [Coded.pairsOk, Coded.opened]) w)
    | (intro k w; simp_all [Coded.pairsOk, Coded.setC, Coded.setS, Coded.modGlove]; done)
    | (with_reducible refine Keeps.foldl (fun s a h => ?_) ?_)
    | (with_reducible refine Keeps.foldlFst (fun s a h => ?_) ?_)
    | (refine Keeps.ofFst (by with_reducible assumption) ?_)
    | split
    | dsimp only)

theorem State.opCrown_keeps {F : Prop} {b s : State} (h : Keeps F b s) (c : Cmd) :
    Keeps F b (s.opCrown c) := by
  unfold State.opCrown
  try dsimp only
  repeat' (first
    | with_reducible assumption
    | with_reducible apply State.post_keeps
    | with_reducible apply State.badParam_keeps
    | with_reducible apply State.readTable_keeps
    | with_reducible apply State.endCrown_keeps
    | with_reducible apply State.hold_keeps
    | with_reducible apply State.modCoded_keeps
    | exact fun h => h
    | exact fun _ => rfl
    | exact Nat.le_refl _
    | exact fun w => Mem.write_wf w _ _
    | exact fun _ h => h
    | exact fun _ _ => rfl
    | (intro w; refine Coded.all_map ?_ w; intro p h; first | exact h | (split <;> exact h))
    | exact fun w => Coded.all_filter w
    | (exact fun w => Coded.all_set (by simp [Coded.pairsOk, Coded.opened]) w)
    | (intro k w; simp_all [Coded.pairsOk, Coded.setC, Coded.setS, Coded.modGlove]; done)
    | (with_reducible refine Keeps.foldl (fun s a h => ?_) ?_)
    | (with_reducible refine Keeps.foldlFst (fun s a h => ?_) ?_)
    | (refine Keeps.ofFst (by with_reducible assumption) ?_)
    | split
    | dsimp only)

theorem State.opRollback_keeps {F : Prop} {b s : State} (h : Keeps F b s) (c : Cmd) :
    Keeps F b (s.opRollback c) := by
  unfold State.opRollback
  try dsimp only
  repeat' (first
    | with_reducible assumption
    | with_reducible apply State.post_keeps
    | with_reducible apply State.hold_keeps
    | with_reducible apply State.modCoded_keeps
    | with_reducible apply State.castVote_keeps
    | with_reducible apply State.beginDiscard_keeps
    | exact fun h => h
    | exact fun _ h => h
    | split
    | dsimp only)

theorem State.noteDrained_keeps {F : Prop} {b s : State} (h : Keeps F b s) (ctx : Nat) :
    Keeps F b (s.noteDrained ctx) := by
  unfold State.noteDrained
  try dsimp only
  repeat' (first
    | with_reducible assumption
    | with_reducible apply State.modCoded_keeps
    | with_reducible apply State.sendDigests_keeps
    | with_reducible apply State.rootFaults_keeps
    | with_reducible apply State.freezeRooted_keeps
    | with_reducible apply State.endJobs_keeps
    | exact fun h => h
    | exact fun _ h => h
    | split
    | dsimp only)

theorem State.closeVote_keeps {F : Prop} {b s : State} (h : Keeps F b s) (ctx : Nat) :
    Keeps F b (s.closeVote ctx) := by
  unfold State.closeVote
  try dsimp only
  repeat' (first
    | with_reducible assumption
    | with_reducible apply State.modCoded_keeps
    | exact fun h => h
    | exact fun _ h => h
    | split
    | dsimp only)

theorem State.passUndecided_keeps {F : Prop} {b s : State} (h : Keeps F b s) (ctx : Nat) :
    Keeps F b (s.passUndecided ctx) := by
  unfold State.passUndecided
  try dsimp only
  repeat' (first
    | with_reducible assumption
    | with_reducible apply State.modCoded_keeps
    | with_reducible apply State.raise_keeps
    | with_reducible apply State.endJobs_keeps
    | exact fun h => h
    | exact fun _ h => h
    | split
    | dsimp only)

theorem State.passVoting_keeps {F : Prop} {b s : State} (h : Keeps F b s) (ctx : Nat) :
    Keeps F b (s.passVoting ctx) := by
  unfold State.passVoting
  try dsimp only
  repeat' (first
    | with_reducible assumption
    | with_reducible apply State.modCoded_keeps
    | with_reducible apply State.raise_keeps
    | with_reducible apply State.endJobs_keeps
    | with_reducible apply State.beginDiscard_keeps
    | exact fun h => h
    | exact fun _ h => h
    | split
    | dsimp only)

theorem State.unresolved_keeps {F : Prop} {b s : State} (h : Keeps F b s) (ctx cause : Nat) (gl : Glove) (step : Nat) :
    Keeps F b (s.unresolved ctx cause gl step) := by
  unfold State.unresolved
  try dsimp only
  repeat' (first
    | with_reducible assumption
    | with_reducible apply State.raise_keeps)

theorem State.boundWitness_keeps {F : Prop} {b s : State} (h : Keeps F b s) (ctx : Nat) :
    Keeps F b (s.boundWitness ctx) := by
  unfold State.boundWitness
  try dsimp only
  repeat' (first
    | with_reducible assumption
    | with_reducible apply State.unresolved_keeps
    | with_reducible apply State.endWitness_keeps
    | with_reducible apply State.modCoded_keeps
    | exact fun h => h
    | exact fun _ => rfl
    | exact Nat.le_refl _
    | exact fun w => Mem.write_wf w _ _
    | exact fun _ h => h
    | exact fun _ _ => rfl
    | (intro w; refine Coded.all_map ?_ w; intro p h; first | exact h | (split <;> exact h))
    | exact fun w => Coded.all_filter w
    | (exact fun w => Coded.all_set (by simp [Coded.pairsOk, Coded.opened]) w)
    | (intro k w; simp_all [Coded.pairsOk, Coded.setC, Coded.setS, Coded.modGlove]; done)
    | (with_reducible refine Keeps.foldl (fun s a h => ?_) ?_)
    | (with_reducible refine Keeps.foldlFst (fun s a h => ?_) ?_)
    | (refine Keeps.ofFst (by with_reducible assumption) ?_)
    | split
    | dsimp only)

theorem State.boundHatbox_keeps {F : Prop} {b s : State} (h : Keeps F b s) (ctx : Nat) :
    Keeps F b (s.boundHatbox ctx) := by
  unfold State.boundHatbox
  try dsimp only
  repeat' (first
    | with_reducible assumption
    | with_reducible apply State.abandonCopy_keeps
    | split
    | dsimp only)

theorem State.boundTest_keeps {F : Prop} {b s : State} (h : Keeps F b s) (ctx : Nat) :
    Keeps F b (s.boundTest ctx) := by
  unfold State.boundTest
  try dsimp only
  repeat' (first
    | with_reducible assumption
    | with_reducible apply State.abandonTests_keeps
    | split
    | dsimp only)

theorem State.modColl_keeps {F : Prop} {b s : State} (h : Keeps F b s) (k : CollKey) (f : Coll → Coll) :
    Keeps F b (s.modColl k f) := by
  unfold State.modColl
  try dsimp only
  exact Keeps.made h (fun _ => rfl) (fun h => h) (Nat.le_refl _) (fun h => h)

theorem State.dropColl_keeps {F : Prop} {b s : State} (h : Keeps F b s) (k : CollKey) :
    Keeps F b (s.dropColl k) := by
  unfold State.dropColl
  try dsimp only
  exact Keeps.made h (fun _ => rfl) (fun h => h) (Nat.le_refl _) (fun h => h)

theorem State.startColl_keeps {F : Prop} {b s : State} (h : Keeps F b s) (c : Cmd) (key : CollKey) (group me gatherer : Nat) (parts : List (Nat × Coord)) (record place : List Byte) :
    Keeps F b (s.startColl c key group me gatherer parts record place) := by
  unfold State.startColl
  try dsimp only
  exact Keeps.made h (fun _ => rfl) (fun h => h) (Nat.le_refl _) (fun h => h)

theorem State.noteFailed_keeps {F : Prop} {b s : State} (h : Keeps F b s) (k : CollKey) (f : Option Failed) :
    Keeps F b (s.noteFailed k f) := by
  unfold State.noteFailed
  try dsimp only
  repeat' (first
    | with_reducible assumption
    | with_reducible apply State.modColl_keeps
    | exact fun h => h
    | exact fun _ => rfl
    | exact Nat.le_refl _
    | exact fun w => Mem.write_wf w _ _
    | exact fun _ h => h
    | exact fun _ _ => rfl
    | (intro w; refine Coded.all_map ?_ w; intro p h; first | exact h | (split <;> exact h))
    | exact fun w => Coded.all_filter w
    | (exact fun w => Coded.all_set (by simp [Coded.pairsOk, Coded.opened]) w)
    | (intro k w; simp_all [Coded.pairsOk, Coded.setC, Coded.setS, Coded.modGlove]; done)
    | (with_reducible refine Keeps.foldl (fun s a h => ?_) ?_)
    | (with_reducible refine Keeps.foldlFst (fun s a h => ?_) ?_)
    | (refine Keeps.ofFst (by with_reducible assumption) ?_)
    | split
    | dsimp only)

theorem State.sendVote_keeps {F : Prop} {b s : State} (h : Keeps F b s) (c : Coll) (ready : Bool) :
    Keeps F b (s.sendVote c ready) := by
  unfold State.sendVote
  try dsimp only
  repeat' (first
    | with_reducible assumption
    | with_reducible apply State.modColl_keeps
    | with_reducible apply State.send_keeps
    | split
    | dsimp only)

theorem State.sendDecision_keeps {F : Prop} {b s : State} (h : Keeps F b s) (c : Coll) (x2 : Block) :
    Keeps F b (s.sendDecision c x2) := by
  unfold State.sendDecision
  try dsimp only
  repeat' (first
    | with_reducible assumption
    | with_reducible apply State.send_keeps
    | (with_reducible refine Keeps.foldl (fun s a h => ?_) ?_)
    | dsimp only)

theorem State.collFault_keeps {F : Prop} {b s : State} (h : Keeps F b s) (c : Coll) (status member : Nat) :
    Keeps F b (s.collFault c status member) := by
  unfold State.collFault
  try dsimp only
  repeat' (first
    | with_reducible assumption
    | with_reducible apply State.statusFault_keeps
    | exact fun h => h
    | exact fun _ => rfl
    | exact Nat.le_refl _
    | exact fun w => Mem.write_wf w _ _
    | exact fun _ h => h
    | exact fun _ _ => rfl
    | (intro w; refine Coded.all_map ?_ w; intro p h; first | exact h | (split <;> exact h))
    | exact fun w => Coded.all_filter w
    | (exact fun w => Coded.all_set (by simp [Coded.pairsOk, Coded.opened]) w)
    | (intro k w; simp_all [Coded.pairsOk, Coded.setC, Coded.setS, Coded.modGlove]; done)
    | (with_reducible refine Keeps.foldl (fun s a h => ?_) ?_)
    | (with_reducible refine Keeps.foldlFst (fun s a h => ?_) ?_)
    | (refine Keeps.ofFst (by with_reducible assumption) ?_)
    | split
    | dsimp only)

theorem State.endColl_keeps {F : Prop} {b s : State} (h : Keeps F b s) (c : Coll) (status member stamp result : Nat) :
    Keeps F b (s.endColl c status member stamp result) := by
  unfold State.endColl
  try dsimp only
  repeat' (first
    | with_reducible assumption
    | with_reducible apply State.postAt_keeps
    | with_reducible apply State.collFault_keeps)

theorem State.addRegion_keeps {F : Prop} {b s : State} (h : Keeps F b s) (r : Region) :
    Keeps F b (s.addRegion r) := by
  unfold State.addRegion
  try dsimp only
  repeat' (first
    | with_reducible assumption
    | with_reducible apply State.neverPages_keeps
    | with_reducible apply State.bump_keeps
    | with_reducible apply State.dropStitches_keeps
    | exact fun h => h
    | exact fun _ => rfl
    | exact Nat.le_refl _
    | exact fun w => Mem.write_wf w _ _
    | exact fun _ h => h
    | exact fun _ _ => rfl
    | (intro w; refine Coded.all_map ?_ w; intro p h; first | exact h | (split <;> exact h))
    | exact fun w => Coded.all_filter w
    | (exact fun w => Coded.all_set (by simp [Coded.pairsOk, Coded.opened]) w)
    | (intro k w; simp_all [Coded.pairsOk, Coded.setC, Coded.setS, Coded.modGlove]; done)
    | (with_reducible refine Keeps.foldl (fun s a h => ?_) ?_)
    | (with_reducible refine Keeps.foldlFst (fun s a h => ?_) ?_)
    | (refine Keeps.ofFst (by with_reducible assumption) ?_)
    | split
    | dsimp only
    | with_reducible apply Keeps.made)

theorem State.flushRegion_keeps {F : Prop} {b s : State} (h : Keeps F b s) (r : Region) :
    Keeps F b (s.flushRegion r) := by
  unfold State.flushRegion
  try dsimp only
  repeat' (first
    | with_reducible assumption
    | with_reducible apply State.evict_keeps
    | with_reducible apply State.foldNow_keeps
    | (with_reducible refine Keeps.foldl (fun s a h => ?_) ?_)
    | dsimp only)

theorem State.removeRegion_keeps {F : Prop} {b s : State} (h : Keeps F b s) (num : Nat) :
    Keeps F b (s.removeRegion num) := by
  unfold State.removeRegion
  try dsimp only
  repeat' (first
    | with_reducible assumption
    | with_reducible apply State.flushRegion_keeps
    | with_reducible apply State.dropStitches_keeps
    | exact fun h => h
    | exact fun _ => rfl
    | exact Nat.le_refl _
    | exact fun w => Mem.write_wf w _ _
    | exact fun _ h => h
    | exact fun _ _ => rfl
    | (intro w; refine Coded.all_map ?_ w; intro p h; first | exact h | (split <;> exact h))
    | exact fun w => Coded.all_filter w
    | (exact fun w => Coded.all_set (by simp [Coded.pairsOk, Coded.opened]) w)
    | (intro k w; simp_all [Coded.pairsOk, Coded.setC, Coded.setS, Coded.modGlove]; done)
    | (with_reducible refine Keeps.foldl (fun s a h => ?_) ?_)
    | (with_reducible refine Keeps.foldlFst (fun s a h => ?_) ?_)
    | (refine Keeps.ofFst (by with_reducible assumption) ?_)
    | split
    | dsimp only
    | with_reducible apply Keeps.made)

theorem State.opCtxOpen_keeps {F : Prop} {b s : State} (h : Keeps F b s) (c : Cmd) :
    Keeps F b (s.opCtxOpen c) := by
  unfold State.opCtxOpen
  try dsimp only
  repeat' (first
    | with_reducible assumption
    | with_reducible apply State.post_keeps
    | with_reducible apply State.postDeferred_keeps
    | with_reducible apply State.badParam_keeps
    | exact fun h => h
    | exact fun _ => rfl
    | exact Nat.le_refl _
    | exact fun w => Mem.write_wf w _ _
    | exact fun _ h => h
    | exact fun _ _ => rfl
    | (intro w; refine Coded.all_map ?_ w; intro p h; first | exact h | (split <;> exact h))
    | exact fun w => Coded.all_filter w
    | (exact fun w => Coded.all_set (by simp [Coded.pairsOk, Coded.opened]) w)
    | (intro k w; simp_all [Coded.pairsOk, Coded.setC, Coded.setS, Coded.modGlove]; done)
    | (with_reducible refine Keeps.foldl (fun s a h => ?_) ?_)
    | (with_reducible refine Keeps.foldlFst (fun s a h => ?_) ?_)
    | (refine Keeps.ofFst (by with_reducible assumption) ?_)
    | split
    | dsimp only
    | with_reducible apply Keeps.made)

theorem State.opCtxClose_keeps {F : Prop} {b s : State} (h : Keeps F b s) (c : Cmd) :
    Keeps F b (s.opCtxClose c) := by
  unfold State.opCtxClose
  try dsimp only
  repeat' (first
    | with_reducible assumption
    | with_reducible apply State.post_keeps
    | with_reducible apply State.hold_keeps
    | exact fun h => h
    | exact fun _ => rfl
    | exact Nat.le_refl _
    | exact fun w => Mem.write_wf w _ _
    | exact fun _ h => h
    | exact fun _ _ => rfl
    | (intro w; refine Coded.all_map ?_ w; intro p h; first | exact h | (split <;> exact h))
    | exact fun w => Coded.all_filter w
    | (exact fun w => Coded.all_set (by simp [Coded.pairsOk, Coded.opened]) w)
    | (intro k w; simp_all [Coded.pairsOk, Coded.setC, Coded.setS, Coded.modGlove]; done)
    | (with_reducible refine Keeps.foldl (fun s a h => ?_) ?_)
    | (with_reducible refine Keeps.foldlFst (fun s a h => ?_) ?_)
    | (refine Keeps.ofFst (by with_reducible assumption) ?_)
    | split
    | dsimp only
    | with_reducible apply Keeps.made)

theorem State.releaseCtx_keeps {F : Prop} {b s : State} (h : Keeps F b s) (ctx : Nat) :
    Keeps F b (s.releaseCtx ctx) := by
  unfold State.releaseCtx
  try dsimp only
  repeat' (first
    | with_reducible assumption
    | with_reducible apply State.closeBrim_keeps
    | with_reducible apply State.dropRef_keeps
    | with_reducible apply State.dropPromo_keeps
    | with_reducible apply State.removeRegion_keeps
    | with_reducible apply State.modCu_keeps
    | exact fun h => h
    | exact fun _ => rfl
    | exact Nat.le_refl _
    | exact fun w => Mem.write_wf w _ _
    | exact fun _ h => h
    | exact fun _ _ => rfl
    | (intro w; refine Coded.all_map ?_ w; intro p h; first | exact h | (split <;> exact h))
    | exact fun w => Coded.all_filter w
    | (exact fun w => Coded.all_set (by simp [Coded.pairsOk, Coded.opened]) w)
    | (intro k w; simp_all [Coded.pairsOk, Coded.setC, Coded.setS, Coded.modGlove]; done)
    | (with_reducible refine Keeps.foldl (fun s a h => ?_) ?_)
    | (with_reducible refine Keeps.foldlFst (fun s a h => ?_) ?_)
    | (refine Keeps.ofFst (by with_reducible assumption) ?_)
    | split
    | dsimp only
    | with_reducible apply Keeps.made)

theorem State.settleClose_keeps {F : Prop} {b s : State} (h : Keeps F b s) (p : Pend) :
    Keeps F b (s.settleClose p) := by
  unfold State.settleClose
  try dsimp only
  repeat' (first
    | with_reducible assumption
    | with_reducible apply State.post_keeps
    | with_reducible apply State.releaseCtx_keeps
    | split
    | dsimp only)

theorem State.settleCloses_keeps {F : Prop} {b s : State} (h : Keeps F b s) :
    Keeps F b (s.settleCloses) := by
  unfold State.settleCloses
  try dsimp only
  repeat' (first
    | with_reducible assumption
    | with_reducible apply State.settleClose_keeps
    | (with_reducible refine Keeps.foldl (fun s a h => ?_) ?_)
    | dsimp only)

theorem State.opRegionMap_keeps {F : Prop} {b s : State} (h : Keeps F b s) (c : Cmd) :
    Keeps F b (s.opRegionMap c) := by
  unfold State.opRegionMap
  try dsimp only
  repeat' (first
    | with_reducible assumption
    | with_reducible apply State.post_keeps
    | with_reducible apply State.postDeferred_keeps
    | with_reducible apply State.badParam_keeps
    | with_reducible apply State.raise_keeps
    | with_reducible apply State.addRegion_keeps
    | split
    | dsimp only)

theorem State.opRegionUnmap_keeps {F : Prop} {b s : State} (h : Keeps F b s) (c : Cmd) :
    Keeps F b (s.opRegionUnmap c) := by
  unfold State.opRegionUnmap
  try dsimp only
  repeat' (first
    | with_reducible assumption
    | with_reducible apply State.post_keeps
    | with_reducible apply State.badParam_keeps
    | with_reducible apply State.hold_keeps
    | with_reducible apply State.modRegion_keeps
    | with_reducible apply State.removeRegion_keeps
    | split
    | dsimp only)

theorem State.startFill_keeps {F : Prop} {b s : State} (h : Keeps F b s) (r : Region) (pattern : Word) :
    Keeps F b (s.startFill r pattern) := by
  unfold State.startFill
  try dsimp only
  repeat' (first
    | with_reducible assumption
    | with_reducible apply State.flushRegion_keeps
    | with_reducible apply State.modRegion_keeps
    | exact fun h => h
    | exact fun _ => rfl
    | exact Nat.le_refl _
    | exact fun w => Mem.write_wf w _ _
    | exact fun _ h => h
    | exact fun _ _ => rfl
    | (intro w; refine Coded.all_map ?_ w; intro p h; first | exact h | (split <;> exact h))
    | exact fun w => Coded.all_filter w
    | (exact fun w => Coded.all_set (by simp [Coded.pairsOk, Coded.opened]) w)
    | (intro k w; simp_all [Coded.pairsOk, Coded.setC, Coded.setS, Coded.modGlove]; done)
    | (with_reducible refine Keeps.foldl (fun s a h => ?_) ?_)
    | (with_reducible refine Keeps.foldlFst (fun s a h => ?_) ?_)
    | (refine Keeps.ofFst (by with_reducible assumption) ?_)
    | split
    | dsimp only
    | with_reducible apply Keeps.made)

theorem State.opRegionFill_keeps {F : Prop} {b s : State} (h : Keeps F b s) (c : Cmd) :
    Keeps F b (s.opRegionFill c) := by
  unfold State.opRegionFill
  try dsimp only
  repeat' (first
    | with_reducible assumption
    | with_reducible apply State.post_keeps
    | with_reducible apply State.badParam_keeps
    | with_reducible apply State.hold_keeps
    | with_reducible apply State.startFill_keeps
    | split
    | dsimp only)

theorem State.endFill_keeps {F : Prop} {b s : State} (h : Keeps F b s) (r : Region) (written : Nat) :
    Keeps F b (s.endFill r written) := by
  unfold State.endFill
  try dsimp only
  repeat' (first
    | with_reducible assumption
    | with_reducible apply State.modRegion_keeps
    | with_reducible apply State.post_keeps
    | with_reducible apply State.startFill_keeps
    | with_reducible apply State.endJobs_keeps
    | with_reducible apply State.removeRegion_keeps
    | split
    | dsimp only)

theorem State.fillPage_keeps {F : Prop} {b s : State} (h : Keeps F b s) (num : Nat) (i : Fin 16) :
    Keeps F b (s.fillPage num i) := by
  unfold State.fillPage
  try dsimp only
  repeat' (first
    | with_reducible assumption
    | with_reducible apply State.fillOne_keeps
    | exact fun h => h
    | exact fun _ => rfl
    | exact Nat.le_refl _
    | exact fun w => Mem.write_wf w _ _
    | exact fun _ h => h
    | exact fun _ _ => rfl
    | (intro w; refine Coded.all_map ?_ w; intro p h; first | exact h | (split <;> exact h))
    | exact fun w => Coded.all_filter w
    | (exact fun w => Coded.all_set (by simp [Coded.pairsOk, Coded.opened]) w)
    | (intro k w; simp_all [Coded.pairsOk, Coded.setC, Coded.setS, Coded.modGlove]; done)
    | (with_reducible refine Keeps.foldl (fun s a h => ?_) ?_)
    | (with_reducible refine Keeps.foldlFst (fun s a h => ?_) ?_)
    | (refine Keeps.ofFst (by with_reducible assumption) ?_)
    | split
    | dsimp only)

theorem State.settleFills_keeps {F : Prop} {b s : State} (h : Keeps F b s) :
    Keeps F b (s.settleFills) := by
  unfold State.settleFills
  try dsimp only
  repeat' (first
    | with_reducible assumption
    | with_reducible apply State.endFill_keeps
    | with_reducible apply State.retryHeld_keeps
    | exact fun h => h
    | exact fun _ => rfl
    | exact Nat.le_refl _
    | exact fun w => Mem.write_wf w _ _
    | exact fun _ h => h
    | exact fun _ _ => rfl
    | (intro w; refine Coded.all_map ?_ w; intro p h; first | exact h | (split <;> exact h))
    | exact fun w => Coded.all_filter w
    | (exact fun w => Coded.all_set (by simp [Coded.pairsOk, Coded.opened]) w)
    | (intro k w; simp_all [Coded.pairsOk, Coded.setC, Coded.setS, Coded.modGlove]; done)
    | (with_reducible refine Keeps.foldl (fun s a h => ?_) ?_)
    | (with_reducible refine Keeps.foldlFst (fun s a h => ?_) ?_)
    | (refine Keeps.ofFst (by with_reducible assumption) ?_)
    | split
    | dsimp only)

theorem State.opQuotaSet_keeps {F : Prop} {b s : State} (h : Keeps F b s) (c : Cmd) :
    Keeps F b (s.opQuotaSet c) := by
  unfold State.opQuotaSet
  try dsimp only
  repeat' (first
    | with_reducible assumption
    | with_reducible apply State.post_keeps
    | exact fun h => h
    | exact fun _ => rfl
    | exact Nat.le_refl _
    | exact fun w => Mem.write_wf w _ _
    | exact fun _ h => h
    | exact fun _ _ => rfl
    | (intro w; refine Coded.all_map ?_ w; intro p h; first | exact h | (split <;> exact h))
    | exact fun w => Coded.all_filter w
    | (exact fun w => Coded.all_set (by simp [Coded.pairsOk, Coded.opened]) w)
    | (intro k w; simp_all [Coded.pairsOk, Coded.setC, Coded.setS, Coded.modGlove]; done)
    | (with_reducible refine Keeps.foldl (fun s a h => ?_) ?_)
    | (with_reducible refine Keeps.foldlFst (fun s a h => ?_) ?_)
    | (refine Keeps.ofFst (by with_reducible assumption) ?_)
    | split
    | dsimp only
    | with_reducible apply Keeps.made)

theorem State.opQuotaPool_keeps {F : Prop} {b s : State} (h : Keeps F b s) (c : Cmd) :
    Keeps F b (s.opQuotaPool c) := by
  unfold State.opQuotaPool
  try dsimp only
  repeat' (first
    | with_reducible assumption
    | with_reducible apply State.badParam_keeps
    | with_reducible apply State.post_keeps
    | with_reducible apply State.addRegion_keeps
    | with_reducible apply serveWaiters_keeps
    | exact fun h => h
    | exact fun _ => rfl
    | exact Nat.le_refl _
    | exact fun w => Mem.write_wf w _ _
    | exact fun _ h => h
    | exact fun _ _ => rfl
    | (intro w; refine Coded.all_map ?_ w; intro p h; first | exact h | (split <;> exact h))
    | exact fun w => Coded.all_filter w
    | (exact fun w => Coded.all_set (by simp [Coded.pairsOk, Coded.opened]) w)
    | (intro k w; simp_all [Coded.pairsOk, Coded.setC, Coded.setS, Coded.modGlove]; done)
    | (with_reducible refine Keeps.foldl (fun s a h => ?_) ?_)
    | (with_reducible refine Keeps.foldlFst (fun s a h => ?_) ?_)
    | (refine Keeps.ofFst (by with_reducible assumption) ?_)
    | split
    | dsimp only
    | with_reducible apply Keeps.made)

end Sys2Proof.Machine
end

