-- ==== Sys2Proof/Laws/KeepsDarn.lean ====
section
/-! SUPPORT. Each operation of Forming, Darning, Recovery, Images leaves the queue, the clock and the fuses alone, and keeps memory's
canonical form and the complement pairs. -/

namespace Sys2Proof.Machine

theorem State.readPlacement_keeps {F : Prop} {b s : State} (h : Keeps F b s) (ctx a n : Nat) :
    Keeps F b (s.readPlacement ctx a n).1 := by
  unfold State.readPlacement
  try dsimp only
  repeat' (first
    | with_reducible assumption
    | with_reducible apply State.padunRead_keeps
    | (with_reducible refine Keeps.foldl (fun s a h => ?_) ?_)
    | (refine Keeps.ofFst (by with_reducible assumption) ?_)
    | split
    | dsimp only)

theorem State.checkDomains_keeps {F : Prop} {b s : State} (h : Keeps F b s) (ctx : Nat) (q : List Nat) (t' : List Byte) (n : Nat) (hb : Bool) :
    Keeps F b (s.checkDomains ctx q t' n hb).1 := by
  unfold State.checkDomains
  try dsimp only
  repeat' (first
    | with_reducible assumption
    | with_reducible apply State.capture_keeps
    | split
    | dsimp only)

theorem State.formCheck_keeps {F : Prop} {b s : State} (h : Keeps F b s) (c : Cmd) (t' : List Byte) (running : Bool) :
    Keeps F b (s.formCheck c t' running).1 := by
  unfold State.formCheck
  try dsimp only
  repeat' (first
    | with_reducible assumption
    | with_reducible apply State.checkDomains_keeps
    | (with_reducible refine Keeps.foldl (fun s a h => ?_) ?_)
    | (refine Keeps.ofFst (by with_reducible assumption) ?_)
    | split
    | dsimp only)

theorem State.failAs_keeps {F : Prop} {b s : State} (h : Keeps F b s) (c : Cmd) (f : Failed) (id me result : Nat) :
    Keeps F b (s.failAs c f id me result) := by
  unfold State.failAs
  try dsimp only
  repeat' (first
    | with_reducible assumption
    | with_reducible apply State.postAt_keeps
    | with_reducible apply State.statusFault_keeps
    | exact fun h => h
    | exact fun _ => rfl
    | exact Nat.le_refl _
    | exact fun w => Mem.write_wf w _ _
    | exact fun _ h => h
    | exact fun _ _ => rfl
    | (intro w; refine Coded.all_map ?_ w; intro p h; first | exact h | (split <;> exact h))
    | exact fun w => Coded.all_filter w
    | (exact fun w => Coded.all_set (by simp [Coded.pairsOk, Coded.opened]) w)
    | (intro k w; simp_all [Coded.pairsOk, Coded.setC, Coded.setS, Coded.modGlove]; done)
    | (with_reducible refine Keeps.foldl (fun s a h => ?_) ?_)
    | (with_reducible refine Keeps.foldlFst (fun s a h => ?_) ?_)
    | (refine Keeps.ofFst (by with_reducible assumption) ?_)
    | split
    | dsimp only)

theorem State.failAlone_keeps {F : Prop} {b s : State} (h : Keeps F b s) (c : Cmd) (f : Option Failed) :
    Keeps F b (s.failAlone c f) := by
  unfold State.failAlone
  try dsimp only
  repeat' (first
    | with_reducible assumption
    | with_reducible apply State.postAt_keeps
    | exact fun h => h
    | exact fun _ => rfl
    | exact Nat.le_refl _
    | exact fun w => Mem.write_wf w _ _
    | exact fun _ h => h
    | exact fun _ _ => rfl
    | (intro w; refine Coded.all_map ?_ w; intro p h; first | exact h | (split <;> exact h))
    | exact fun w => Coded.all_filter w
    | (exact fun w => Coded.all_set (by simp [Coded.pairsOk, Coded.opened]) w)
    | (intro k w; simp_all [Coded.pairsOk, Coded.setC, Coded.setS, Coded.modGlove]; done)
    | (with_reducible refine Keeps.foldl (fun s a h => ?_) ?_)
    | (with_reducible refine Keeps.foldlFst (fun s a h => ?_) ?_)
    | (refine Keeps.ofFst (by with_reducible assumption) ?_)
    | split
    | dsimp only)

theorem State.unverified_keeps {F : Prop} {b s : State} (h : Keeps F b s) (c : Cmd) (f : Option Failed) (id me result : Nat) :
    Keeps F b (s.unverified c f id me result) := by
  unfold State.unverified
  try dsimp only
  repeat' (first
    | with_reducible assumption
    | with_reducible apply State.failAs_keeps
    | exact fun h => h
    | exact fun _ => rfl
    | exact Nat.le_refl _
    | exact fun w => Mem.write_wf w _ _
    | exact fun _ h => h
    | exact fun _ _ => rfl
    | (intro w; refine Coded.all_map ?_ w; intro p h; first | exact h | (split <;> exact h))
    | exact fun w => Coded.all_filter w
    | (exact fun w => Coded.all_set (by simp [Coded.pairsOk, Coded.opened]) w)
    | (intro k w; simp_all [Coded.pairsOk, Coded.setC, Coded.setS, Coded.modGlove]; done)
    | (with_reducible refine Keeps.foldl (fun s a h => ?_) ?_)
    | (with_reducible refine Keeps.foldlFst (fun s a h => ?_) ?_)
    | (refine Keeps.ofFst (by with_reducible assumption) ?_)
    | split
    | dsimp only)

theorem State.opGloveForm_keeps {F : Prop} {b s : State} (h : Keeps F b s) (c : Cmd) :
    Keeps F b (s.opGloveForm c) := by
  unfold State.opGloveForm
  try dsimp only
  repeat' (first
    | with_reducible assumption
    | with_reducible apply State.post_keeps
    | with_reducible apply State.postDeferred_keeps
    | with_reducible apply State.readPlacement_keeps
    | with_reducible apply State.badParam_keeps
    | with_reducible apply State.formCheck_keeps
    | with_reducible apply State.failAlone_keeps
    | with_reducible apply State.modCoded_keeps
    | with_reducible apply State.hold_keeps
    | with_reducible apply State.noteFailed_keeps
    | with_reducible apply State.startColl_keeps
    | exact fun h => h
    | exact fun _ => rfl
    | exact Nat.le_refl _
    | exact fun w => Mem.write_wf w _ _
    | exact fun _ h => h
    | exact fun _ _ => rfl
    | (intro w; refine Coded.all_map ?_ w; intro p h; first | exact h | (split <;> exact h))
    | exact fun w => Coded.all_filter w
    | (exact fun w => Coded.all_set (by simp [Coded.pairsOk, Coded.opened]) w)
    | (intro k w; simp_all [Coded.pairsOk, Coded.setC, Coded.setS, Coded.modGlove]; done)
    | (with_reducible refine Keeps.foldl (fun s a h => ?_) ?_)
    | (with_reducible refine Keeps.foldlFst (fun s a h => ?_) ?_)
    | (refine Keeps.ofFst (by with_reducible assumption) ?_)
    | split
    | dsimp only)

theorem State.dropForm_keeps {F : Prop} {b s : State} (h : Keeps F b s) (key : CollKey) :
    Keeps F b (s.dropForm key) := by
  unfold State.dropForm
  try dsimp only
  repeat' (first
    | with_reducible assumption
    | with_reducible apply State.removeRegion_keeps
    | with_reducible apply State.dropSent_keeps
    | with_reducible apply State.modCoded_keeps
    | exact fun h => h
    | exact fun _ => rfl
    | exact Nat.le_refl _
    | exact fun w => Mem.write_wf w _ _
    | exact fun _ h => h
    | exact fun _ _ => rfl
    | (intro w; refine Coded.all_map ?_ w; intro p h; first | exact h | (split <;> exact h))
    | exact fun w => Coded.all_filter w
    | (exact fun w => Coded.all_set (by simp [Coded.pairsOk, Coded.opened]) w)
    | (intro k w; simp_all [Coded.pairsOk, Coded.setC, Coded.setS, Coded.modGlove]; done)
    | (with_reducible refine Keeps.foldl (fun s a h => ?_) ?_)
    | (with_reducible refine Keeps.foldlFst (fun s a h => ?_) ?_)
    | (refine Keeps.ofFst (by with_reducible assumption) ?_)
    | split
    | dsimp only
    | with_reducible apply Keeps.made)

theorem State.encodePalm_keeps {F : Prop} {b s : State} (h : Keeps F b s) (ctx : Nat) (gl : Glove) :
    Keeps F b (s.encodePalm ctx gl) := by
  unfold State.encodePalm
  try dsimp only
  repeat' (first
    | with_reducible assumption
    | with_reducible apply State.readCrowned_keeps
    | with_reducible apply State.spoilStep_keeps
    | exact fun h => h
    | exact fun _ => rfl
    | exact Nat.le_refl _
    | exact fun w => Mem.write_wf w _ _
    | exact fun _ h => h
    | exact fun _ _ => rfl
    | (intro w; refine Coded.all_map ?_ w; intro p h; first | exact h | (split <;> exact h))
    | exact fun w => Coded.all_filter w
    | (exact fun w => Coded.all_set (by simp [Coded.pairsOk, Coded.opened]) w)
    | (intro k w; simp_all [Coded.pairsOk, Coded.setC, Coded.setS, Coded.modGlove]; done)
    | (with_reducible refine Keeps.foldl (fun s a h => ?_) ?_)
    | (with_reducible refine Keeps.foldlFst (fun s a h => ?_) ?_)
    | (refine Keeps.ofFst (by with_reducible assumption) ?_)
    | split
    | dsimp only
    | with_reducible apply Keeps.made)

theorem State.enterFormPass_keeps {F : Prop} {b s : State} (h : Keeps F b s) (c : Coll) (gl : Glove) (recs : List (Nat × List Byte)) (tmax : Nat) :
    Keeps F b (s.enterFormPass c gl recs tmax) := by
  unfold State.enterFormPass
  try dsimp only
  repeat' (first
    | with_reducible assumption
    | with_reducible apply State.addRegion_keeps
    | with_reducible apply State.modGlove_keeps
    | with_reducible apply State.modCoded_keeps
    | with_reducible apply State.encodePalm_keeps
    | with_reducible apply State.startColl_keeps
    | exact fun h => h
    | exact fun _ h => h
    | split
    | dsimp only)

theorem State.formOutcome_keeps {F : Prop} {b s : State} (h : Keeps F b s) (c : Coll) (recs : List (Nat × List Byte)) (x3 : Block) :
    Keeps F b (s.formOutcome c recs x3) := by
  unfold State.formOutcome
  try dsimp only
  repeat' (first
    | with_reducible assumption
    | with_reducible apply State.dropForm_keeps
    | with_reducible apply State.endColl_keeps
    | with_reducible apply State.enterFormPass_keeps
    | split
    | dsimp only)

theorem State.roundRecord_keeps {F : Prop} {b s : State} (h : Keeps F b s) (c : Coll) :
    Keeps F b (s.roundRecord c) := by
  unfold State.roundRecord
  try dsimp only
  repeat' (first
    | with_reducible assumption
    | with_reducible apply State.writeFolds_keeps
    | with_reducible apply State.modColl_keeps
    | split
    | dsimp only)

theorem State.roundOutcome_keeps {F : Prop} {b s : State} (h : Keeps F b s) (c : Coll) (recs : List (Nat × List Byte)) (x3 : Block) :
    Keeps F b (s.roundOutcome c recs x3) := by
  unfold State.roundOutcome
  try dsimp only
  repeat' (first
    | with_reducible assumption
    | with_reducible apply State.dropForm_keeps
    | with_reducible apply State.endColl_keeps
    | with_reducible apply State.writeFolds_keeps
    | with_reducible apply State.useGroup_keeps
    | with_reducible apply State.checkBank_keeps
    | with_reducible apply State.modCoded_keeps
    | exact fun h => h
    | exact fun _ => rfl
    | exact Nat.le_refl _
    | exact fun w => Mem.write_wf w _ _
    | exact fun _ h => h
    | exact fun _ _ => rfl
    | (intro w; refine Coded.all_map ?_ w; intro p h; first | exact h | (split <;> exact h))
    | exact fun w => Coded.all_filter w
    | (exact fun w => Coded.all_set (by simp [Coded.pairsOk, Coded.opened]) w)
    | (intro k w; simp_all [Coded.pairsOk, Coded.setC, Coded.setS, Coded.modGlove]; done)
    | (with_reducible refine Keeps.foldl (fun s a h => ?_) ?_)
    | (with_reducible refine Keeps.foldlFst (fun s a h => ?_) ?_)
    | (refine Keeps.ofFst (by with_reducible assumption) ?_)
    | split
    | dsimp only)

theorem State.sendForm_keeps {F : Prop} {b s : State} (h : Keeps F b s) (ctx : Nat) :
    Keeps F b (s.sendForm ctx) := by
  unfold State.sendForm
  try dsimp only
  repeat' (first
    | with_reducible assumption
    | with_reducible apply State.sendDelta_keeps
    | exact fun h => h
    | exact fun _ => rfl
    | exact Nat.le_refl _
    | exact fun w => Mem.write_wf w _ _
    | exact fun _ h => h
    | exact fun _ _ => rfl
    | (intro w; refine Coded.all_map ?_ w; intro p h; first | exact h | (split <;> exact h))
    | exact fun w => Coded.all_filter w
    | (exact fun w => Coded.all_set (by simp [Coded.pairsOk, Coded.opened]) w)
    | (intro k w; simp_all [Coded.pairsOk, Coded.setC, Coded.setS, Coded.modGlove]; done)
    | (with_reducible refine Keeps.foldl (fun s a h => ?_) ?_)
    | (with_reducible refine Keeps.foldlFst (fun s a h => ?_) ?_)
    | (refine Keeps.ofFst (by with_reducible assumption) ?_)
    | split
    | dsimp only
    | with_reducible apply Keeps.made)

theorem State.opGloveDissolve_keeps {F : Prop} {b s : State} (h : Keeps F b s) (c : Cmd) :
    Keeps F b (s.opGloveDissolve c) := by
  unfold State.opGloveDissolve
  try dsimp only
  repeat' (first
    | with_reducible assumption
    | with_reducible apply State.post_keeps
    | with_reducible apply State.unverified_keeps
    | with_reducible apply State.modGlove_keeps
    | with_reducible apply State.hold_keeps
    | with_reducible apply State.startColl_keeps
    | split
    | dsimp only)

theorem State.dropGlove_keeps {F : Prop} {b s : State} (h : Keeps F b s) (ctx : Nat) :
    Keeps F b (s.dropGlove ctx) := by
  unfold State.dropGlove
  try dsimp only
  repeat' (first
    | with_reducible assumption
    | with_reducible apply State.removeRegion_keeps
    | with_reducible apply State.stopChains_keeps
    | with_reducible apply State.endFills_keeps
    | with_reducible apply State.dropSent_keeps
    | with_reducible apply State.modCoded_keeps
    | exact fun h => h
    | exact fun _ => rfl
    | exact Nat.le_refl _
    | exact fun w => Mem.write_wf w _ _
    | exact fun _ h => h
    | exact fun _ _ => rfl
    | (intro w; refine Coded.all_map ?_ w; intro p h; first | exact h | (split <;> exact h))
    | exact fun w => Coded.all_filter w
    | (exact fun w => Coded.all_set (by simp [Coded.pairsOk, Coded.opened]) w)
    | (intro k w; simp_all [Coded.pairsOk, Coded.setC, Coded.setS, Coded.modGlove]; done)
    | (with_reducible refine Keeps.foldl (fun s a h => ?_) ?_)
    | (with_reducible refine Keeps.foldlFst (fun s a h => ?_) ?_)
    | (refine Keeps.ofFst (by with_reducible assumption) ?_)
    | split
    | dsimp only
    | with_reducible apply Keeps.made)

theorem State.dissolveOutcome_keeps {F : Prop} {b s : State} (h : Keeps F b s) (c : Coll) (x2 : Block) :
    Keeps F b (s.dissolveOutcome c x2) := by
  unfold State.dissolveOutcome
  try dsimp only
  repeat' (first
    | with_reducible assumption
    | with_reducible apply State.dropGlove_keeps
    | with_reducible apply State.endColl_keeps
    | split
    | dsimp only)

theorem State.opGloveQuery_keeps {F : Prop} {b s : State} (h : Keeps F b s) (c : Cmd) :
    Keeps F b (s.opGloveQuery c) := by
  unfold State.opGloveQuery
  try dsimp only
  repeat' (first
    | with_reducible assumption
    | with_reducible apply State.post_keeps
    | with_reducible apply State.badParam_keeps
    | with_reducible apply State.bufferWrite_keeps
    | split
    | dsimp only)

theorem State.tableRow_keeps {F : Prop} {b s : State} (h : Keeps F b s) (ctx a n byte : Nat) :
    Keeps F b (s.tableRow ctx a n byte).1 := by
  unfold State.tableRow
  try dsimp only
  repeat' (first
    | with_reducible assumption
    | with_reducible apply State.readPlacement_keeps
    | exact fun h => h
    | exact fun _ => rfl
    | exact Nat.le_refl _
    | exact fun w => Mem.write_wf w _ _
    | exact fun _ h => h
    | exact fun _ _ => rfl
    | (intro w; refine Coded.all_map ?_ w; intro p h; first | exact h | (split <;> exact h))
    | exact fun w => Coded.all_filter w
    | (exact fun w => Coded.all_set (by simp [Coded.pairsOk, Coded.opened]) w)
    | (intro k w; simp_all [Coded.pairsOk, Coded.setC, Coded.setS, Coded.modGlove]; done)
    | (with_reducible refine Keeps.foldl (fun s a h => ?_) ?_)
    | (with_reducible refine Keeps.foldlFst (fun s a h => ?_) ?_)
    | (refine Keeps.ofFst (by with_reducible assumption) ?_)
    | split
    | dsimp only)

theorem State.memberRows_keeps {F : Prop} {b s : State} (h : Keeps F b s) (ctx : Nat) (gl : Glove) (k : Coded) (first : Option Failed) (named taken placed area : Bool) (t' : List Byte) :
    Keeps F b (s.memberRows ctx gl k first named taken placed area t').1 := by
  unfold State.memberRows
  try dsimp only
  repeat' (first
    | with_reducible assumption
    | with_reducible apply State.checkDomains_keeps
    | (with_reducible refine Keeps.foldl (fun s a h => ?_) ?_)
    | (refine Keeps.ofFst (by with_reducible assumption) ?_)
    | split
    | dsimp only)

theorem State.recordLanes_keeps {F : Prop} {b s : State} (h : Keeps F b s) (ctx : Nat) (bank : List (Nat × List Byte)) (seat : Nat) :
    Keeps F b (s.recordLanes ctx bank seat).1 := by
  unfold State.recordLanes
  try dsimp only
  repeat' (first
    | with_reducible assumption
    | with_reducible apply State.checkBank_keeps
    | exact fun h => h
    | exact fun _ => rfl
    | exact Nat.le_refl _
    | exact fun w => Mem.write_wf w _ _
    | exact fun _ h => h
    | exact fun _ _ => rfl
    | (intro w; refine Coded.all_map ?_ w; intro p h; first | exact h | (split <;> exact h))
    | exact fun w => Coded.all_filter w
    | (exact fun w => Coded.all_set (by simp [Coded.pairsOk, Coded.opened]) w)
    | (intro k w; simp_all [Coded.pairsOk, Coded.setC, Coded.setS, Coded.modGlove]; done)
    | (with_reducible refine Keeps.foldl (fun s a h => ?_) ?_)
    | (with_reducible refine Keeps.foldlFst (fun s a h => ?_) ?_)
    | (refine Keeps.ofFst (by with_reducible assumption) ?_)
    | split
    | dsimp only)

theorem State.spareRows_keeps {F : Prop} {b s : State} (h : Keeps F b s) (ctx seat base : Nat) (k : Coded) (x : SeatInfo) (first : Option Failed) (taken : Bool) (t' : List Byte) :
    Keeps F b (s.spareRows ctx seat base k x first taken t').1 := by
  unfold State.spareRows
  try dsimp only
  repeat' (first
    | with_reducible assumption
    | with_reducible apply State.recordLanes_keeps
    | with_reducible apply State.checkDomains_keeps
    | (with_reducible refine Keeps.foldl (fun s a h => ?_) ?_)
    | (refine Keeps.ofFst (by with_reducible assumption) ?_)
    | split
    | dsimp only)

theorem State.spareAlone_keeps {F : Prop} {b s : State} (h : Keeps F b s) (c : Cmd) (first : Option Failed) (taken : Bool) (result : Nat) :
    Keeps F b (s.spareAlone c first taken result) := by
  unfold State.spareAlone
  try dsimp only
  repeat' (first
    | with_reducible assumption
    | with_reducible apply State.postAt_keeps
    | with_reducible apply State.post_keeps
    | with_reducible apply State.raise_keeps
    | split
    | dsimp only)

theorem State.darnMember_keeps {F : Prop} {b s : State} (h : Keeps F b s) (c : Cmd) (k : Coded) (gl : Glove) (t' : List Byte) (first : Option Failed) :
    Keeps F b (s.darnMember c k gl t' first) := by
  unfold State.darnMember
  try dsimp only
  repeat' (first
    | with_reducible assumption
    | with_reducible apply State.memberRows_keeps
    | with_reducible apply State.failAlone_keeps
    | with_reducible apply State.hold_keeps
    | with_reducible apply State.noteFailed_keeps
    | with_reducible apply State.startColl_keeps
    | exact fun h => h
    | exact fun _ => rfl
    | exact Nat.le_refl _
    | exact fun w => Mem.write_wf w _ _
    | exact fun _ h => h
    | exact fun _ _ => rfl
    | (intro w; refine Coded.all_map ?_ w; intro p h; first | exact h | (split <;> exact h))
    | exact fun w => Coded.all_filter w
    | (exact fun w => Coded.all_set (by simp [Coded.pairsOk, Coded.opened]) w)
    | (intro k w; simp_all [Coded.pairsOk, Coded.setC, Coded.setS, Coded.modGlove]; done)
    | (with_reducible refine Keeps.foldl (fun s a h => ?_) ?_)
    | (with_reducible refine Keeps.foldlFst (fun s a h => ?_) ?_)
    | (refine Keeps.ofFst (by with_reducible assumption) ?_)
    | split
    | dsimp only)

theorem State.darnSpare_keeps {F : Prop} {b s : State} (h : Keeps F b s) (c : Cmd) (k : Coded) (x : SeatInfo) (t' : List Byte) (first : Option Failed) :
    Keeps F b (s.darnSpare c k x t' first) := by
  unfold State.darnSpare
  try dsimp only
  repeat' (first
    | with_reducible assumption
    | with_reducible apply State.spareRows_keeps
    | with_reducible apply State.failAlone_keeps
    | with_reducible apply State.hold_keeps
    | with_reducible apply State.noteFailed_keeps
    | with_reducible apply State.startColl_keeps
    | exact fun h => h
    | exact fun _ => rfl
    | exact Nat.le_refl _
    | exact fun w => Mem.write_wf w _ _
    | exact fun _ h => h
    | exact fun _ _ => rfl
    | (intro w; refine Coded.all_map ?_ w; intro p h; first | exact h | (split <;> exact h))
    | exact fun w => Coded.all_filter w
    | (exact fun w => Coded.all_set (by simp [Coded.pairsOk, Coded.opened]) w)
    | (intro k w; simp_all [Coded.pairsOk, Coded.setC, Coded.setS, Coded.modGlove]; done)
    | (with_reducible refine Keeps.foldl (fun s a h => ?_) ?_)
    | (with_reducible refine Keeps.foldlFst (fun s a h => ?_) ?_)
    | (refine Keeps.ofFst (by with_reducible assumption) ?_)
    | split
    | dsimp only)

theorem State.opDarnStart_keeps {F : Prop} {b s : State} (h : Keeps F b s) (c : Cmd) :
    Keeps F b (s.opDarnStart c) := by
  unfold State.opDarnStart
  try dsimp only
  repeat' (first
    | with_reducible assumption
    | with_reducible apply State.tableRow_keeps
    | with_reducible apply State.spareAlone_keeps
    | with_reducible apply State.post_keeps
    | with_reducible apply State.badParam_keeps
    | with_reducible apply State.darnMember_keeps
    | with_reducible apply State.darnSpare_keeps
    | (with_reducible refine Keeps.foldl (fun s a h => ?_) ?_)
    | (refine Keeps.ofFst (by with_reducible assumption) ?_)
    | split
    | dsimp only)

theorem State.setFill_keeps {F : Prop} {b s : State} (h : Keeps F b s) (num n : Nat) :
    Keeps F b (s.setFill num n) := by
  unfold State.setFill
  try dsimp only
  repeat' (first
    | with_reducible assumption
    | with_reducible apply State.modStitch_keeps
    | (with_reducible refine Keeps.foldl (fun s a h => ?_) ?_)
    | dsimp only)

theorem State.takeSeat_keeps {F : Prop} {b s : State} (h : Keeps F b s) (c : Coll) (x : SeatInfo) (step : Nat) :
    Keeps F b (s.takeSeat c x step) := by
  unfold State.takeSeat
  try dsimp only
  repeat' (first
    | with_reducible assumption
    | with_reducible apply State.checkBank_keeps
    | with_reducible apply State.setFill_keeps
    | with_reducible apply State.addRegion_keeps
    | with_reducible apply State.modCoded_keeps
    | exact fun k _ => Coded.takeSeat_pairsOk k _ _ _ _
    | exact fun h => h
    | exact fun _ => rfl
    | exact Nat.le_refl _
    | exact fun w => Mem.write_wf w _ _
    | exact fun _ h => h
    | exact fun _ _ => rfl
    | (intro w; refine Coded.all_map ?_ w; intro p h; first | exact h | (split <;> exact h))
    | exact fun w => Coded.all_filter w
    | (exact fun w => Coded.all_set (by simp [Coded.pairsOk, Coded.opened]) w)
    | (intro k w; simp_all [Coded.pairsOk, Coded.setC, Coded.setS, Coded.modGlove]; done)
    | (with_reducible refine Keeps.foldl (fun s a h => ?_) ?_)
    | (with_reducible refine Keeps.foldlFst (fun s a h => ?_) ?_)
    | (refine Keeps.ofFst (by with_reducible assumption) ?_)
    | split
    | dsimp only
    | with_reducible apply Keeps.made)

theorem State.darnOutcome_keeps {F : Prop} {b s : State} (h : Keeps F b s) (c : Coll) (recs : List (Nat × List Byte)) (x3 : Block) :
    Keeps F b (s.darnOutcome c recs x3) := by
  unfold State.darnOutcome
  try dsimp only
  repeat' (first
    | with_reducible assumption
    | with_reducible apply State.endColl_keeps
    | with_reducible apply State.modGlove_keeps
    | with_reducible apply State.takeSeat_keeps
    | exact fun h => h
    | exact fun _ => rfl
    | exact Nat.le_refl _
    | exact fun w => Mem.write_wf w _ _
    | exact fun _ h => h
    | exact fun _ _ => rfl
    | (intro w; refine Coded.all_map ?_ w; intro p h; first | exact h | (split <;> exact h))
    | exact fun w => Coded.all_filter w
    | (exact fun w => Coded.all_set (by simp [Coded.pairsOk, Coded.opened]) w)
    | (intro k w; simp_all [Coded.pairsOk, Coded.setC, Coded.setS, Coded.modGlove]; done)
    | (with_reducible refine Keeps.foldl (fun s a h => ?_) ?_)
    | (with_reducible refine Keeps.foldlFst (fun s a h => ?_) ?_)
    | (refine Keeps.ofFst (by with_reducible assumption) ?_)
    | split
    | dsimp only
    | with_reducible apply Keeps.made)

theorem State.opStandinAssign_keeps {F : Prop} {b s : State} (h : Keeps F b s) (c : Cmd) :
    Keeps F b (s.opStandinAssign c) := by
  unfold State.opStandinAssign
  try dsimp only
  repeat' (first
    | with_reducible assumption
    | with_reducible apply State.post_keeps
    | with_reducible apply State.memberRows_keeps
    | with_reducible apply State.failAlone_keeps
    | with_reducible apply State.unverified_keeps
    | with_reducible apply State.hold_keeps
    | with_reducible apply State.noteFailed_keeps
    | with_reducible apply State.startColl_keeps
    | split
    | dsimp only)

theorem State.standinOutcome_keeps {F : Prop} {b s : State} (h : Keeps F b s) (c : Coll) (recs : List (Nat × List Byte)) (x3 : Block) :
    Keeps F b (s.standinOutcome c recs x3) := by
  unfold State.standinOutcome
  try dsimp only
  repeat' (first
    | with_reducible assumption
    | with_reducible apply State.endColl_keeps
    | with_reducible apply State.removeRegion_keeps
    | with_reducible apply State.setFill_keeps
    | with_reducible apply State.addRegion_keeps
    | with_reducible apply State.modGlove_keeps
    | split
    | dsimp only)

theorem State.endDarn_keeps {F : Prop} {b s : State} (h : Keeps F b s) (d : Darn) (failed stamp : Nat) :
    Keeps F b (s.endDarn d failed stamp) := by
  unfold State.endDarn
  try dsimp only
  repeat' (first
    | with_reducible assumption
    | with_reducible apply State.modGlove_keeps
    | with_reducible apply State.regradeGain_keeps
    | with_reducible apply State.endJobs_keeps
    | exact fun h => h
    | exact fun _ => rfl
    | exact Nat.le_refl _
    | exact fun w => Mem.write_wf w _ _
    | exact fun _ h => h
    | exact fun _ _ => rfl
    | (intro w; refine Coded.all_map ?_ w; intro p h; first | exact h | (split <;> exact h))
    | exact fun w => Coded.all_filter w
    | (exact fun w => Coded.all_set (by simp [Coded.pairsOk, Coded.opened]) w)
    | (intro k w; simp_all [Coded.pairsOk, Coded.setC, Coded.setS, Coded.modGlove]; done)
    | (with_reducible refine Keeps.foldl (fun s a h => ?_) ?_)
    | (with_reducible refine Keeps.foldlFst (fun s a h => ?_) ?_)
    | (refine Keeps.ofFst (by with_reducible assumption) ?_)
    | split
    | dsimp only
    | with_reducible apply Keeps.made)

theorem State.settleDarns_keeps {F : Prop} {b s : State} (h : Keeps F b s) :
    Keeps F b (s.settleDarns) := by
  unfold State.settleDarns
  try dsimp only
  repeat' (first
    | with_reducible assumption
    | with_reducible apply State.endDarn_keeps
    | (with_reducible refine Keeps.foldl (fun s a h => ?_) ?_)
    | split
    | dsimp only)

theorem State.darnEnded_keeps {F : Prop} {b s : State} (h : Keeps F b s) (ctx num : Nat) (failed : List Nat) (stamp : Nat) :
    Keeps F b (s.darnEnded ctx num failed stamp) := by
  unfold State.darnEnded
  try dsimp only
  repeat' (first
    | with_reducible assumption
    | with_reducible apply State.modGlove_keeps
    | with_reducible apply State.endDarn_keeps
    | split
    | dsimp only)

theorem State.afterStitch_keeps {F : Prop} {b s : State} (h : Keeps F b s) (ctx region idx : Nat) (e' : ChainEnd) :
    Keeps F b (s.afterStitch ctx region idx e') := by
  unfold State.afterStitch
  try dsimp only
  repeat' (first
    | with_reducible assumption
    | with_reducible apply State.endJobs_keeps
    | with_reducible apply State.leaveUnfolded_keeps
    | with_reducible apply State.retryHeld_keeps
    | with_reducible apply State.retryDeltas_keeps
    | with_reducible apply State.settleDarns_keeps
    | with_reducible apply State.regradeGain_keeps
    | split
    | dsimp only)

theorem State.opDarnStitch_keeps {F : Prop} {b s : State} (h : Keeps F b s) (c : Cmd) :
    Keeps F b (s.opDarnStitch c) := by
  unfold State.opDarnStitch
  try dsimp only
  repeat' (first
    | with_reducible assumption
    | with_reducible apply State.post_keeps
    | with_reducible apply State.badParam_keeps
    | with_reducible apply State.hold_keeps
    | with_reducible apply State.issueChain_keeps
    | with_reducible apply State.afterStitch_keeps
    | split
    | dsimp only)

theorem State.retryStitches_keeps {F : Prop} {b s : State} (h : Keeps F b s) :
    Keeps F b (s.retryStitches) := by
  unfold State.retryStitches
  try dsimp only
  repeat' (first
    | with_reducible assumption
    | with_reducible apply State.issueChain_keeps
    | with_reducible apply State.postAt_keeps
    | (with_reducible refine Keeps.foldl (fun s a h => ?_) ?_)
    | split
    | dsimp only)

theorem State.backgroundChain_keeps {F : Prop} {b s : State} (h : Keeps F b s) (ctx num : Nat) :
    Keeps F b (s.backgroundChain ctx num) := by
  unfold State.backgroundChain
  try dsimp only
  repeat' (first
    | with_reducible assumption
    | with_reducible apply State.issueChain_keeps
    | with_reducible apply State.afterStitch_keeps
    | split
    | dsimp only)

theorem State.reissueChanged_keeps {F : Prop} {b s : State} (h : Keeps F b s) (ctx : Nat) :
    Keeps F b (s.reissueChanged ctx) := by
  unfold State.reissueChanged
  try dsimp only
  repeat' (first
    | with_reducible assumption
    | with_reducible apply State.reissue_keeps
    | (with_reducible refine Keeps.foldl (fun s a h => ?_) ?_)
    | split
    | dsimp only)

theorem State.darnLoss_keeps {F : Prop} {b s : State} (h : Keeps F b s) (ctx member : Nat) :
    Keeps F b (s.darnLoss ctx member) := by
  unfold State.darnLoss
  try dsimp only
  repeat' (first
    | with_reducible assumption
    | with_reducible apply State.dropChain_keeps
    | with_reducible apply State.endJobs_keeps
    | exact fun h => h
    | exact fun _ => rfl
    | exact Nat.le_refl _
    | exact fun w => Mem.write_wf w _ _
    | exact fun _ h => h
    | exact fun _ _ => rfl
    | (intro w; refine Coded.all_map ?_ w; intro p h; first | exact h | (split <;> exact h))
    | exact fun w => Coded.all_filter w
    | (exact fun w => Coded.all_set (by simp [Coded.pairsOk, Coded.opened]) w)
    | (intro k w; simp_all [Coded.pairsOk, Coded.setC, Coded.setS, Coded.modGlove]; done)
    | (with_reducible refine Keeps.foldl (fun s a h => ?_) ?_)
    | (with_reducible refine Keeps.foldlFst (fun s a h => ?_) ?_)
    | (refine Keeps.ofFst (by with_reducible assumption) ?_)
    | split
    | dsimp only
    | with_reducible apply Keeps.made)

theorem State.opEvacuateSelf_keeps {F : Prop} {b s : State} (h : Keeps F b s) (c : Cmd) :
    Keeps F b (s.opEvacuateSelf c) := by
  unfold State.opEvacuateSelf
  try dsimp only
  repeat' (first
    | with_reducible assumption
    | with_reducible apply State.badParam_keeps
    | with_reducible apply State.post_keeps
    | with_reducible apply State.modCu_keeps
    | exact fun _ => rfl
    | split
    | dsimp only)

theorem State.admitMember_keeps {F : Prop} {b s : State} (h : Keeps F b s) (c : Cmd) (k : Coded) (gl : Glove) (t' : List Byte) (first : Option Failed) :
    Keeps F b (s.admitMember c k gl t' first) := by
  unfold State.admitMember
  try dsimp only
  repeat' (first
    | with_reducible assumption
    | with_reducible apply State.memberRows_keeps
    | with_reducible apply State.failAlone_keeps
    | with_reducible apply State.hold_keeps
    | with_reducible apply State.noteFailed_keeps
    | with_reducible apply State.startColl_keeps
    | exact fun h => h
    | exact fun _ => rfl
    | exact Nat.le_refl _
    | exact fun w => Mem.write_wf w _ _
    | exact fun _ h => h
    | exact fun _ _ => rfl
    | (intro w; refine Coded.all_map ?_ w; intro p h; first | exact h | (split <;> exact h))
    | exact fun w => Coded.all_filter w
    | (exact fun w => Coded.all_set (by simp [Coded.pairsOk, Coded.opened]) w)
    | (intro k w; simp_all [Coded.pairsOk, Coded.setC, Coded.setS, Coded.modGlove]; done)
    | (with_reducible refine Keeps.foldl (fun s a h => ?_) ?_)
    | (with_reducible refine Keeps.foldlFst (fun s a h => ?_) ?_)
    | (refine Keeps.ofFst (by with_reducible assumption) ?_)
    | split
    | dsimp only)

theorem State.admitNew_keeps {F : Prop} {b s : State} (h : Keeps F b s) (c : Cmd) (k : Coded) (x : SeatInfo) (t' : List Byte) (first : Option Failed) :
    Keeps F b (s.admitNew c k x t' first) := by
  unfold State.admitNew
  try dsimp only
  repeat' (first
    | with_reducible assumption
    | with_reducible apply State.spareRows_keeps
    | with_reducible apply State.failAlone_keeps
    | with_reducible apply State.hold_keeps
    | with_reducible apply State.noteFailed_keeps
    | with_reducible apply State.startColl_keeps
    | exact fun h => h
    | exact fun _ => rfl
    | exact Nat.le_refl _
    | exact fun w => Mem.write_wf w _ _
    | exact fun _ h => h
    | exact fun _ _ => rfl
    | (intro w; refine Coded.all_map ?_ w; intro p h; first | exact h | (split <;> exact h))
    | exact fun w => Coded.all_filter w
    | (exact fun w => Coded.all_set (by simp [Coded.pairsOk, Coded.opened]) w)
    | (intro k w; simp_all [Coded.pairsOk, Coded.setC, Coded.setS, Coded.modGlove]; done)
    | (with_reducible refine Keeps.foldl (fun s a h => ?_) ?_)
    | (with_reducible refine Keeps.foldlFst (fun s a h => ?_) ?_)
    | (refine Keeps.ofFst (by with_reducible assumption) ?_)
    | split
    | dsimp only)

theorem State.opAdmit_keeps {F : Prop} {b s : State} (h : Keeps F b s) (c : Cmd) :
    Keeps F b (s.opAdmit c) := by
  unfold State.opAdmit
  try dsimp only
  repeat' (first
    | with_reducible assumption
    | with_reducible apply State.tableRow_keeps
    | with_reducible apply State.spareAlone_keeps
    | with_reducible apply State.post_keeps
    | with_reducible apply State.admitMember_keeps
    | with_reducible apply State.admitNew_keeps
    | (with_reducible refine Keeps.foldl (fun s a h => ?_) ?_)
    | (refine Keeps.ofFst (by with_reducible assumption) ?_)
    | split
    | dsimp only)

theorem State.admitOutcome_keeps {F : Prop} {b s : State} (h : Keeps F b s) (c : Coll) (recs : List (Nat × List Byte)) (x3 : Block) :
    Keeps F b (s.admitOutcome c recs x3) := by
  unfold State.admitOutcome
  try dsimp only
  repeat' (first
    | with_reducible assumption
    | with_reducible apply State.endColl_keeps
    | with_reducible apply State.modStitch_keeps
    | with_reducible apply State.modCoded_keeps
    | with_reducible apply State.addRegion_keeps
    | exact fun h => h
    | exact fun _ => rfl
    | exact Nat.le_refl _
    | exact fun w => Mem.write_wf w _ _
    | exact fun _ h => h
    | exact fun _ _ => rfl
    | (intro w; refine Coded.all_map ?_ w; intro p h; first | exact h | (split <;> exact h))
    | exact fun w => Coded.all_filter w
    | (exact fun w => Coded.all_set (by simp [Coded.pairsOk, Coded.opened]) w)
    | (intro k w; simp_all [Coded.pairsOk, Coded.setC, Coded.setS, Coded.modGlove]; done)
    | (with_reducible refine Keeps.foldl (fun s a h => ?_) ?_)
    | (with_reducible refine Keeps.foldlFst (fun s a h => ?_) ?_)
    | (refine Keeps.ofFst (by with_reducible assumption) ?_)
    | split
    | dsimp only)

theorem State.sendCopy_keeps {F : Prop} {b s : State} (h : Keeps F b s) (ctx : Nat) :
    Keeps F b (s.sendCopy ctx) := by
  unfold State.sendCopy
  try dsimp only
  repeat' (first
    | with_reducible assumption
    | with_reducible apply State.gloveTerm_keeps
    | with_reducible apply State.checked_keeps
    | with_reducible apply State.send_keeps
    | (with_reducible refine Keeps.foldl (fun s a h => ?_) ?_)
    | (refine Keeps.ofFst (by with_reducible assumption) ?_)
    | split
    | dsimp only)

theorem State.copyAcked_keeps {F : Prop} {b s : State} (h : Keeps F b s) (src : Coord) (w : Wire) :
    Keeps F b (s.copyAcked src w) := by
  unfold State.copyAcked
  try dsimp only
  repeat' (first
    | with_reducible assumption
    | with_reducible apply State.modStitch_keeps
    | split
    | dsimp only)

theorem State.takeCopy_keeps {F : Prop} {b s : State} (h : Keeps F b s) (src : Coord) (w : Wire) (a : Admission) (gl : Glove) :
    Keeps F b (s.takeCopy src w a gl) := by
  unfold State.takeCopy
  try dsimp only
  repeat' (first
    | with_reducible assumption
    | with_reducible apply State.reply_keeps
    | with_reducible apply State.remember_keeps
    | with_reducible apply State.writeRebuilt_keeps
    | with_reducible apply State.modCoded_keeps
    | exact fun h => h
    | exact fun _ h => h
    | split
    | dsimp only)

theorem State.finishHandover_keeps {F : Prop} {b s : State} (h : Keeps F b s) (ctx : Nat) :
    Keeps F b (s.finishHandover ctx) := by
  unfold State.finishHandover
  try dsimp only
  repeat' (first
    | with_reducible assumption
    | with_reducible apply State.endJobs_keeps
    | with_reducible apply State.modCoded_keeps
    | with_reducible apply State.removeRegion_keeps
    | with_reducible apply State.modGlove_keeps
    | with_reducible apply State.checkBank_keeps
    | exact fun k _ => Coded.takeSeat_pairsOk k _ _ _ _
    | exact fun h => h
    | exact fun _ => rfl
    | exact Nat.le_refl _
    | exact fun w => Mem.write_wf w _ _
    | exact fun _ h => h
    | exact fun _ _ => rfl
    | (intro w; refine Coded.all_map ?_ w; intro p h; first | exact h | (split <;> exact h))
    | exact fun w => Coded.all_filter w
    | (exact fun w => Coded.all_set (by simp [Coded.pairsOk, Coded.opened]) w)
    | (intro k w; simp_all [Coded.pairsOk, Coded.setC, Coded.setS, Coded.modGlove]; done)
    | (with_reducible refine Keeps.foldl (fun s a h => ?_) ?_)
    | (with_reducible refine Keeps.foldlFst (fun s a h => ?_) ?_)
    | (refine Keeps.ofFst (by with_reducible assumption) ?_)
    | split
    | dsimp only
    | with_reducible apply Keeps.made)

theorem State.endAdmission_keeps {F : Prop} {b s : State} (h : Keeps F b s) (ctx lost cause : Nat) :
    Keeps F b (s.endAdmission ctx lost cause) := by
  unfold State.endAdmission
  try dsimp only
  repeat' (first
    | with_reducible assumption
    | with_reducible apply State.send_keeps
    | with_reducible apply State.statusFault_keeps
    | with_reducible apply State.modStitch_keeps
    | with_reducible apply State.removeRegion_keeps
    | with_reducible apply State.dropSent_keeps
    | with_reducible apply State.modCoded_keeps
    | with_reducible apply State.endJobs_keeps
    | exact fun h => h
    | exact fun _ => rfl
    | exact Nat.le_refl _
    | exact fun w => Mem.write_wf w _ _
    | exact fun _ h => h
    | exact fun _ _ => rfl
    | (intro w; refine Coded.all_map ?_ w; intro p h; first | exact h | (split <;> exact h))
    | exact fun w => Coded.all_filter w
    | (exact fun w => Coded.all_set (by simp [Coded.pairsOk, Coded.opened]) w)
    | (intro k w; simp_all [Coded.pairsOk, Coded.setC, Coded.setS, Coded.modGlove]; done)
    | (with_reducible refine Keeps.foldl (fun s a h => ?_) ?_)
    | (with_reducible refine Keeps.foldlFst (fun s a h => ?_) ?_)
    | (refine Keeps.ofFst (by with_reducible assumption) ?_)
    | split
    | dsimp only)

theorem State.admitLoss_keeps {F : Prop} {b s : State} (h : Keeps F b s) (ctx member cause : Nat) :
    Keeps F b (s.admitLoss ctx member cause) := by
  unfold State.admitLoss
  try dsimp only
  repeat' (first
    | with_reducible assumption
    | with_reducible apply State.endAdmission_keeps
    | split
    | dsimp only)

theorem State.holdsSeal_keeps {F : Prop} {b s : State} (h : Keeps F b s) (ctx : Nat) (h' : HbGroup) :
    Keeps F b (s.holdsSeal ctx h').1 := by
  unfold State.holdsSeal
  try dsimp only
  repeat' (first
    | with_reducible assumption
    | with_reducible apply State.slotSeal_keeps)

theorem State.ownShapeSealed_keeps {F : Prop} {b s : State} (h : Keeps F b s) (c : Cmd) (seq : Nat) :
    Keeps F b (s.ownShapeSealed c seq).1 := by
  unfold State.ownShapeSealed
  try dsimp only
  repeat' (first
    | with_reducible assumption
    | with_reducible apply State.holdsSeal_keeps
    | exact fun h => h
    | exact fun _ => rfl
    | exact Nat.le_refl _
    | exact fun w => Mem.write_wf w _ _
    | exact fun _ h => h
    | exact fun _ _ => rfl
    | (intro w; refine Coded.all_map ?_ w; intro p h; first | exact h | (split <;> exact h))
    | exact fun w => Coded.all_filter w
    | (exact fun w => Coded.all_set (by simp [Coded.pairsOk, Coded.opened]) w)
    | (intro k w; simp_all [Coded.pairsOk, Coded.setC, Coded.setS, Coded.modGlove]; done)
    | (with_reducible refine Keeps.foldl (fun s a h => ?_) ?_)
    | (with_reducible refine Keeps.foldlFst (fun s a h => ?_) ?_)
    | (refine Keeps.ofFst (by with_reducible assumption) ?_)
    | split
    | dsimp only)

theorem State.confCheck_keeps {F : Prop} {b s : State} (h : Keeps F b s) (c : Cmd) (seq : Nat) (t' : List Byte) :
    Keeps F b (s.confCheck c seq t').1 := by
  unfold State.confCheck
  try dsimp only
  repeat' (first
    | with_reducible assumption
    | with_reducible apply State.checkDomains_keeps
    | with_reducible apply State.ownShapeSealed_keeps
    | (with_reducible refine Keeps.foldl (fun s a h => ?_) ?_)
    | (refine Keeps.ofFst (by with_reducible assumption) ?_)
    | split
    | dsimp only)

theorem State.opConfigure_keeps {F : Prop} {b s : State} (h : Keeps F b s) (c : Cmd) :
    Keeps F b (s.opConfigure c) := by
  unfold State.opConfigure
  try dsimp only
  repeat' (first
    | with_reducible assumption
    | with_reducible apply State.post_keeps
    | with_reducible apply State.readPlacement_keeps
    | with_reducible apply State.badParam_keeps
    | with_reducible apply State.confCheck_keeps
    | with_reducible apply State.failAlone_keeps
    | with_reducible apply State.hold_keeps
    | with_reducible apply State.noteFailed_keeps
    | with_reducible apply State.startColl_keeps
    | (with_reducible refine Keeps.foldl (fun s a h => ?_) ?_)
    | (refine Keeps.ofFst (by with_reducible assumption) ?_)
    | split
    | dsimp only)

theorem State.sealsOther_keeps {F : Prop} {b s : State} (h : Keeps F b s) (k : Coded) (hash : Word) (clear : Bool) :
    Keeps F b (s.sealsOther k hash clear).1 := by
  unfold State.sealsOther
  try dsimp only
  repeat' (first
    | with_reducible assumption
    | with_reducible apply State.holdsSeal_keeps
    | split
    | dsimp only)

theorem State.placeArea_keeps {F : Prop} {b s : State} (h : Keeps F b s) (ctx num base len : Nat) (same : Bool) :
    Keeps F b (s.placeArea ctx num base len same) := by
  unfold State.placeArea
  try dsimp only
  repeat' (first
    | with_reducible assumption
    | with_reducible apply State.modRegion_keeps
    | with_reducible apply State.addRegion_keeps
    | split
    | dsimp only)

theorem State.makeGroup_keeps {F : Prop} {b s : State} (h : Keeps F b s) (c : Coll) (k : Coded) (th time : Nat) :
    Keeps F b (s.makeGroup c k th time) := by
  unfold State.makeGroup
  try dsimp only
  repeat' (first
    | with_reducible assumption
    | with_reducible apply State.sealsOther_keeps
    | with_reducible apply State.endColl_keeps
    | with_reducible apply State.removeRegion_keeps
    | with_reducible apply State.placeArea_keeps
    | with_reducible apply State.modCoded_keeps
    | with_reducible apply State.storePage_keeps
    | exact fun h => h
    | exact fun _ h => h
    | split
    | dsimp only)

theorem State.confOutcome_keeps {F : Prop} {b s : State} (h : Keeps F b s) (c : Coll) (recs : List (Nat × List Byte)) (x3 : Block) :
    Keeps F b (s.confOutcome c recs x3) := by
  unfold State.confOutcome
  try dsimp only
  repeat' (first
    | with_reducible assumption
    | with_reducible apply State.endColl_keeps
    | with_reducible apply State.makeGroup_keeps
    | split
    | dsimp only)

theorem State.opHbRequest_keeps {F : Prop} {b s : State} (h : Keeps F b s) (c : Cmd) :
    Keeps F b (s.opHbRequest c) := by
  unfold State.opHbRequest
  try dsimp only
  repeat' (first
    | with_reducible assumption
    | with_reducible apply State.post_keeps
    | with_reducible apply State.hold_keeps
    | with_reducible apply State.modCoded_keeps
    | exact fun h => h
    | exact fun _ h => h
    | split
    | dsimp only)

theorem State.opHatboxWrite_keeps {F : Prop} {b s : State} (h : Keeps F b s) (c : Cmd) :
    Keeps F b (s.opHatboxWrite c) := by
  unfold State.opHatboxWrite
  try dsimp only
  repeat' (first
    | with_reducible assumption
    | with_reducible apply State.post_keeps
    | with_reducible apply State.opHbRequest_keeps
    | with_reducible apply State.badParam_keeps
    | split
    | dsimp only)

theorem State.opRestore_keeps {F : Prop} {b s : State} (h : Keeps F b s) (c : Cmd) :
    Keeps F b (s.opRestore c) := by
  unfold State.opRestore
  try dsimp only
  repeat' (first
    | with_reducible assumption
    | with_reducible apply State.post_keeps
    | with_reducible apply State.readTable_keeps
    | with_reducible apply State.badParam_keeps
    | with_reducible apply State.dropGlove_keeps
    | with_reducible apply State.slotSeal_keeps
    | with_reducible apply State.modCoded_keeps
    | with_reducible apply State.hold_keeps
    | with_reducible apply State.startColl_keeps
    | exact fun h => h
    | exact fun _ => rfl
    | exact Nat.le_refl _
    | exact fun w => Mem.write_wf w _ _
    | exact fun _ h => h
    | exact fun _ _ => rfl
    | (intro w; refine Coded.all_map ?_ w; intro p h; first | exact h | (split <;> exact h))
    | exact fun w => Coded.all_filter w
    | (exact fun w => Coded.all_set (by simp [Coded.pairsOk, Coded.opened]) w)
    | (intro k w; simp_all [Coded.pairsOk, Coded.setC, Coded.setS, Coded.modGlove]; done)
    | (with_reducible refine Keeps.foldl (fun s a h => ?_) ?_)
    | (with_reducible refine Keeps.foldlFst (fun s a h => ?_) ?_)
    | (refine Keeps.ofFst (by with_reducible assumption) ?_)
    | split
    | dsimp only)

theorem State.restoreDown_keeps {F : Prop} {b s : State} (h : Keeps F b s) (c : Coll) (r : Restore) (x3 : Block) :
    Keeps F b (s.restoreDown c r x3) := by
  unfold State.restoreDown
  try dsimp only
  repeat' (first
    | with_reducible assumption
    | with_reducible apply State.sendDecision_keeps
    | with_reducible apply State.send_keeps
    | (with_reducible refine Keeps.foldl (fun s a h => ?_) ?_)
    | dsimp only)

theorem State.endRestore_keeps {F : Prop} {b s : State} (h : Keeps F b s) (ctx status result stamp : Nat) :
    Keeps F b (s.endRestore ctx status result stamp) := by
  unfold State.endRestore
  try dsimp only
  repeat' (first
    | with_reducible assumption
    | with_reducible apply State.dropQueued_keeps
    | with_reducible apply State.dropSent_keeps
    | with_reducible apply State.modCoded_keeps
    | with_reducible apply State.endJobs_keeps
    | exact fun h => h
    | exact fun _ => rfl
    | exact Nat.le_refl _
    | exact fun w => Mem.write_wf w _ _
    | exact fun _ h => h
    | exact fun _ _ => rfl
    | (intro w; refine Coded.all_map ?_ w; intro p h; first | exact h | (split <;> exact h))
    | exact fun w => Coded.all_filter w
    | (exact fun w => Coded.all_set (by simp [Coded.pairsOk, Coded.opened]) w)
    | (intro k w; simp_all [Coded.pairsOk, Coded.setC, Coded.setS, Coded.modGlove]; done)
    | (with_reducible refine Keeps.foldl (fun s a h => ?_) ?_)
    | (with_reducible refine Keeps.foldlFst (fun s a h => ?_) ?_)
    | (refine Keeps.ofFst (by with_reducible assumption) ?_)
    | split
    | dsimp only
    | with_reducible apply Keeps.made)

theorem State.restoreOutcome_keeps {F : Prop} {b s : State} (h : Keeps F b s) (c : Coll) (recs : List (Nat × List Byte)) (x3 : Block) :
    Keeps F b (s.restoreOutcome c recs x3) := by
  unfold State.restoreOutcome
  try dsimp only
  repeat' (first
    | with_reducible assumption
    | with_reducible apply State.bufferWrite_keeps
    | with_reducible apply State.collFault_keeps
    | with_reducible apply State.endRestore_keeps
    | with_reducible apply State.modCoded_keeps
    | with_reducible apply State.raise_keeps
    | exact fun h => h
    | exact fun _ h => h
    | split
    | dsimp only)

theorem State.presentPiece_keeps {F : Prop} {b s : State} (h : Keeps F b s) (ctx : Nat) (h' : HbGroup) (r : Restore) (pos : Nat) :
    Keeps F b (s.presentPiece ctx h' r pos).1 := by
  unfold State.presentPiece
  try dsimp only
  repeat' (first
    | with_reducible assumption
    | with_reducible apply State.readStored_keeps
    | split
    | dsimp only)

theorem State.failPiece_keeps {F : Prop} {b s : State} (h : Keeps F b s) (ctx : Nat) (h' : HbGroup) (pos : Nat) :
    Keeps F b (s.failPiece ctx h' pos) := by
  unfold State.failPiece
  try dsimp only
  repeat' (first
    | with_reducible assumption
    | with_reducible apply State.endRestore_keeps
    | with_reducible apply State.raise_keeps
    | exact fun h => h
    | exact fun _ => rfl
    | exact Nat.le_refl _
    | exact fun w => Mem.write_wf w _ _
    | exact fun _ h => h
    | exact fun _ _ => rfl
    | (intro w; refine Coded.all_map ?_ w; intro p h; first | exact h | (split <;> exact h))
    | exact fun w => Coded.all_filter w
    | (exact fun w => Coded.all_set (by simp [Coded.pairsOk, Coded.opened]) w)
    | (intro k w; simp_all [Coded.pairsOk, Coded.setC, Coded.setS, Coded.modGlove]; done)
    | (with_reducible refine Keeps.foldl (fun s a h => ?_) ?_)
    | (with_reducible refine Keeps.foldlFst (fun s a h => ?_) ?_)
    | (refine Keeps.ofFst (by with_reducible assumption) ?_)
    | split
    | dsimp only)

theorem State.takeHeader_keeps {F : Prop} {b s : State} (h : Keeps F b s) (ctx : Nat) (h' : HbGroup) (data : List Byte) :
    Keeps F b (s.takeHeader ctx h' data) := by
  unfold State.takeHeader
  try dsimp only
  repeat' (first
    | with_reducible assumption
    | with_reducible apply State.raise_keeps
    | with_reducible apply State.failPiece_keeps
    | with_reducible apply State.endRestore_keeps
    | with_reducible apply State.modCoded_keeps
    | exact fun h => h
    | exact fun _ h => h
    | split
    | dsimp only)

theorem State.restorePalm_keeps {F : Prop} {b s : State} (h : Keeps F b s) (ctx pos : Nat) (data : List Byte) (tag : Word) :
    Keeps F b (s.restorePalm ctx pos data tag) := by
  unfold State.restorePalm
  try dsimp only
  repeat' (first
    | with_reducible assumption
    | with_reducible apply State.neverPages_keeps
    | with_reducible apply State.storePage_keeps
    | with_reducible apply State.modStitch_keeps
    | with_reducible apply State.modCoded_keeps
    | exact fun h => h
    | exact fun _ h => h
    | split
    | dsimp only)

theorem State.finishRestore_keeps {F : Prop} {b s : State} (h : Keeps F b s) (ctx x : Nat) (header : List Byte) (stamp : Nat) :
    Keeps F b (s.finishRestore ctx x header stamp) := by
  unfold State.finishRestore
  try dsimp only
  repeat' (first
    | with_reducible assumption
    | with_reducible apply State.modCoded_keeps
    | with_reducible apply State.endRestore_keeps
    | exact fun h => h
    | exact fun _ => rfl
    | exact Nat.le_refl _
    | exact fun w => Mem.write_wf w _ _
    | exact fun _ h => h
    | exact fun _ _ => rfl
    | (intro w; refine Coded.all_map ?_ w; intro p h; first | exact h | (split <;> exact h))
    | exact fun w => Coded.all_filter w
    | (exact fun w => Coded.all_set (by simp [Coded.pairsOk, Coded.opened]) w)
    | (intro k w; simp_all [Coded.pairsOk, Coded.setC, Coded.setS, Coded.modGlove]; done)
    | (with_reducible refine Keeps.foldl (fun s a h => ?_) ?_)
    | (with_reducible refine Keeps.foldlFst (fun s a h => ?_) ?_)
    | (refine Keeps.ofFst (by with_reducible assumption) ?_)
    | split
    | dsimp only
    | with_reducible apply Keeps.made)

theorem State.checkRestore_keeps {F : Prop} {b s : State} (h : Keeps F b s) (ctx : Nat) :
    Keeps F b (s.checkRestore ctx) := by
  unfold State.checkRestore
  try dsimp only
  repeat' (first
    | with_reducible assumption
    | with_reducible apply State.finishRestore_keeps
    | split
    | dsimp only)

theorem State.rebuildPiece_keeps {F : Prop} {b s : State} (h : Keeps F b s) (ctx : Nat) (h' : HbGroup) (r : Restore) (pos x : Nat) :
    Keeps F b (s.rebuildPiece ctx h' r pos x) := by
  unfold State.rebuildPiece
  try dsimp only
  repeat' (first
    | with_reducible assumption
    | with_reducible apply State.issuePiece_keeps
    | with_reducible apply State.modCoded_keeps
    | with_reducible apply State.failPiece_keeps
    | exact fun h => h
    | exact fun _ h => h
    | split
    | dsimp only)

theorem State.restorePiece_keeps {F : Prop} {b s : State} (h : Keeps F b s) (ctx : Nat) :
    Keeps F b (s.restorePiece ctx) := by
  unfold State.restorePiece
  try dsimp only
  repeat' (first
    | with_reducible assumption
    | with_reducible apply State.useGroup_keeps
    | with_reducible apply State.presentPiece_keeps
    | with_reducible apply State.checkRestore_keeps
    | with_reducible apply State.takeHeader_keeps
    | with_reducible apply State.rebuildPiece_keeps
    | with_reducible apply State.modCoded_keeps
    | with_reducible apply State.restorePalm_keeps
    | exact fun h => h
    | exact fun _ => rfl
    | exact Nat.le_refl _
    | exact fun w => Mem.write_wf w _ _
    | exact fun _ h => h
    | exact fun _ _ => rfl
    | (intro w; refine Coded.all_map ?_ w; intro p h; first | exact h | (split <;> exact h))
    | exact fun w => Coded.all_filter w
    | (exact fun w => Coded.all_set (by simp [Coded.pairsOk, Coded.opened]) w)
    | (intro k w; simp_all [Coded.pairsOk, Coded.setC, Coded.setS, Coded.modGlove]; done)
    | (with_reducible refine Keeps.foldl (fun s a h => ?_) ?_)
    | (with_reducible refine Keeps.foldlFst (fun s a h => ?_) ?_)
    | (refine Keeps.ofFst (by with_reducible assumption) ?_)
    | split
    | dsimp only)

theorem State.endPiece_keeps {F : Prop} {b s : State} (h : Keeps F b s) (c : Chain) (data : List Byte) (tag checkAcc : Word) :
    Keeps F b (s.endPiece c data tag checkAcc) := by
  unfold State.endPiece
  try dsimp only
  repeat' (first
    | with_reducible assumption
    | with_reducible apply State.dropChain_keeps
    | with_reducible apply State.checkRestore_keeps
    | with_reducible apply State.takeHeader_keeps
    | with_reducible apply State.restorePalm_keeps
    | with_reducible apply State.failPiece_keeps
    | split
    | dsimp only)

theorem State.reissuePiece_keeps {F : Prop} {b s : State} (h : Keeps F b s) (c : Chain) :
    Keeps F b (s.reissuePiece c) := by
  unfold State.reissuePiece
  try dsimp only
  repeat' (first
    | with_reducible assumption
    | with_reducible apply State.issuePiece_keeps
    | with_reducible apply State.dropChain_keeps
    | exact fun h => h
    | exact fun _ => rfl
    | exact Nat.le_refl _
    | exact fun w => Mem.write_wf w _ _
    | exact fun _ h => h
    | exact fun _ _ => rfl
    | (intro w; refine Coded.all_map ?_ w; intro p h; first | exact h | (split <;> exact h))
    | exact fun w => Coded.all_filter w
    | (exact fun w => Coded.all_set (by simp [Coded.pairsOk, Coded.opened]) w)
    | (intro k w; simp_all [Coded.pairsOk, Coded.setC, Coded.setS, Coded.modGlove]; done)
    | (with_reducible refine Keeps.foldl (fun s a h => ?_) ?_)
    | (with_reducible refine Keeps.foldlFst (fun s a h => ?_) ?_)
    | (refine Keeps.ofFst (by with_reducible assumption) ?_)
    | split
    | dsimp only)

theorem State.readTiles_keeps {F : Prop} {b s : State} (h : Keeps F b s) (ctx a n : Nat) (hosting : Bool) :
    Keeps F b (s.readTiles ctx a n hosting).1 := by
  unfold State.readTiles
  try dsimp only
  repeat' (first
    | with_reducible assumption
    | with_reducible apply State.padunRead_keeps
    | (with_reducible refine Keeps.foldl (fun s a h => ?_) ?_)
    | (refine Keeps.ofFst (by with_reducible assumption) ?_)
    | split
    | dsimp only)

theorem State.exportCuff_keeps {F : Prop} {b s : State} (h : Keeps F b s) (k : Coded) (source : Nat) :
    Keeps F b (s.exportCuff k source).1 := by
  unfold State.exportCuff
  try dsimp only
  repeat' (first
    | with_reducible assumption
    | with_reducible apply State.readStored_keeps
    | with_reducible apply State.checkBank_keeps
    | (with_reducible refine Keeps.foldl (fun s a h => ?_) ?_)
    | (refine Keeps.ofFst (by with_reducible assumption) ?_)
    | split
    | dsimp only)

theorem State.exportStitch_keeps {F : Prop} {b s : State} (h : Keeps F b s) (ctx : Nat) (k : Coded) (source : Nat) (r : Region) (idx : Nat) :
    Keeps F b (s.exportStitch ctx k source r idx).1 := by
  unfold State.exportStitch
  try dsimp only
  repeat' (first
    | with_reducible assumption
    | with_reducible apply State.demandDarn_keeps
    | with_reducible apply State.readCrowned_keeps
    | with_reducible apply State.uninitRead_keeps
    | with_reducible apply State.readStored_keeps
    | (with_reducible refine Keeps.foldl (fun s a h => ?_) ?_)
    | (refine Keeps.ofFst (by with_reducible assumption) ?_)
    | split
    | dsimp only)

theorem State.exportTile_keeps {F : Prop} {b s : State} (h : Keeps F b s) (ctx : Nat) (k : Coded) (source : Nat) (t' : TileEntry) :
    Keeps F b (s.exportTile ctx k source t').1 := by
  unfold State.exportTile
  try dsimp only
  repeat' (first
    | with_reducible assumption
    | with_reducible apply State.exportStitch_keeps
    | exact fun h => h
    | exact fun _ => rfl
    | exact Nat.le_refl _
    | exact fun w => Mem.write_wf w _ _
    | exact fun _ h => h
    | exact fun _ _ => rfl
    | (intro w; refine Coded.all_map ?_ w; intro p h; first | exact h | (split <;> exact h))
    | exact fun w => Coded.all_filter w
    | (exact fun w => Coded.all_set (by simp [Coded.pairsOk, Coded.opened]) w)
    | (intro k w; simp_all [Coded.pairsOk, Coded.setC, Coded.setS, Coded.modGlove]; done)
    | (with_reducible refine Keeps.foldl (fun s a h => ?_) ?_)
    | (with_reducible refine Keeps.foldlFst (fun s a h => ?_) ?_)
    | (refine Keeps.ofFst (by with_reducible assumption) ?_)
    | split
    | dsimp only)

theorem State.imagePart_keeps {F : Prop} {b s : State} (h : Keeps F b s) (ctx : Nat) (k : Coded) (j : ImageJob) (p : ImagePart) :
    Keeps F b (s.imagePart ctx k j p).1 := by
  unfold State.imagePart
  try dsimp only
  repeat' (first
    | with_reducible assumption
    | with_reducible apply State.exportCuff_keeps
    | with_reducible apply State.exportTile_keeps
    | with_reducible apply State.exportStitch_keeps
    | (with_reducible refine Keeps.foldl (fun s a h => ?_) ?_)
    | (refine Keeps.ofFst (by with_reducible assumption) ?_)
    | split
    | dsimp only)

theorem State.modImage_keeps {F : Prop} {b s : State} (h : Keeps F b s) (ctx : Nat) (f : ImageJob → ImageJob) :
    Keeps F b (s.modImage ctx f) := by
  unfold State.modImage
  try dsimp only
  repeat' (first
    | with_reducible assumption
    | with_reducible apply State.modCoded_keeps
    | exact fun h => h
    | exact fun _ h => h
    | split
    | dsimp only)

theorem State.askStorage_keeps {F : Prop} {b s : State} (h : Keeps F b s) (ctx : Nat) (k : Coded) (j : ImageJob) (sub off count : Nat) (payload : List Byte) :
    Keeps F b (s.askStorage ctx k j sub off count payload) := by
  unfold State.askStorage
  try dsimp only
  repeat' (first
    | with_reducible assumption
    | with_reducible apply State.modImage_keeps
    | with_reducible apply State.emit_keeps
    | split
    | dsimp only)

theorem State.endImage_keeps {F : Prop} {b s : State} (h : Keeps F b s) (ctx status result : Nat) :
    Keeps F b (s.endImage ctx status result) := by
  unfold State.endImage
  try dsimp only
  repeat' (first
    | with_reducible assumption
    | with_reducible apply State.modCoded_keeps
    | with_reducible apply State.endJobs_keeps
    | exact fun h => h
    | exact fun _ h => h
    | split
    | dsimp only)

theorem State.blankPalm_keeps {F : Prop} {b s : State} (h : Keeps F b s) (ctx : Nat) :
    Keeps F b (s.blankPalm ctx) := by
  unfold State.blankPalm
  try dsimp only
  repeat' (first
    | with_reducible assumption
    | with_reducible apply State.dropStitches_keeps
    | with_reducible apply State.neverPages_keeps
    | (with_reducible refine Keeps.foldl (fun s a h => ?_) ?_)
    | dsimp only)

theorem State.failImport_keeps {F : Prop} {b s : State} (h : Keeps F b s) (ctx status : Nat) :
    Keeps F b (s.failImport ctx status) := by
  unfold State.failImport
  try dsimp only
  repeat' (first
    | with_reducible assumption
    | with_reducible apply State.blankPalm_keeps
    | with_reducible apply State.statusFault_keeps
    | with_reducible apply State.endImage_keeps)

theorem State.outsideTiles_keeps {F : Prop} {b s : State} (h : Keeps F b s) (ctx : Nat) (k : Coded) (source : Nat) (ts : List TileEntry) :
    Keeps F b (s.outsideTiles ctx k source ts).1 := by
  unfold State.outsideTiles
  try dsimp only
  repeat' (first
    | with_reducible assumption
    | with_reducible apply State.readStored_keeps
    | exact fun h => h
    | exact fun _ => rfl
    | exact Nat.le_refl _
    | exact fun w => Mem.write_wf w _ _
    | exact fun _ h => h
    | exact fun _ _ => rfl
    | (intro w; refine Coded.all_map ?_ w; intro p h; first | exact h | (split <;> exact h))
    | exact fun w => Coded.all_filter w
    | (exact fun w => Coded.all_set (by simp [Coded.pairsOk, Coded.opened]) w)
    | (intro k w; simp_all [Coded.pairsOk, Coded.setC, Coded.setS, Coded.modGlove]; done)
    | (with_reducible refine Keeps.foldl (fun s a h => ?_) ?_)
    | (with_reducible refine Keeps.foldlFst (fun s a h => ?_) ?_)
    | (refine Keeps.ofFst (by with_reducible assumption) ?_)
    | split
    | dsimp only)

theorem State.exportStep_keeps {F : Prop} {b s : State} (h : Keeps F b s) (k : Coded) (source step : Nat) :
    Keeps F b (s.exportStep k source step).1 := by
  unfold State.exportStep
  try dsimp only
  repeat' (first
    | with_reducible assumption
    | with_reducible apply State.slotSeal_keeps
    | split
    | dsimp only)

theorem State.exportTables_keeps {F : Prop} {b s : State} (h : Keeps F b s) (c : Cmd) :
    Keeps F b (s.exportTables c).1 := by
  unfold State.exportTables
  try dsimp only
  repeat' (first
    | with_reducible assumption
    | with_reducible apply State.readTiles_keeps
    | with_reducible apply State.bufferRead_keeps
    | exact fun h => h
    | exact fun _ => rfl
    | exact Nat.le_refl _
    | exact fun w => Mem.write_wf w _ _
    | exact fun _ h => h
    | exact fun _ _ => rfl
    | (intro w; refine Coded.all_map ?_ w; intro p h; first | exact h | (split <;> exact h))
    | exact fun w => Coded.all_filter w
    | (exact fun w => Coded.all_set (by simp [Coded.pairsOk, Coded.opened]) w)
    | (intro k w; simp_all [Coded.pairsOk, Coded.setC, Coded.setS, Coded.modGlove]; done)
    | (with_reducible refine Keeps.foldl (fun s a h => ?_) ?_)
    | (with_reducible refine Keeps.foldlFst (fun s a h => ?_) ?_)
    | (refine Keeps.ofFst (by with_reducible assumption) ?_)
    | split
    | dsimp only)

theorem State.opImageExport_keeps {F : Prop} {b s : State} (h : Keeps F b s) (c : Cmd) :
    Keeps F b (s.opImageExport c) := by
  unfold State.opImageExport
  try dsimp only
  repeat' (first
    | with_reducible assumption
    | with_reducible apply State.post_keeps
    | with_reducible apply State.badParam_keeps
    | with_reducible apply State.exportTables_keeps
    | with_reducible apply State.exportStep_keeps
    | with_reducible apply State.outsideTiles_keeps
    | with_reducible apply State.hold_keeps
    | with_reducible apply State.modCoded_keeps
    | with_reducible apply State.bump_keeps
    | exact fun h => h
    | exact fun _ => rfl
    | exact Nat.le_refl _
    | exact fun w => Mem.write_wf w _ _
    | exact fun _ h => h
    | exact fun _ _ => rfl
    | (intro w; refine Coded.all_map ?_ w; intro p h; first | exact h | (split <;> exact h))
    | exact fun w => Coded.all_filter w
    | (exact fun w => Coded.all_set (by simp [Coded.pairsOk, Coded.opened]) w)
    | (intro k w; simp_all [Coded.pairsOk, Coded.setC, Coded.setS, Coded.modGlove]; done)
    | (with_reducible refine Keeps.foldl (fun s a h => ?_) ?_)
    | (with_reducible refine Keeps.foldlFst (fun s a h => ?_) ?_)
    | (refine Keeps.ofFst (by with_reducible assumption) ?_)
    | split
    | dsimp only)

theorem State.finishExport_keeps {F : Prop} {b s : State} (h : Keeps F b s) (ctx : Nat) (j : ImageJob) :
    Keeps F b (s.finishExport ctx j) := by
  unfold State.finishExport
  try dsimp only
  repeat' (first
    | with_reducible assumption
    | with_reducible apply State.endImage_keeps
    | split
    | dsimp only)

theorem State.yieldExports_keeps {F : Prop} {b s : State} (h : Keeps F b s) :
    Keeps F b (s.yieldExports) := by
  unfold State.yieldExports
  try dsimp only
  repeat' (first
    | with_reducible assumption
    | with_reducible apply State.endImage_keeps
    | (with_reducible refine Keeps.foldl (fun s a h => ?_) ?_)
    | split
    | dsimp only)

theorem State.opImageImport_keeps {F : Prop} {b s : State} (h : Keeps F b s) (c : Cmd) :
    Keeps F b (s.opImageImport c) := by
  unfold State.opImageImport
  try dsimp only
  repeat' (first
    | with_reducible assumption
    | with_reducible apply State.post_keeps
    | with_reducible apply State.badParam_keeps
    | with_reducible apply State.readTiles_keeps
    | with_reducible apply State.hold_keeps
    | with_reducible apply State.modCoded_keeps
    | with_reducible apply State.blankPalm_keeps
    | exact fun h => h
    | exact fun _ => rfl
    | exact Nat.le_refl _
    | exact fun w => Mem.write_wf w _ _
    | exact fun _ h => h
    | exact fun _ _ => rfl
    | (intro w; refine Coded.all_map ?_ w; intro p h; first | exact h | (split <;> exact h))
    | exact fun w => Coded.all_filter w
    | (exact fun w => Coded.all_set (by simp [Coded.pairsOk, Coded.opened]) w)
    | (intro k w; simp_all [Coded.pairsOk, Coded.setC, Coded.setS, Coded.modGlove]; done)
    | (with_reducible refine Keeps.foldl (fun s a h => ?_) ?_)
    | (with_reducible refine Keeps.foldlFst (fun s a h => ?_) ?_)
    | (refine Keeps.ofFst (by with_reducible assumption) ?_)
    | split
    | dsimp only)

theorem State.keepTile_keeps {F : Prop} {b s : State} (h : Keeps F b s) (ctx : Nat) (j : ImageJob) (e' : Nat) :
    Keeps F b (s.keepTile ctx j e') := by
  unfold State.keepTile
  try dsimp only
  repeat' (first
    | with_reducible assumption
    | with_reducible apply State.failImport_keeps
    | with_reducible apply State.capture_keeps
    | with_reducible apply State.modImage_keeps
    | exact fun h => h
    | exact fun _ => rfl
    | exact Nat.le_refl _
    | exact fun w => Mem.write_wf w _ _
    | exact fun _ h => h
    | exact fun _ _ => rfl
    | (intro w; refine Coded.all_map ?_ w; intro p h; first | exact h | (split <;> exact h))
    | exact fun w => Coded.all_filter w
    | (exact fun w => Coded.all_set (by simp [Coded.pairsOk, Coded.opened]) w)
    | (intro k w; simp_all [Coded.pairsOk, Coded.setC, Coded.setS, Coded.modGlove]; done)
    | (with_reducible refine Keeps.foldl (fun s a h => ?_) ?_)
    | (with_reducible refine Keeps.foldlFst (fun s a h => ?_) ?_)
    | (refine Keeps.ofFst (by with_reducible assumption) ?_)
    | split
    | dsimp only)

theorem State.placeTile_keeps {F : Prop} {b s : State} (h : Keeps F b s) (j : ImageJob) (e' : Nat) (data : List Byte) :
    Keeps F b (s.placeTile j e' data) := by
  unfold State.placeTile
  try dsimp only
  repeat' (first
    | with_reducible assumption
    | with_reducible apply State.storePage_keeps
    | (with_reducible refine Keeps.foldl (fun s a h => ?_) ?_)
    | split
    | dsimp only)

theorem State.finishImport_keeps {F : Prop} {b s : State} (h : Keeps F b s) (ctx : Nat) (j : ImageJob) :
    Keeps F b (s.finishImport ctx j) := by
  unfold State.finishImport
  try dsimp only
  repeat' (first
    | with_reducible assumption
    | with_reducible apply State.failImport_keeps
    | with_reducible apply State.placeTile_keeps
    | with_reducible apply State.modCoded_keeps
    | with_reducible apply State.endImage_keeps
    | exact fun h => h
    | exact fun _ => rfl
    | exact Nat.le_refl _
    | exact fun w => Mem.write_wf w _ _
    | exact fun _ h => h
    | exact fun _ _ => rfl
    | (intro w; refine Coded.all_map ?_ w; intro p h; first | exact h | (split <;> exact h))
    | exact fun w => Coded.all_filter w
    | (exact fun w => Coded.all_set (by simp [Coded.pairsOk, Coded.opened]) w)
    | (intro k w; simp_all [Coded.pairsOk, Coded.setC, Coded.setS, Coded.modGlove]; done)
    | (with_reducible refine Keeps.foldl (fun s a h => ?_) ?_)
    | (with_reducible refine Keeps.foldlFst (fun s a h => ?_) ?_)
    | (refine Keeps.ofFst (by with_reducible assumption) ?_)
    | split
    | dsimp only
    | with_reducible apply Keeps.made)

theorem State.takeImageData_keeps {F : Prop} {b s : State} (h : Keeps F b s) (ctx : Nat) (j : ImageJob) (data : List Byte) :
    Keeps F b (s.takeImageData ctx j data) := by
  unfold State.takeImageData
  try dsimp only
  repeat' (first
    | with_reducible assumption
    | with_reducible apply State.failImport_keeps
    | with_reducible apply State.modImage_keeps
    | with_reducible apply State.capture_keeps
    | with_reducible apply State.keepTile_keeps
    | split
    | dsimp only)

theorem State.checkImage_keeps {F : Prop} {b s : State} (h : Keeps F b s) (ctx : Nat) :
    Keeps F b (s.checkImage ctx) := by
  unfold State.checkImage
  try dsimp only
  repeat' (first
    | with_reducible assumption
    | with_reducible apply State.finishImport_keeps
    | with_reducible apply State.finishExport_keeps
    | split
    | dsimp only)

theorem State.sendImage_keeps {F : Prop} {b s : State} (h : Keeps F b s) (ctx : Nat) :
    Keeps F b (s.sendImage ctx) := by
  unfold State.sendImage
  try dsimp only
  repeat' (first
    | with_reducible assumption
    | with_reducible apply State.checkImage_keeps
    | with_reducible apply State.askStorage_keeps
    | with_reducible apply State.endImage_keeps
    | with_reducible apply State.imagePart_keeps
    | (with_reducible refine Keeps.foldl (fun s a h => ?_) ?_)
    | (refine Keeps.ofFst (by with_reducible assumption) ?_)
    | split
    | dsimp only)

theorem State.takeExportPart_keeps {F : Prop} {b s : State} (h : Keeps F b s) (w : Wire) :
    Keeps F b (s.takeExportPart w) := by
  unfold State.takeExportPart
  try dsimp only
  repeat' (first
    | with_reducible assumption
    | with_reducible apply State.countDrop_keeps
    | with_reducible apply State.checkImage_keeps
    | with_reducible apply State.modImage_keeps
    | with_reducible apply State.emit_keeps
    | with_reducible apply State.takeImageData_keeps
    | split
    | dsimp only)

theorem State.storageExpired_keeps {F : Prop} {b s : State} (h : Keeps F b s) (ctx : Nat) :
    Keeps F b (s.storageExpired ctx) := by
  unfold State.storageExpired
  try dsimp only
  repeat' (first
    | with_reducible assumption
    | with_reducible apply State.failImport_keeps
    | with_reducible apply State.endImage_keeps
    | split
    | dsimp only)

end Sys2Proof.Machine
end

