-- ==== Sys2Proof/Laws/KeepsReceive.lean ====
section
/-! SUPPORT. Each operation of Arming, Power, Receive, Slots, Tiles, Traffic, Remote leaves the queue, the clock and the fuses alone, and keeps memory's
canonical form and the complement pairs. -/

namespace Sys2Proof.Machine

theorem State.armWitnessRows_keeps {F : Prop} {b s : State} (h : Keeps F b s) (c : Cmd) (k : Coded) (x : SeatInfo) (first : Option Failed) (running : Bool) :
    Keeps F b (s.armWitnessRows c k x first running).1 := by
  unfold State.armWitnessRows
  try dsimp only
  repeat' (first
    | with_reducible assumption
    | with_reducible apply State.recordLanes_keeps
    | exact fun h => h
    | exact fun _ => rfl
    | exact Nat.le_refl _
    | exact fun w => Mem.write_wf w _ _
    | exact fun _ h => h
    | exact fun _ _ => rfl
    | (intro w; refine Coded.all_map ?_ w; intro p h; first | exact h | (split <;> exact h))
    | exact fun w => Coded.all_filter w
    | (exact fun w => Coded.all_set (by simp [Coded.pairsOk, Coded.opened]) w)
    | (intro k w; simp_all [Coded.pairsOk, Coded.setC, Coded.setS, Coded.modGlove]; done)
    | (with_reducible refine Keeps.foldl (fun s a h => ?_) ?_)
    | (with_reducible refine Keeps.foldlFst (fun s a h => ?_) ?_)
    | (refine Keeps.ofFst (by with_reducible assumption) ?_)
    | split
    | dsimp only)

theorem State.startArm_keeps {F : Prop} {b s : State} (h : Keeps F b s) (c : Cmd) (k : Coded) (n me role : Nat) (status : Option Failed) (labels t' : List Byte) :
    Keeps F b (s.startArm c k n me role status labels t') := by
  unfold State.startArm
  try dsimp only
  repeat' (first
    | with_reducible assumption
    | with_reducible apply State.unverified_keeps
    | with_reducible apply State.hold_keeps
    | with_reducible apply State.noteFailed_keeps
    | with_reducible apply State.startColl_keeps
    | exact fun h => h
    | exact fun _ => rfl
    | exact Nat.le_refl _
    | exact fun w => Mem.write_wf w _ _
    | exact fun _ h => h
    | exact fun _ _ => rfl
    | (intro w; refine Coded.all_map ?_ w; intro p h; first | exact h | (split <;> exact h))
    | exact fun w => Coded.all_filter w
    | (exact fun w => Coded.all_set (by simp [Coded.pairsOk, Coded.opened]) w)
    | (intro k w; simp_all [Coded.pairsOk, Coded.setC, Coded.setS, Coded.modGlove]; done)
    | (with_reducible refine Keeps.foldl (fun s a h => ?_) ?_)
    | (with_reducible refine Keeps.foldlFst (fun s a h => ?_) ?_)
    | (refine Keeps.ofFst (by with_reducible assumption) ?_)
    | split
    | dsimp only)

theorem State.readLabels_keeps {F : Prop} {b s : State} (h : Keeps F b s) (c : Cmd) :
    Keeps F b (s.readLabels c).1 := by
  unfold State.readLabels
  try dsimp only
  repeat' (first
    | with_reducible assumption
    | with_reducible apply State.padunRead_keeps
    | split
    | dsimp only)

theorem State.armWitness_keeps {F : Prop} {b s : State} (h : Keeps F b s) (c : Cmd) (first : Option Failed) (labels : List Byte) :
    Keeps F b (s.armWitness c first labels) := by
  unfold State.armWitness
  try dsimp only
  repeat' (first
    | with_reducible assumption
    | with_reducible apply State.failAs_keeps
    | with_reducible apply State.tableRow_keeps
    | with_reducible apply State.armWitnessRows_keeps
    | with_reducible apply State.startArm_keeps
    | with_reducible apply State.spareAlone_keeps
    | exact fun h => h
    | exact fun _ => rfl
    | exact Nat.le_refl _
    | exact fun w => Mem.write_wf w _ _
    | exact fun _ h => h
    | exact fun _ _ => rfl
    | (intro w; refine Coded.all_map ?_ w; intro p h; first | exact h | (split <;> exact h))
    | exact fun w => Coded.all_filter w
    | (exact fun w => Coded.all_set (by simp [Coded.pairsOk, Coded.opened]) w)
    | (intro k w; simp_all [Coded.pairsOk, Coded.setC, Coded.setS, Coded.modGlove]; done)
    | (with_reducible refine Keeps.foldl (fun s a h => ?_) ?_)
    | (with_reducible refine Keeps.foldlFst (fun s a h => ?_) ?_)
    | (refine Keeps.ofFst (by with_reducible assumption) ?_)
    | split
    | dsimp only)

theorem State.armMember_keeps {F : Prop} {b s : State} (h : Keeps F b s) (c : Cmd) (first : Option Failed) (labels : List Byte) :
    Keeps F b (s.armMember c first labels) := by
  unfold State.armMember
  try dsimp only
  repeat' (first
    | with_reducible assumption
    | with_reducible apply State.failAs_keeps
    | with_reducible apply State.startArm_keeps
    | exact fun h => h
    | exact fun _ => rfl
    | exact Nat.le_refl _
    | exact fun w => Mem.write_wf w _ _
    | exact fun _ h => h
    | exact fun _ _ => rfl
    | (intro w; refine Coded.all_map ?_ w; intro p h; first | exact h | (split <;> exact h))
    | exact fun w => Coded.all_filter w
    | (exact fun w => Coded.all_set (by simp [Coded.pairsOk, Coded.opened]) w)
    | (intro k w; simp_all [Coded.pairsOk, Coded.setC, Coded.setS, Coded.modGlove]; done)
    | (with_reducible refine Keeps.foldl (fun s a h => ?_) ?_)
    | (with_reducible refine Keeps.foldlFst (fun s a h => ?_) ?_)
    | (refine Keeps.ofFst (by with_reducible assumption) ?_)
    | split
    | dsimp only)

theorem State.opWitnessArm_keeps {F : Prop} {b s : State} (h : Keeps F b s) (c : Cmd) :
    Keeps F b (s.opWitnessArm c) := by
  unfold State.opWitnessArm
  try dsimp only
  repeat' (first
    | with_reducible assumption
    | with_reducible apply State.post_keeps
    | with_reducible apply State.postAt_keeps
    | with_reducible apply State.readLabels_keeps
    | with_reducible apply State.armWitness_keeps
    | with_reducible apply State.armMember_keeps
    | (with_reducible refine Keeps.foldl (fun s a h => ?_) ?_)
    | (refine Keeps.ofFst (by with_reducible assumption) ?_)
    | split
    | dsimp only)

theorem State.takeWitness_keeps {F : Prop} {b s : State} (h : Keeps F b s) (ctx suspect : Nat) (x : SeatInfo) :
    Keeps F b (s.takeWitness ctx suspect x) := by
  unfold State.takeWitness
  try dsimp only
  repeat' (first
    | with_reducible assumption
    | with_reducible apply State.checkBank_keeps
    | with_reducible apply State.setFill_keeps
    | with_reducible apply State.dropStitches_keeps
    | with_reducible apply State.modCoded_keeps
    | exact fun h => h
    | exact fun _ => rfl
    | exact Nat.le_refl _
    | exact fun w => Mem.write_wf w _ _
    | exact fun _ h => h
    | exact fun _ _ => rfl
    | (intro w; refine Coded.all_map ?_ w; intro p h; first | exact h | (split <;> exact h))
    | exact fun w => Coded.all_filter w
    | (exact fun w => Coded.all_set (by simp [Coded.pairsOk, Coded.opened]) w)
    | (intro k w; simp_all [Coded.pairsOk, Coded.setC, Coded.setS, Coded.modGlove]; done)
    | (with_reducible refine Keeps.foldl (fun s a h => ?_) ?_)
    | (with_reducible refine Keeps.foldlFst (fun s a h => ?_) ?_)
    | (refine Keeps.ofFst (by with_reducible assumption) ?_)
    | split
    | dsimp only
    | with_reducible apply Keeps.made)

theorem State.armEnd_keeps {F : Prop} {b s : State} (h : Keeps F b s) (c : Coll) (recs : List (Nat × List Byte)) (x3 : Block) :
    Keeps F b (s.armEnd c recs x3) := by
  unfold State.armEnd
  try dsimp only
  repeat' (first
    | with_reducible assumption
    | with_reducible apply State.endColl_keeps
    | with_reducible apply State.modCoded_keeps
    | with_reducible apply State.suspectFrozen_keeps
    | with_reducible apply State.takeWitness_keeps
    | exact fun h => h
    | exact fun _ => rfl
    | exact Nat.le_refl _
    | exact fun w => Mem.write_wf w _ _
    | exact fun _ h => h
    | exact fun _ _ => rfl
    | (intro w; refine Coded.all_map ?_ w; intro p h; first | exact h | (split <;> exact h))
    | exact fun w => Coded.all_filter w
    | (exact fun w => Coded.all_set (by simp [Coded.pairsOk, Coded.opened]) w)
    | (intro k w; simp_all [Coded.pairsOk, Coded.setC, Coded.setS, Coded.modGlove]; done)
    | (with_reducible refine Keeps.foldl (fun s a h => ?_) ?_)
    | (with_reducible refine Keeps.foldlFst (fun s a h => ?_) ?_)
    | (refine Keeps.ofFst (by with_reducible assumption) ?_)
    | split
    | dsimp only
    | with_reducible apply Keeps.made)

theorem State.leaveWitness_keeps {F : Prop} {b s : State} (h : Keeps F b s) (ctx w status : Nat) :
    Keeps F b (s.leaveWitness ctx w status) := by
  unfold State.leaveWitness
  try dsimp only
  repeat' (first
    | with_reducible assumption
    | with_reducible apply State.endWitness_keeps
    | with_reducible apply State.dropSent_keeps
    | with_reducible apply State.stopChains_keeps
    | with_reducible apply State.blankPalm_keeps
    | with_reducible apply State.beginDiscard_keeps
    | with_reducible apply State.retryHeld_keeps
    | exact fun h => h
    | exact fun _ => rfl
    | exact Nat.le_refl _
    | exact fun w => Mem.write_wf w _ _
    | exact fun _ h => h
    | exact fun _ _ => rfl
    | (intro w; refine Coded.all_map ?_ w; intro p h; first | exact h | (split <;> exact h))
    | exact fun w => Coded.all_filter w
    | (exact fun w => Coded.all_set (by simp [Coded.pairsOk, Coded.opened]) w)
    | (intro k w; simp_all [Coded.pairsOk, Coded.setC, Coded.setS, Coded.modGlove]; done)
    | (with_reducible refine Keeps.foldl (fun s a h => ?_) ?_)
    | (with_reducible refine Keeps.foldlFst (fun s a h => ?_) ?_)
    | (refine Keeps.ofFst (by with_reducible assumption) ?_)
    | split
    | dsimp only
    | with_reducible apply Keeps.made)

theorem State.settleWitnesses_keeps {F : Prop} {b s : State} (h : Keeps F b s) :
    Keeps F b (s.settleWitnesses) := by
  unfold State.settleWitnesses
  try dsimp only
  repeat' (first
    | with_reducible assumption
    | with_reducible apply State.leaveWitness_keeps
    | exact fun h => h
    | exact fun _ => rfl
    | exact Nat.le_refl _
    | exact fun w => Mem.write_wf w _ _
    | exact fun _ h => h
    | exact fun _ _ => rfl
    | (intro w; refine Coded.all_map ?_ w; intro p h; first | exact h | (split <;> exact h))
    | exact fun w => Coded.all_filter w
    | (exact fun w => Coded.all_set (by simp [Coded.pairsOk, Coded.opened]) w)
    | (intro k w; simp_all [Coded.pairsOk, Coded.setC, Coded.setS, Coded.modGlove]; done)
    | (with_reducible refine Keeps.foldl (fun s a h => ?_) ?_)
    | (with_reducible refine Keeps.foldlFst (fun s a h => ?_) ?_)
    | (refine Keeps.ofFst (by with_reducible assumption) ?_)
    | split
    | dsimp only
    | with_reducible apply Keeps.made)

theorem State.staleWitness_keeps {F : Prop} {b s : State} (h : Keeps F b s) (ctx : Nat) :
    Keeps F b (s.staleWitness ctx) := by
  unfold State.staleWitness
  try dsimp only
  repeat' (first
    | with_reducible assumption
    | with_reducible apply State.send_keeps
    | with_reducible apply State.leaveWitness_keeps
    | (with_reducible refine Keeps.foldl (fun s a h => ?_) ?_)
    | split
    | dsimp only)

theorem State.witnessAbort_keeps {F : Prop} {b s : State} (h : Keeps F b s) (ctx w status : Nat) :
    Keeps F b (s.witnessAbort ctx w status) := by
  unfold State.witnessAbort
  try dsimp only
  repeat' (first
    | with_reducible assumption
    | with_reducible apply State.leaveWitness_keeps
    | with_reducible apply State.abandonWitness_keeps
    | split
    | dsimp only)

theorem State.witnessAcked_keeps {F : Prop} {b s : State} (h : Keeps F b s) (ctx w : Nat) :
    Keeps F b (s.witnessAcked ctx w) := by
  unfold State.witnessAcked
  try dsimp only
  repeat' (first
    | with_reducible assumption
    | with_reducible apply State.leaveWitness_keeps)

theorem State.opWitnessVerdict_keeps {F : Prop} {b s : State} (h : Keeps F b s) (c : Cmd) :
    Keeps F b (s.opWitnessVerdict c) := by
  unfold State.opWitnessVerdict
  try dsimp only
  repeat' (first
    | with_reducible assumption
    | with_reducible apply State.post_keeps
    | with_reducible apply State.badParam_keeps
    | with_reducible apply State.unresolved_keeps
    | with_reducible apply State.endWitness_keeps
    | with_reducible apply State.modWitness_keeps
    | (with_reducible refine Keeps.foldl (fun s a h => ?_) ?_)
    | split
    | dsimp only)

theorem State.takeCeiling_keeps {F : Prop} {b s : State} (h : Keeps F b s) :
    Keeps F b (s.takeCeiling) := by
  unfold State.takeCeiling
  try dsimp only
  repeat' (first
    | with_reducible assumption
    | with_reducible apply State.modInsts_keeps
    | with_reducible apply State.modCu_keeps
    | exact fun h => h
    | exact fun _ => rfl
    | exact Nat.le_refl _
    | exact fun w => Mem.write_wf w _ _
    | exact fun _ h => h
    | exact fun _ _ => rfl
    | (intro w; refine Coded.all_map ?_ w; intro p h; first | exact h | (split <;> exact h))
    | exact fun w => Coded.all_filter w
    | (exact fun w => Coded.all_set (by simp [Coded.pairsOk, Coded.opened]) w)
    | (intro k w; simp_all [Coded.pairsOk, Coded.setC, Coded.setS, Coded.modGlove]; done)
    | (with_reducible refine Keeps.foldl (fun s a h => ?_) ?_)
    | (with_reducible refine Keeps.foldlFst (fun s a h => ?_) ?_)
    | (refine Keeps.ofFst (by with_reducible assumption) ?_)
    | split
    | dsimp only)

theorem State.setPower_keeps {F : Prop} {b s : State} (h : Keeps F b s) (f : Power → Power) :
    Keeps F b (s.setPower f) := by
  unfold State.setPower
  try dsimp only
  repeat' (first
    | with_reducible assumption
    | with_reducible apply State.takeCeiling_keeps
    | with_reducible apply State.modCu_keeps
    | exact fun _ => rfl
    | split
    | dsimp only)

theorem State.setBoost_keeps {F : Prop} {b s : State} (h : Keeps F b s) (x1 : Bool) :
    Keeps F b (s.setBoost x1) := by
  unfold State.setBoost
  try dsimp only
  repeat' (first
    | with_reducible assumption
    | with_reducible apply State.setPower_keeps
    | exact fun h => h
    | exact fun _ => rfl
    | exact Nat.le_refl _
    | exact fun w => Mem.write_wf w _ _
    | exact fun _ h => h
    | exact fun _ _ => rfl
    | (intro w; refine Coded.all_map ?_ w; intro p h; first | exact h | (split <;> exact h))
    | exact fun w => Coded.all_filter w
    | (exact fun w => Coded.all_set (by simp [Coded.pairsOk, Coded.opened]) w)
    | (intro k w; simp_all [Coded.pairsOk, Coded.setC, Coded.setS, Coded.modGlove]; done)
    | (with_reducible refine Keeps.foldl (fun s a h => ?_) ?_)
    | (with_reducible refine Keeps.foldlFst (fun s a h => ?_) ?_)
    | (refine Keeps.ofFst (by with_reducible assumption) ?_)
    | split
    | dsimp only)

theorem State.findBoost_keeps {F : Prop} {b s : State} (h : Keeps F b s) :
    Keeps F b (s.findBoost) := by
  unfold State.findBoost
  try dsimp only
  repeat' (first
    | with_reducible assumption
    | with_reducible apply State.setBoost_keeps)

theorem State.keepBoost_keeps {F : Prop} {b s : State} (h : Keeps F b s) :
    Keeps F b (s.keepBoost) := by
  unfold State.keepBoost
  try dsimp only
  repeat' (first
    | with_reducible assumption
    | with_reducible apply State.setBoost_keeps
    | with_reducible apply State.findBoost_keeps
    | split
    | dsimp only)

theorem State.takeWeight_keeps {F : Prop} {b s : State} (h : Keeps F b s) (i : Nat) :
    Keeps F b (s.takeWeight i) := by
  unfold State.takeWeight
  try dsimp only
  repeat' (first
    | with_reducible assumption
    | with_reducible apply State.modCu_keeps
    | exact fun _ => rfl
    | split
    | dsimp only)

theorem State.governorTick_keeps {F : Prop} {b s : State} (h : Keeps F b s) (i : Fin 16) (busy : Bool) :
    Keeps F b (s.governorTick i busy) := by
  unfold State.governorTick
  try dsimp only
  repeat' (first
    | with_reducible assumption
    | with_reducible apply State.takeWeight_keeps
    | with_reducible apply State.modInst_keeps
    | with_reducible apply State.findBoost_keeps
    | split
    | dsimp only)

theorem State.clampRises_keeps {F : Prop} {b s : State} (h : Keeps F b s) :
    Keeps F b (s.clampRises) := by
  unfold State.clampRises
  try dsimp only
  repeat' (first
    | with_reducible assumption
    | with_reducible apply State.modInst_keeps
    | with_reducible apply State.raise_keeps
    | with_reducible apply State.setPower_keeps
    | (with_reducible refine Keeps.foldl (fun s a h => ?_) ?_)
    | split
    | dsimp only)

theorem State.clampFalls_keeps {F : Prop} {b s : State} (h : Keeps F b s) :
    Keeps F b (s.clampFalls) := by
  unfold State.clampFalls
  try dsimp only
  repeat' (first
    | with_reducible assumption
    | with_reducible apply State.setPower_keeps
    | with_reducible apply State.modInsts_keeps
    | split
    | dsimp only)

theorem State.grantFalls_keeps {F : Prop} {b s : State} (h : Keeps F b s) :
    Keeps F b (s.grantFalls) := by
  unfold State.grantFalls
  try dsimp only
  repeat' (first
    | with_reducible assumption
    | with_reducible apply State.keepBoost_keeps
    | with_reducible apply State.setPower_keeps
    | exact fun h => h
    | exact fun _ => rfl
    | exact Nat.le_refl _
    | exact fun w => Mem.write_wf w _ _
    | exact fun _ h => h
    | exact fun _ _ => rfl
    | (intro w; refine Coded.all_map ?_ w; intro p h; first | exact h | (split <;> exact h))
    | exact fun w => Coded.all_filter w
    | (exact fun w => Coded.all_set (by simp [Coded.pairsOk, Coded.opened]) w)
    | (intro k w; simp_all [Coded.pairsOk, Coded.setC, Coded.setS, Coded.modGlove]; done)
    | (with_reducible refine Keeps.foldl (fun s a h => ?_) ?_)
    | (with_reducible refine Keeps.foldlFst (fun s a h => ?_) ?_)
    | (refine Keeps.ofFst (by with_reducible assumption) ?_)
    | split
    | dsimp only
    | with_reducible apply Keeps.made)

theorem State.peakReached_keeps {F : Prop} {b s : State} (h : Keeps F b s) :
    Keeps F b (s.peakReached) := by
  unfold State.peakReached
  try dsimp only
  repeat' (first
    | with_reducible assumption
    | with_reducible apply State.setPower_keeps
    | split
    | dsimp only)

theorem State.peakCleared_keeps {F : Prop} {b s : State} (h : Keeps F b s) :
    Keeps F b (s.peakCleared) := by
  unfold State.peakCleared
  try dsimp only
  repeat' (first
    | with_reducible assumption
    | with_reducible apply State.findBoost_keeps
    | with_reducible apply State.setPower_keeps
    | split
    | dsimp only)

theorem State.passDeadline_keeps {F : Prop} {b s : State} (h : Keeps F b s) (ctx : Nat) :
    Keeps F b (s.passDeadline ctx) := by
  unfold State.passDeadline
  try dsimp only
  repeat' (first
    | with_reducible assumption
    | with_reducible apply State.raiseAt_keeps
    | with_reducible apply State.setBoost_keeps
    | with_reducible apply State.modUppers_keeps
    | with_reducible apply State.modCoded_keeps
    | exact fun h => h
    | exact fun _ => rfl
    | exact Nat.le_refl _
    | exact fun w => Mem.write_wf w _ _
    | exact fun _ h => h
    | exact fun _ _ => rfl
    | (intro w; refine Coded.all_map ?_ w; intro p h; first | exact h | (split <;> exact h))
    | exact fun w => Coded.all_filter w
    | (exact fun w => Coded.all_set (by simp [Coded.pairsOk, Coded.opened]) w)
    | (intro k w; simp_all [Coded.pairsOk, Coded.setC, Coded.setS, Coded.modGlove]; done)
    | (with_reducible refine Keeps.foldl (fun s a h => ?_) ?_)
    | (with_reducible refine Keeps.foldlFst (fun s a h => ?_) ?_)
    | (refine Keeps.ofFst (by with_reducible assumption) ?_)
    | split
    | dsimp only)

theorem State.takeNews_keeps {F : Prop} {b s : State} (h : Keeps F b s) (n : News) :
    Keeps F b (s.takeNews n) := by
  unfold State.takeNews
  try dsimp only
  repeat' (first
    | with_reducible assumption
    | with_reducible apply State.darnEnded_keeps
    | with_reducible apply State.regradeLoss_keeps
    | with_reducible apply State.modGlove_keeps
    | with_reducible apply State.regradeGain_keeps
    | with_reducible apply State.finishHandover_keeps
    | with_reducible apply State.fillEnded_keeps
    | exact fun h => h
    | exact fun _ => rfl
    | exact Nat.le_refl _
    | exact fun w => Mem.write_wf w _ _
    | exact fun _ h => h
    | exact fun _ _ => rfl
    | (intro w; refine Coded.all_map ?_ w; intro p h; first | exact h | (split <;> exact h))
    | exact fun w => Coded.all_filter w
    | (exact fun w => Coded.all_set (by simp [Coded.pairsOk, Coded.opened]) w)
    | (intro k w; simp_all [Coded.pairsOk, Coded.setC, Coded.setS, Coded.modGlove]; done)
    | (with_reducible refine Keeps.foldl (fun s a h => ?_) ?_)
    | (with_reducible refine Keeps.foldlFst (fun s a h => ?_) ?_)
    | (refine Keeps.ofFst (by with_reducible assumption) ?_)
    | split
    | dsimp only
    | with_reducible apply Keeps.made)

theorem State.applyOutcome_keeps {F : Prop} {b s : State} (h : Keeps F b s) (c : Coll) (recs : List (Nat × List Byte)) (x3 : Block) :
    Keeps F b (s.applyOutcome c recs x3) := by
  unfold State.applyOutcome
  try dsimp only
  repeat' (first
    | with_reducible assumption
    | with_reducible apply State.roundOutcome_keeps
    | with_reducible apply State.formOutcome_keeps
    | with_reducible apply State.dissolveOutcome_keeps
    | with_reducible apply State.standinOutcome_keeps
    | with_reducible apply State.admitOutcome_keeps
    | with_reducible apply State.confOutcome_keeps
    | with_reducible apply State.restoreOutcome_keeps
    | with_reducible apply State.armEnd_keeps
    | with_reducible apply State.darnOutcome_keeps
    | split
    | dsimp only)

theorem State.conclude_keeps {F : Prop} {b s : State} (h : Keeps F b s) (c : Coll) (recs : List (Nat × List Byte)) (x3 : Block) :
    Keeps F b (s.conclude c recs x3) := by
  unfold State.conclude
  try dsimp only
  repeat' (first
    | with_reducible assumption
    | with_reducible apply State.dropColl_keeps
    | with_reducible apply State.applyOutcome_keeps
    | exact fun h => h
    | exact fun _ => rfl
    | exact Nat.le_refl _
    | exact fun w => Mem.write_wf w _ _
    | exact fun _ h => h
    | exact fun _ _ => rfl
    | (intro w; refine Coded.all_map ?_ w; intro p h; first | exact h | (split <;> exact h))
    | exact fun w => Coded.all_filter w
    | (exact fun w => Coded.all_set (by simp [Coded.pairsOk, Coded.opened]) w)
    | (intro k w; simp_all [Coded.pairsOk, Coded.setC, Coded.setS, Coded.modGlove]; done)
    | (with_reducible refine Keeps.foldl (fun s a h => ?_) ?_)
    | (with_reducible refine Keeps.foldlFst (fun s a h => ?_) ?_)
    | (refine Keeps.ofFst (by with_reducible assumption) ?_)
    | split
    | dsimp only)

theorem State.announce_keeps {F : Prop} {b s : State} (h : Keeps F b s) (c : Coll) (x2 : Block) :
    Keeps F b (s.announce c x2) := by
  unfold State.announce
  try dsimp only
  repeat' (first
    | with_reducible assumption
    | with_reducible apply State.restoreDown_keeps
    | with_reducible apply State.sendDecision_keeps
    | exact fun h => h
    | exact fun _ => rfl
    | exact Nat.le_refl _
    | exact fun w => Mem.write_wf w _ _
    | exact fun _ h => h
    | exact fun _ _ => rfl
    | (intro w; refine Coded.all_map ?_ w; intro p h; first | exact h | (split <;> exact h))
    | exact fun w => Coded.all_filter w
    | (exact fun w => Coded.all_set (by simp [Coded.pairsOk, Coded.opened]) w)
    | (intro k w; simp_all [Coded.pairsOk, Coded.setC, Coded.setS, Coded.modGlove]; done)
    | (with_reducible refine Keeps.foldl (fun s a h => ?_) ?_)
    | (with_reducible refine Keeps.foldlFst (fun s a h => ?_) ?_)
    | (refine Keeps.ofFst (by with_reducible assumption) ?_)
    | split
    | dsimp only)

theorem State.decideColl_keeps {F : Prop} {b s : State} (h : Keeps F b s) (c : Coll) (x2 : Block) :
    Keeps F b (s.decideColl c x2) := by
  unfold State.decideColl
  try dsimp only
  repeat' (first
    | with_reducible assumption
    | with_reducible apply State.conclude_keeps
    | with_reducible apply State.announce_keeps
    | split
    | dsimp only)

theorem State.rootDecides_keeps {F : Prop} {b s : State} (h : Keeps F b s) (c : Coll) (r : Restore) (status : Nat) (up : List Byte) :
    Keeps F b (s.rootDecides c r status up) := by
  unfold State.rootDecides
  try dsimp only
  repeat' (first
    | with_reducible assumption
    | with_reducible apply State.decideColl_keeps
    | exact fun h => h
    | exact fun _ => rfl
    | exact Nat.le_refl _
    | exact fun w => Mem.write_wf w _ _
    | exact fun _ h => h
    | exact fun _ _ => rfl
    | (intro w; refine Coded.all_map ?_ w; intro p h; first | exact h | (split <;> exact h))
    | exact fun w => Coded.all_filter w
    | (exact fun w => Coded.all_set (by simp [Coded.pairsOk, Coded.opened]) w)
    | (intro k w; simp_all [Coded.pairsOk, Coded.setC, Coded.setS, Coded.modGlove]; done)
    | (with_reducible refine Keeps.foldl (fun s a h => ?_) ?_)
    | (with_reducible refine Keeps.foldlFst (fun s a h => ?_) ?_)
    | (refine Keeps.ofFst (by with_reducible assumption) ?_)
    | split
    | dsimp only)

theorem State.restoreUp_keeps {F : Prop} {b s : State} (h : Keeps F b s) (c : Coll) (r : Restore) (up : List Byte) :
    Keeps F b (s.restoreUp c r up) := by
  unfold State.restoreUp
  try dsimp only
  repeat' (first
    | with_reducible assumption
    | with_reducible apply State.send_keeps
    | with_reducible apply State.modCoded_keeps
    | exact fun h => h
    | exact fun _ => rfl
    | exact Nat.le_refl _
    | exact fun w => Mem.write_wf w _ _
    | exact fun _ h => h
    | exact fun _ _ => rfl
    | (intro w; refine Coded.all_map ?_ w; intro p h; first | exact h | (split <;> exact h))
    | exact fun w => Coded.all_filter w
    | (exact fun w => Coded.all_set (by simp [Coded.pairsOk, Coded.opened]) w)
    | (intro k w; simp_all [Coded.pairsOk, Coded.setC, Coded.setS, Coded.modGlove]; done)
    | (with_reducible refine Keeps.foldl (fun s a h => ?_) ?_)
    | (with_reducible refine Keeps.foldlFst (fun s a h => ?_) ?_)
    | (refine Keeps.ofFst (by with_reducible assumption) ?_)
    | split
    | dsimp only)

theorem State.pumpRestore_keeps {F : Prop} {b s : State} (h : Keeps F b s) (c : Coll) (late : Bool) :
    Keeps F b (s.pumpRestore c late) := by
  unfold State.pumpRestore
  try dsimp only
  repeat' (first
    | with_reducible assumption
    | with_reducible apply State.rootDecides_keeps
    | with_reducible apply State.restoreUp_keeps
    | exact fun h => h
    | exact fun _ h => h
    | split
    | dsimp only)

theorem State.pumpColl_keeps {F : Prop} {b s : State} (h : Keeps F b s) (k : CollKey) :
    Keeps F b (s.pumpColl k) := by
  unfold State.pumpColl
  try dsimp only
  repeat' (first
    | with_reducible assumption
    | with_reducible apply State.roundRecord_keeps
    | with_reducible apply State.sendVote_keeps
    | with_reducible apply State.pumpRestore_keeps
    | with_reducible apply State.decideColl_keeps
    | split
    | dsimp only)

theorem State.pumpColls_keeps {F : Prop} {b s : State} (h : Keeps F b s) :
    Keeps F b (s.pumpColls) := by
  unfold State.pumpColls
  try dsimp only
  repeat' (first
    | with_reducible assumption
    | with_reducible apply State.pumpColl_keeps
    | (with_reducible refine Keeps.foldl (fun s a h => ?_) ?_)
    | dsimp only)

theorem State.takeCollVote_keeps {F : Prop} {b s : State} (h : Keeps F b s) (c : Coll) (w : Wire) :
    Keeps F b (s.takeCollVote c w) := by
  unfold State.takeCollVote
  try dsimp only
  repeat' (first
    | with_reducible assumption
    | with_reducible apply State.modCoded_keeps
    | with_reducible apply State.modColl_keeps
    | exact fun h => h
    | exact fun _ h => h
    | split
    | dsimp only)

theorem State.takeDecision_keeps {F : Prop} {b s : State} (h : Keeps F b s) (c : Coll) (w : Wire) :
    Keeps F b (s.takeDecision c w) := by
  unfold State.takeDecision
  try dsimp only
  repeat' (first
    | with_reducible assumption
    | with_reducible apply State.decideColl_keeps
    | with_reducible apply State.conclude_keeps
    | split
    | dsimp only)

theorem State.actColl_keeps {F : Prop} {b s : State} (h : Keeps F b s) (w : Wire) :
    Keeps F b (s.actColl w) := by
  unfold State.actColl
  try dsimp only
  repeat' (first
    | with_reducible assumption
    | with_reducible apply State.takeCollVote_keeps
    | with_reducible apply State.takeDecision_keeps
    | with_reducible apply State.takeVote_keeps
    | with_reducible apply State.takeBlock_keeps
    | split
    | dsimp only)

theorem State.ackColl_keeps {F : Prop} {b s : State} (h : Keeps F b s) (src : Coord) (w : Wire) :
    Keeps F b (s.ackColl src w) := by
  unfold State.ackColl
  try dsimp only
  repeat' (first
    | with_reducible assumption
    | with_reducible apply State.reply_keeps)

theorem State.keepMsg_keeps {F : Prop} {b s : State} (h : Keeps F b s) (src : Coord) (w : Wire) :
    Keeps F b (s.keepMsg src w) := by
  unfold State.keepMsg
  try dsimp only
  repeat' (first
    | with_reducible assumption
    | with_reducible apply State.countDrop_keeps
    | with_reducible apply State.ackColl_keeps
    | with_reducible apply State.remember_keeps
    | exact fun h => h
    | exact fun _ => rfl
    | exact Nat.le_refl _
    | exact fun w => Mem.write_wf w _ _
    | exact fun _ h => h
    | exact fun _ _ => rfl
    | (intro w; refine Coded.all_map ?_ w; intro p h; first | exact h | (split <;> exact h))
    | exact fun w => Coded.all_filter w
    | (exact fun w => Coded.all_set (by simp [Coded.pairsOk, Coded.opened]) w)
    | (intro k w; simp_all [Coded.pairsOk, Coded.setC, Coded.setS, Coded.modGlove]; done)
    | (with_reducible refine Keeps.foldl (fun s a h => ?_) ?_)
    | (with_reducible refine Keeps.foldlFst (fun s a h => ?_) ?_)
    | (refine Keeps.ofFst (by with_reducible assumption) ?_)
    | split
    | dsimp only
    | with_reducible apply Keeps.made)

theorem State.collMessage_keeps {F : Prop} {b s : State} (h : Keeps F b s) (src : Coord) (w : Wire) :
    Keeps F b (s.collMessage src w) := by
  unfold State.collMessage
  try dsimp only
  repeat' (first
    | with_reducible assumption
    | with_reducible apply State.countDrop_keeps
    | with_reducible apply State.answered_keeps
    | with_reducible apply State.ackColl_keeps
    | with_reducible apply State.actColl_keeps
    | with_reducible apply State.remember_keeps
    | with_reducible apply State.takeAbort_keeps
    | with_reducible apply State.keepMsg_keeps
    | split
    | dsimp only)

theorem State.takeKept_keeps {F : Prop} {b s : State} (h : Keeps F b s) :
    Keeps F b (s.takeKept) := by
  unfold State.takeKept
  try dsimp only
  repeat' (first
    | with_reducible assumption
    | with_reducible apply State.countDrop_keeps
    | with_reducible apply State.actColl_keeps
    | exact fun h => h
    | exact fun _ => rfl
    | exact Nat.le_refl _
    | exact fun w => Mem.write_wf w _ _
    | exact fun _ h => h
    | exact fun _ _ => rfl
    | (intro w; refine Coded.all_map ?_ w; intro p h; first | exact h | (split <;> exact h))
    | exact fun w => Coded.all_filter w
    | (exact fun w => Coded.all_set (by simp [Coded.pairsOk, Coded.opened]) w)
    | (intro k w; simp_all [Coded.pairsOk, Coded.setC, Coded.setS, Coded.modGlove]; done)
    | (with_reducible refine Keeps.foldl (fun s a h => ?_) ?_)
    | (with_reducible refine Keeps.foldlFst (fun s a h => ?_) ?_)
    | (refine Keeps.ofFst (by with_reducible assumption) ?_)
    | split
    | dsimp only
    | with_reducible apply Keeps.made)

theorem State.skewKept_keeps {F : Prop} {b s : State} (h : Keeps F b s) :
    Keeps F b (s.skewKept) := by
  unfold State.skewKept
  try dsimp only
  repeat' (first
    | with_reducible assumption
    | with_reducible apply State.seeSkew_keeps
    | (with_reducible refine Keeps.foldl (fun s a h => ?_) ?_)
    | split
    | dsimp only)

theorem State.loseVote_keeps {F : Prop} {b s : State} (h : Keeps F b s) (c : Coll) (r : Restore) (member : Nat) :
    Keeps F b (s.loseVote c r member) := by
  unfold State.loseVote
  try dsimp only
  repeat' (first
    | with_reducible assumption
    | with_reducible apply State.conclude_keeps
    | with_reducible apply State.sendDecision_keeps
    | with_reducible apply State.rootDecides_keeps
    | with_reducible apply State.restoreUp_keeps
    | exact fun h => h
    | exact fun _ => rfl
    | exact Nat.le_refl _
    | exact fun w => Mem.write_wf w _ _
    | exact fun _ h => h
    | exact fun _ _ => rfl
    | (intro w; refine Coded.all_map ?_ w; intro p h; first | exact h | (split <;> exact h))
    | exact fun w => Coded.all_filter w
    | (exact fun w => Coded.all_set (by simp [Coded.pairsOk, Coded.opened]) w)
    | (intro k w; simp_all [Coded.pairsOk, Coded.setC, Coded.setS, Coded.modGlove]; done)
    | (with_reducible refine Keeps.foldl (fun s a h => ?_) ?_)
    | (with_reducible refine Keeps.foldlFst (fun s a h => ?_) ?_)
    | (refine Keeps.ofFst (by with_reducible assumption) ?_)
    | split
    | dsimp only)

theorem State.loseRestore_keeps {F : Prop} {b s : State} (h : Keeps F b s) (ctx member cause time : Nat) :
    Keeps F b (s.loseRestore ctx member cause time) := by
  unfold State.loseRestore
  try dsimp only
  repeat' (first
    | with_reducible assumption
    | with_reducible apply State.send_keeps
    | with_reducible apply State.modColl_keeps
    | with_reducible apply State.loseVote_keeps
    | with_reducible apply State.statusFault_keeps
    | with_reducible apply State.endRestore_keeps
    | exact fun h => h
    | exact fun _ => rfl
    | exact Nat.le_refl _
    | exact fun w => Mem.write_wf w _ _
    | exact fun _ h => h
    | exact fun _ _ => rfl
    | (intro w; refine Coded.all_map ?_ w; intro p h; first | exact h | (split <;> exact h))
    | exact fun w => Coded.all_filter w
    | (exact fun w => Coded.all_set (by simp [Coded.pairsOk, Coded.opened]) w)
    | (intro k w; simp_all [Coded.pairsOk, Coded.setC, Coded.setS, Coded.modGlove]; done)
    | (with_reducible refine Keeps.foldl (fun s a h => ?_) ?_)
    | (with_reducible refine Keeps.foldlFst (fun s a h => ?_) ?_)
    | (refine Keeps.ofFst (by with_reducible assumption) ?_)
    | split
    | dsimp only)

theorem State.collLoss_keeps {F : Prop} {b s : State} (h : Keeps F b s) (k : CollKey) (seat cause : Nat) :
    Keeps F b (s.collLoss k seat cause) := by
  unfold State.collLoss
  try dsimp only
  repeat' (first
    | with_reducible assumption
    | with_reducible apply State.loseRestore_keeps
    | with_reducible apply State.modColl_keeps
    | with_reducible apply State.conclude_keeps
    | with_reducible apply State.announce_keeps
    | exact fun h => h
    | exact fun _ => rfl
    | exact Nat.le_refl _
    | exact fun w => Mem.write_wf w _ _
    | exact fun _ h => h
    | exact fun _ _ => rfl
    | (intro w; refine Coded.all_map ?_ w; intro p h; first | exact h | (split <;> exact h))
    | exact fun w => Coded.all_filter w
    | (exact fun w => Coded.all_set (by simp [Coded.pairsOk, Coded.opened]) w)
    | (intro k w; simp_all [Coded.pairsOk, Coded.setC, Coded.setS, Coded.modGlove]; done)
    | (with_reducible refine Keeps.foldl (fun s a h => ?_) ?_)
    | (with_reducible refine Keeps.foldlFst (fun s a h => ?_) ?_)
    | (refine Keeps.ofFst (by with_reducible assumption) ?_)
    | split
    | dsimp only)

theorem State.collsLost_keeps {F : Prop} {b s : State} (h : Keeps F b s) (ctx member cause : Nat) :
    Keeps F b (s.collsLost ctx member cause) := by
  unfold State.collsLost
  try dsimp only
  repeat' (first
    | with_reducible assumption
    | with_reducible apply State.collLoss_keeps
    | (with_reducible refine Keeps.foldl (fun s a h => ?_) ?_)
    | dsimp only)

theorem State.loseMember_keeps {F : Prop} {b s : State} (h : Keeps F b s) (ctx member cause : Nat) :
    Keeps F b (s.loseMember ctx member cause) := by
  unfold State.loseMember
  try dsimp only
  repeat' (first
    | with_reducible assumption
    | with_reducible apply State.collsLost_keeps
    | with_reducible apply State.reissueChanged_keeps
    | with_reducible apply State.admitLoss_keeps
    | with_reducible apply State.darnLoss_keeps
    | with_reducible apply State.markLost_keeps
    | exact fun h => h
    | exact fun _ => rfl
    | exact Nat.le_refl _
    | exact fun w => Mem.write_wf w _ _
    | exact fun _ h => h
    | exact fun _ _ => rfl
    | (intro w; refine Coded.all_map ?_ w; intro p h; first | exact h | (split <;> exact h))
    | exact fun w => Coded.all_filter w
    | (exact fun w => Coded.all_set (by simp [Coded.pairsOk, Coded.opened]) w)
    | (intro k w; simp_all [Coded.pairsOk, Coded.setC, Coded.setS, Coded.modGlove]; done)
    | (with_reducible refine Keeps.foldl (fun s a h => ?_) ?_)
    | (with_reducible refine Keeps.foldlFst (fun s a h => ?_) ?_)
    | (refine Keeps.ofFst (by with_reducible assumption) ?_)
    | split
    | dsimp only)

theorem State.hbLoss_keeps {F : Prop} {b s : State} (h : Keeps F b s) (ctx member cause : Nat) :
    Keeps F b (s.hbLoss ctx member cause) := by
  unfold State.hbLoss
  try dsimp only
  repeat' (first
    | with_reducible assumption
    | with_reducible apply State.loseRestore_keeps
    | with_reducible apply State.abandonCopy_keeps
    | exact fun h => h
    | exact fun _ => rfl
    | exact Nat.le_refl _
    | exact fun w => Mem.write_wf w _ _
    | exact fun _ h => h
    | exact fun _ _ => rfl
    | (intro w; refine Coded.all_map ?_ w; intro p h; first | exact h | (split <;> exact h))
    | exact fun w => Coded.all_filter w
    | (exact fun w => Coded.all_set (by simp [Coded.pairsOk, Coded.opened]) w)
    | (intro k w; simp_all [Coded.pairsOk, Coded.setC, Coded.setS, Coded.modGlove]; done)
    | (with_reducible refine Keeps.foldl (fun s a h => ?_) ?_)
    | (with_reducible refine Keeps.foldlFst (fun s a h => ?_) ?_)
    | (refine Keeps.ofFst (by with_reducible assumption) ?_)
    | split
    | dsimp only)

theorem State.newChipLost_keeps {F : Prop} {b s : State} (h : Keeps F b s) (ctx cause : Nat) :
    Keeps F b (s.newChipLost ctx cause) := by
  unfold State.newChipLost
  try dsimp only
  repeat' (first
    | with_reducible assumption
    | with_reducible apply State.endAdmission_keeps
    | exact fun h => h
    | exact fun _ => rfl
    | exact Nat.le_refl _
    | exact fun w => Mem.write_wf w _ _
    | exact fun _ h => h
    | exact fun _ _ => rfl
    | (intro w; refine Coded.all_map ?_ w; intro p h; first | exact h | (split <;> exact h))
    | exact fun w => Coded.all_filter w
    | (exact fun w => Coded.all_set (by simp [Coded.pairsOk, Coded.opened]) w)
    | (intro k w; simp_all [Coded.pairsOk, Coded.setC, Coded.setS, Coded.modGlove]; done)
    | (with_reducible refine Keeps.foldl (fun s a h => ?_) ?_)
    | (with_reducible refine Keeps.foldlFst (fun s a h => ?_) ?_)
    | (refine Keeps.ofFst (by with_reducible assumption) ?_)
    | split
    | dsimp only)

theorem State.answerMissing_keeps {F : Prop} {b s : State} (h : Keeps F b s) (id : Nat) :
    Keeps F b (s.answerMissing id) := by
  unfold State.answerMissing
  try dsimp only
  repeat' (first
    | with_reducible assumption
    | with_reducible apply State.dropSent_keeps
    | with_reducible apply State.hbLoss_keeps
    | with_reducible apply State.newChipLost_keeps
    | with_reducible apply State.loseMember_keeps
    | with_reducible apply State.collLoss_keeps
    | with_reducible apply State.witnessGone_keeps
    | with_reducible apply State.leaveWitness_keeps
    | split
    | dsimp only)

theorem State.resend_keeps {F : Prop} {b s : State} (h : Keeps F b s) (id : Nat) :
    Keeps F b (s.resend id) := by
  unfold State.resend
  try dsimp only
  repeat' (first
    | with_reducible assumption
    | with_reducible apply State.carry_keeps
    | exact fun h => h
    | exact fun _ => rfl
    | exact Nat.le_refl _
    | exact fun w => Mem.write_wf w _ _
    | exact fun _ h => h
    | exact fun _ _ => rfl
    | (intro w; refine Coded.all_map ?_ w; intro p h; first | exact h | (split <;> exact h))
    | exact fun w => Coded.all_filter w
    | (exact fun w => Coded.all_set (by simp [Coded.pairsOk, Coded.opened]) w)
    | (intro k w; simp_all [Coded.pairsOk, Coded.setC, Coded.setS, Coded.modGlove]; done)
    | (with_reducible refine Keeps.foldl (fun s a h => ?_) ?_)
    | (with_reducible refine Keeps.foldlFst (fun s a h => ?_) ?_)
    | (refine Keeps.ofFst (by with_reducible assumption) ?_)
    | split
    | dsimp only
    | with_reducible apply Keeps.made)

theorem State.loseChip_keeps {F : Prop} {b s : State} (h : Keeps F b s) (at' : Coord) :
    Keeps F b (s.loseChip at') := by
  unfold State.loseChip
  try dsimp only
  repeat' (first
    | with_reducible assumption
    | with_reducible apply State.loseMember_keeps
    | with_reducible apply State.hbLoss_keeps
    | with_reducible apply State.witnessGone_keeps
    | with_reducible apply State.admitLoss_keeps
    | with_reducible apply State.endAdmission_keeps
    | with_reducible apply State.collLoss_keeps
    | exact fun h => h
    | exact fun _ => rfl
    | exact Nat.le_refl _
    | exact fun w => Mem.write_wf w _ _
    | exact fun _ h => h
    | exact fun _ _ => rfl
    | (intro w; refine Coded.all_map ?_ w; intro p h; first | exact h | (split <;> exact h))
    | exact fun w => Coded.all_filter w
    | (exact fun w => Coded.all_set (by simp [Coded.pairsOk, Coded.opened]) w)
    | (intro k w; simp_all [Coded.pairsOk, Coded.setC, Coded.setS, Coded.modGlove]; done)
    | (with_reducible refine Keeps.foldl (fun s a h => ?_) ?_)
    | (with_reducible refine Keeps.foldlFst (fun s a h => ?_) ?_)
    | (refine Keeps.ofFst (by with_reducible assumption) ?_)
    | split
    | dsimp only)

theorem State.loseChips_keeps {F : Prop} {b s : State} (h : Keeps F b s) (hit : BitVec 48 → Bool) :
    Keeps F b (s.loseChips hit) := by
  unfold State.loseChips
  try dsimp only
  repeat' (first
    | with_reducible assumption
    | with_reducible apply State.loseChip_keeps
    | exact fun h => h
    | exact fun _ => rfl
    | exact Nat.le_refl _
    | exact fun w => Mem.write_wf w _ _
    | exact fun _ h => h
    | exact fun _ _ => rfl
    | (intro w; refine Coded.all_map ?_ w; intro p h; first | exact h | (split <;> exact h))
    | exact fun w => Coded.all_filter w
    | (exact fun w => Coded.all_set (by simp [Coded.pairsOk, Coded.opened]) w)
    | (intro k w; simp_all [Coded.pairsOk, Coded.setC, Coded.setS, Coded.modGlove]; done)
    | (with_reducible refine Keeps.foldl (fun s a h => ?_) ?_)
    | (with_reducible refine Keeps.foldlFst (fun s a h => ?_) ?_)
    | (refine Keeps.ofFst (by with_reducible assumption) ?_)
    | split
    | dsimp only)

theorem State.portDown_keeps {F : Prop} {b s : State} (h : Keeps F b s) (port : Nat) :
    Keeps F b (s.portDown port) := by
  unfold State.portDown
  try dsimp only
  repeat' (first
    | with_reducible assumption
    | with_reducible apply State.loseChips_keeps
    | with_reducible apply State.modCu_keeps
    | exact fun h => h
    | exact fun _ => rfl
    | exact Nat.le_refl _
    | exact fun w => Mem.write_wf w _ _
    | exact fun _ h => h
    | exact fun _ _ => rfl
    | (intro w; refine Coded.all_map ?_ w; intro p h; first | exact h | (split <;> exact h))
    | exact fun w => Coded.all_filter w
    | (exact fun w => Coded.all_set (by simp [Coded.pairsOk, Coded.opened]) w)
    | (intro k w; simp_all [Coded.pairsOk, Coded.setC, Coded.setS, Coded.modGlove]; done)
    | (with_reducible refine Keeps.foldl (fun s a h => ?_) ?_)
    | (with_reducible refine Keeps.foldlFst (fun s a h => ?_) ?_)
    | (refine Keeps.ofFst (by with_reducible assumption) ?_)
    | split
    | dsimp only)

theorem State.ackChain_keeps {F : Prop} {b s : State} (h : Keeps F b s) (src : Coord) (w : Wire) :
    Keeps F b (s.ackChain src w) := by
  unfold State.ackChain
  try dsimp only
  repeat' (first
    | with_reducible assumption
    | with_reducible apply State.reply_keeps)

theorem State.takeRequest_keeps {F : Prop} {b s : State} (h : Keeps F b s) (src : Coord) (w : Wire) :
    Keeps F b (s.takeRequest src w) := by
  unfold State.takeRequest
  try dsimp only
  repeat' (first
    | with_reducible assumption
    | with_reducible apply State.remember_keeps
    | with_reducible apply State.answerCheck_keeps
    | with_reducible apply State.ackChain_keeps
    | with_reducible apply State.contributePiece_keeps
    | with_reducible apply State.contribute_keeps
    | split
    | dsimp only)

theorem State.modChain_keeps {F : Prop} {b s : State} (h : Keeps F b s) (c : Chain) (f : Chain → Chain) :
    Keeps F b (s.modChain c f) := by
  unfold State.modChain
  try dsimp only
  exact Keeps.made h (fun _ => rfl) (fun h => h) (Nat.le_refl _) (fun h => h)

theorem State.finishChain_keeps {F : Prop} {b s : State} (h : Keeps F b s) (c : Chain) :
    Keeps F b (s.finishChain c) := by
  unfold State.finishChain
  try dsimp only
  repeat' (first
    | with_reducible assumption
    | with_reducible apply State.endPiece_keeps
    | with_reducible apply State.endChain_keeps
    | with_reducible apply State.afterStitch_keeps
    | split
    | dsimp only)

theorem State.takePart_keeps {F : Prop} {b s : State} (h : Keeps F b s) (src : Coord) (w : Wire) :
    Keeps F b (s.takePart src w) := by
  unfold State.takePart
  try dsimp only
  repeat' (first
    | with_reducible assumption
    | with_reducible apply State.ackChain_keeps
    | with_reducible apply State.remember_keeps
    | with_reducible apply State.contributePiece_keeps
    | with_reducible apply State.contribute_keeps
    | with_reducible apply State.answered_keeps
    | with_reducible apply State.copyAcked_keeps
    | with_reducible apply State.reissuePiece_keeps
    | with_reducible apply State.staleWitness_keeps
    | with_reducible apply State.reissue_keeps
    | with_reducible apply State.dropSent_keeps
    | with_reducible apply State.finishChain_keeps
    | with_reducible apply State.modChain_keeps
    | exact fun h => h
    | exact fun _ => rfl
    | exact Nat.le_refl _
    | exact fun w => Mem.write_wf w _ _
    | exact fun _ h => h
    | exact fun _ _ => rfl
    | (intro w; refine Coded.all_map ?_ w; intro p h; first | exact h | (split <;> exact h))
    | exact fun w => Coded.all_filter w
    | (exact fun w => Coded.all_set (by simp [Coded.pairsOk, Coded.opened]) w)
    | (intro k w; simp_all [Coded.pairsOk, Coded.setC, Coded.setS, Coded.modGlove]; done)
    | (with_reducible refine Keeps.foldl (fun s a h => ?_) ?_)
    | (with_reducible refine Keeps.foldlFst (fun s a h => ?_) ?_)
    | (refine Keeps.ofFst (by with_reducible assumption) ?_)
    | split
    | dsimp only)

theorem State.takeDone_keeps {F : Prop} {b s : State} (h : Keeps F b s) (src : Coord) (w : Wire) :
    Keeps F b (s.takeDone src w) := by
  unfold State.takeDone
  try dsimp only
  repeat' (first
    | with_reducible assumption
    | with_reducible apply State.ackChain_keeps
    | with_reducible apply State.remember_keeps
    | with_reducible apply State.dropSent_keeps
    | with_reducible apply State.finishChain_keeps
    | with_reducible apply State.modChain_keeps
    | with_reducible apply State.takeCopy_keeps
    | split
    | dsimp only)

theorem State.takeHatbox_keeps {F : Prop} {b s : State} (h : Keeps F b s) (src : Coord) (w : Wire) :
    Keeps F b (s.takeHatbox src w) := by
  unfold State.takeHatbox
  try dsimp only
  repeat' (first
    | with_reducible assumption
    | with_reducible apply State.reply_keeps
    | with_reducible apply State.answered_keeps
    | with_reducible apply State.takeHatboxPart_keeps
    | with_reducible apply State.remember_keeps
    | (with_reducible refine Keeps.foldl (fun s a h => ?_) ?_)
    | (refine Keeps.ofFst (by with_reducible assumption) ?_)
    | split
    | dsimp only)

theorem State.sealMessage_keeps {F : Prop} {b s : State} (h : Keeps F b s) (src : Coord) (w : Wire) :
    Keeps F b (s.sealMessage src w) := by
  unfold State.sealMessage
  try dsimp only
  repeat' (first
    | with_reducible assumption
    | with_reducible apply State.reply_keeps
    | with_reducible apply State.answered_keeps
    | with_reducible apply State.takeSeal_keeps
    | with_reducible apply State.remember_keeps
    | split
    | dsimp only)

theorem State.digestMessage_keeps {F : Prop} {b s : State} (h : Keeps F b s) (src : Coord) (w : Wire) :
    Keeps F b (s.digestMessage src w) := by
  unfold State.digestMessage
  try dsimp only
  repeat' (first
    | with_reducible assumption
    | with_reducible apply State.reply_keeps
    | with_reducible apply State.answered_keeps
    | with_reducible apply State.witnessAcked_keeps
    | with_reducible apply State.takeWitnessDigest_keeps
    | with_reducible apply State.remember_keeps
    | split
    | dsimp only)

theorem State.abortMessage_keeps {F : Prop} {b s : State} (h : Keeps F b s) (src : Coord) (w : Wire) :
    Keeps F b (s.abortMessage src w) := by
  unfold State.abortMessage
  try dsimp only
  repeat' (first
    | with_reducible assumption
    | with_reducible apply State.reply_keeps
    | with_reducible apply State.answered_keeps
    | with_reducible apply State.remember_keeps
    | with_reducible apply State.loseMember_keeps
    | with_reducible apply State.loseRestore_keeps
    | with_reducible apply State.endAdmission_keeps
    | with_reducible apply State.abandonCopy_keeps
    | with_reducible apply State.witnessAbort_keeps
    | exact fun h => h
    | exact fun _ => rfl
    | exact Nat.le_refl _
    | exact fun w => Mem.write_wf w _ _
    | exact fun _ h => h
    | exact fun _ _ => rfl
    | (intro w; refine Coded.all_map ?_ w; intro p h; first | exact h | (split <;> exact h))
    | exact fun w => Coded.all_filter w
    | (exact fun w => Coded.all_set (by simp [Coded.pairsOk, Coded.opened]) w)
    | (intro k w; simp_all [Coded.pairsOk, Coded.setC, Coded.setS, Coded.modGlove]; done)
    | (with_reducible refine Keeps.foldl (fun s a h => ?_) ?_)
    | (with_reducible refine Keeps.foldlFst (fun s a h => ?_) ?_)
    | (refine Keeps.ofFst (by with_reducible assumption) ?_)
    | split
    | dsimp only)

theorem State.deltaMessage_keeps {F : Prop} {b s : State} (h : Keeps F b s) (src : Coord) (w : Wire) :
    Keeps F b (s.deltaMessage src w) := by
  unfold State.deltaMessage
  try dsimp only
  repeat' (first
    | with_reducible assumption
    | with_reducible apply State.reply_keeps
    | with_reducible apply State.decideDelta_keeps
    | split
    | dsimp only)

theorem State.guarded_keeps {F : Prop} {b s : State} (h : Keeps F b s) (src : Coord) (w : Wire) (act : State → State) (ha : ∀ s, Keeps F b s → Keeps F b (act s)) :
    Keeps F b (s.guarded src w act) := by
  unfold State.guarded
  try dsimp only
  repeat' (first
    | with_reducible assumption
    | with_reducible apply State.countDrop_keeps
    | with_reducible apply ha
    | split
    | dsimp only)

theorem State.ackMessage_keeps {F : Prop} {b s : State} (h : Keeps F b s) (src : Coord) (m : Wire) :
    Keeps F b (s.ackMessage src m) := by
  unfold State.ackMessage
  try dsimp only
  repeat' (first
    | with_reducible assumption
    | with_reducible apply State.formAll_keeps
    | with_reducible apply State.answered_keeps)

theorem State.hearColl_keeps {F : Prop} {b s : State} (h : Keeps F b s) (src : Coord) (m : Wire) :
    Keeps F b (s.hearColl src m) := by
  unfold State.hearColl
  try dsimp only
  repeat' (first
    | with_reducible assumption
    | with_reducible apply State.collMessage_keeps
    | split
    | dsimp only)

theorem State.takeMessage_keeps {F : Prop} {b s : State} (h : Keeps F b s) (src : Coord) (m : Wire) :
    Keeps F b (s.takeMessage src m) := by
  unfold State.takeMessage
  split
  · exact State.guarded_keeps h src m _ (fun _ h => State.deltaMessage_keeps h src m)
  · exact State.guarded_keeps h src m _ (fun _ h => State.ackMessage_keeps h src m)
  · exact State.guarded_keeps h src m _ (fun _ h => State.takeRequest_keeps h src m)
  · exact State.guarded_keeps h src m _ (fun _ h => State.takePart_keeps h src m)
  · exact State.guarded_keeps h src m _ (fun _ h => State.takeDone_keeps h src m)
  · exact State.hearColl_keeps h src m
  · exact State.hearColl_keeps h src m
  · exact State.guarded_keeps h src m _ (fun _ h => State.abortMessage_keeps h src m)
  · exact State.guarded_keeps h src m _ (fun _ h => State.takeHatbox_keeps h src m)
  · exact State.guarded_keeps h src m _ (fun _ h => State.sealMessage_keeps h src m)
  · exact State.guarded_keeps h src m _ (fun _ h => State.digestMessage_keeps h src m)
  · exact h

theorem State.settleDeltas_keeps {F : Prop} {b s : State} (h : Keeps F b s) :
    Keeps F b (s.settleDeltas) := by
  unfold State.settleDeltas
  try dsimp only
  repeat' (first
    | with_reducible assumption
    | with_reducible apply State.retryDeltas_keeps
    | exact fun h => h
    | exact fun _ => rfl
    | exact Nat.le_refl _
    | exact fun w => Mem.write_wf w _ _
    | exact fun _ h => h
    | exact fun _ _ => rfl
    | (intro w; refine Coded.all_map ?_ w; intro p h; first | exact h | (split <;> exact h))
    | exact fun w => Coded.all_filter w
    | (exact fun w => Coded.all_set (by simp [Coded.pairsOk, Coded.opened]) w)
    | (intro k w; simp_all [Coded.pairsOk, Coded.setC, Coded.setS, Coded.modGlove]; done)
    | (with_reducible refine Keeps.foldl (fun s a h => ?_) ?_)
    | (with_reducible refine Keeps.foldlFst (fun s a h => ?_) ?_)
    | (refine Keeps.ofFst (by with_reducible assumption) ?_)
    | split
    | dsimp only)

theorem State.pump_keeps {F : Prop} {b s : State} (h : Keeps F b s) :
    Keeps F b (s.pump) := by
  unfold State.pump
  try dsimp only
  repeat' (first
    | with_reducible assumption
    | with_reducible apply State.settleDeltas_keeps
    | with_reducible apply State.skewKept_keeps
    | with_reducible apply State.takeKept_keeps
    | with_reducible apply State.pumpVotes_keeps
    | with_reducible apply State.pumpColls_keeps
    | with_reducible apply State.settleWitnesses_keeps
    | with_reducible apply State.settleDarns_keeps
    | with_reducible apply State.retryStitches_keeps
    | with_reducible apply State.settleCloses_keeps
    | with_reducible apply State.yieldExports_keeps
    | with_reducible apply State.keepBoost_keeps
    | with_reducible apply State.startFree_keeps
    | split
    | dsimp only)

theorem State.armCommon_keeps {F : Prop} {b s t : State} {c : Cmd} {held : Option Nat} (h : Keeps F b s)
    (e : s.armCommon c held = some t) : Keeps F b t := by
  unfold State.armCommon at e
  repeat' split at e
  all_goals first
    | cases e; exact State.post_keeps h _ _ _
    | cases e; exact State.badParam_keeps h _ _
    | cases e

theorem State.opDigestArm_keeps {F : Prop} {b s : State} (h : Keeps F b s) (c : Cmd) :
    Keeps F b (s.opDigestArm c) := by
  unfold State.opDigestArm
  try dsimp only
  repeat' (first
    | with_reducible assumption
    | refine State.armCommon_keeps ?_ (by with_reducible assumption)
    | with_reducible apply State.post_keeps
    | with_reducible apply State.bufferRead_keeps
    | with_reducible apply State.badParam_keeps
    | exact fun h => h
    | exact fun _ => rfl
    | exact Nat.le_refl _
    | exact fun w => Mem.write_wf w _ _
    | exact fun _ h => h
    | exact fun _ _ => rfl
    | (intro w; refine Coded.all_map ?_ w; intro p h; first | exact h | (split <;> exact h))
    | exact fun w => Coded.all_filter w
    | (exact fun w => Coded.all_set (by simp [Coded.pairsOk, Coded.opened]) w)
    | (intro k w; simp_all [Coded.pairsOk, Coded.setC, Coded.setS, Coded.modGlove]; done)
    | (with_reducible refine Keeps.foldl (fun s a h => ?_) ?_)
    | (with_reducible refine Keeps.foldlFst (fun s a h => ?_) ?_)
    | (refine Keeps.ofFst (by with_reducible assumption) ?_)
    | split
    | dsimp only
    | with_reducible apply Keeps.made)

theorem State.opDigestRead_keeps {F : Prop} {b s : State} (h : Keeps F b s) (c : Cmd) :
    Keeps F b (s.opDigestRead c) := by
  unfold State.opDigestRead
  try dsimp only
  repeat' (first
    | with_reducible assumption
    | with_reducible apply State.post_keeps
    | with_reducible apply State.badParam_keeps
    | with_reducible apply State.bufferWrite_keeps
    | exact fun h => h
    | exact fun _ => rfl
    | exact Nat.le_refl _
    | exact fun w => Mem.write_wf w _ _
    | exact fun _ h => h
    | exact fun _ _ => rfl
    | (intro w; refine Coded.all_map ?_ w; intro p h; first | exact h | (split <;> exact h))
    | exact fun w => Coded.all_filter w
    | (exact fun w => Coded.all_set (by simp [Coded.pairsOk, Coded.opened]) w)
    | (intro k w; simp_all [Coded.pairsOk, Coded.setC, Coded.setS, Coded.modGlove]; done)
    | (with_reducible refine Keeps.foldl (fun s a h => ?_) ?_)
    | (with_reducible refine Keeps.foldlFst (fun s a h => ?_) ?_)
    | (refine Keeps.ofFst (by with_reducible assumption) ?_)
    | split
    | dsimp only
    | with_reducible apply Keeps.made)

theorem State.opTallyArm_keeps {F : Prop} {b s : State} (h : Keeps F b s) (c : Cmd) :
    Keeps F b (s.opTallyArm c) := by
  unfold State.opTallyArm
  try dsimp only
  repeat' (first
    | with_reducible assumption
    | refine State.armCommon_keeps ?_ (by with_reducible assumption)
    | with_reducible apply State.post_keeps
    | with_reducible apply State.badParam_keeps
    | exact fun h => h
    | exact fun _ => rfl
    | exact Nat.le_refl _
    | exact fun w => Mem.write_wf w _ _
    | exact fun _ h => h
    | exact fun _ _ => rfl
    | (intro w; refine Coded.all_map ?_ w; intro p h; first | exact h | (split <;> exact h))
    | exact fun w => Coded.all_filter w
    | (exact fun w => Coded.all_set (by simp [Coded.pairsOk, Coded.opened]) w)
    | (intro k w; simp_all [Coded.pairsOk, Coded.setC, Coded.setS, Coded.modGlove]; done)
    | (with_reducible refine Keeps.foldl (fun s a h => ?_) ?_)
    | (with_reducible refine Keeps.foldlFst (fun s a h => ?_) ?_)
    | (refine Keeps.ofFst (by with_reducible assumption) ?_)
    | split
    | dsimp only
    | with_reducible apply Keeps.made)

theorem State.readTally_keeps {F : Prop} {b s : State} (h : Keeps F b s) (c : Cmd) (slot : Nat) (t' : Tally) :
    Keeps F b (s.readTally c slot t') := by
  unfold State.readTally
  try dsimp only
  repeat' (first
    | with_reducible assumption
    | with_reducible apply State.bufferWrite_keeps
    | with_reducible apply State.post_keeps
    | exact fun h => h
    | exact fun _ => rfl
    | exact Nat.le_refl _
    | exact fun w => Mem.write_wf w _ _
    | exact fun _ h => h
    | exact fun _ _ => rfl
    | (intro w; refine Coded.all_map ?_ w; intro p h; first | exact h | (split <;> exact h))
    | exact fun w => Coded.all_filter w
    | (exact fun w => Coded.all_set (by simp [Coded.pairsOk, Coded.opened]) w)
    | (intro k w; simp_all [Coded.pairsOk, Coded.setC, Coded.setS, Coded.modGlove]; done)
    | (with_reducible refine Keeps.foldl (fun s a h => ?_) ?_)
    | (with_reducible refine Keeps.foldlFst (fun s a h => ?_) ?_)
    | (refine Keeps.ofFst (by with_reducible assumption) ?_)
    | split
    | dsimp only
    | with_reducible apply Keeps.made)

theorem State.opTallyRead_keeps {F : Prop} {b s : State} (h : Keeps F b s) (c : Cmd) :
    Keeps F b (s.opTallyRead c) := by
  unfold State.opTallyRead
  try dsimp only
  repeat' (first
    | with_reducible assumption
    | with_reducible apply State.post_keeps
    | with_reducible apply State.badParam_keeps
    | with_reducible apply State.postDeferred_keeps
    | with_reducible apply State.readTally_keeps
    | split
    | dsimp only)

theorem State.scanStitch_keeps {F : Prop} {b s : State} (h : Keeps F b s) (t' : Tally) (p : Region × Nat) :
    Keeps F b (s.scanStitch t' p).1 := by
  unfold State.scanStitch
  try dsimp only
  repeat' (first
    | with_reducible assumption
    | with_reducible apply State.crownedOrZero_keeps)

theorem State.scanDone_keeps {F : Prop} {b s : State} (h : Keeps F b s) (slot : Nat) :
    Keeps F b (s.scanDone slot) := by
  unfold State.scanDone
  try dsimp only
  repeat' (first
    | with_reducible assumption
    | with_reducible apply State.demandDarn_keeps
    | with_reducible apply State.scanStitch_keeps
    | with_reducible apply State.readTally_keeps
    | exact fun h => h
    | exact fun _ => rfl
    | exact Nat.le_refl _
    | exact fun w => Mem.write_wf w _ _
    | exact fun _ h => h
    | exact fun _ _ => rfl
    | (intro w; refine Coded.all_map ?_ w; intro p h; first | exact h | (split <;> exact h))
    | exact fun w => Coded.all_filter w
    | (exact fun w => Coded.all_set (by simp [Coded.pairsOk, Coded.opened]) w)
    | (intro k w; simp_all [Coded.pairsOk, Coded.setC, Coded.setS, Coded.modGlove]; done)
    | (with_reducible refine Keeps.foldl (fun s a h => ?_) ?_)
    | (with_reducible refine Keeps.foldlFst (fun s a h => ?_) ?_)
    | (refine Keeps.ofFst (by with_reducible assumption) ?_)
    | split
    | dsimp only
    | with_reducible apply Keeps.made)

theorem State.evictTile_keeps {F : Prop} {b s : State} (h : Keeps F b s) (c : Cmd) (region tile : Nat) :
    Keeps F b (s.evictTile c region tile) := by
  unfold State.evictTile
  try dsimp only
  repeat' (first
    | with_reducible assumption
    | with_reducible apply State.badParam_keeps
    | with_reducible apply State.dropRef_keeps
    | with_reducible apply State.post_keeps
    | split
    | dsimp only)

theorem State.settleEvicts_keeps {F : Prop} {b s : State} (h : Keeps F b s) :
    Keeps F b (s.settleEvicts) := by
  unfold State.settleEvicts
  try dsimp only
  repeat' (first
    | with_reducible assumption
    | with_reducible apply State.evictTile_keeps
    | (with_reducible refine Keeps.foldl (fun s a h => ?_) ?_)
    | split
    | dsimp only)

theorem State.addPromo_keeps {F : Prop} {b s : State} (h : Keeps F b s) (h' : Holder) (region tile deadline : Nat) (shared : Bool) :
    Keeps F b (s.addPromo h' region tile deadline shared) := by
  unfold State.addPromo
  try dsimp only
  exact Keeps.made h (fun _ => rfl) (fun h => h) (Nat.le_refl _) (fun h => h)

theorem State.promoteTile_keeps {F : Prop} {b s : State} (h : Keeps F b s) (c : Cmd) (region tile : Nat) :
    Keeps F b (s.promoteTile c region tile) := by
  unfold State.promoteTile
  try dsimp only
  repeat' (first
    | with_reducible assumption
    | with_reducible apply State.hold_keeps
    | with_reducible apply State.addPromo_keeps
    | with_reducible apply State.addRef_keeps
    | with_reducible apply State.post_keeps
    | with_reducible apply serveWaiters_keeps
    | refine State.allocFrame_keeps ?_ (by with_reducible assumption)
    | exact fun h => h
    | exact fun _ => rfl
    | exact Nat.le_refl _
    | exact fun w => Mem.write_wf w _ _
    | exact fun _ h => h
    | exact fun _ _ => rfl
    | (intro w; refine Coded.all_map ?_ w; intro p h; first | exact h | (split <;> exact h))
    | exact fun w => Coded.all_filter w
    | (exact fun w => Coded.all_set (by simp [Coded.pairsOk, Coded.opened]) w)
    | (intro k w; simp_all [Coded.pairsOk, Coded.setC, Coded.setS, Coded.modGlove]; done)
    | (with_reducible refine Keeps.foldl (fun s a h => ?_) ?_)
    | (with_reducible refine Keeps.foldlFst (fun s a h => ?_) ?_)
    | (refine Keeps.ofFst (by with_reducible assumption) ?_)
    | split
    | dsimp only
    | with_reducible apply Keeps.made)

theorem State.opTilePromote_keeps {F : Prop} {b s : State} (h : Keeps F b s) (c : Cmd) :
    Keeps F b (s.opTilePromote c) := by
  unfold State.opTilePromote
  try dsimp only
  repeat' (first
    | with_reducible assumption
    | with_reducible apply State.post_keeps
    | with_reducible apply State.badParam_keeps
    | with_reducible apply State.quotaFault_keeps
    | with_reducible apply State.promoteTile_keeps
    | split
    | dsimp only)

theorem State.opTileEvict_keeps {F : Prop} {b s : State} (h : Keeps F b s) (c : Cmd) :
    Keeps F b (s.opTileEvict c) := by
  unfold State.opTileEvict
  try dsimp only
  repeat' (first
    | with_reducible assumption
    | with_reducible apply State.post_keeps
    | with_reducible apply State.hold_keeps
    | with_reducible apply State.evictTile_keeps
    | split
    | dsimp only)

theorem State.copyTile_keeps {F : Prop} {b s : State} (h : Keeps F b s) (r : Region) (f : Frame) :
    Keeps F b (s.copyTile r f).1 := by
  unfold State.copyTile
  try dsimp only
  repeat' (first
    | with_reducible assumption
    | with_reducible apply State.tierRead_keeps
    | with_reducible apply State.evict_keeps
    | with_reducible apply State.fillTo_keeps
    | with_reducible apply State.toFrame_keeps
    | exact fun h => h
    | exact fun _ => rfl
    | exact Nat.le_refl _
    | exact fun w => Mem.write_wf w _ _
    | exact fun _ h => h
    | exact fun _ _ => rfl
    | (intro w; refine Coded.all_map ?_ w; intro p h; first | exact h | (split <;> exact h))
    | exact fun w => Coded.all_filter w
    | (exact fun w => Coded.all_set (by simp [Coded.pairsOk, Coded.opened]) w)
    | (intro k w; simp_all [Coded.pairsOk, Coded.setC, Coded.setS, Coded.modGlove]; done)
    | (with_reducible refine Keeps.foldl (fun s a h => ?_) ?_)
    | (with_reducible refine Keeps.foldlFst (fun s a h => ?_) ?_)
    | (refine Keeps.ofFst (by with_reducible assumption) ?_)
    | split
    | dsimp only)

theorem State.endCopy_keeps {F : Prop} {b s : State} (h : Keeps F b s) (region tile : Nat) :
    Keeps F b (s.endCopy region tile) := by
  unfold State.endCopy
  try dsimp only
  repeat' (first
    | with_reducible assumption
    | with_reducible apply State.endJobs_keeps
    | exact fun h => h
    | exact fun _ => rfl
    | exact Nat.le_refl _
    | exact fun w => Mem.write_wf w _ _
    | exact fun _ h => h
    | exact fun _ _ => rfl
    | (intro w; refine Coded.all_map ?_ w; intro p h; first | exact h | (split <;> exact h))
    | exact fun w => Coded.all_filter w
    | (exact fun w => Coded.all_set (by simp [Coded.pairsOk, Coded.opened]) w)
    | (intro k w; simp_all [Coded.pairsOk, Coded.setC, Coded.setS, Coded.modGlove]; done)
    | (with_reducible refine Keeps.foldl (fun s a h => ?_) ?_)
    | (with_reducible refine Keeps.foldlFst (fun s a h => ?_) ?_)
    | (refine Keeps.ofFst (by with_reducible assumption) ?_)
    | split
    | dsimp only
    | with_reducible apply Keeps.made)

theorem State.copyDone_keeps {F : Prop} {b s : State} (h : Keeps F b s) (region tile : Nat) :
    Keeps F b (s.copyDone region tile) := by
  unfold State.copyDone
  try dsimp only
  repeat' (first
    | with_reducible assumption
    | with_reducible apply State.copyTile_keeps
    | with_reducible apply State.settleEvicts_keeps
    | with_reducible apply State.settle_keeps
    | with_reducible apply State.endCopy_keeps
    | (with_reducible refine Keeps.foldl (fun s a h => ?_) ?_)
    | (refine Keeps.ofFst (by with_reducible assumption) ?_)
    | split
    | dsimp only)

theorem State.promotionLate_keeps {F : Prop} {b s : State} (h : Keeps F b s) (id : Nat) :
    Keeps F b (s.promotionLate id) := by
  unfold State.promotionLate
  try dsimp only
  repeat' (first
    | with_reducible assumption
    | with_reducible apply State.dropRef_keeps
    | with_reducible apply State.dropPromo_keeps
    | with_reducible apply State.post_keeps
    | with_reducible apply State.raise_keeps
    | with_reducible apply State.settleEvicts_keeps
    | with_reducible apply State.settle_keeps
    | (with_reducible refine Keeps.foldl (fun s a h => ?_) ?_)
    | split
    | dsimp only)

theorem State.frameFreed_keeps {F : Prop} {b s : State} (h : Keeps F b s) :
    Keeps F b (s.frameFreed) := by
  unfold State.frameFreed
  try dsimp only
  repeat' (first
    | with_reducible assumption
    | with_reducible apply serveWaiters_keeps)

theorem State.readGroups_keeps {F : Prop} {b s : State} (h : Keeps F b s) (ctx a : Nat) :
    Keeps F b (s.readGroups ctx a).1 := by
  unfold State.readGroups
  try dsimp only
  repeat' (first
    | with_reducible assumption
    | with_reducible apply State.padunRead_keeps
    | (with_reducible refine Keeps.foldl (fun s a h => ?_) ?_)
    | (refine Keeps.ofFst (by with_reducible assumption) ?_)
    | split
    | dsimp only)

theorem State.opBrimOpen_keeps {F : Prop} {b s : State} (h : Keeps F b s) (c : Cmd) :
    Keeps F b (s.opBrimOpen c) := by
  unfold State.opBrimOpen
  try dsimp only
  repeat' (first
    | with_reducible assumption
    | with_reducible apply State.post_keeps
    | with_reducible apply State.badParam_keeps
    | with_reducible apply State.readGroups_keeps
    | with_reducible apply State.quotaFault_keeps
    | with_reducible apply State.hold_keeps
    | with_reducible apply State.settle_keeps
    | with_reducible apply State.promoteGroup_keeps
    | exact fun h => h
    | exact fun _ => rfl
    | exact Nat.le_refl _
    | exact fun w => Mem.write_wf w _ _
    | exact fun _ h => h
    | exact fun _ _ => rfl
    | (intro w; refine Coded.all_map ?_ w; intro p h; first | exact h | (split <;> exact h))
    | exact fun w => Coded.all_filter w
    | (exact fun w => Coded.all_set (by simp [Coded.pairsOk, Coded.opened]) w)
    | (intro k w; simp_all [Coded.pairsOk, Coded.setC, Coded.setS, Coded.modGlove]; done)
    | (with_reducible refine Keeps.foldl (fun s a h => ?_) ?_)
    | (with_reducible refine Keeps.foldlFst (fun s a h => ?_) ?_)
    | (refine Keeps.ofFst (by with_reducible assumption) ?_)
    | split
    | dsimp only
    | with_reducible apply Keeps.made)

theorem State.brimFor_keeps {F : Prop} {b s : State} (h : Keeps F b s) (c : Cmd) (act : Brim → State) (ha : ∀ x, Keeps F b (act x)) :
    Keeps F b (s.brimFor c act) := by
  unfold State.brimFor
  try dsimp only
  repeat' (first
    | with_reducible assumption
    | with_reducible apply State.post_keeps
    | with_reducible apply State.badParam_keeps
    | exact ha _
    | split
    | dsimp only)

theorem State.opBrimAdvance_keeps {F : Prop} {b s : State} (h : Keeps F b s) (c : Cmd) :
    Keeps F b (s.opBrimAdvance c) := by
  unfold State.opBrimAdvance
  try dsimp only
  repeat' (first
    | with_reducible assumption
    | (with_reducible refine State.brimFor_keeps ?_ _ _ (fun x => ?_))
    | with_reducible apply State.settle_keeps
    | with_reducible apply State.hold_keeps)

theorem State.opBrimClose_keeps {F : Prop} {b s : State} (h : Keeps F b s) (c : Cmd) :
    Keeps F b (s.opBrimClose c) := by
  unfold State.opBrimClose
  try dsimp only
  repeat' (first
    | with_reducible assumption
    | (with_reducible refine State.brimFor_keeps ?_ _ _ (fun x => ?_))
    | with_reducible apply State.post_keeps
    | with_reducible apply State.closeBrim_keeps)

theorem State.foldOldest_keeps {F : Prop} {b s : State} (h : Keeps F b s) (i : Fin 16) :
    Keeps F b (s.foldOldest i) := by
  unfold State.foldOldest
  try dsimp only
  repeat' (first
    | with_reducible assumption
    | with_reducible apply State.applyFold_keeps
    | exact fun h => h
    | exact fun _ => rfl
    | exact Nat.le_refl _
    | exact fun w => Mem.write_wf w _ _
    | exact fun _ h => h
    | exact fun _ _ => rfl
    | (intro w; refine Coded.all_map ?_ w; intro p h; first | exact h | (split <;> exact h))
    | exact fun w => Coded.all_filter w
    | (exact fun w => Coded.all_set (by simp [Coded.pairsOk, Coded.opened]) w)
    | (intro k w; simp_all [Coded.pairsOk, Coded.setC, Coded.setS, Coded.modGlove]; done)
    | (with_reducible refine Keeps.foldl (fun s a h => ?_) ?_)
    | (with_reducible refine Keeps.foldlFst (fun s a h => ?_) ?_)
    | (refine Keeps.ofFst (by with_reducible assumption) ?_)
    | split
    | dsimp only
    | with_reducible apply Keeps.made)

theorem State.evictIdle_keeps {F : Prop} {b s : State} (h : Keeps F b s) (page : Nat) :
    Keeps F b (s.evictIdle page) := by
  unfold State.evictIdle
  try dsimp only
  repeat' (first
    | with_reducible assumption
    | with_reducible apply State.evict_keeps
    | split
    | dsimp only)

theorem State.restartWindows_keeps {F : Prop} {b s : State} (h : Keeps F b s) :
    Keeps F b (s.restartWindows) := by
  unfold State.restartWindows
  try dsimp only
  repeat' (first
    | with_reducible assumption
    | with_reducible apply State.modInsts_keeps
    | with_reducible apply State.modCu_keeps
    | exact fun h => h
    | exact fun _ => rfl
    | exact Nat.le_refl _
    | exact fun w => Mem.write_wf w _ _
    | exact fun _ h => h
    | exact fun _ _ => rfl
    | (intro w; refine Coded.all_map ?_ w; intro p h; first | exact h | (split <;> exact h))
    | exact fun w => Coded.all_filter w
    | (exact fun w => Coded.all_set (by simp [Coded.pairsOk, Coded.opened]) w)
    | (intro k w; simp_all [Coded.pairsOk, Coded.setC, Coded.setS, Coded.modGlove]; done)
    | (with_reducible refine Keeps.foldl (fun s a h => ?_) ?_)
    | (with_reducible refine Keeps.foldlFst (fun s a h => ?_) ?_)
    | (refine Keeps.ofFst (by with_reducible assumption) ?_)
    | split
    | dsimp only)

theorem State.modScrub_keeps {F : Prop} {b s : State} (h : Keeps F b s) (i : Fin 16) (f : Scrub → Scrub) :
    Keeps F b (s.modScrub i f) := by
  unfold State.modScrub
  try dsimp only
  repeat' (first
    | with_reducible assumption
    | with_reducible apply State.modInst_keeps)

theorem State.scrubBad_keeps {F : Prop} {b s : State} (h : Keeps F b s) (r : Region) (k : Nat) :
    Keeps F b (s.scrubBad r k) := by
  unfold State.scrubBad
  try dsimp only
  repeat' (first
    | with_reducible assumption
    | with_reducible apply State.crownedHand_keeps
    | with_reducible apply State.badCrowned_keeps
    | with_reducible apply State.spoilStep_keeps
    | (with_reducible refine Keeps.foldl (fun s a h => ?_) ?_)
    | (refine Keeps.ofFst (by with_reducible assumption) ?_)
    | split
    | dsimp only)

theorem State.scrubPage_keeps {F : Prop} {b s : State} (h : Keeps F b s) (k : Nat) :
    Keeps F b (s.scrubPage k) := by
  unfold State.scrubPage
  try dsimp only
  repeat' (first
    | with_reducible assumption
    | with_reducible apply State.decodePage_keeps
    | with_reducible apply State.storePage_keeps
    | with_reducible apply State.scrubBad_keeps
    | with_reducible apply State.repairPage_keeps
    | (with_reducible refine Keeps.foldl (fun s a h => ?_) ?_)
    | (refine Keeps.ofFst (by with_reducible assumption) ?_)
    | split
    | dsimp only)

theorem State.sweepEntries_keeps {F : Prop} {b s : State} (h : Keeps F b s) (i : Fin 16) :
    Keeps F b (s.sweepEntries i) := by
  unfold State.sweepEntries
  try dsimp only
  repeat' (first
    | with_reducible assumption
    | with_reducible apply State.crownedHand_keeps
    | (with_reducible refine Keeps.foldl (fun s a h => ?_) ?_)
    | split
    | dsimp only)

theorem State.endLap_keeps {F : Prop} {b s : State} (h : Keeps F b s) (i : Fin 16) :
    Keeps F b (s.endLap i) := by
  unfold State.endLap
  try dsimp only
  repeat' (first
    | with_reducible assumption
    | with_reducible apply State.sweepEntries_keeps
    | with_reducible apply State.modScrub_keeps)

theorem State.passPage_keeps {F : Prop} {b s : State} (h : Keeps F b s) (i : Fin 16) (k : Nat) :
    Keeps F b (s.passPage i k) := by
  unfold State.passPage
  try dsimp only
  repeat' (first
    | with_reducible assumption
    | with_reducible apply State.modScrub_keeps
    | with_reducible apply State.endLap_keeps
    | split
    | dsimp only)

theorem State.scrubRead_keeps {F : Prop} {b s : State} (h : Keeps F b s) (i : Fin 16) (idle : Nat) :
    Keeps F b (s.scrubRead i idle) := by
  unfold State.scrubRead
  try dsimp only
  repeat' (first
    | with_reducible assumption
    | with_reducible apply State.scrubPage_keeps
    | with_reducible apply State.passPage_keeps
    | with_reducible apply State.endLap_keeps
    | exact fun h => h
    | exact fun _ => rfl
    | exact Nat.le_refl _
    | exact fun w => Mem.write_wf w _ _
    | exact fun _ h => h
    | exact fun _ _ => rfl
    | (intro w; refine Coded.all_map ?_ w; intro p h; first | exact h | (split <;> exact h))
    | exact fun w => Coded.all_filter w
    | (exact fun w => Coded.all_set (by simp [Coded.pairsOk, Coded.opened]) w)
    | (intro k w; simp_all [Coded.pairsOk, Coded.setC, Coded.setS, Coded.modGlove]; done)
    | (with_reducible refine Keeps.foldl (fun s a h => ?_) ?_)
    | (with_reducible refine Keeps.foldlFst (fun s a h => ?_) ?_)
    | (refine Keeps.ofFst (by with_reducible assumption) ?_)
    | split
    | dsimp only
    | with_reducible apply Keeps.made)

theorem State.lapOver_keeps {F : Prop} {b s : State} (h : Keeps F b s) (i : Fin 16) :
    Keeps F b (s.lapOver i) := by
  unfold State.lapOver
  try dsimp only
  repeat' (first
    | with_reducible assumption
    | with_reducible apply State.raise_keeps
    | with_reducible apply State.modScrub_keeps
    | split
    | dsimp only)

theorem State.opScrubCtrl_keeps {F : Prop} {b s : State} (h : Keeps F b s) (c : Cmd) :
    Keeps F b (s.opScrubCtrl c) := by
  unfold State.opScrubCtrl
  try dsimp only
  repeat' (first
    | with_reducible assumption
    | with_reducible apply State.post_keeps
    | with_reducible apply State.modScrub_keeps
    | with_reducible apply State.badParam_keeps
    | split
    | dsimp only)

theorem State.failRemote_keeps {F : Prop} {b s : State} (h : Keeps F b s) (q : Req) (write : Bool) (status : Nat) :
    Keeps F b (s.failRemote q write status) := by
  unfold State.failRemote
  try dsimp only
  repeat' (first
    | with_reducible assumption
    | with_reducible apply State.emit_keeps
    | split
    | dsimp only)

theorem State.remoteRequest_keeps {F : Prop} {b s : State} (h : Keeps F b s) (n : Nat) (q : Req) :
    Keeps F b (s.remoteRequest n q) := by
  unfold State.remoteRequest
  try dsimp only
  repeat' (first
    | with_reducible assumption
    | with_reducible apply State.access_keeps
    | with_reducible apply State.failRemote_keeps
    | with_reducible apply State.raise_keeps
    | with_reducible apply State.emit_keeps
    | exact fun h => h
    | exact fun _ => rfl
    | exact Nat.le_refl _
    | exact fun w => Mem.write_wf w _ _
    | exact fun _ h => h
    | exact fun _ _ => rfl
    | (intro w; refine Coded.all_map ?_ w; intro p h; first | exact h | (split <;> exact h))
    | exact fun w => Coded.all_filter w
    | (exact fun w => Coded.all_set (by simp [Coded.pairsOk, Coded.opened]) w)
    | (intro k w; simp_all [Coded.pairsOk, Coded.setC, Coded.setS, Coded.modGlove]; done)
    | (with_reducible refine Keeps.foldl (fun s a h => ?_) ?_)
    | (with_reducible refine Keeps.foldlFst (fun s a h => ?_) ?_)
    | (refine Keeps.ofFst (by with_reducible assumption) ?_)
    | split
    | dsimp only
    | with_reducible apply Keeps.made)

theorem State.dropRemote_keeps {F : Prop} {b s : State} (h : Keeps F b s) (id : Nat) :
    Keeps F b (s.dropRemote id) := by
  unfold State.dropRemote
  try dsimp only
  exact Keeps.made h (fun _ => rfl) (fun h => h) (Nat.le_refl _) (fun h => h)

theorem State.remoteAnswer_keeps {F : Prop} {b s : State} (h : Keeps F b s) (id : Nat) (status : Byte) (data : RemoteData) :
    Keeps F b (s.remoteAnswer id status data) := by
  unfold State.remoteAnswer
  try dsimp only
  repeat' (first
    | with_reducible assumption
    | with_reducible apply State.dropRemote_keeps
    | with_reducible apply State.raise_keeps
    | with_reducible apply State.access_keeps
    | with_reducible apply State.emit_keeps
    | with_reducible apply State.failRemote_keeps
    | split
    | dsimp only)

theorem State.remoteTimeout_keeps {F : Prop} {b s : State} (h : Keeps F b s) (id : Nat) :
    Keeps F b (s.remoteTimeout id) := by
  unfold State.remoteTimeout
  try dsimp only
  repeat' (first
    | with_reducible assumption
    | with_reducible apply State.raise_keeps
    | with_reducible apply State.failRemote_keeps
    | with_reducible apply State.dropRemote_keeps
    | split
    | dsimp only)

theorem State.answerOp_keeps {F : Prop} {b s : State} (h : Keeps F b s) (op : RemoteOp) (status : Nat) (data : List Byte) :
    Keeps F b (s.answerOp op status data) := by
  unfold State.answerOp
  try dsimp only
  repeat' (first
    | with_reducible assumption
    | with_reducible apply State.emit_keeps)

theorem State.rejectOp_keeps {F : Prop} {b s : State} (h : Keeps F b s) (op : RemoteOp) (pair : Bool) :
    Keeps F b (s.rejectOp op pair) := by
  unfold State.rejectOp
  try dsimp only
  repeat' (first
    | with_reducible assumption
    | with_reducible apply State.raise_keeps
    | with_reducible apply State.answerOp_keeps)

theorem State.remoteOperation_keeps {F : Prop} {b s : State} (h : Keeps F b s) (op : RemoteOp) :
    Keeps F b (s.remoteOperation op) := by
  unfold State.remoteOperation
  try dsimp only
  repeat' (first
    | with_reducible assumption
    | with_reducible apply State.rejectOp_keeps
    | with_reducible apply State.raise_keeps
    | with_reducible apply State.access_keeps
    | with_reducible apply State.answerOp_keeps
    | with_reducible apply State.serveWrite_keeps
    | with_reducible apply State.serveRead_keeps
    | exact fun h => h
    | exact fun _ => rfl
    | exact Nat.le_refl _
    | exact fun w => Mem.write_wf w _ _
    | exact fun _ h => h
    | exact fun _ _ => rfl
    | (intro w; refine Coded.all_map ?_ w; intro p h; first | exact h | (split <;> exact h))
    | exact fun w => Coded.all_filter w
    | (exact fun w => Coded.all_set (by simp [Coded.pairsOk, Coded.opened]) w)
    | (intro k w; simp_all [Coded.pairsOk, Coded.setC, Coded.setS, Coded.modGlove]; done)
    | (with_reducible refine Keeps.foldl (fun s a h => ?_) ?_)
    | (with_reducible refine Keeps.foldlFst (fun s a h => ?_) ?_)
    | (refine Keeps.ofFst (by with_reducible assumption) ?_)
    | split
    | dsimp only
    | with_reducible apply Keeps.made)

theorem State.answerOps_keeps {F : Prop} {b s : State} (h : Keeps F b s) :
    Keeps F b (s.answerOps) := by
  unfold State.answerOps
  try dsimp only
  repeat' (first
    | with_reducible assumption
    | rw [List.length_map]
    | exact fun h => h
    | exact fun _ => rfl
    | exact Nat.le_refl _
    | exact fun w => Mem.write_wf w _ _
    | exact fun _ h => h
    | exact fun _ _ => rfl
    | (intro w; refine Coded.all_map ?_ w; intro p h; first | exact h | (split <;> exact h))
    | exact fun w => Coded.all_filter w
    | (exact fun w => Coded.all_set (by simp [Coded.pairsOk, Coded.opened]) w)
    | (intro k w; simp_all [Coded.pairsOk, Coded.setC, Coded.setS, Coded.modGlove]; done)
    | (with_reducible refine Keeps.foldl (fun s a h => ?_) ?_)
    | (with_reducible refine Keeps.foldlFst (fun s a h => ?_) ?_)
    | (refine Keeps.ofFst (by with_reducible assumption) ?_)
    | split
    | dsimp only
    | with_reducible apply Keeps.made)

end Sys2Proof.Machine
end

