-- ==== Sys2Proof/Laws/KeepsChip.lean ====
section
/-! SUPPORT. Each operation of Startup, Registers, Rings, Events, Surroundings, Ports, Stitching, Upkeep, Step leaves the queue, the clock and the fuses alone, and keeps memory's
canonical form and the complement pairs. -/

namespace Sys2Proof.Machine

theorem State.release_keeps {F : Prop} {b s : State} (h : Keeps F b s) (straps : BitVec 22) :
    Keeps F b (s.release straps) := by
  unfold State.release
  try dsimp only
  repeat' (first
    | with_reducible assumption
    | with_reducible apply State.modCu_keeps
    | with_reducible apply State.modInsts_keeps
    | exact fun _ => rfl
    | split
    | dsimp only)

theorem State.takeImage_keeps {F : Prop} {b s : State} (h : Keeps F b s) (image : List Byte) :
    Keeps F b (s.takeImage image) := by
  unfold State.takeImage
  try dsimp only
  repeat' (first
    | with_reducible assumption
    | with_reducible apply State.modCu_keeps
    | exact fun _ => rfl
    | split
    | dsimp only)

theorem State.completeStart_keeps {F : Prop} {b s : State} (h : Keeps F b s) :
    Keeps F b (s.completeStart) := by
  unfold State.completeStart
  try dsimp only
  repeat' (first
    | with_reducible assumption
    | with_reducible apply State.modInsts_keeps
    | with_reducible apply State.modCu_keeps
    | exact fun _ => rfl
    | split
    | dsimp only)

theorem State.startFirmware_keeps {F : Prop} {b s : State} (h : Keeps F b s) :
    Keeps F b (s.startFirmware) := by
  unfold State.startFirmware
  try dsimp only
  repeat' (first
    | with_reducible assumption
    | with_reducible apply State.completeStart_keeps
    | with_reducible apply State.modCu_keeps
    | exact fun _ => rfl
    | split
    | dsimp only)

theorem State.failInst_keeps {F : Prop} {b s : State} (h : Keeps F b s) (i : Fin 16) (cause d1 : Nat) :
    Keeps F b (s.failInst i cause d1) := by
  unfold State.failInst
  try dsimp only
  repeat' (first
    | with_reducible assumption
    | with_reducible apply State.raise_keeps
    | with_reducible apply State.modTest_keeps)

theorem State.ctrlReady_keeps {F : Prop} {b s : State} (h : Keeps F b s) (i : Fin 16) (lpddr wordCode pseudo : Bool) :
    Keeps F b (s.ctrlReady i lpddr wordCode pseudo) := by
  unfold State.ctrlReady
  try dsimp only
  repeat' (first
    | with_reducible assumption
    | with_reducible apply State.modInst_keeps
    | with_reducible apply State.failInst_keeps
    | split
    | dsimp only)

theorem State.ctrlLate_keeps {F : Prop} {b s : State} (h : Keeps F b s) (i : Fin 16) :
    Keeps F b (s.ctrlLate i) := by
  unfold State.ctrlLate
  try dsimp only
  repeat' (first
    | with_reducible assumption
    | with_reducible apply State.failInst_keeps
    | split
    | dsimp only)

theorem State.lanesTrained_keeps {F : Prop} {b s : State} (h : Keeps F b s) (i : Fin 16) (passed : BitVec 8) (encoded : List LaneRom) :
    Keeps F b (s.lanesTrained i passed encoded) := by
  unfold State.lanesTrained
  try dsimp only
  repeat' (first
    | with_reducible assumption
    | with_reducible apply State.modInst_keeps
    | with_reducible apply State.failInst_keeps
    | (with_reducible refine Keeps.foldl (fun s a h => ?_) ?_)
    | split
    | dsimp only)

theorem State.flipDecided_keeps {F : Prop} {b s : State} (h : Keeps F b s) :
    Keeps F b (s.flipDecided) := by
  unfold State.flipDecided
  try dsimp only
  repeat' (first
    | with_reducible assumption
    | with_reducible apply State.crownNow_keeps
    | (with_reducible refine Keeps.foldl (fun s a h => ?_) ?_)
    | dsimp only)

theorem State.faultBand_keeps {F : Prop} {b s : State} (h : Keeps F b s) (bad : Nat) (validFell : Bool) :
    Keeps F b (s.faultBand bad validFell) := by
  unfold State.faultBand
  try dsimp only
  repeat' (first
    | with_reducible assumption
    | with_reducible apply State.modCu_keeps
    | with_reducible apply State.flipDecided_keeps
    | with_reducible apply State.raise_keeps
    | exact fun _ => rfl
    | split
    | dsimp only)

theorem State.stallBand_keeps {F : Prop} {b s : State} (h : Keeps F b s) :
    Keeps F b (s.stallBand) := by
  unfold State.stallBand
  try dsimp only
  repeat' (first
    | with_reducible assumption
    | with_reducible apply State.faultBand_keeps)

theorem State.serviceDog_keeps {F : Prop} {b s : State} (h : Keeps F b s) :
    Keeps F b (s.serviceDog) := by
  unfold State.serviceDog
  try dsimp only
  repeat' (first
    | with_reducible assumption
    | with_reducible apply State.modCu_keeps
    | exact fun _ => rfl
    | split
    | dsimp only)

theorem State.dogBarks_keeps {F : Prop} {b s : State} (h : Keeps F b s) (pc : Word) :
    Keeps F b (s.dogBarks pc) := by
  unfold State.dogBarks
  try dsimp only
  repeat' (first
    | with_reducible assumption
    | with_reducible apply State.raise_keeps
    | with_reducible apply State.modCu_keeps
    | with_reducible apply State.post_keeps
    | exact fun h => h
    | exact fun _ => rfl
    | exact Nat.le_refl _
    | exact fun w => Mem.write_wf w _ _
    | exact fun _ h => h
    | exact fun _ _ => rfl
    | (intro w; refine Coded.all_map ?_ w; intro p h; first | exact h | (split <;> exact h))
    | exact fun w => Coded.all_filter w
    | (exact fun w => Coded.all_set (by simp [Coded.pairsOk, Coded.opened]) w)
    | (intro k w; simp_all [Coded.pairsOk, Coded.setC, Coded.setS, Coded.modGlove]; done)
    | (with_reducible refine Keeps.foldl (fun s a h => ?_) ?_)
    | (with_reducible refine Keeps.foldlFst (fun s a h => ?_) ?_)
    | (refine Keeps.ofFst (by with_reducible assumption) ?_)
    | split
    | dsimp only)

theorem State.modHwarn_keeps {F : Prop} {b s : State} (h : Keeps F b s) (n : Fin 8) (f : Hwarn → Hwarn) :
    Keeps F b (s.modHwarn n f) := by
  unfold State.modHwarn
  try dsimp only
  exact Keeps.made h (fun _ => rfl) (fun h => h) (Nat.le_refl _) (fun h => h)

theorem State.warnHatbox_keeps {F : Prop} {b s : State} (h : Keeps F b s) :
    Keeps F b (s.warnHatbox) := by
  unfold State.warnHatbox
  try dsimp only
  repeat' (first
    | with_reducible assumption
    | exact fun h => h
    | exact fun _ => rfl
    | exact Nat.le_refl _
    | exact fun w => Mem.write_wf w _ _
    | exact fun _ h => h
    | exact fun _ _ => rfl
    | (intro w; refine Coded.all_map ?_ w; intro p h; first | exact h | (split <;> exact h))
    | exact fun w => Coded.all_filter w
    | (exact fun w => Coded.all_set (by simp [Coded.pairsOk, Coded.opened]) w)
    | (intro k w; simp_all [Coded.pairsOk, Coded.setC, Coded.setS, Coded.modGlove]; done)
    | (with_reducible refine Keeps.foldl (fun s a h => ?_) ?_)
    | (with_reducible refine Keeps.foldlFst (fun s a h => ?_) ?_)
    | (refine Keeps.ofFst (by with_reducible assumption) ?_)
    | split
    | dsimp only
    | with_reducible apply Keeps.made)

theorem State.hwarnEdge_keeps {F : Prop} {b s : State} (h : Keeps F b s) (n : Fin 8) (level : Bool) :
    Keeps F b (s.hwarnEdge n level) := by
  unfold State.hwarnEdge
  try dsimp only
  repeat' (first
    | with_reducible assumption
    | with_reducible apply State.modHwarn_keeps
    | with_reducible apply State.warnHatbox_keeps
    | split
    | dsimp only)

theorem State.hwarnGlitch_keeps {F : Prop} {b s : State} (h : Keeps F b s) (n : Fin 8) :
    Keeps F b (s.hwarnGlitch n) := by
  unfold State.hwarnGlitch
  try dsimp only
  repeat' (first
    | with_reducible assumption
    | with_reducible apply State.modHwarn_keeps)

theorem State.hwarnStuck_keeps {F : Prop} {b s : State} (h : Keeps F b s) (n : Fin 8) :
    Keeps F b (s.hwarnStuck n) := by
  unfold State.hwarnStuck
  try dsimp only
  repeat' (first
    | with_reducible assumption
    | with_reducible apply State.raise_keeps
    | with_reducible apply State.modHwarn_keeps
    | split
    | dsimp only)

theorem State.hwarnUnstuck_keeps {F : Prop} {b s : State} (h : Keeps F b s) (n : Fin 8) :
    Keeps F b (s.hwarnUnstuck n) := by
  unfold State.hwarnUnstuck
  try dsimp only
  repeat' (first
    | with_reducible assumption
    | with_reducible apply State.modHwarn_keeps
    | split
    | dsimp only)

theorem State.countAlarms_keeps {F : Prop} {b s : State} (h : Keeps F b s) (pulses : Nat) :
    Keeps F b (s.countAlarms pulses) := by
  unfold State.countAlarms
  try dsimp only
  exact Keeps.made h (fun _ => rfl) (fun h => h) (Nat.le_refl _) (fun h => h)

theorem State.writeInstrument_keeps {F : Prop} {b s : State} (h : Keeps F b s) (i : Fin 16) (instrument : Nat) (value : Word) :
    Keeps F b (s.writeInstrument i instrument value) := by
  unfold State.writeInstrument
  try dsimp only
  repeat' (first
    | with_reducible assumption
    | with_reducible apply State.access_keeps
    | with_reducible apply State.modInst_keeps
    | split
    | dsimp only)

theorem State.haltRequest_keeps {F : Prop} {b s : State} (h : Keeps F b s) :
    Keeps F b (s.haltRequest) := by
  unfold State.haltRequest
  try dsimp only
  repeat' (first
    | with_reducible assumption
    | with_reducible apply State.modCu_keeps
    | with_reducible apply State.access_keeps
    | exact fun _ => rfl
    | split
    | dsimp only)

theorem State.badAccess_keeps {F : Prop} {b s : State} (h : Keeps F b s) (off cause : Nat) :
    Keeps F b (s.badAccess off cause) := by
  unfold State.badAccess
  try dsimp only
  repeat' (first
    | with_reducible assumption
    | with_reducible apply State.access_keeps)

theorem State.readPaired_keeps {F : Prop} {b s : State} (h : Keeps F b s) (off : Nat) :
    Keeps F b (s.readPaired off) := by
  unfold State.readPaired
  try dsimp only
  repeat' (first
    | with_reducible assumption
    | with_reducible apply State.emit_keeps
    | with_reducible apply State.stopCtx_keeps
    | with_reducible apply State.raise_keeps
    | split
    | dsimp only)

theorem State.snapshotCuff_keeps {F : Prop} {b s : State} (h : Keeps F b s) (block : Nat) :
    Keeps F b (s.snapshotCuff block) := by
  unfold State.snapshotCuff
  try dsimp only
  repeat' (first
    | with_reducible assumption
    | with_reducible apply State.emit_keeps
    | with_reducible apply State.raise_keeps
    | with_reducible apply State.modCoded_keeps
    | exact fun h => h
    | exact fun _ h => h
    | split
    | dsimp only)

theorem State.narrowAccess_keeps {F : Prop} {b s : State} (h : Keeps F b s) (off : Nat) (write : Bool) :
    Keeps F b (s.narrowAccess off write) := by
  unfold State.narrowAccess
  try dsimp only
  repeat' (first
    | with_reducible assumption
    | with_reducible apply State.badAccess_keeps
    | with_reducible apply State.emit_keeps
    | split
    | dsimp only)

theorem State.clearFaults_keeps {F : Prop} {b s : State} (h : Keeps F b s) (u : Nat) (bits : Word) (raised : BitVec 34) :
    Keeps F b (s.clearFaults u bits raised) := by
  unfold State.clearFaults
  try dsimp only
  repeat' (first
    | with_reducible assumption
    | with_reducible apply State.modFaults_keeps)

theorem State.setFaults_keeps {F : Prop} {b s : State} (h : Keeps F b s) (u : Nat) (bits : Word) :
    Keeps F b (s.setFaults u bits) := by
  unfold State.setFaults
  try dsimp only
  repeat' (first
    | with_reducible assumption
    | with_reducible apply State.raise_keeps
    | (with_reducible refine Keeps.foldl (fun s a h => ?_) ?_)
    | dsimp only)

theorem State.rearm_keeps {F : Prop} {b s : State} (h : Keeps F b s) (u : Nat) :
    Keeps F b (s.rearm u) := by
  unfold State.rearm
  try dsimp only
  repeat' (first
    | with_reducible assumption
    | with_reducible apply State.modFaults_keeps)

theorem State.clearLatches_keeps {F : Prop} {b s : State} (h : Keeps F b s) (bits : Word) :
    Keeps F b (s.clearLatches bits) := by
  unfold State.clearLatches
  try dsimp only
  repeat' (first
    | with_reducible assumption
    | with_reducible apply State.modHwarn_keeps
    | (with_reducible refine Keeps.foldl (fun s a h => ?_) ?_)
    | split
    | dsimp only)

theorem State.writeEnable_keeps {F : Prop} {b s : State} (h : Keeps F b s) (i : Fin 16) (v : Nat) :
    Keeps F b (s.writeEnable i v) := by
  unfold State.writeEnable
  try dsimp only
  repeat' (first
    | with_reducible assumption
    | with_reducible apply State.badAccess_keeps
    | with_reducible apply State.modInst_keeps
    | with_reducible apply State.rebuildStale_keeps
    | split
    | dsimp only)

theorem State.laneStopped_keeps {F : Prop} {b s : State} (h : Keeps F b s) (i : Fin 16) (k : Fin 8) :
    Keeps F b (s.laneStopped i k) := by
  unfold State.laneStopped
  try dsimp only
  repeat' (first
    | with_reducible assumption
    | with_reducible apply State.modInst_keeps)

theorem State.instStopped_keeps {F : Prop} {b s : State} (h : Keeps F b s) (i : Fin 16) :
    Keeps F b (s.instStopped i) := by
  unfold State.instStopped
  try dsimp only
  repeat' (first
    | with_reducible assumption
    | with_reducible apply State.modInst_keeps
    | split
    | dsimp only)

theorem State.writeHandle_keeps {F : Prop} {b s : State} (h : Keeps F b s) (n w : Nat) (value : Word) :
    Keeps F b (s.writeHandle n w value) := by
  unfold State.writeHandle
  try dsimp only
  repeat' (first
    | with_reducible assumption
    | with_reducible apply State.modCu_keeps
    | with_reducible apply State.badAccess_keeps
    | exact fun _ => rfl
    | split
    | dsimp only)

theorem State.writeDomain_keeps {F : Prop} {b s : State} (h : Keeps F b s) (n w : Nat) (value : Word) :
    Keeps F b (s.writeDomain n w value) := by
  unfold State.writeDomain
  try dsimp only
  repeat' (first
    | with_reducible assumption
    | with_reducible apply State.modCu_keeps
    | with_reducible apply State.badAccess_keeps
    | exact fun _ => rfl
    | split
    | dsimp only)

theorem State.writeRange_keeps {F : Prop} {b s : State} (h : Keeps F b s) (off bits lo hi : Nat) (value : Word) (f : Nat → Cu → Cu) (hw : ∀ v x, (f v x).fuses = x.fuses) :
    Keeps F b (s.writeRange off bits lo hi value f) := by
  unfold State.writeRange
  try dsimp only
  repeat' (first
    | with_reducible assumption
    | with_reducible apply State.badAccess_keeps
    | with_reducible apply State.modCu_keeps
    | exact fun _ => hw _ _
    | split
    | dsimp only)

theorem State.writeGov_keeps {F : Prop} {b s : State} (h : Keeps F b s) (value : Word) :
    Keeps F b (s.writeGov value) := by
  unfold State.writeGov
  try dsimp only
  repeat' (first
    | with_reducible assumption
    | with_reducible apply State.keepBoost_keeps
    | with_reducible apply State.setPower_keeps
    | with_reducible apply State.modCu_keeps
    | exact fun _ => rfl
    | split
    | dsimp only)

theorem State.writeRingTable_keeps {F : Prop} {b s : State} (h : Keeps F b s) (value : Word) :
    Keeps F b (s.writeRingTable value) := by
  unfold State.writeRingTable
  try dsimp only
  repeat' (first
    | with_reducible assumption
    | with_reducible apply State.badAccess_keeps
    | with_reducible apply State.modCu_keeps
    | exact fun _ => rfl
    | split
    | dsimp only)

theorem State.writeEdges_keeps {F : Prop} {b s : State} (h : Keeps F b s) (value : Word) :
    Keeps F b (s.writeEdges value) := by
  unfold State.writeEdges
  try dsimp only
  repeat' (first
    | with_reducible assumption
    | with_reducible apply State.modHwarn_keeps
    | (with_reducible refine Keeps.foldl (fun s a h => ?_) ?_)
    | dsimp only)

theorem State.setDrop_keeps {F : Prop} {b s : State} (h : Keeps F b s) (i v : Nat) :
    Keeps F b (s.setDrop i v) := by
  unfold State.setDrop
  try dsimp only
  exact Keeps.made h (fun _ => rfl) (fun h => h) (Nat.le_refl _) (fun h => h)

theorem State.writeCu_keeps {F : Prop} {b s : State} (h : Keeps F b s) (off : Nat) (value : Word) :
    Keeps F b (s.writeCu off value) := by
  unfold State.writeCu
  try dsimp only
  repeat' (first
    | with_reducible assumption
    | with_reducible apply State.serviceDog_keeps
    | with_reducible apply State.clearLatches_keeps
    | with_reducible apply State.writeEdges_keeps
    | with_reducible apply State.modCu_keeps
    | with_reducible apply State.clearFaults_keeps
    | with_reducible apply State.modFaults_keeps
    | with_reducible apply State.setFaults_keeps
    | with_reducible apply State.rearm_keeps
    | with_reducible apply State.setDrop_keeps
    | with_reducible apply State.writeRange_keeps
    | with_reducible apply State.writeGov_keeps
    | with_reducible apply State.writeRingTable_keeps
    | with_reducible apply State.badAccess_keeps
    | exact fun h => h
    | exact fun _ => rfl
    | exact Nat.le_refl _
    | exact fun w => Mem.write_wf w _ _
    | exact fun _ h => h
    | exact fun _ _ => rfl
    | (intro w; refine Coded.all_map ?_ w; intro p h; first | exact h | (split <;> exact h))
    | exact fun w => Coded.all_filter w
    | (exact fun w => Coded.all_set (by simp [Coded.pairsOk, Coded.opened]) w)
    | (intro k w; simp_all [Coded.pairsOk, Coded.setC, Coded.setS, Coded.modGlove]; done)
    | (with_reducible refine Keeps.foldl (fun s a h => ?_) ?_)
    | (with_reducible refine Keeps.foldlFst (fun s a h => ?_) ?_)
    | (refine Keeps.ofFst (by with_reducible assumption) ?_)
    | split
    | dsimp only)

theorem State.writeLane_keeps {F : Prop} {b s : State} (h : Keeps F b s) (i : Fin 16) (k o : Nat) (value : Word) :
    Keeps F b (s.writeLane i k o value) := by
  unfold State.writeLane
  try dsimp only
  repeat' (first
    | with_reducible assumption
    | with_reducible apply State.modInst_keeps
    | with_reducible apply State.badAccess_keeps
    | split
    | dsimp only)

theorem State.writeScrub_keeps {F : Prop} {b s : State} (h : Keeps F b s) (i : Fin 16) (value : Word) :
    Keeps F b (s.writeScrub i value) := by
  unfold State.writeScrub
  try dsimp only
  repeat' (first
    | with_reducible assumption
    | with_reducible apply State.badAccess_keeps
    | with_reducible apply State.lapOver_keeps
    | with_reducible apply State.modScrub_keeps
    | split
    | dsimp only)

theorem State.writeInstNow_keeps {F : Prop} {b s : State} (h : Keeps F b s) (i : Fin 16) (o : Nat) (value : Word) :
    Keeps F b (s.writeInstNow i o value) := by
  unfold State.writeInstNow
  try dsimp only
  repeat' (first
    | with_reducible assumption
    | with_reducible apply State.modInst_keeps
    | with_reducible apply State.writeLane_keeps
    | with_reducible apply State.writeEnable_keeps
    | with_reducible apply State.clearFaults_keeps
    | with_reducible apply State.modFaults_keeps
    | with_reducible apply State.setFaults_keeps
    | with_reducible apply State.rearm_keeps
    | with_reducible apply State.writeScrub_keeps
    | with_reducible apply State.badAccess_keeps
    | split
    | dsimp only)

theorem State.heldBy_keeps {F : Prop} {b s : State} (h : Keeps F b s) (i : Fin 16) (off : Nat) (value : Word) (act : State) (ha : Keeps F b act) :
    Keeps F b (s.heldBy i off value act) := by
  unfold State.heldBy
  try dsimp only
  repeat' (first
    | with_reducible assumption
    | exact fun h => h
    | exact fun _ => rfl
    | exact Nat.le_refl _
    | exact fun w => Mem.write_wf w _ _
    | exact fun _ h => h
    | exact fun _ _ => rfl
    | (intro w; refine Coded.all_map ?_ w; intro p h; first | exact h | (split <;> exact h))
    | exact fun w => Coded.all_filter w
    | (exact fun w => Coded.all_set (by simp [Coded.pairsOk, Coded.opened]) w)
    | (intro k w; simp_all [Coded.pairsOk, Coded.setC, Coded.setS, Coded.modGlove]; done)
    | (with_reducible refine Keeps.foldl (fun s a h => ?_) ?_)
    | (with_reducible refine Keeps.foldlFst (fun s a h => ?_) ?_)
    | (refine Keeps.ofFst (by with_reducible assumption) ?_)
    | split
    | dsimp only
    | with_reducible apply Keeps.made)

theorem State.writeCtx_keeps {F : Prop} {b s : State} (h : Keeps F b s) (block o : Nat) (value : Word) :
    Keeps F b (s.writeCtx block o value) := by
  unfold State.writeCtx
  try dsimp only
  repeat' (first
    | with_reducible assumption
    | with_reducible apply State.modCoded_keeps
    | with_reducible apply State.badAccess_keeps
    | exact fun h => h
    | exact fun _ h => h
    | split
    | dsimp only)

theorem State.sealedWrite_keeps {F : Prop} {b s : State} (h : Keeps F b s) (off : Nat) (value : Word) :
    Keeps F b (s.sealedWrite off value) := by
  unfold State.sealedWrite
  try dsimp only
  repeat' (first
    | with_reducible assumption
    | with_reducible apply State.raise_keeps)

theorem State.writeReg_keeps {F : Prop} {b s : State} (h : Keeps F b s) (off : Nat) (value : Word) :
    Keeps F b (s.writeReg off value) := by
  unfold State.writeReg
  try dsimp only
  repeat' (first
    | with_reducible assumption
    | with_reducible apply State.badAccess_keeps
    | with_reducible apply State.writeCu_keeps
    | with_reducible apply State.writeCtx_keeps
    | with_reducible apply State.sealedWrite_keeps
    | with_reducible apply State.writeDomain_keeps
    | with_reducible apply State.writeHandle_keeps
    | with_reducible apply State.heldBy_keeps
    | with_reducible apply State.writeInstNow_keeps
    | split
    | dsimp only)

theorem State.releaseRegs_keeps {F : Prop} {b s : State} (h : Keeps F b s) :
    Keeps F b (s.releaseRegs) := by
  unfold State.releaseRegs
  try dsimp only
  repeat' (first
    | with_reducible assumption
    | with_reducible apply State.writeReg_keeps
    | exact fun h => h
    | exact fun _ => rfl
    | exact Nat.le_refl _
    | exact fun w => Mem.write_wf w _ _
    | exact fun _ h => h
    | exact fun _ _ => rfl
    | (intro w; refine Coded.all_map ?_ w; intro p h; first | exact h | (split <;> exact h))
    | exact fun w => Coded.all_filter w
    | (exact fun w => Coded.all_set (by simp [Coded.pairsOk, Coded.opened]) w)
    | (intro k w; simp_all [Coded.pairsOk, Coded.setC, Coded.setS, Coded.modGlove]; done)
    | (with_reducible refine Keeps.foldl (fun s a h => ?_) ?_)
    | (with_reducible refine Keeps.foldlFst (fun s a h => ?_) ?_)
    | (refine Keeps.ofFst (by with_reducible assumption) ?_)
    | split
    | dsimp only
    | with_reducible apply Keeps.made)

theorem State.opNop_keeps {F : Prop} {b s : State} (h : Keeps F b s) (c : Cmd) :
    Keeps F b (s.opNop c) := by
  unfold State.opNop
  try dsimp only
  repeat' (first
    | with_reducible assumption
    | with_reducible apply State.post_keeps)

theorem State.opFenceSignal_keeps {F : Prop} {b s : State} (h : Keeps F b s) (c : Cmd) :
    Keeps F b (s.opFenceSignal c) := by
  unfold State.opFenceSignal
  try dsimp only
  repeat' (first
    | with_reducible assumption
    | with_reducible apply State.post_keeps
    | with_reducible apply State.clearFence_keeps
    | with_reducible apply State.setFence_keeps
    | split
    | dsimp only)

theorem State.opMeasureGet_keeps {F : Prop} {b s : State} (h : Keeps F b s) (c : Cmd) :
    Keeps F b (s.opMeasureGet c) := by
  unfold State.opMeasureGet
  try dsimp only
  repeat' (first
    | with_reducible assumption
    | with_reducible apply State.post_keeps
    | with_reducible apply State.badParam_keeps
    | with_reducible apply State.bufferWrite_keeps
    | split
    | dsimp only)

theorem State.opSealSet_keeps {b s : State} (h : Keeps False b s) (c : Cmd) : Keeps False b (s.opSealSet c) := by
  unfold State.opSealSet
  dsimp only
  repeat' (first
    | with_reducible assumption
    | with_reducible apply State.badParam_keeps
    | with_reducible apply State.post_keeps
    | split
    | exact h.upd rfl rfl (fun f => f.elim) (fun w => w) (Nat.le_refl _) (fun w => w))

theorem State.opTestRun_keeps {F : Prop} {b s : State} (h : Keeps F b s) (c : Cmd) :
    Keeps F b (s.opTestRun c) := by
  unfold State.opTestRun
  try dsimp only
  repeat' (first
    | with_reducible assumption
    | with_reducible apply State.badParam_keeps
    | with_reducible apply State.post_keeps
    | with_reducible apply State.hold_keeps
    | with_reducible apply State.modTest_keeps
    | split
    | dsimp only)

theorem State.opEvacuate_keeps {F : Prop} {b s : State} (h : Keeps F b s) (c : Cmd) :
    Keeps F b (s.opEvacuate c) := by
  unfold State.opEvacuate
  try dsimp only
  repeat' (first
    | with_reducible assumption
    | with_reducible apply State.post_keeps
    | with_reducible apply State.badParam_keeps
    | with_reducible apply State.loseMember_keeps
    | split
    | dsimp only)

theorem State.opHatboxConfigure_keeps {F : Prop} {b s : State} (h : Keeps F b s) (c : Cmd) :
    Keeps F b (s.opHatboxConfigure c) := by
  unfold State.opHatboxConfigure
  try dsimp only
  repeat' (first
    | with_reducible assumption
    | with_reducible apply State.post_keeps
    | with_reducible apply State.opConfigure_keeps
    | split
    | dsimp only)

theorem State.runOp_keeps {b s : State} (h : Keeps False b s) (c : Cmd) :
    Keeps False b (s.runOp c) := by
  unfold State.runOp
  try dsimp only
  repeat' (first
    | with_reducible assumption
    | with_reducible apply State.opCtxOpen_keeps
    | with_reducible apply State.opCtxClose_keeps
    | with_reducible apply State.opRegionMap_keeps
    | with_reducible apply State.opRegionUnmap_keeps
    | with_reducible apply State.opRegionFill_keeps
    | with_reducible apply State.opGloveForm_keeps
    | with_reducible apply State.opGloveDissolve_keeps
    | with_reducible apply State.opGloveQuery_keeps
    | with_reducible apply State.opStepOpen_keeps
    | with_reducible apply State.opDrainClose_keeps
    | with_reducible apply State.opCrown_keeps
    | with_reducible apply State.opRollback_keeps
    | with_reducible apply State.opWitnessArm_keeps
    | with_reducible apply State.opWitnessVerdict_keeps
    | with_reducible apply State.opDarnStart_keeps
    | with_reducible apply State.opDarnStitch_keeps
    | with_reducible apply State.opStandinAssign_keeps
    | with_reducible apply State.opEvacuateSelf_keeps
    | with_reducible apply State.opEvacuate_keeps
    | with_reducible apply State.opAdmit_keeps
    | with_reducible apply State.opHatboxConfigure_keeps
    | with_reducible apply State.opHatboxWrite_keeps
    | with_reducible apply State.opRestore_keeps
    | with_reducible apply State.opImageExport_keeps
    | with_reducible apply State.opImageImport_keeps
    | with_reducible apply State.opDigestArm_keeps
    | with_reducible apply State.opDigestRead_keeps
    | with_reducible apply State.opTallyArm_keeps
    | with_reducible apply State.opTallyRead_keeps
    | with_reducible apply State.opTilePromote_keeps
    | with_reducible apply State.opTileEvict_keeps
    | with_reducible apply State.opBrimOpen_keeps
    | with_reducible apply State.opBrimClose_keeps
    | with_reducible apply State.opBrimAdvance_keeps
    | with_reducible apply State.opQuotaPool_keeps
    | with_reducible apply State.opQuotaSet_keeps
    | with_reducible apply State.opScrubCtrl_keeps
    | with_reducible apply State.opTestRun_keeps
    | with_reducible apply State.opMeasureGet_keeps
    | with_reducible apply State.opSealSet_keeps
    | with_reducible apply State.opFenceSignal_keeps
    | with_reducible apply State.opNop_keeps
    | split
    | dsimp only)

theorem State.ringAccess_keeps {F : Prop} {b s : State} (h : Keeps F b s) (ring : Nat) :
    Keeps F b (s.ringAccess ring) := by
  unfold State.ringAccess
  try dsimp only
  repeat' (first
    | with_reducible assumption
    | with_reducible apply State.access_keeps)

theorem State.stallRing_keeps {F : Prop} {b s : State} (h : Keeps F b s) (ring : Nat) :
    Keeps F b (s.stallRing ring) := by
  unfold State.stallRing
  try dsimp only
  repeat' (first
    | with_reducible assumption
    | with_reducible apply State.modRing_keeps)

theorem State.ringDoorbell_keeps {F : Prop} {b s : State} (h : Keeps F b s) (ring : Nat) :
    Keeps F b (s.ringDoorbell ring) := by
  unfold State.ringDoorbell
  try dsimp only
  repeat' (first
    | with_reducible assumption
    | with_reducible apply State.readDesc_keeps
    | with_reducible apply State.ringAccess_keeps
    | with_reducible apply State.stallRing_keeps
    | exact fun h => h
    | exact fun _ => rfl
    | exact Nat.le_refl _
    | exact fun w => Mem.write_wf w _ _
    | exact fun _ h => h
    | exact fun _ _ => rfl
    | (intro w; refine Coded.all_map ?_ w; intro p h; first | exact h | (split <;> exact h))
    | exact fun w => Coded.all_filter w
    | (exact fun w => Coded.all_set (by simp [Coded.pairsOk, Coded.opened]) w)
    | (intro k w; simp_all [Coded.pairsOk, Coded.setC, Coded.setS, Coded.modGlove]; done)
    | (with_reducible refine Keeps.foldl (fun s a h => ?_) ?_)
    | (with_reducible refine Keeps.foldlFst (fun s a h => ?_) ?_)
    | (refine Keeps.ofFst (by with_reducible assumption) ?_)
    | split
    | dsimp only
    | with_reducible apply Keeps.made)

theorem State.actDoorbells_keeps {F : Prop} {b s : State} (h : Keeps F b s) :
    Keeps F b (s.actDoorbells) := by
  unfold State.actDoorbells
  try dsimp only
  repeat' (first
    | with_reducible assumption
    | with_reducible apply State.ringDoorbell_keeps
    | with_reducible apply State.modCu_keeps
    | exact fun h => h
    | exact fun _ => rfl
    | exact Nat.le_refl _
    | exact fun w => Mem.write_wf w _ _
    | exact fun _ h => h
    | exact fun _ _ => rfl
    | (intro w; refine Coded.all_map ?_ w; intro p h; first | exact h | (split <;> exact h))
    | exact fun w => Coded.all_filter w
    | (exact fun w => Coded.all_set (by simp [Coded.pairsOk, Coded.opened]) w)
    | (intro k w; simp_all [Coded.pairsOk, Coded.setC, Coded.setS, Coded.modGlove]; done)
    | (with_reducible refine Keeps.foldl (fun s a h => ?_) ?_)
    | (with_reducible refine Keeps.foldlFst (fun s a h => ?_) ?_)
    | (refine Keeps.ofFst (by with_reducible assumption) ?_)
    | split
    | dsimp only)

theorem State.doorbell_keeps {F : Prop} {b s : State} (h : Keeps F b s) (value : Word) :
    Keeps F b (s.doorbell value) := by
  unfold State.doorbell
  try dsimp only
  repeat' (first
    | with_reducible assumption
    | with_reducible apply State.actDoorbells_keeps
    | with_reducible apply State.modCu_keeps
    | exact fun _ => rfl
    | split
    | dsimp only)

theorem State.passHead_keeps {F : Prop} {b s : State} (h : Keeps F b s) (ring : Nat) :
    Keeps F b (s.passHead ring) := by
  unfold State.passHead
  try dsimp only
  repeat' (first
    | with_reducible assumption
    | with_reducible apply State.writeCount_keeps
    | with_reducible apply State.modRing_keeps
    | split
    | dsimp only)

theorem State.endAtFetch_keeps {F : Prop} {b s : State} (h : Keeps F b s) (c : Cmd) (status detail : Nat) (fence : Option Nat) :
    Keeps F b (s.endAtFetch c status detail fence) := by
  unfold State.endAtFetch
  try dsimp only
  repeat' (first
    | with_reducible assumption
    | with_reducible apply State.passHead_keeps
    | with_reducible apply State.writeEntry_keeps
    | with_reducible apply State.setFence_keeps
    | split
    | dsimp only)

theorem State.packetFetch_keeps {F : Prop} {b s : State} (h : Keeps F b s) (ring : Nat) :
    Keeps F b (s.packetFetch ring) := by
  unfold State.packetFetch
  try dsimp only
  repeat' (first
    | with_reducible assumption
    | with_reducible apply State.stallRing_keeps
    | with_reducible apply State.padunRead_keeps
    | with_reducible apply State.endAtFetch_keeps
    | with_reducible apply State.modRing_keeps
    | (with_reducible refine Keeps.foldl (fun s a h => ?_) ?_)
    | (refine Keeps.ofFst (by with_reducible assumption) ?_)
    | split
    | dsimp only)

theorem State.commandAccept_keeps {b s : State} (h : Keeps False b s) (ring : Nat) :
    Keeps False b (s.commandAccept ring) := by
  unfold State.commandAccept
  try dsimp only
  repeat' (first
    | with_reducible assumption
    | with_reducible apply State.runOp_keeps
    | with_reducible apply State.passHead_keeps
    | split
    | dsimp only)

theorem State.deferredStart_keeps {b s : State} (h : Keeps False b s) (ring count : Nat) :
    Keeps False b (s.deferredStart ring count) := by
  unfold State.deferredStart
  try dsimp only
  repeat' (first
    | with_reducible assumption
    | with_reducible apply State.runOp_keeps
    | split
    | dsimp only)

theorem State.gradeNow_keeps {F : Prop} {b s : State} (h : Keeps F b s) :
    Keeps F b (s.gradeNow) := by
  unfold State.gradeNow
  try dsimp only
  repeat' (first
    | with_reducible assumption
    | with_reducible apply State.gradeLosses_keeps
    | exact fun h => h
    | exact fun _ => rfl
    | exact Nat.le_refl _
    | exact fun w => Mem.write_wf w _ _
    | exact fun _ h => h
    | exact fun _ _ => rfl
    | (intro w; refine Coded.all_map ?_ w; intro p h; first | exact h | (split <;> exact h))
    | exact fun w => Coded.all_filter w
    | (exact fun w => Coded.all_set (by simp [Coded.pairsOk, Coded.opened]) w)
    | (intro k w; simp_all [Coded.pairsOk, Coded.setC, Coded.setS, Coded.modGlove]; done)
    | (with_reducible refine Keeps.foldl (fun s a h => ?_) ?_)
    | (with_reducible refine Keeps.foldlFst (fun s a h => ?_) ?_)
    | (refine Keeps.ofFst (by with_reducible assumption) ?_)
    | split
    | dsimp only)

theorem State.settleUnits_keeps {F : Prop} {b s : State} (h : Keeps F b s) :
    Keeps F b (s.settleUnits) := by
  unfold State.settleUnits
  try dsimp only
  repeat' (first
    | with_reducible assumption
    | with_reducible apply State.releaseFills_keeps
    | with_reducible apply State.settleFills_keeps
    | with_reducible apply State.sendWaiting_keeps
    | with_reducible apply State.settleMerge_keeps
    | exact fun h => h
    | exact fun _ => rfl
    | exact Nat.le_refl _
    | exact fun w => Mem.write_wf w _ _
    | exact fun _ h => h
    | exact fun _ _ => rfl
    | (intro w; refine Coded.all_map ?_ w; intro p h; first | exact h | (split <;> exact h))
    | exact fun w => Coded.all_filter w
    | (exact fun w => Coded.all_set (by simp [Coded.pairsOk, Coded.opened]) w)
    | (intro k w; simp_all [Coded.pairsOk, Coded.setC, Coded.setS, Coded.modGlove]; done)
    | (with_reducible refine Keeps.foldl (fun s a h => ?_) ?_)
    | (with_reducible refine Keeps.foldlFst (fun s a h => ?_) ?_)
    | (refine Keeps.ofFst (by with_reducible assumption) ?_)
    | split
    | dsimp only)

theorem State.settleAll_keeps {F : Prop} {b s : State} (h : Keeps F b s) :
    Keeps F b (s.settleAll) := by
  unfold State.settleAll
  try dsimp only
  repeat' (first
    | with_reducible assumption
    | with_reducible apply State.answerOps_keeps
    | with_reducible apply State.releaseRegs_keeps
    | with_reducible apply State.settleEvicts_keeps
    | with_reducible apply State.settleUnits_keeps
    | with_reducible apply State.gradeNow_keeps
    | with_reducible apply State.pump_keeps
    | with_reducible apply State.actDoorbells_keeps
    | exact fun h => h
    | exact fun _ => rfl
    | exact Nat.le_refl _
    | exact fun w => Mem.write_wf w _ _
    | exact fun _ h => h
    | exact fun _ _ => rfl
    | (intro w; refine Coded.all_map ?_ w; intro p h; first | exact h | (split <;> exact h))
    | exact fun w => Coded.all_filter w
    | (exact fun w => Coded.all_set (by simp [Coded.pairsOk, Coded.opened]) w)
    | (intro k w; simp_all [Coded.pairsOk, Coded.setC, Coded.setS, Coded.modGlove]; done)
    | (with_reducible refine Keeps.foldl (fun s a h => ?_) ?_)
    | (with_reducible refine Keeps.foldlFst (fun s a h => ?_) ?_)
    | (refine Keeps.ofFst (by with_reducible assumption) ?_)
    | split
    | dsimp only)

theorem finishLoop_keeps {F : Prop} {b : State} : ∀ {s : State}, Keeps F b s → ∀ n, Keeps F b (finishLoop n s)
  | _, h, 0 => State.settleAll_keeps h
  | _, h, n + 1 => by
    unfold finishLoop
    have g := State.settleAll_keeps h
    dsimp only
    split
    · exact g
    · refine finishLoop_keeps (State.takeMessage_keeps (Keeps.made g ?_ ?_ ?_ ?_) _ _) n
      · exact fun _ => rfl
      · exact fun h => h
      · exact Nat.le_refl _
      · exact fun h => h

theorem State.finish_keeps {F : Prop} {b s : State} (h : Keeps F b s) :
    Keeps F b (s.finish) := by
  unfold State.finish
  try dsimp only
  repeat' (first
    | with_reducible assumption
    | with_reducible apply finishLoop_keeps)

theorem State.closeColl_keeps {F : Prop} {b s : State} (h : Keeps F b s) (k : CollKey) :
    Keeps F b (s.closeColl k) := by
  unfold State.closeColl
  try dsimp only
  repeat' (first
    | with_reducible assumption
    | with_reducible apply State.pumpRestore_keeps
    | with_reducible apply State.decideColl_keeps
    | split
    | dsimp only)

theorem State.aloneColl_keeps {F : Prop} {b s : State} (h : Keeps F b s) (k : CollKey) :
    Keeps F b (s.aloneColl k) := by
  unfold State.aloneColl
  try dsimp only
  repeat' (first
    | with_reducible assumption
    | with_reducible apply State.conclude_keeps
    | split
    | dsimp only)

theorem State.expireKept_keeps {F : Prop} {b s : State} (h : Keeps F b s) (k : CollKey) :
    Keeps F b (s.expireKept k) := by
  unfold State.expireKept
  try dsimp only
  exact Keeps.made h (fun _ => rfl) (fun h => h) (Nat.le_refl _) (fun h => h)

theorem State.discardDue_keeps {F : Prop} {b s : State} (h : Keeps F b s) (ctx : Nat) :
    Keeps F b (s.discardDue ctx) := by
  unfold State.discardDue
  try dsimp only
  repeat' (first
    | with_reducible assumption
    | with_reducible apply State.finishDiscard_keeps
    | split
    | dsimp only)

theorem State.fallDue_keeps {F : Prop} {b s : State} (h : Keeps F b s) (i : Fin 16) :
    Keeps F b (s.fallDue i) := by
  unfold State.fallDue
  try dsimp only
  repeat' (first
    | with_reducible assumption
    | with_reducible apply State.modTest_keeps
    | split
    | dsimp only)

theorem State.fallOverdue_keeps {F : Prop} {b s : State} (h : Keeps F b s) (i : Fin 16) :
    Keeps F b (s.fallOverdue i) := by
  unfold State.fallOverdue
  try dsimp only
  repeat' (first
    | with_reducible assumption
    | with_reducible apply State.raise_keeps
    | with_reducible apply State.modTest_keeps
    | split
    | dsimp only)

theorem State.failParts_keeps {F : Prop} {b s : State} (h : Keeps F b s) (i : Fin 16) (badL badM : Bool) :
    Keeps F b (s.failParts i badL badM) := by
  unfold State.failParts
  try dsimp only
  repeat' (first
    | with_reducible assumption
    | with_reducible apply State.failInst_keeps
    | split
    | dsimp only)

theorem State.endTest_keeps {F : Prop} {b s : State} (h : Keeps F b s) (i : Fin 16) (lbist mbist : Bool) :
    Keeps F b (s.endTest i lbist mbist) := by
  unfold State.endTest
  try dsimp only
  repeat' (first
    | with_reducible assumption
    | with_reducible apply State.failParts_keeps
    | with_reducible apply State.modTest_keeps
    | with_reducible apply State.stopAll_keeps
    | with_reducible apply State.modInst_keeps
    | with_reducible apply State.endJobs_keeps
    | with_reducible apply State.retryHeld_keeps
    | split
    | dsimp only)

theorem State.takeFabric_keeps {F : Prop} {b s : State} (h : Keeps F b s) (f : FabricStatus) :
    Keeps F b (s.takeFabric f) := by
  unfold State.takeFabric
  try dsimp only
  repeat' (first
    | with_reducible assumption
    | with_reducible apply State.loseChips_keeps
    | with_reducible apply State.modCu_keeps
    | exact fun h => h
    | exact fun _ => rfl
    | exact Nat.le_refl _
    | exact fun w => Mem.write_wf w _ _
    | exact fun _ h => h
    | exact fun _ _ => rfl
    | (intro w; refine Coded.all_map ?_ w; intro p h; first | exact h | (split <;> exact h))
    | exact fun w => Coded.all_filter w
    | (exact fun w => Coded.all_set (by simp [Coded.pairsOk, Coded.opened]) w)
    | (intro k w; simp_all [Coded.pairsOk, Coded.setC, Coded.setS, Coded.modGlove]; done)
    | (with_reducible refine Keeps.foldl (fun s a h => ?_) ?_)
    | (with_reducible refine Keeps.foldlFst (fun s a h => ?_) ?_)
    | (refine Keeps.ofFst (by with_reducible assumption) ?_)
    | split
    | dsimp only)

theorem State.grantRises_keeps {F : Prop} {b s : State} (h : Keeps F b s) :
    Keeps F b (s.grantRises) := by
  unfold State.grantRises
  try dsimp only
  repeat' (first
    | with_reducible assumption
    | with_reducible apply State.setPower_keeps)

theorem State.writeFaultReg_keeps {F : Prop} {b s : State} (h : Keeps F b s) (u : Fin 17) (o : Nat) (value : Word) (act : State) (ha : Keeps F b act) :
    Keeps F b (s.writeFaultReg u o value act) := by
  unfold State.writeFaultReg
  try dsimp only
  repeat' (first
    | with_reducible assumption
    | with_reducible apply State.heldBy_keeps
    | exact fun h => h
    | exact fun _ => rfl
    | exact Nat.le_refl _
    | exact fun w => Mem.write_wf w _ _
    | exact fun _ h => h
    | exact fun _ _ => rfl
    | (intro w; refine Coded.all_map ?_ w; intro p h; first | exact h | (split <;> exact h))
    | exact fun w => Coded.all_filter w
    | (exact fun w => Coded.all_set (by simp [Coded.pairsOk, Coded.opened]) w)
    | (intro k w; simp_all [Coded.pairsOk, Coded.setC, Coded.setS, Coded.modGlove]; done)
    | (with_reducible refine Keeps.foldl (fun s a h => ?_) ?_)
    | (with_reducible refine Keeps.foldlFst (fun s a h => ?_) ?_)
    | (refine Keeps.ofFst (by with_reducible assumption) ?_)
    | split
    | dsimp only)

theorem State.writeEnableBit_keeps {F : Prop} {b s : State} (h : Keeps F b s) (i : Fin 16) (bit : Nat) (on : Bool) :
    Keeps F b (s.writeEnableBit i bit on) := by
  unfold State.writeEnableBit
  try dsimp only
  repeat' (first
    | with_reducible assumption
    | with_reducible apply State.heldBy_keeps
    | with_reducible apply State.writeEnable_keeps)

theorem State.arriveRead_keeps {F : Prop} {b s : State} (h : Keeps F b s) (q : Req) :
    Keeps F b (s.arriveRead q) := by
  unfold State.arriveRead
  try dsimp only
  repeat' (first
    | with_reducible assumption
    | with_reducible apply State.serveRead_keeps
    | with_reducible apply State.countGuard_keeps
    | with_reducible apply State.crownsDue_keeps
    | exact fun h => h
    | exact fun _ => rfl
    | exact Nat.le_refl _
    | exact fun w => Mem.write_wf w _ _
    | exact fun _ h => h
    | exact fun _ _ => rfl
    | (intro w; refine Coded.all_map ?_ w; intro p h; first | exact h | (split <;> exact h))
    | exact fun w => Coded.all_filter w
    | (exact fun w => Coded.all_set (by simp [Coded.pairsOk, Coded.opened]) w)
    | (intro k w; simp_all [Coded.pairsOk, Coded.setC, Coded.setS, Coded.modGlove]; done)
    | (with_reducible refine Keeps.foldl (fun s a h => ?_) ?_)
    | (with_reducible refine Keeps.foldlFst (fun s a h => ?_) ?_)
    | (refine Keeps.ofFst (by with_reducible assumption) ?_)
    | split
    | dsimp only)

end Sys2Proof.Machine
end

