-- ==== Sys2Proof/Laws/KeepsExec.lean ====
section
/-! SUPPORT. What every command leaves alone, the reset and the acquisition of the band count apart: the queue, the clock after the
event's beginning, and but for SEAL_SET the fuses. What every command keeps: memory's canonical form and the complement pairs. -/

namespace Sys2Proof.Machine

theorem State.begin_keeps {F : Prop} (s : State) (e : Ev) : Keeps F (s.at e) (s.begin e) :=
  State.checkTs_keeps (State.checkPairs_keeps (Keeps.foldl (fun _ n h => State.takeNews_keeps h n) (Keeps.refl _)))

theorem State.occur_keeps {F : Prop} {s : State} {e : Ev} {act : State → State}
    (ha : ∀ x, Keeps F (s.at e) x → Keeps F (s.at e) (act x)) : Keeps F (s.at e) (s.occur e act) :=
  State.finish_keeps (ha _ (Keeps.refl _))

theorem State.meet_keeps {F : Prop} {s : State} {e : Ev} {act : State → State}
    (ha : ∀ x, Keeps F (s.at e) x → Keeps F (s.at e) (act x)) : Keeps F (s.at e) (s.meet e act) :=
  State.finish_keeps (ha _ (State.checkTs_keeps (State.checkPairs_keeps (Keeps.refl _))))

theorem State.hear_keeps {F : Prop} {s : State} {e : Ev} {act : State → State}
    (ha : ∀ x, Keeps F (s.at e) x → Keeps F (s.at e) (act x)) : Keeps F (s.at e) (s.hear e act) :=
  State.finish_keeps (ha _ (State.begin_keeps s e))

theorem State.row_keeps {F : Prop} {s : State} {e : Ev} {c : Cmd} {code : Nat} {form : Bool} {op : State → Cmd → State}
    (ha : ∀ x, Keeps F (s.at e) x → Keeps F (s.at e) (op x c)) : Keeps F (s.at e) (s.row e c code form op) := by
  unfold State.row
  dsimp only
  split
  · exact State.finish_keeps (ha _ (State.begin_keeps s e))
  · exact State.begin_keeps s e

theorem State.arrive_keeps {F : Prop} {s : State} {e : Ev} {w : Wire} {type : Nat} {act : State → State}
    (ha : ∀ x, Keeps F (s.at e) x → Keeps F (s.at e) (act x)) : Keeps F (s.at e) (s.arrive e w type act) := by
  unfold State.arrive
  dsimp only
  split
  · exact State.finish_keeps (ha _ (State.begin_keeps s e))
  · exact State.begin_keeps s e

theorem execResetRelease_keeps {F : Prop} (e : Ev) (straps : BitVec 22) (s : State) :
    ∃ t, execResetRelease e straps s = .next t ∧ Keeps F (s.at e) t := by
  refine ⟨_, rfl, ?_⟩
  repeat' (first
    | with_reducible assumption
    | with_reducible exact Keeps.refl _
    | with_reducible apply State.release_keeps)

theorem execFirmwareRelease_keeps {F : Prop} (e : Ev) (image : List Byte) (s : State) :
    ∃ t, execFirmwareRelease e image s = .next t ∧ Keeps F (s.at e) t := by
  refine ⟨_, rfl, ?_⟩
  repeat' (first
    | with_reducible assumption
    | with_reducible exact Keeps.refl _
    | with_reducible apply State.takeImage_keeps)

theorem execFirmwareStart_keeps {F : Prop} (e : Ev) (s : State) :
    ∃ t, execFirmwareStart e s = .next t ∧ Keeps F (s.at e) t := by
  refine ⟨_, rfl, ?_⟩
  repeat' (first
    | with_reducible assumption
    | with_reducible exact Keeps.refl _
    | (with_reducible refine State.occur_keeps (fun s h => ?_))
    | with_reducible apply State.startFirmware_keeps)

theorem execControllerReady_keeps {F : Prop} (e : Ev) (i : Fin 16) (lpddr wordCode pseudo : Bool) (s : State) :
    ∃ t, execControllerReady e i lpddr wordCode pseudo s = .next t ∧ Keeps F (s.at e) t := by
  refine ⟨_, rfl, ?_⟩
  repeat' (first
    | with_reducible assumption
    | with_reducible exact Keeps.refl _
    | with_reducible apply State.ctrlReady_keeps)

theorem execControllerReadyTimeout_keeps {F : Prop} (e : Ev) (i : Fin 16) (s : State) :
    ∃ t, execControllerReadyTimeout e i s = .next t ∧ Keeps F (s.at e) t := by
  refine ⟨_, rfl, ?_⟩
  repeat' (first
    | with_reducible assumption
    | with_reducible exact Keeps.refl _
    | with_reducible apply State.ctrlLate_keeps)

theorem execLaneTrainingDone_keeps {F : Prop} (e : Ev) (i : Fin 16) (passed : BitVec 8) (encoded : List LaneRom) (s : State) :
    ∃ t, execLaneTrainingDone e i passed encoded s = .next t ∧ Keeps F (s.at e) t := by
  refine ⟨_, rfl, ?_⟩
  repeat' (first
    | with_reducible assumption
    | with_reducible exact Keeps.refl _
    | with_reducible apply State.lanesTrained_keeps)

theorem execBandFault_keeps {F : Prop} (e : Ev) (bad : Nat) (validFell : Bool) (s : State) :
    ∃ t, execBandFault e bad validFell s = .next t ∧ Keeps F (s.at e) t := by
  refine ⟨_, rfl, ?_⟩
  repeat' (first
    | with_reducible assumption
    | with_reducible exact Keeps.refl _
    | (with_reducible refine State.meet_keeps (fun s h => ?_))
    | with_reducible apply State.faultBand_keeps)

theorem execBandStall_keeps {F : Prop} (e : Ev) (s : State) :
    ∃ t, execBandStall e s = .next t ∧ Keeps F (s.at e) t := by
  refine ⟨_, rfl, ?_⟩
  repeat' (first
    | with_reducible assumption
    | with_reducible exact Keeps.refl _
    | (with_reducible refine State.meet_keeps (fun s h => ?_))
    | with_reducible apply State.stallBand_keeps)

theorem execWatchdogExpiry_keeps {F : Prop} (e : Ev) (pc : Word) (s : State) :
    ∃ t, execWatchdogExpiry e pc s = .next t ∧ Keeps F (s.at e) t := by
  refine ⟨_, rfl, ?_⟩
  repeat' (first
    | with_reducible assumption
    | with_reducible exact Keeps.refl _
    | with_reducible apply State.dogBarks_keeps)

theorem execWatchdogService_keeps {F : Prop} (e : Ev) (s : State) :
    ∃ t, execWatchdogService e s = .next t ∧ Keeps F (s.at e) t := by
  refine ⟨_, rfl, ?_⟩
  repeat' (first
    | with_reducible assumption
    | with_reducible exact Keeps.refl _
    | with_reducible apply State.serviceDog_keeps)

theorem execLinkDown_keeps {F : Prop} (e : Ev) (port : Fin 48) (s : State) :
    ∃ t, execLinkDown e port s = .next t ∧ Keeps F (s.at e) t := by
  refine ⟨_, rfl, ?_⟩
  repeat' (first
    | with_reducible assumption
    | with_reducible exact Keeps.refl _
    | (with_reducible refine State.hear_keeps (fun s h => ?_))
    | with_reducible apply State.portDown_keeps)

theorem execCoordVerifiedChange_keeps {F : Prop} (e : Ev) (f : FabricStatus) (s : State) :
    ∃ t, execCoordVerifiedChange e f s = .next t ∧ Keeps F (s.at e) t := by
  refine ⟨_, rfl, ?_⟩
  repeat' (first
    | with_reducible assumption
    | with_reducible exact Keeps.refl _
    | (with_reducible refine State.hear_keeps (fun s h => ?_))
    | with_reducible apply State.takeFabric_keeps)

theorem execResidueAlarm_keeps {F : Prop} (e : Ev) (pulses : Nat) (s : State) :
    ∃ t, execResidueAlarm e pulses s = .next t ∧ Keeps F (s.at e) t := by
  refine ⟨_, rfl, ?_⟩
  repeat' (first
    | with_reducible assumption
    | with_reducible exact Keeps.refl _
    | with_reducible apply State.countAlarms_keeps)

theorem execHwarnEdgeFiltered_keeps {F : Prop} (e : Ev) (n : Fin 8) (level : Bool) (s : State) :
    ∃ t, execHwarnEdgeFiltered e n level s = .next t ∧ Keeps F (s.at e) t := by
  refine ⟨_, rfl, ?_⟩
  repeat' (first
    | with_reducible assumption
    | with_reducible exact Keeps.refl _
    | with_reducible apply State.hwarnEdge_keeps)

theorem execHwarnGlitch_keeps {F : Prop} (e : Ev) (n : Fin 8) (s : State) :
    ∃ t, execHwarnGlitch e n s = .next t ∧ Keeps F (s.at e) t := by
  refine ⟨_, rfl, ?_⟩
  repeat' (first
    | with_reducible assumption
    | with_reducible exact Keeps.refl _
    | with_reducible apply State.hwarnGlitch_keeps)

theorem execHwarnStuck_keeps {F : Prop} (e : Ev) (n : Fin 8) (s : State) :
    ∃ t, execHwarnStuck e n s = .next t ∧ Keeps F (s.at e) t := by
  refine ⟨_, rfl, ?_⟩
  repeat' (first
    | with_reducible assumption
    | with_reducible exact Keeps.refl _
    | with_reducible apply State.hwarnStuck_keeps)

theorem execHwarnUnstuck_keeps {F : Prop} (e : Ev) (n : Fin 8) (s : State) :
    ∃ t, execHwarnUnstuck e n s = .next t ∧ Keeps F (s.at e) t := by
  refine ⟨_, rfl, ?_⟩
  repeat' (first
    | with_reducible assumption
    | with_reducible exact Keeps.refl _
    | with_reducible apply State.hwarnUnstuck_keeps)

theorem execClampRise_keeps {F : Prop} (e : Ev) (s : State) :
    ∃ t, execClampRise e s = .next t ∧ Keeps F (s.at e) t := by
  refine ⟨_, rfl, ?_⟩
  repeat' (first
    | with_reducible assumption
    | with_reducible exact Keeps.refl _
    | with_reducible apply State.clampRises_keeps)

theorem execClampFall_keeps {F : Prop} (e : Ev) (s : State) :
    ∃ t, execClampFall e s = .next t ∧ Keeps F (s.at e) t := by
  refine ⟨_, rfl, ?_⟩
  repeat' (first
    | with_reducible assumption
    | with_reducible exact Keeps.refl _
    | (with_reducible refine State.occur_keeps (fun s h => ?_))
    | with_reducible apply State.clampFalls_keeps)

theorem execBoostGrantRise_keeps {F : Prop} (e : Ev) (s : State) :
    ∃ t, execBoostGrantRise e s = .next t ∧ Keeps F (s.at e) t := by
  refine ⟨_, rfl, ?_⟩
  repeat' (first
    | with_reducible assumption
    | with_reducible exact Keeps.refl _
    | with_reducible apply State.grantRises_keeps)

theorem execBoostGrantFall_keeps {F : Prop} (e : Ev) (s : State) :
    ∃ t, execBoostGrantFall e s = .next t ∧ Keeps F (s.at e) t := by
  refine ⟨_, rfl, ?_⟩
  repeat' (first
    | with_reducible assumption
    | with_reducible exact Keeps.refl _
    | with_reducible apply State.grantFalls_keeps)

theorem execPeakLimitReached_keeps {F : Prop} (e : Ev) (s : State) :
    ∃ t, execPeakLimitReached e s = .next t ∧ Keeps F (s.at e) t := by
  refine ⟨_, rfl, ?_⟩
  repeat' (first
    | with_reducible assumption
    | with_reducible exact Keeps.refl _
    | with_reducible apply State.peakReached_keeps)

theorem execPeakLimitCleared_keeps {F : Prop} (e : Ev) (s : State) :
    ∃ t, execPeakLimitCleared e s = .next t ∧ Keeps F (s.at e) t := by
  refine ⟨_, rfl, ?_⟩
  repeat' (first
    | with_reducible assumption
    | with_reducible exact Keeps.refl _
    | with_reducible apply State.peakCleared_keeps)

theorem execIeee1687Write_keeps {F : Prop} (e : Ev) (i : Fin 16) (instrument : Nat) (value : Word) (s : State) :
    ∃ t, execIeee1687Write e i instrument value s = .next t ∧ Keeps F (s.at e) t := by
  refine ⟨_, rfl, ?_⟩
  repeat' (first
    | with_reducible assumption
    | with_reducible exact Keeps.refl _
    | with_reducible apply State.writeInstrument_keeps)

theorem execDebugHaltRequest_keeps {F : Prop} (e : Ev) (s : State) :
    ∃ t, execDebugHaltRequest e s = .next t ∧ Keeps F (s.at e) t := by
  refine ⟨_, rfl, ?_⟩
  repeat' (first
    | with_reducible assumption
    | with_reducible exact Keeps.refl _
    | with_reducible apply State.haltRequest_keeps)

theorem execDoorbell_keeps {F : Prop} (e : Ev) (value : Word) (s : State) :
    ∃ t, execDoorbell e value s = .next t ∧ Keeps F (s.at e) t := by
  refine ⟨_, rfl, ?_⟩
  repeat' (first
    | with_reducible assumption
    | with_reducible exact Keeps.refl _
    | with_reducible apply State.doorbell_keeps)

theorem execPacketFetch_keeps {F : Prop} (e : Ev) (ring : Nat) (s : State) :
    ∃ t, execPacketFetch e ring s = .next t ∧ Keeps F (s.at e) t := by
  refine ⟨_, rfl, ?_⟩
  repeat' (first
    | with_reducible assumption
    | with_reducible exact Keeps.refl _
    | with_reducible apply State.packetFetch_keeps)

theorem execCommandAccept_keeps (e : Ev) (ring : Nat) (s : State) :
    ∃ t, execCommandAccept e ring s = .next t ∧ Keeps False (s.at e) t := by
  refine ⟨_, rfl, ?_⟩
  repeat' (first
    | with_reducible assumption
    | with_reducible exact Keeps.refl _
    | (with_reducible refine State.hear_keeps (fun s h => ?_))
    | with_reducible apply State.commandAccept_keeps)

theorem execDeferredStart_keeps (e : Ev) (ring count : Nat) (s : State) :
    ∃ t, execDeferredStart e ring count s = .next t ∧ Keeps False (s.at e) t := by
  refine ⟨_, rfl, ?_⟩
  repeat' (first
    | with_reducible assumption
    | with_reducible exact Keeps.refl _
    | (with_reducible refine State.hear_keeps (fun s h => ?_))
    | with_reducible apply State.deferredStart_keeps)

theorem execCtxOpen_keeps {F : Prop} (e : Ev) (c : Cmd) (s : State) :
    ∃ t, execCtxOpen e c s = .next t ∧ Keeps F (s.at e) t := by
  refine ⟨_, rfl, ?_⟩
  repeat' (first
    | with_reducible assumption
    | with_reducible exact Keeps.refl _
    | (with_reducible refine State.row_keeps (fun s h => ?_))
    | with_reducible apply State.opCtxOpen_keeps)

theorem execCtxClose_keeps {F : Prop} (e : Ev) (c : Cmd) (s : State) :
    ∃ t, execCtxClose e c s = .next t ∧ Keeps F (s.at e) t := by
  refine ⟨_, rfl, ?_⟩
  repeat' (first
    | with_reducible assumption
    | with_reducible exact Keeps.refl _
    | (with_reducible refine State.row_keeps (fun s h => ?_))
    | with_reducible apply State.opCtxClose_keeps)

theorem execRegionMap_keeps {F : Prop} (e : Ev) (c : Cmd) (s : State) :
    ∃ t, execRegionMap e c s = .next t ∧ Keeps F (s.at e) t := by
  refine ⟨_, rfl, ?_⟩
  repeat' (first
    | with_reducible assumption
    | with_reducible exact Keeps.refl _
    | (with_reducible refine State.row_keeps (fun s h => ?_))
    | with_reducible apply State.opRegionMap_keeps)

theorem execRegionUnmap_keeps {F : Prop} (e : Ev) (c : Cmd) (s : State) :
    ∃ t, execRegionUnmap e c s = .next t ∧ Keeps F (s.at e) t := by
  refine ⟨_, rfl, ?_⟩
  repeat' (first
    | with_reducible assumption
    | with_reducible exact Keeps.refl _
    | (with_reducible refine State.row_keeps (fun s h => ?_))
    | with_reducible apply State.opRegionUnmap_keeps)

theorem execRegionFill_keeps {F : Prop} (e : Ev) (c : Cmd) (s : State) :
    ∃ t, execRegionFill e c s = .next t ∧ Keeps F (s.at e) t := by
  refine ⟨_, rfl, ?_⟩
  repeat' (first
    | with_reducible assumption
    | with_reducible exact Keeps.refl _
    | (with_reducible refine State.row_keeps (fun s h => ?_))
    | with_reducible apply State.opRegionFill_keeps)

theorem execGloveForm_keeps {F : Prop} (e : Ev) (c : Cmd) (s : State) :
    ∃ t, execGloveForm e c s = .next t ∧ Keeps F (s.at e) t := by
  refine ⟨_, rfl, ?_⟩
  repeat' (first
    | with_reducible assumption
    | with_reducible exact Keeps.refl _
    | (with_reducible refine State.row_keeps (fun s h => ?_))
    | with_reducible apply State.opGloveForm_keeps)

theorem execGloveDissolve_keeps {F : Prop} (e : Ev) (c : Cmd) (s : State) :
    ∃ t, execGloveDissolve e c s = .next t ∧ Keeps F (s.at e) t := by
  refine ⟨_, rfl, ?_⟩
  repeat' (first
    | with_reducible assumption
    | with_reducible exact Keeps.refl _
    | (with_reducible refine State.row_keeps (fun s h => ?_))
    | with_reducible apply State.opGloveDissolve_keeps)

theorem execGloveQuery_keeps {F : Prop} (e : Ev) (c : Cmd) (s : State) :
    ∃ t, execGloveQuery e c s = .next t ∧ Keeps F (s.at e) t := by
  refine ⟨_, rfl, ?_⟩
  repeat' (first
    | with_reducible assumption
    | with_reducible exact Keeps.refl _
    | (with_reducible refine State.row_keeps (fun s h => ?_))
    | with_reducible apply State.opGloveQuery_keeps)

theorem execStepOpen_keeps {F : Prop} (e : Ev) (c : Cmd) (s : State) :
    ∃ t, execStepOpen e c s = .next t ∧ Keeps F (s.at e) t := by
  refine ⟨_, rfl, ?_⟩
  repeat' (first
    | with_reducible assumption
    | with_reducible exact Keeps.refl _
    | (with_reducible refine State.row_keeps (fun s h => ?_))
    | with_reducible apply State.opStepOpen_keeps)

theorem execDrainClose_keeps {F : Prop} (e : Ev) (c : Cmd) (s : State) :
    ∃ t, execDrainClose e c s = .next t ∧ Keeps F (s.at e) t := by
  refine ⟨_, rfl, ?_⟩
  repeat' (first
    | with_reducible assumption
    | with_reducible exact Keeps.refl _
    | (with_reducible refine State.row_keeps (fun s h => ?_))
    | with_reducible apply State.opDrainClose_keeps)

theorem execCrown_keeps {F : Prop} (e : Ev) (c : Cmd) (s : State) :
    ∃ t, execCrown e c s = .next t ∧ Keeps F (s.at e) t := by
  refine ⟨_, rfl, ?_⟩
  repeat' (first
    | with_reducible assumption
    | with_reducible exact Keeps.refl _
    | (with_reducible refine State.row_keeps (fun s h => ?_))
    | with_reducible apply State.opCrown_keeps)

theorem execRollback_keeps {F : Prop} (e : Ev) (c : Cmd) (s : State) :
    ∃ t, execRollback e c s = .next t ∧ Keeps F (s.at e) t := by
  refine ⟨_, rfl, ?_⟩
  repeat' (first
    | with_reducible assumption
    | with_reducible exact Keeps.refl _
    | (with_reducible refine State.row_keeps (fun s h => ?_))
    | with_reducible apply State.opRollback_keeps)

theorem execWitnessArm_keeps {F : Prop} (e : Ev) (c : Cmd) (s : State) :
    ∃ t, execWitnessArm e c s = .next t ∧ Keeps F (s.at e) t := by
  refine ⟨_, rfl, ?_⟩
  repeat' (first
    | with_reducible assumption
    | with_reducible exact Keeps.refl _
    | (with_reducible refine State.row_keeps (fun s h => ?_))
    | with_reducible apply State.opWitnessArm_keeps)

theorem execWitnessVerdict_keeps {F : Prop} (e : Ev) (c : Cmd) (s : State) :
    ∃ t, execWitnessVerdict e c s = .next t ∧ Keeps F (s.at e) t := by
  refine ⟨_, rfl, ?_⟩
  repeat' (first
    | with_reducible assumption
    | with_reducible exact Keeps.refl _
    | (with_reducible refine State.row_keeps (fun s h => ?_))
    | with_reducible apply State.opWitnessVerdict_keeps)

theorem execDarnStart_keeps {F : Prop} (e : Ev) (c : Cmd) (s : State) :
    ∃ t, execDarnStart e c s = .next t ∧ Keeps F (s.at e) t := by
  refine ⟨_, rfl, ?_⟩
  repeat' (first
    | with_reducible assumption
    | with_reducible exact Keeps.refl _
    | (with_reducible refine State.row_keeps (fun s h => ?_))
    | with_reducible apply State.opDarnStart_keeps)

theorem execDarnStitch_keeps {F : Prop} (e : Ev) (c : Cmd) (s : State) :
    ∃ t, execDarnStitch e c s = .next t ∧ Keeps F (s.at e) t := by
  refine ⟨_, rfl, ?_⟩
  repeat' (first
    | with_reducible assumption
    | with_reducible exact Keeps.refl _
    | (with_reducible refine State.row_keeps (fun s h => ?_))
    | with_reducible apply State.opDarnStitch_keeps)

theorem execStandinAssign_keeps {F : Prop} (e : Ev) (c : Cmd) (s : State) :
    ∃ t, execStandinAssign e c s = .next t ∧ Keeps F (s.at e) t := by
  refine ⟨_, rfl, ?_⟩
  repeat' (first
    | with_reducible assumption
    | with_reducible exact Keeps.refl _
    | (with_reducible refine State.row_keeps (fun s h => ?_))
    | with_reducible apply State.opStandinAssign_keeps)

theorem execEvacuate_keeps {F : Prop} (e : Ev) (c : Cmd) (s : State) :
    ∃ t, execEvacuate e c s = .next t ∧ Keeps F (s.at e) t := by
  refine ⟨_, rfl, ?_⟩
  repeat' (first
    | with_reducible assumption
    | with_reducible exact Keeps.refl _
    | (with_reducible refine State.row_keeps (fun s h => ?_))
    | with_reducible apply State.opEvacuate_keeps)

theorem execEvacuateSelf_keeps {F : Prop} (e : Ev) (c : Cmd) (s : State) :
    ∃ t, execEvacuateSelf e c s = .next t ∧ Keeps F (s.at e) t := by
  refine ⟨_, rfl, ?_⟩
  repeat' (first
    | with_reducible assumption
    | with_reducible exact Keeps.refl _
    | (with_reducible refine State.row_keeps (fun s h => ?_))
    | with_reducible apply State.opEvacuateSelf_keeps)

theorem execAdmission_keeps {F : Prop} (e : Ev) (c : Cmd) (s : State) :
    ∃ t, execAdmission e c s = .next t ∧ Keeps F (s.at e) t := by
  refine ⟨_, rfl, ?_⟩
  repeat' (first
    | with_reducible assumption
    | with_reducible exact Keeps.refl _
    | (with_reducible refine State.row_keeps (fun s h => ?_))
    | with_reducible apply State.opAdmit_keeps)

theorem execHatboxConfigure_keeps {F : Prop} (e : Ev) (c : Cmd) (s : State) :
    ∃ t, execHatboxConfigure e c s = .next t ∧ Keeps F (s.at e) t := by
  refine ⟨_, rfl, ?_⟩
  repeat' (first
    | with_reducible assumption
    | with_reducible exact Keeps.refl _
    | (with_reducible refine State.row_keeps (fun s h => ?_))
    | with_reducible apply State.opHatboxConfigure_keeps)

theorem execHatboxWrite_keeps {F : Prop} (e : Ev) (c : Cmd) (s : State) :
    ∃ t, execHatboxWrite e c s = .next t ∧ Keeps F (s.at e) t := by
  refine ⟨_, rfl, ?_⟩
  repeat' (first
    | with_reducible assumption
    | with_reducible exact Keeps.refl _
    | (with_reducible refine State.row_keeps (fun s h => ?_))
    | with_reducible apply State.opHatboxWrite_keeps)

theorem execHatboxRestore_keeps {F : Prop} (e : Ev) (c : Cmd) (s : State) :
    ∃ t, execHatboxRestore e c s = .next t ∧ Keeps F (s.at e) t := by
  refine ⟨_, rfl, ?_⟩
  repeat' (first
    | with_reducible assumption
    | with_reducible exact Keeps.refl _
    | (with_reducible refine State.row_keeps (fun s h => ?_))
    | with_reducible apply State.opRestore_keeps)

theorem execImageExport_keeps {F : Prop} (e : Ev) (c : Cmd) (s : State) :
    ∃ t, execImageExport e c s = .next t ∧ Keeps F (s.at e) t := by
  refine ⟨_, rfl, ?_⟩
  repeat' (first
    | with_reducible assumption
    | with_reducible exact Keeps.refl _
    | (with_reducible refine State.row_keeps (fun s h => ?_))
    | with_reducible apply State.opImageExport_keeps)

theorem execImageImport_keeps {F : Prop} (e : Ev) (c : Cmd) (s : State) :
    ∃ t, execImageImport e c s = .next t ∧ Keeps F (s.at e) t := by
  refine ⟨_, rfl, ?_⟩
  repeat' (first
    | with_reducible assumption
    | with_reducible exact Keeps.refl _
    | (with_reducible refine State.row_keeps (fun s h => ?_))
    | with_reducible apply State.opImageImport_keeps)

theorem execDigestArm_keeps {F : Prop} (e : Ev) (c : Cmd) (s : State) :
    ∃ t, execDigestArm e c s = .next t ∧ Keeps F (s.at e) t := by
  refine ⟨_, rfl, ?_⟩
  repeat' (first
    | with_reducible assumption
    | with_reducible exact Keeps.refl _
    | (with_reducible refine State.row_keeps (fun s h => ?_))
    | with_reducible apply State.opDigestArm_keeps)

theorem execDigestRead_keeps {F : Prop} (e : Ev) (c : Cmd) (s : State) :
    ∃ t, execDigestRead e c s = .next t ∧ Keeps F (s.at e) t := by
  refine ⟨_, rfl, ?_⟩
  repeat' (first
    | with_reducible assumption
    | with_reducible exact Keeps.refl _
    | (with_reducible refine State.row_keeps (fun s h => ?_))
    | with_reducible apply State.opDigestRead_keeps)

theorem execTallyArm_keeps {F : Prop} (e : Ev) (c : Cmd) (s : State) :
    ∃ t, execTallyArm e c s = .next t ∧ Keeps F (s.at e) t := by
  refine ⟨_, rfl, ?_⟩
  repeat' (first
    | with_reducible assumption
    | with_reducible exact Keeps.refl _
    | (with_reducible refine State.row_keeps (fun s h => ?_))
    | with_reducible apply State.opTallyArm_keeps)

theorem execTallyRead_keeps {F : Prop} (e : Ev) (c : Cmd) (s : State) :
    ∃ t, execTallyRead e c s = .next t ∧ Keeps F (s.at e) t := by
  refine ⟨_, rfl, ?_⟩
  repeat' (first
    | with_reducible assumption
    | with_reducible exact Keeps.refl _
    | (with_reducible refine State.row_keeps (fun s h => ?_))
    | with_reducible apply State.opTallyRead_keeps)

theorem execTilePromote_keeps {F : Prop} (e : Ev) (c : Cmd) (s : State) :
    ∃ t, execTilePromote e c s = .next t ∧ Keeps F (s.at e) t := by
  refine ⟨_, rfl, ?_⟩
  repeat' (first
    | with_reducible assumption
    | with_reducible exact Keeps.refl _
    | (with_reducible refine State.row_keeps (fun s h => ?_))
    | with_reducible apply State.opTilePromote_keeps)

theorem execTileEvict_keeps {F : Prop} (e : Ev) (c : Cmd) (s : State) :
    ∃ t, execTileEvict e c s = .next t ∧ Keeps F (s.at e) t := by
  refine ⟨_, rfl, ?_⟩
  repeat' (first
    | with_reducible assumption
    | with_reducible exact Keeps.refl _
    | (with_reducible refine State.row_keeps (fun s h => ?_))
    | with_reducible apply State.opTileEvict_keeps)

theorem execBrimOpen_keeps {F : Prop} (e : Ev) (c : Cmd) (s : State) :
    ∃ t, execBrimOpen e c s = .next t ∧ Keeps F (s.at e) t := by
  refine ⟨_, rfl, ?_⟩
  repeat' (first
    | with_reducible assumption
    | with_reducible exact Keeps.refl _
    | (with_reducible refine State.row_keeps (fun s h => ?_))
    | with_reducible apply State.opBrimOpen_keeps)

theorem execBrimAdvance_keeps {F : Prop} (e : Ev) (c : Cmd) (s : State) :
    ∃ t, execBrimAdvance e c s = .next t ∧ Keeps F (s.at e) t := by
  refine ⟨_, rfl, ?_⟩
  repeat' (first
    | with_reducible assumption
    | with_reducible exact Keeps.refl _
    | (with_reducible refine State.row_keeps (fun s h => ?_))
    | with_reducible apply State.opBrimAdvance_keeps)

theorem execBrimClose_keeps {F : Prop} (e : Ev) (c : Cmd) (s : State) :
    ∃ t, execBrimClose e c s = .next t ∧ Keeps F (s.at e) t := by
  refine ⟨_, rfl, ?_⟩
  repeat' (first
    | with_reducible assumption
    | with_reducible exact Keeps.refl _
    | (with_reducible refine State.row_keeps (fun s h => ?_))
    | with_reducible apply State.opBrimClose_keeps)

theorem execQuotaSet_keeps {F : Prop} (e : Ev) (c : Cmd) (s : State) :
    ∃ t, execQuotaSet e c s = .next t ∧ Keeps F (s.at e) t := by
  refine ⟨_, rfl, ?_⟩
  repeat' (first
    | with_reducible assumption
    | with_reducible exact Keeps.refl _
    | (with_reducible refine State.row_keeps (fun s h => ?_))
    | with_reducible apply State.opQuotaSet_keeps)

theorem execQuotaSetPool_keeps {F : Prop} (e : Ev) (c : Cmd) (s : State) :
    ∃ t, execQuotaSetPool e c s = .next t ∧ Keeps F (s.at e) t := by
  refine ⟨_, rfl, ?_⟩
  repeat' (first
    | with_reducible assumption
    | with_reducible exact Keeps.refl _
    | (with_reducible refine State.row_keeps (fun s h => ?_))
    | with_reducible apply State.opQuotaPool_keeps)

theorem execScrubCtrl_keeps {F : Prop} (e : Ev) (c : Cmd) (s : State) :
    ∃ t, execScrubCtrl e c s = .next t ∧ Keeps F (s.at e) t := by
  refine ⟨_, rfl, ?_⟩
  repeat' (first
    | with_reducible assumption
    | with_reducible exact Keeps.refl _
    | (with_reducible refine State.row_keeps (fun s h => ?_))
    | with_reducible apply State.opScrubCtrl_keeps)

theorem execTestRun_keeps {F : Prop} (e : Ev) (c : Cmd) (s : State) :
    ∃ t, execTestRun e c s = .next t ∧ Keeps F (s.at e) t := by
  refine ⟨_, rfl, ?_⟩
  repeat' (first
    | with_reducible assumption
    | with_reducible exact Keeps.refl _
    | (with_reducible refine State.row_keeps (fun s h => ?_))
    | with_reducible apply State.opTestRun_keeps)

theorem execMeasureGet_keeps {F : Prop} (e : Ev) (c : Cmd) (s : State) :
    ∃ t, execMeasureGet e c s = .next t ∧ Keeps F (s.at e) t := by
  refine ⟨_, rfl, ?_⟩
  repeat' (first
    | with_reducible assumption
    | with_reducible exact Keeps.refl _
    | (with_reducible refine State.row_keeps (fun s h => ?_))
    | with_reducible apply State.opMeasureGet_keeps)

theorem execSealSet_keeps (e : Ev) (c : Cmd) (s : State) :
    ∃ t, execSealSet e c s = .next t ∧ Keeps False (s.at e) t := by
  refine ⟨_, rfl, ?_⟩
  repeat' (first
    | with_reducible assumption
    | with_reducible exact Keeps.refl _
    | (with_reducible refine State.row_keeps (fun s h => ?_))
    | with_reducible apply State.opSealSet_keeps)

theorem execFenceSignal_keeps {F : Prop} (e : Ev) (c : Cmd) (s : State) :
    ∃ t, execFenceSignal e c s = .next t ∧ Keeps F (s.at e) t := by
  refine ⟨_, rfl, ?_⟩
  repeat' (first
    | with_reducible assumption
    | with_reducible exact Keeps.refl _
    | (with_reducible refine State.row_keeps (fun s h => ?_))
    | with_reducible apply State.opFenceSignal_keeps)

theorem execNop_keeps {F : Prop} (e : Ev) (c : Cmd) (s : State) :
    ∃ t, execNop e c s = .next t ∧ Keeps F (s.at e) t := by
  refine ⟨_, rfl, ?_⟩
  repeat' (first
    | with_reducible assumption
    | with_reducible exact Keeps.refl _
    | (with_reducible refine State.row_keeps (fun s h => ?_))
    | with_reducible apply State.opNop_keeps)

theorem execFaultClear_keeps {F : Prop} (e : Ev) (u : Fin 17) (bits : Word) (raised : BitVec 34) (s : State) :
    ∃ t, execFaultClear e u bits raised s = .next t ∧ Keeps F (s.at e) t := by
  refine ⟨_, rfl, ?_⟩
  repeat' (first
    | with_reducible assumption
    | with_reducible exact Keeps.refl _
    | with_reducible apply State.writeFaultReg_keeps
    | with_reducible apply State.clearFaults_keeps)

theorem execFaultSet_keeps {F : Prop} (e : Ev) (u : Fin 17) (bits : Word) (s : State) :
    ∃ t, execFaultSet e u bits s = .next t ∧ Keeps F (s.at e) t := by
  refine ⟨_, rfl, ?_⟩
  repeat' (first
    | with_reducible assumption
    | with_reducible exact Keeps.refl _
    | with_reducible apply State.writeFaultReg_keeps
    | with_reducible apply State.setFaults_keeps)

theorem execFirstFaultRearm_keeps {F : Prop} (e : Ev) (u : Fin 17) (s : State) :
    ∃ t, execFirstFaultRearm e u s = .next t ∧ Keeps F (s.at e) t := by
  refine ⟨_, rfl, ?_⟩
  repeat' (first
    | with_reducible assumption
    | with_reducible exact Keeps.refl _
    | with_reducible apply State.writeFaultReg_keeps
    | with_reducible apply State.rearm_keeps)

theorem execHwarnLatchClear_keeps {F : Prop} (e : Ev) (bits : Word) (s : State) :
    ∃ t, execHwarnLatchClear e bits s = .next t ∧ Keeps F (s.at e) t := by
  refine ⟨_, rfl, ?_⟩
  repeat' (first
    | with_reducible assumption
    | with_reducible exact Keeps.refl _
    | with_reducible apply State.clearLatches_keeps)

theorem execLaneDisable_keeps {F : Prop} (e : Ev) (i : Fin 16) (k : Fin 8) (s : State) :
    ∃ t, execLaneDisable e i k s = .next t ∧ Keeps F (s.at e) t := by
  refine ⟨_, rfl, ?_⟩
  repeat' (first
    | with_reducible assumption
    | with_reducible exact Keeps.refl _
    | with_reducible apply State.writeEnableBit_keeps)

theorem execLaneEnable_keeps {F : Prop} (e : Ev) (i : Fin 16) (k : Fin 8) (s : State) :
    ∃ t, execLaneEnable e i k s = .next t ∧ Keeps F (s.at e) t := by
  refine ⟨_, rfl, ?_⟩
  repeat' (first
    | with_reducible assumption
    | with_reducible exact Keeps.refl _
    | with_reducible apply State.writeEnableBit_keeps)

theorem execInstDisable_keeps {F : Prop} (e : Ev) (i : Fin 16) (s : State) :
    ∃ t, execInstDisable e i s = .next t ∧ Keeps F (s.at e) t := by
  refine ⟨_, rfl, ?_⟩
  repeat' (first
    | with_reducible assumption
    | with_reducible exact Keeps.refl _
    | with_reducible apply State.writeEnableBit_keeps)

theorem execInstEnable_keeps {F : Prop} (e : Ev) (i : Fin 16) (s : State) :
    ∃ t, execInstEnable e i s = .next t ∧ Keeps F (s.at e) t := by
  refine ⟨_, rfl, ?_⟩
  repeat' (first
    | with_reducible assumption
    | with_reducible exact Keeps.refl _
    | with_reducible apply State.writeEnableBit_keeps)

theorem execLaneStopDone_keeps {F : Prop} (e : Ev) (i : Fin 16) (k : Fin 8) (s : State) :
    ∃ t, execLaneStopDone e i k s = .next t ∧ Keeps F (s.at e) t := by
  refine ⟨_, rfl, ?_⟩
  repeat' (first
    | with_reducible assumption
    | with_reducible exact Keeps.refl _
    | with_reducible apply State.laneStopped_keeps)

theorem execInstStopDone_keeps {F : Prop} (e : Ev) (i : Fin 16) (s : State) :
    ∃ t, execInstStopDone e i s = .next t ∧ Keeps F (s.at e) t := by
  refine ⟨_, rfl, ?_⟩
  repeat' (first
    | with_reducible assumption
    | with_reducible exact Keeps.refl _
    | with_reducible apply State.instStopped_keeps)

theorem execHandleWrite_keeps {F : Prop} (e : Ev) (h : Fin 4096) (w : Fin 4) (value : Word) (s : State) :
    ∃ t, execHandleWrite e h w value s = .next t ∧ Keeps F (s.at e) t := by
  refine ⟨_, rfl, ?_⟩
  repeat' (first
    | with_reducible assumption
    | with_reducible exact Keeps.refl _
    | with_reducible apply State.writeHandle_keeps)

theorem execCuffSnapshotRead_keeps {F : Prop} (e : Ev) (k : Fin 4) (s : State) :
    ∃ t, execCuffSnapshotRead e k s = .next t ∧ Keeps F (s.at e) t := by
  refine ⟨_, rfl, ?_⟩
  repeat' (first
    | with_reducible assumption
    | with_reducible exact Keeps.refl _
    | (with_reducible refine State.occur_keeps (fun s h => ?_))
    | with_reducible apply State.crownsDue_keeps
    | with_reducible apply State.snapshotCuff_keeps)

theorem execComplementRegisterRead_keeps {F : Prop} (e : Ev) (off : Nat) (s : State) :
    ∃ t, execComplementRegisterRead e off s = .next t ∧ Keeps F (s.at e) t := by
  refine ⟨_, rfl, ?_⟩
  repeat' (first
    | with_reducible assumption
    | with_reducible exact Keeps.refl _
    | (with_reducible refine State.occur_keeps (fun s h => ?_))
    | with_reducible apply State.crownsDue_keeps
    | with_reducible apply State.readPaired_keeps)

theorem execSealedRegisterWrite_keeps {F : Prop} (e : Ev) (off : Nat) (value : Word) (s : State) :
    ∃ t, execSealedRegisterWrite e off value s = .next t ∧ Keeps F (s.at e) t := by
  refine ⟨_, rfl, ?_⟩
  repeat' (first
    | with_reducible assumption
    | with_reducible exact Keeps.refl _
    | with_reducible apply State.sealedWrite_keeps
    | split)

theorem execBadRegisterAccess_keeps {F : Prop} (e : Ev) (off : Nat) (write : Bool) (v : Word) (s : State) :
    ∃ t, execBadRegisterAccess e off write v s = .next t ∧ Keeps F (s.at e) t := by
  refine ⟨_, rfl, ?_⟩
  repeat' (first
    | with_reducible assumption
    | with_reducible exact Keeps.refl _
    | with_reducible apply State.narrowAccess_keeps)

theorem execRegisterWrite_keeps {F : Prop} (e : Ev) (off : Nat) (value : Word) (s : State) :
    ∃ t, execRegisterWrite e off value s = .next t ∧ Keeps F (s.at e) t := by
  refine ⟨_, rfl, ?_⟩
  repeat' (first
    | with_reducible assumption
    | with_reducible exact Keeps.refl _
    | (with_reducible refine State.occur_keeps (fun s h => ?_))
    | with_reducible apply State.writeReg_keeps)

theorem execMemoryRead_keeps {F : Prop} (e : Ev) (r : Req) (s : State) :
    ∃ t, execMemoryRead e r s = .next t ∧ Keeps F (s.at e) t := by
  refine ⟨_, rfl, ?_⟩
  repeat' (first
    | with_reducible assumption
    | with_reducible exact Keeps.refl _
    | (with_reducible refine State.meet_keeps (fun s h => ?_))
    | with_reducible apply State.arriveRead_keeps)

theorem execMemoryWrite_keeps {F : Prop} (e : Ev) (r : Req) (s : State) :
    ∃ t, execMemoryWrite e r s = .next t ∧ Keeps F (s.at e) t := by
  refine ⟨_, rfl, ?_⟩
  repeat' (first
    | with_reducible assumption
    | with_reducible exact Keeps.refl _
    | (with_reducible refine State.meet_keeps (fun s h => ?_))
    | with_reducible apply State.serveWrite_keeps)

theorem execUpdateRead_keeps {F : Prop} (e : Ev) (r : Req) (s : State) :
    ∃ t, execUpdateRead e r s = .next t ∧ Keeps F (s.at e) t := by
  refine ⟨_, rfl, ?_⟩
  repeat' (first
    | with_reducible assumption
    | with_reducible exact Keeps.refl _
    | (with_reducible refine State.meet_keeps (fun s h => ?_))
    | with_reducible apply State.arriveRead_keeps
    | split)

theorem execUpdateWrite_keeps {F : Prop} (e : Ev) (r : Req) (s : State) :
    ∃ t, execUpdateWrite e r s = .next t ∧ Keeps F (s.at e) t := by
  refine ⟨_, rfl, ?_⟩
  repeat' (first
    | with_reducible assumption
    | with_reducible exact Keeps.refl _
    | (with_reducible refine State.meet_keeps (fun s h => ?_))
    | with_reducible apply State.checkPort_keeps
    | with_reducible apply State.serveWrite_keeps
    | split)

theorem execHeldWriteApply_keeps {F : Prop} (e : Ev) (i : Fin 16) (s : State) :
    ∃ t, execHeldWriteApply e i s = .next t ∧ Keeps F (s.at e) t := by
  refine ⟨_, rfl, ?_⟩
  repeat' (first
    | with_reducible assumption
    | with_reducible exact Keeps.refl _
    | (with_reducible refine State.meet_keeps (fun s h => ?_))
    | with_reducible apply State.applyHeldWrite_keeps)

theorem execTierParityFold_keeps {F : Prop} (e : Ev) (i : Fin 16) (s : State) :
    ∃ t, execTierParityFold e i s = .next t ∧ Keeps F (s.at e) t := by
  refine ⟨_, rfl, ?_⟩
  repeat' (first
    | with_reducible assumption
    | with_reducible exact Keeps.refl _
    | (with_reducible refine State.meet_keeps (fun s h => ?_))
    | with_reducible apply State.foldOldest_keeps)

theorem execRemoteRequest_keeps {F : Prop} (e : Ev) (h : Fin 4096) (r : Req) (s : State) :
    ∃ t, execRemoteRequest e h r s = .next t ∧ Keeps F (s.at e) t := by
  refine ⟨_, rfl, ?_⟩
  repeat' (first
    | with_reducible assumption
    | with_reducible exact Keeps.refl _
    | with_reducible apply State.remoteRequest_keeps)

theorem execRemoteOperation_keeps {F : Prop} (e : Ev) (op : RemoteOp) (s : State) :
    ∃ t, execRemoteOperation e op s = .next t ∧ Keeps F (s.at e) t := by
  refine ⟨_, rfl, ?_⟩
  repeat' (first
    | with_reducible assumption
    | with_reducible exact Keeps.refl _
    | (with_reducible refine State.meet_keeps (fun s h => ?_))
    | with_reducible apply State.remoteOperation_keeps)

theorem execRemoteAnswer_keeps {F : Prop} (e : Ev) (id : Nat) (status : Byte) (data : RemoteData) (s : State) :
    ∃ t, execRemoteAnswer e id status data s = .next t ∧ Keeps F (s.at e) t := by
  refine ⟨_, rfl, ?_⟩
  repeat' (first
    | with_reducible assumption
    | with_reducible exact Keeps.refl _
    | with_reducible apply State.remoteAnswer_keeps)

theorem execRemoteTimeout_keeps {F : Prop} (e : Ev) (id : Nat) (s : State) :
    ∃ t, execRemoteTimeout e id s = .next t ∧ Keeps F (s.at e) t := by
  refine ⟨_, rfl, ?_⟩
  repeat' (first
    | with_reducible assumption
    | with_reducible exact Keeps.refl _
    | with_reducible apply State.remoteTimeout_keeps)

theorem execGovernorUpdate_keeps {F : Prop} (e : Ev) (i : Fin 16) (busy : Bool) (s : State) :
    ∃ t, execGovernorUpdate e i busy s = .next t ∧ Keeps F (s.at e) t := by
  refine ⟨_, rfl, ?_⟩
  repeat' (first
    | with_reducible assumption
    | with_reducible exact Keeps.refl _
    | with_reducible apply State.governorTick_keeps)

theorem execDeltaSend_keeps {F : Prop} (e : Ev) (i : Fin 16) (s : State) :
    ∃ t, execDeltaSend e i s = .next t ∧ Keeps F (s.at e) t := by
  refine ⟨_, rfl, ?_⟩
  repeat' (first
    | with_reducible assumption
    | with_reducible exact Keeps.refl _
    | (with_reducible refine State.meet_keeps (fun s h => ?_))
    | with_reducible apply State.sendDelta_keeps)

theorem execMessageResend_keeps {F : Prop} (e : Ev) (id : Nat) (s : State) :
    ∃ t, execMessageResend e id s = .next t ∧ Keeps F (s.at e) t := by
  refine ⟨_, rfl, ?_⟩
  repeat' (first
    | with_reducible assumption
    | with_reducible exact Keeps.refl _
    | with_reducible apply State.resend_keeps)

theorem execMemberTimeout_keeps {F : Prop} (e : Ev) (id : Nat) (s : State) :
    ∃ t, execMemberTimeout e id s = .next t ∧ Keeps F (s.at e) t := by
  refine ⟨_, rfl, ?_⟩
  repeat' (first
    | with_reducible assumption
    | with_reducible exact Keeps.refl _
    | (with_reducible refine State.hear_keeps (fun s h => ?_))
    | with_reducible apply State.answerMissing_keeps)

theorem execDelta_keeps {F : Prop} (e : Ev) (src : Coord) (m : Wire) (s : State) :
    ∃ t, execDelta e src m s = .next t ∧ Keeps F (s.at e) t := by
  refine ⟨_, rfl, ?_⟩
  repeat' (first
    | with_reducible assumption
    | with_reducible exact Keeps.refl _
    | (with_reducible refine State.arrive_keeps (fun s h => ?_))
    | (with_reducible refine State.guarded_keeps ?_ _ _ _ (fun s h => ?_))
    | with_reducible apply State.deltaMessage_keeps)

theorem execDeltaAck_keeps {F : Prop} (e : Ev) (src : Coord) (m : Wire) (s : State) :
    ∃ t, execDeltaAck e src m s = .next t ∧ Keeps F (s.at e) t := by
  refine ⟨_, rfl, ?_⟩
  repeat' (first
    | with_reducible assumption
    | with_reducible exact Keeps.refl _
    | (with_reducible refine State.arrive_keeps (fun s h => ?_))
    | (with_reducible refine State.guarded_keeps ?_ _ _ _ (fun s h => ?_))
    | with_reducible apply State.ackMessage_keeps)

theorem execChipDrained_keeps {F : Prop} (e : Ev) (ctx : Nat) (s : State) :
    ∃ t, execChipDrained e ctx s = .next t ∧ Keeps F (s.at e) t := by
  refine ⟨_, rfl, ?_⟩
  repeat' (first
    | with_reducible assumption
    | with_reducible exact Keeps.refl _
    | (with_reducible refine State.hear_keeps (fun s h => ?_))
    | with_reducible apply State.noteDrained_keeps)

theorem execDrainDeadline_keeps {F : Prop} (e : Ev) (ctx : Nat) (s : State) :
    ∃ t, execDrainDeadline e ctx s = .next t ∧ Keeps F (s.at e) t := by
  refine ⟨_, rfl, ?_⟩
  repeat' (first
    | with_reducible assumption
    | with_reducible exact Keeps.refl _
    | (with_reducible refine State.meet_keeps (fun s h => ?_))
    | with_reducible apply State.passDeadline_keeps)

theorem execVote_keeps {F : Prop} (e : Ev) (src : Coord) (m : Wire) (s : State) :
    ∃ t, execVote e src m s = .next t ∧ Keeps F (s.at e) t := by
  refine ⟨_, rfl, ?_⟩
  repeat' (first
    | with_reducible assumption
    | with_reducible exact Keeps.refl _
    | (with_reducible refine State.arrive_keeps (fun s h => ?_))
    | with_reducible apply State.hearColl_keeps)

theorem execVoteClose_keeps {F : Prop} (e : Ev) (ctx : Nat) (s : State) :
    ∃ t, execVoteClose e ctx s = .next t ∧ Keeps F (s.at e) t := by
  refine ⟨_, rfl, ?_⟩
  repeat' (first
    | with_reducible assumption
    | with_reducible exact Keeps.refl _
    | (with_reducible refine State.hear_keeps (fun s h => ?_))
    | with_reducible apply State.closeVote_keeps)

theorem execCrownMessage_keeps {F : Prop} (e : Ev) (src : Coord) (m : Wire) (s : State) :
    ∃ t, execCrownMessage e src m s = .next t ∧ Keeps F (s.at e) t := by
  refine ⟨_, rfl, ?_⟩
  repeat' (first
    | with_reducible assumption
    | with_reducible exact Keeps.refl _
    | (with_reducible refine State.arrive_keeps (fun s h => ?_))
    | with_reducible apply State.hearColl_keeps)

theorem execCrownTakesEffect_keeps {F : Prop} (e : Ev) (ctx : Nat) (s : State) :
    ∃ t, execCrownTakesEffect e ctx s = .next t ∧ Keeps F (s.at e) t := by
  refine ⟨_, rfl, ?_⟩
  repeat' (first
    | with_reducible assumption
    | with_reducible exact Keeps.refl _
    | (with_reducible refine State.hear_keeps (fun s h => ?_))
    | with_reducible apply State.crownDue_keeps)

theorem execFlipSweepDone_keeps {F : Prop} (e : Ev) (ctx : Nat) (s : State) :
    ∃ t, execFlipSweepDone e ctx s = .next t ∧ Keeps F (s.at e) t := by
  refine ⟨_, rfl, ?_⟩
  repeat' (first
    | with_reducible assumption
    | with_reducible exact Keeps.refl _
    | (with_reducible refine State.hear_keeps (fun s h => ?_))
    | with_reducible apply State.finishSweep_keeps)

theorem execUndecidedTimeout_keeps {F : Prop} (e : Ev) (ctx : Nat) (s : State) :
    ∃ t, execUndecidedTimeout e ctx s = .next t ∧ Keeps F (s.at e) t := by
  refine ⟨_, rfl, ?_⟩
  repeat' (first
    | with_reducible assumption
    | with_reducible exact Keeps.refl _
    | (with_reducible refine State.hear_keeps (fun s h => ?_))
    | with_reducible apply State.passUndecided_keeps)

theorem execVotingTimeout_keeps {F : Prop} (e : Ev) (ctx : Nat) (s : State) :
    ∃ t, execVotingTimeout e ctx s = .next t ∧ Keeps F (s.at e) t := by
  refine ⟨_, rfl, ?_⟩
  repeat' (first
    | with_reducible assumption
    | with_reducible exact Keeps.refl _
    | (with_reducible refine State.hear_keeps (fun s h => ?_))
    | with_reducible apply State.passVoting_keeps)

theorem execHoldBound_keeps {F : Prop} (e : Ev) (ctx : Nat) (h : Hold) (s : State) :
    ∃ t, execHoldBound e ctx h s = .next t ∧ Keeps F (s.at e) t := by
  refine ⟨_, rfl, ?_⟩
  repeat' (first
    | with_reducible assumption
    | with_reducible exact Keeps.refl _
    | (with_reducible refine State.hear_keeps (fun s h => ?_))
    | with_reducible apply State.boundWitness_keeps
    | with_reducible apply State.boundHatbox_keeps
    | with_reducible apply State.boundTest_keeps
    | split)

theorem execDiscardDone_keeps {F : Prop} (e : Ev) (ctx : Nat) (s : State) :
    ∃ t, execDiscardDone e ctx s = .next t ∧ Keeps F (s.at e) t := by
  refine ⟨_, rfl, ?_⟩
  repeat' (first
    | with_reducible assumption
    | with_reducible exact Keeps.refl _
    | (with_reducible refine State.hear_keeps (fun s h => ?_))
    | with_reducible apply State.discardDue_keeps)

theorem execAbort_keeps {F : Prop} (e : Ev) (src : Coord) (m : Wire) (s : State) :
    ∃ t, execAbort e src m s = .next t ∧ Keeps F (s.at e) t := by
  refine ⟨_, rfl, ?_⟩
  repeat' (first
    | with_reducible assumption
    | with_reducible exact Keeps.refl _
    | (with_reducible refine State.arrive_keeps (fun s h => ?_))
    | (with_reducible refine State.guarded_keeps ?_ _ _ _ (fun s h => ?_))
    | with_reducible apply State.abortMessage_keeps)

theorem execCollectiveClose_keeps {F : Prop} (e : Ev) (k : CollKey) (s : State) :
    ∃ t, execCollectiveClose e k s = .next t ∧ Keeps F (s.at e) t := by
  refine ⟨_, rfl, ?_⟩
  repeat' (first
    | with_reducible assumption
    | with_reducible exact Keeps.refl _
    | (with_reducible refine State.hear_keeps (fun s h => ?_))
    | with_reducible apply State.closeColl_keeps)

theorem execCollectiveAloneTimeout_keeps {F : Prop} (e : Ev) (k : CollKey) (s : State) :
    ∃ t, execCollectiveAloneTimeout e k s = .next t ∧ Keeps F (s.at e) t := by
  refine ⟨_, rfl, ?_⟩
  repeat' (first
    | with_reducible assumption
    | with_reducible exact Keeps.refl _
    | (with_reducible refine State.hear_keeps (fun s h => ?_))
    | with_reducible apply State.aloneColl_keeps)

theorem execKeptKeyExpiry_keeps {F : Prop} (e : Ev) (k : CollKey) (s : State) :
    ∃ t, execKeptKeyExpiry e k s = .next t ∧ Keeps F (s.at e) t := by
  refine ⟨_, rfl, ?_⟩
  repeat' (first
    | with_reducible assumption
    | with_reducible exact Keeps.refl _
    | (with_reducible refine State.hear_keeps (fun s h => ?_))
    | with_reducible apply State.expireKept_keeps)

theorem execFormPassSend_keeps {F : Prop} (e : Ev) (ctx : Nat) (s : State) :
    ∃ t, execFormPassSend e ctx s = .next t ∧ Keeps F (s.at e) t := by
  refine ⟨_, rfl, ?_⟩
  repeat' (first
    | with_reducible assumption
    | with_reducible exact Keeps.refl _
    | (with_reducible refine State.meet_keeps (fun s h => ?_))
    | with_reducible apply State.sendForm_keeps)

theorem execBackgroundDarnChain_keeps {F : Prop} (e : Ev) (ctx darn : Nat) (s : State) :
    ∃ t, execBackgroundDarnChain e ctx darn s = .next t ∧ Keeps F (s.at e) t := by
  refine ⟨_, rfl, ?_⟩
  repeat' (first
    | with_reducible assumption
    | with_reducible exact Keeps.refl _
    | (with_reducible refine State.hear_keeps (fun s h => ?_))
    | with_reducible apply State.backgroundChain_keeps)

theorem execDarnReq_keeps {F : Prop} (e : Ev) (src : Coord) (m : Wire) (s : State) :
    ∃ t, execDarnReq e src m s = .next t ∧ Keeps F (s.at e) t := by
  refine ⟨_, rfl, ?_⟩
  repeat' (first
    | with_reducible assumption
    | with_reducible exact Keeps.refl _
    | (with_reducible refine State.arrive_keeps (fun s h => ?_))
    | (with_reducible refine State.guarded_keeps ?_ _ _ _ (fun s h => ?_))
    | with_reducible apply State.takeRequest_keeps)

theorem execDarnPart_keeps {F : Prop} (e : Ev) (src : Coord) (m : Wire) (s : State) :
    ∃ t, execDarnPart e src m s = .next t ∧ Keeps F (s.at e) t := by
  refine ⟨_, rfl, ?_⟩
  repeat' (first
    | with_reducible assumption
    | with_reducible exact Keeps.refl _
    | (with_reducible refine State.arrive_keeps (fun s h => ?_))
    | (with_reducible refine State.guarded_keeps ?_ _ _ _ (fun s h => ?_))
    | with_reducible apply State.takePart_keeps)

theorem execDarnDone_keeps {F : Prop} (e : Ev) (src : Coord) (m : Wire) (s : State) :
    ∃ t, execDarnDone e src m s = .next t ∧ Keeps F (s.at e) t := by
  refine ⟨_, rfl, ?_⟩
  repeat' (first
    | with_reducible assumption
    | with_reducible exact Keeps.refl _
    | (with_reducible refine State.arrive_keeps (fun s h => ?_))
    | (with_reducible refine State.guarded_keeps ?_ _ _ _ (fun s h => ?_))
    | with_reducible apply State.takeDone_keeps)

theorem execAdmitCopySend_keeps {F : Prop} (e : Ev) (ctx : Nat) (s : State) :
    ∃ t, execAdmitCopySend e ctx s = .next t ∧ Keeps F (s.at e) t := by
  refine ⟨_, rfl, ?_⟩
  repeat' (first
    | with_reducible assumption
    | with_reducible exact Keeps.refl _
    | (with_reducible refine State.hear_keeps (fun s h => ?_))
    | with_reducible apply State.sendCopy_keeps)

theorem execHatboxPart_keeps {F : Prop} (e : Ev) (src : Coord) (m : Wire) (s : State) :
    ∃ t, execHatboxPart e src m s = .next t ∧ Keeps F (s.at e) t := by
  refine ⟨_, rfl, ?_⟩
  repeat' (first
    | with_reducible assumption
    | with_reducible exact Keeps.refl _
    | (with_reducible refine State.arrive_keeps (fun s h => ?_))
    | (with_reducible refine State.guarded_keeps ?_ _ _ _ (fun s h => ?_))
    | with_reducible apply State.takeHatbox_keeps)

theorem execHatboxPieceWrite_keeps {F : Prop} (e : Ev) (ctx : Nat) (s : State) :
    ∃ t, execHatboxPieceWrite e ctx s = .next t ∧ Keeps F (s.at e) t := by
  refine ⟨_, rfl, ?_⟩
  repeat' (first
    | with_reducible assumption
    | with_reducible exact Keeps.refl _
    | (with_reducible refine State.hear_keeps (fun s h => ?_))
    | with_reducible apply State.copyPiece_keeps)

theorem execSealWrite_keeps {F : Prop} (e : Ev) (ctx : Nat) (s : State) :
    ∃ t, execSealWrite e ctx s = .next t ∧ Keeps F (s.at e) t := by
  refine ⟨_, rfl, ?_⟩
  repeat' (first
    | with_reducible assumption
    | with_reducible exact Keeps.refl _
    | (with_reducible refine State.hear_keeps (fun s h => ?_))
    | with_reducible apply State.writeSeal_keeps)

theorem execSeal_keeps {F : Prop} (e : Ev) (src : Coord) (m : Wire) (s : State) :
    ∃ t, execSeal e src m s = .next t ∧ Keeps F (s.at e) t := by
  refine ⟨_, rfl, ?_⟩
  repeat' (first
    | with_reducible assumption
    | with_reducible exact Keeps.refl _
    | (with_reducible refine State.arrive_keeps (fun s h => ?_))
    | (with_reducible refine State.guarded_keeps ?_ _ _ _ (fun s h => ?_))
    | with_reducible apply State.sealMessage_keeps)

theorem execWitnessDigest_keeps {F : Prop} (e : Ev) (src : Coord) (m : Wire) (s : State) :
    ∃ t, execWitnessDigest e src m s = .next t ∧ Keeps F (s.at e) t := by
  refine ⟨_, rfl, ?_⟩
  repeat' (first
    | with_reducible assumption
    | with_reducible exact Keeps.refl _
    | (with_reducible refine State.arrive_keeps (fun s h => ?_))
    | (with_reducible refine State.guarded_keeps ?_ _ _ _ (fun s h => ?_))
    | with_reducible apply State.digestMessage_keeps)

theorem execExportPart_keeps {F : Prop} (e : Ev) (m : Wire) (s : State) :
    ∃ t, execExportPart e m s = .next t ∧ Keeps F (s.at e) t := by
  refine ⟨_, rfl, ?_⟩
  repeat' (first
    | with_reducible assumption
    | with_reducible exact Keeps.refl _
    | (with_reducible refine State.arrive_keeps (fun s h => ?_))
    | with_reducible apply State.takeExportPart_keeps)

theorem execStorageTimeout_keeps {F : Prop} (e : Ev) (ctx : Nat) (s : State) :
    ∃ t, execStorageTimeout e ctx s = .next t ∧ Keeps F (s.at e) t := by
  refine ⟨_, rfl, ?_⟩
  repeat' (first
    | with_reducible assumption
    | with_reducible exact Keeps.refl _
    | (with_reducible refine State.meet_keeps (fun s h => ?_))
    | with_reducible apply State.storageExpired_keeps)

theorem execPromotionCopyDone_keeps {F : Prop} (e : Ev) (region tile : Nat) (s : State) :
    ∃ t, execPromotionCopyDone e region tile s = .next t ∧ Keeps F (s.at e) t := by
  refine ⟨_, rfl, ?_⟩
  repeat' (first
    | with_reducible assumption
    | with_reducible exact Keeps.refl _
    | (with_reducible refine State.meet_keeps (fun s h => ?_))
    | with_reducible apply State.copyDone_keeps)

theorem execPromotionDeadline_keeps {F : Prop} (e : Ev) (id : Nat) (s : State) :
    ∃ t, execPromotionDeadline e id s = .next t ∧ Keeps F (s.at e) t := by
  refine ⟨_, rfl, ?_⟩
  repeat' (first
    | with_reducible assumption
    | with_reducible exact Keeps.refl _
    | (with_reducible refine State.occur_keeps (fun s h => ?_))
    | with_reducible apply State.promotionLate_keeps)

theorem execFrameFreed_keeps {F : Prop} (e : Ev) (s : State) :
    ∃ t, execFrameFreed e s = .next t ∧ Keeps F (s.at e) t := by
  refine ⟨_, rfl, ?_⟩
  repeat' (first
    | with_reducible assumption
    | with_reducible exact Keeps.refl _
    | (with_reducible refine State.occur_keeps (fun s h => ?_))
    | with_reducible apply State.frameFreed_keeps)

theorem execWeightsScanDone_keeps {F : Prop} (e : Ev) (slot : Nat) (s : State) :
    ∃ t, execWeightsScanDone e slot s = .next t ∧ Keeps F (s.at e) t := by
  refine ⟨_, rfl, ?_⟩
  repeat' (first
    | with_reducible assumption
    | with_reducible exact Keeps.refl _
    | (with_reducible refine State.meet_keeps (fun s h => ?_))
    | with_reducible apply State.scanDone_keeps)

theorem execMergeIdleEvict_keeps {F : Prop} (e : Ev) (page : Nat) (s : State) :
    ∃ t, execMergeIdleEvict e page s = .next t ∧ Keeps F (s.at e) t := by
  refine ⟨_, rfl, ?_⟩
  repeat' (first
    | with_reducible assumption
    | with_reducible exact Keeps.refl _
    | (with_reducible refine State.meet_keeps (fun s h => ?_))
    | with_reducible apply State.evictIdle_keeps)

theorem execWordCeWindow_keeps {F : Prop} (e : Ev) (s : State) :
    ∃ t, execWordCeWindow e s = .next t ∧ Keeps F (s.at e) t := by
  refine ⟨_, rfl, ?_⟩
  repeat' (first
    | with_reducible assumption
    | with_reducible exact Keeps.refl _
    | with_reducible apply State.restartWindows_keeps)

theorem execScrubRead_keeps {F : Prop} (e : Ev) (i : Fin 16) (idle : Nat) (s : State) :
    ∃ t, execScrubRead e i idle s = .next t ∧ Keeps F (s.at e) t := by
  refine ⟨_, rfl, ?_⟩
  repeat' (first
    | with_reducible assumption
    | with_reducible exact Keeps.refl _
    | (with_reducible refine State.meet_keeps (fun s h => ?_))
    | with_reducible apply State.scrubRead_keeps)

theorem execScrubLapLimit_keeps {F : Prop} (e : Ev) (i : Fin 16) (s : State) :
    ∃ t, execScrubLapLimit e i s = .next t ∧ Keeps F (s.at e) t := by
  refine ⟨_, rfl, ?_⟩
  repeat' (first
    | with_reducible assumption
    | with_reducible exact Keeps.refl _
    | with_reducible apply State.lapOver_keeps)

theorem execTestDue_keeps {F : Prop} (e : Ev) (i : Fin 16) (s : State) :
    ∃ t, execTestDue e i s = .next t ∧ Keeps F (s.at e) t := by
  refine ⟨_, rfl, ?_⟩
  repeat' (first
    | with_reducible assumption
    | with_reducible exact Keeps.refl _
    | (with_reducible refine State.occur_keeps (fun s h => ?_))
    | with_reducible apply State.fallDue_keeps)

theorem execTestOverdue_keeps {F : Prop} (e : Ev) (i : Fin 16) (s : State) :
    ∃ t, execTestOverdue e i s = .next t ∧ Keeps F (s.at e) t := by
  refine ⟨_, rfl, ?_⟩
  repeat' (first
    | with_reducible assumption
    | with_reducible exact Keeps.refl _
    | (with_reducible refine State.occur_keeps (fun s h => ?_))
    | with_reducible apply State.fallOverdue_keeps)

theorem execTestComplete_keeps {F : Prop} (e : Ev) (i : Fin 16) (lbist mbist : Bool) (s : State) :
    ∃ t, execTestComplete e i lbist mbist s = .next t ∧ Keeps F (s.at e) t := by
  refine ⟨_, rfl, ?_⟩
  repeat' (first
    | with_reducible assumption
    | with_reducible exact Keeps.refl _
    | (with_reducible refine State.meet_keeps (fun s h => ?_))
    | with_reducible apply State.endTest_keeps)

theorem execRestorePieceWrite_keeps {F : Prop} (e : Ev) (ctx : Nat) (s : State) :
    ∃ t, execRestorePieceWrite e ctx s = .next t ∧ Keeps F (s.at e) t := by
  refine ⟨_, rfl, ?_⟩
  repeat' (first
    | with_reducible assumption
    | with_reducible exact Keeps.refl _
    | (with_reducible refine State.hear_keeps (fun s h => ?_))
    | with_reducible apply State.restorePiece_keeps)

theorem execExportPartSend_keeps {F : Prop} (e : Ev) (ctx : Nat) (s : State) :
    ∃ t, execExportPartSend e ctx s = .next t ∧ Keeps F (s.at e) t := by
  refine ⟨_, rfl, ?_⟩
  repeat' (first
    | with_reducible assumption
    | with_reducible exact Keeps.refl _
    | (with_reducible refine State.hear_keeps (fun s h => ?_))
    | with_reducible apply State.sendImage_keeps)

theorem execRegionFillPageWrite_keeps {F : Prop} (e : Ev) (region : Nat) (i : Fin 16) (s : State) :
    ∃ t, execRegionFillPageWrite e region i s = .next t ∧ Keeps F (s.at e) t := by
  refine ⟨_, rfl, ?_⟩
  repeat' (first
    | with_reducible assumption
    | with_reducible exact Keeps.refl _
    | (with_reducible refine State.meet_keeps (fun s h => ?_))
    | with_reducible apply State.fillPage_keeps)

/-- With less asked of the fuses. -/
theorem Keeps.mono {F G : Prop} {b s : State} (h : Keeps F b s) (g : G → F) : Keeps G b s :=
  ⟨h.pending, h.clock, fun x => h.fuses (g x), h.mem, h.out, h.pairs⟩

/-- What every command but a reset and an acquisition of the band count answers and keeps. -/
theorem exec_keeps (s : State) : ∀ i : Instr, (∀ e p, i ≠ .chipReset e p) → (∀ e, i ≠ .bandAcquire e) →
    ∃ t, exec i s = .next t ∧ Keeps (i.mayFuse = false) (s.at i.event) t
  | .chipReset e p, h, _ => absurd rfl (h e p)
  | .bandAcquire e, _, h => absurd rfl (h e)
  | .resetRelease e a0, _, _ => execResetRelease_keeps e a0 s
  | .firmwareRelease e a0, _, _ => execFirmwareRelease_keeps e a0 s
  | .firmwareStart e, _, _ => execFirmwareStart_keeps e s
  | .controllerReady e a0 a1 a2 a3, _, _ => execControllerReady_keeps e a0 a1 a2 a3 s
  | .controllerReadyTimeout e a0, _, _ => execControllerReadyTimeout_keeps e a0 s
  | .laneTrainingDone e a0 a1 a2, _, _ => execLaneTrainingDone_keeps e a0 a1 a2 s
  | .bandFault e a0 a1, _, _ => execBandFault_keeps e a0 a1 s
  | .bandStall e, _, _ => execBandStall_keeps e s
  | .watchdogExpiry e a0, _, _ => execWatchdogExpiry_keeps e a0 s
  | .watchdogService e, _, _ => execWatchdogService_keeps e s
  | .linkDown e a0, _, _ => execLinkDown_keeps e a0 s
  | .coordVerifiedChange e a0, _, _ => execCoordVerifiedChange_keeps e a0 s
  | .residueAlarm e a0, _, _ => execResidueAlarm_keeps e a0 s
  | .hwarnEdgeFiltered e a0 a1, _, _ => execHwarnEdgeFiltered_keeps e a0 a1 s
  | .hwarnGlitch e a0, _, _ => execHwarnGlitch_keeps e a0 s
  | .hwarnStuck e a0, _, _ => execHwarnStuck_keeps e a0 s
  | .hwarnUnstuck e a0, _, _ => execHwarnUnstuck_keeps e a0 s
  | .clampRise e, _, _ => execClampRise_keeps e s
  | .clampFall e, _, _ => execClampFall_keeps e s
  | .boostGrantRise e, _, _ => execBoostGrantRise_keeps e s
  | .boostGrantFall e, _, _ => execBoostGrantFall_keeps e s
  | .peakLimitReached e, _, _ => execPeakLimitReached_keeps e s
  | .peakLimitCleared e, _, _ => execPeakLimitCleared_keeps e s
  | .ieee1687Write e a0 a1 a2, _, _ => execIeee1687Write_keeps e a0 a1 a2 s
  | .debugHaltRequest e, _, _ => execDebugHaltRequest_keeps e s
  | .doorbell e a0, _, _ => execDoorbell_keeps e a0 s
  | .packetFetch e a0, _, _ => execPacketFetch_keeps e a0 s
  | .commandAccept e a0, _, _ => by
    obtain ⟨t, h, k⟩ := execCommandAccept_keeps e a0 s
    exact ⟨t, h, k.mono (by simp [Instr.mayFuse])⟩
  | .deferredStart e a0 a1, _, _ => by
    obtain ⟨t, h, k⟩ := execDeferredStart_keeps e a0 a1 s
    exact ⟨t, h, k.mono (by simp [Instr.mayFuse])⟩
  | .ctxOpen e a0, _, _ => execCtxOpen_keeps e a0 s
  | .ctxClose e a0, _, _ => execCtxClose_keeps e a0 s
  | .regionMap e a0, _, _ => execRegionMap_keeps e a0 s
  | .regionUnmap e a0, _, _ => execRegionUnmap_keeps e a0 s
  | .regionFill e a0, _, _ => execRegionFill_keeps e a0 s
  | .gloveForm e a0, _, _ => execGloveForm_keeps e a0 s
  | .gloveDissolve e a0, _, _ => execGloveDissolve_keeps e a0 s
  | .gloveQuery e a0, _, _ => execGloveQuery_keeps e a0 s
  | .stepOpen e a0, _, _ => execStepOpen_keeps e a0 s
  | .drainClose e a0, _, _ => execDrainClose_keeps e a0 s
  | .crown e a0, _, _ => execCrown_keeps e a0 s
  | .rollback e a0, _, _ => execRollback_keeps e a0 s
  | .witnessArm e a0, _, _ => execWitnessArm_keeps e a0 s
  | .witnessVerdict e a0, _, _ => execWitnessVerdict_keeps e a0 s
  | .darnStart e a0, _, _ => execDarnStart_keeps e a0 s
  | .darnStitch e a0, _, _ => execDarnStitch_keeps e a0 s
  | .standinAssign e a0, _, _ => execStandinAssign_keeps e a0 s
  | .evacuate e a0, _, _ => execEvacuate_keeps e a0 s
  | .evacuateSelf e a0, _, _ => execEvacuateSelf_keeps e a0 s
  | .admission e a0, _, _ => execAdmission_keeps e a0 s
  | .hatboxConfigure e a0, _, _ => execHatboxConfigure_keeps e a0 s
  | .hatboxWrite e a0, _, _ => execHatboxWrite_keeps e a0 s
  | .hatboxRestore e a0, _, _ => execHatboxRestore_keeps e a0 s
  | .imageExport e a0, _, _ => execImageExport_keeps e a0 s
  | .imageImport e a0, _, _ => execImageImport_keeps e a0 s
  | .digestArm e a0, _, _ => execDigestArm_keeps e a0 s
  | .digestRead e a0, _, _ => execDigestRead_keeps e a0 s
  | .tallyArm e a0, _, _ => execTallyArm_keeps e a0 s
  | .tallyRead e a0, _, _ => execTallyRead_keeps e a0 s
  | .tilePromote e a0, _, _ => execTilePromote_keeps e a0 s
  | .tileEvict e a0, _, _ => execTileEvict_keeps e a0 s
  | .brimOpen e a0, _, _ => execBrimOpen_keeps e a0 s
  | .brimAdvance e a0, _, _ => execBrimAdvance_keeps e a0 s
  | .brimClose e a0, _, _ => execBrimClose_keeps e a0 s
  | .quotaSet e a0, _, _ => execQuotaSet_keeps e a0 s
  | .quotaSetPool e a0, _, _ => execQuotaSetPool_keeps e a0 s
  | .scrubCtrl e a0, _, _ => execScrubCtrl_keeps e a0 s
  | .testRun e a0, _, _ => execTestRun_keeps e a0 s
  | .measureGet e a0, _, _ => execMeasureGet_keeps e a0 s
  | .sealSet e a0, _, _ => by
    obtain ⟨t, h, k⟩ := execSealSet_keeps e a0 s
    exact ⟨t, h, k.mono (by simp [Instr.mayFuse])⟩
  | .fenceSignal e a0, _, _ => execFenceSignal_keeps e a0 s
  | .nop e a0, _, _ => execNop_keeps e a0 s
  | .faultClear e a0 a1 a2, _, _ => execFaultClear_keeps e a0 a1 a2 s
  | .faultSet e a0 a1, _, _ => execFaultSet_keeps e a0 a1 s
  | .firstFaultRearm e a0, _, _ => execFirstFaultRearm_keeps e a0 s
  | .hwarnLatchClear e a0, _, _ => execHwarnLatchClear_keeps e a0 s
  | .laneDisable e a0 a1, _, _ => execLaneDisable_keeps e a0 a1 s
  | .laneEnable e a0 a1, _, _ => execLaneEnable_keeps e a0 a1 s
  | .instDisable e a0, _, _ => execInstDisable_keeps e a0 s
  | .instEnable e a0, _, _ => execInstEnable_keeps e a0 s
  | .laneStopDone e a0 a1, _, _ => execLaneStopDone_keeps e a0 a1 s
  | .instStopDone e a0, _, _ => execInstStopDone_keeps e a0 s
  | .handleWrite e a0 a1 a2, _, _ => execHandleWrite_keeps e a0 a1 a2 s
  | .cuffSnapshotRead e a0, _, _ => execCuffSnapshotRead_keeps e a0 s
  | .complementRegisterRead e a0, _, _ => execComplementRegisterRead_keeps e a0 s
  | .sealedRegisterWrite e a0 a1, _, _ => execSealedRegisterWrite_keeps e a0 a1 s
  | .badRegisterAccess e a0 a1 a2, _, _ => execBadRegisterAccess_keeps e a0 a1 a2 s
  | .registerWrite e a0 a1, _, _ => execRegisterWrite_keeps e a0 a1 s
  | .memoryRead e a0, _, _ => execMemoryRead_keeps e a0 s
  | .memoryWrite e a0, _, _ => execMemoryWrite_keeps e a0 s
  | .updateRead e a0, _, _ => execUpdateRead_keeps e a0 s
  | .updateWrite e a0, _, _ => execUpdateWrite_keeps e a0 s
  | .heldWriteApply e a0, _, _ => execHeldWriteApply_keeps e a0 s
  | .tierParityFold e a0, _, _ => execTierParityFold_keeps e a0 s
  | .remoteRequest e a0 a1, _, _ => execRemoteRequest_keeps e a0 a1 s
  | .remoteOperation e a0, _, _ => execRemoteOperation_keeps e a0 s
  | .remoteAnswer e a0 a1 a2, _, _ => execRemoteAnswer_keeps e a0 a1 a2 s
  | .remoteTimeout e a0, _, _ => execRemoteTimeout_keeps e a0 s
  | .governorUpdate e a0 a1, _, _ => execGovernorUpdate_keeps e a0 a1 s
  | .deltaSend e a0, _, _ => execDeltaSend_keeps e a0 s
  | .messageResend e a0, _, _ => execMessageResend_keeps e a0 s
  | .memberTimeout e a0, _, _ => execMemberTimeout_keeps e a0 s
  | .delta e a0 a1, _, _ => execDelta_keeps e a0 a1 s
  | .deltaAck e a0 a1, _, _ => execDeltaAck_keeps e a0 a1 s
  | .chipDrained e a0, _, _ => execChipDrained_keeps e a0 s
  | .drainDeadline e a0, _, _ => execDrainDeadline_keeps e a0 s
  | .vote e a0 a1, _, _ => execVote_keeps e a0 a1 s
  | .voteClose e a0, _, _ => execVoteClose_keeps e a0 s
  | .crownMessage e a0 a1, _, _ => execCrownMessage_keeps e a0 a1 s
  | .crownTakesEffect e a0, _, _ => execCrownTakesEffect_keeps e a0 s
  | .flipSweepDone e a0, _, _ => execFlipSweepDone_keeps e a0 s
  | .undecidedTimeout e a0, _, _ => execUndecidedTimeout_keeps e a0 s
  | .votingTimeout e a0, _, _ => execVotingTimeout_keeps e a0 s
  | .holdBound e a0 a1, _, _ => execHoldBound_keeps e a0 a1 s
  | .discardDone e a0, _, _ => execDiscardDone_keeps e a0 s
  | .abort e a0 a1, _, _ => execAbort_keeps e a0 a1 s
  | .collectiveClose e a0, _, _ => execCollectiveClose_keeps e a0 s
  | .collectiveAloneTimeout e a0, _, _ => execCollectiveAloneTimeout_keeps e a0 s
  | .keptKeyExpiry e a0, _, _ => execKeptKeyExpiry_keeps e a0 s
  | .formPassSend e a0, _, _ => execFormPassSend_keeps e a0 s
  | .backgroundDarnChain e a0 a1, _, _ => execBackgroundDarnChain_keeps e a0 a1 s
  | .darnReq e a0 a1, _, _ => execDarnReq_keeps e a0 a1 s
  | .darnPart e a0 a1, _, _ => execDarnPart_keeps e a0 a1 s
  | .darnDone e a0 a1, _, _ => execDarnDone_keeps e a0 a1 s
  | .admitCopySend e a0, _, _ => execAdmitCopySend_keeps e a0 s
  | .hatboxPart e a0 a1, _, _ => execHatboxPart_keeps e a0 a1 s
  | .hatboxPieceWrite e a0, _, _ => execHatboxPieceWrite_keeps e a0 s
  | .sealWrite e a0, _, _ => execSealWrite_keeps e a0 s
  | .seal e a0 a1, _, _ => execSeal_keeps e a0 a1 s
  | .witnessDigest e a0 a1, _, _ => execWitnessDigest_keeps e a0 a1 s
  | .exportPart e a0, _, _ => execExportPart_keeps e a0 s
  | .storageTimeout e a0, _, _ => execStorageTimeout_keeps e a0 s
  | .promotionCopyDone e a0 a1, _, _ => execPromotionCopyDone_keeps e a0 a1 s
  | .promotionDeadline e a0, _, _ => execPromotionDeadline_keeps e a0 s
  | .frameFreed e, _, _ => execFrameFreed_keeps e s
  | .weightsScanDone e a0, _, _ => execWeightsScanDone_keeps e a0 s
  | .mergeIdleEvict e a0, _, _ => execMergeIdleEvict_keeps e a0 s
  | .wordCeWindow e, _, _ => execWordCeWindow_keeps e s
  | .scrubRead e a0 a1, _, _ => execScrubRead_keeps e a0 a1 s
  | .scrubLapLimit e a0, _, _ => execScrubLapLimit_keeps e a0 s
  | .testDue e a0, _, _ => execTestDue_keeps e a0 s
  | .testOverdue e a0, _, _ => execTestOverdue_keeps e a0 s
  | .testComplete e a0 a1 a2, _, _ => execTestComplete_keeps e a0 a1 a2 s
  | .restorePieceWrite e a0, _, _ => execRestorePieceWrite_keeps e a0 s
  | .exportPartSend e a0, _, _ => execExportPartSend_keeps e a0 s
  | .regionFillPageWrite e a0 a1, _, _ => execRegionFillPageWrite_keeps e a0 a1 s

/-- A reset keeps the queue, the clock and the fuses as well; its contexts are gone. -/
theorem execChipReset_keeps (e : Ev) (p : Bool) (s : State) :
    ∃ t, execChipReset e p s = .next t ∧ Keeps True (s.at e) t := by
  refine ⟨_, rfl, ⟨rfl, rfl, fun _ => rfl, fun w => ?_, Nat.le_refl _, fun _ => rfl⟩⟩
  show cellsWf 0 (if p then [] else s.mem.bytes) = true
  split
  · rfl
  · exact w

/-- An acquisition of the band count moves the clock, and else keeps what the other commands keep. -/
theorem State.acquireBand_keeps (s : State) (n : Nat) :
    ∃ u, Keeps True u (s.acquireBand n) ∧ (u = s ∨ u = { s with clock := n }) := by
  unfold State.acquireBand
  dsimp only
  split <;> split
  all_goals first
    | exact ⟨s, Keeps.refl _, .inl rfl⟩
    | exact ⟨{ s with clock := n }, State.completeStart_keeps (State.modCu_keeps (Keeps.refl _) _ (fun _ => rfl)), .inr rfl⟩
theorem execBandAcquire_keeps (e : Ev) (s : State) :
    ∃ t u, execBandAcquire e s = .next t ∧ Keeps True u t ∧ (u = s.at e ∨ u = { s.at e with clock := e.t }) := by
  obtain ⟨u, h, g⟩ := State.acquireBand_keeps (s.at e) e.t
  exact ⟨_, u, rfl, State.finish_keeps h, g⟩

end Sys2Proof.Machine
end

