-- ==== Sys2Proof/Laws/Page.lean ====
section
/-! SUPPORT. What a read of an intact page answers: a page whose record is the one that its bytes give, with no controller report,
is decided at once by R376. -/

namespace Sys2Proof.Machine

set_option linter.all false

/-- The rows of a page joined again are the page. -/
theorem pageRows_flatten {d : List Byte} (h : d.length = 4096) : (pageRows d).flatten = d := by
  have key : ∀ n, n ≤ 128 → ((List.range n).map (fun j => slice d (32 * j) 32)).flatten = d.take (32 * n) := by
    intro n
    induction n with
    | zero => simp
    | succ n ih =>
      intro hn
      rw [List.range_succ, List.map_append, List.flatten_append, ih (by omega)]
      simp only [List.map_cons, List.map_nil, List.flatten_cons, List.flatten_nil, List.append_nil]
      have : slice d (32 * n) 32 = (d.drop (32 * n)).take 32 := by
        have hl : ((d.drop (32 * n)).take 32).length = 32 := by rw [List.length_take, List.length_drop]; omega
        simp only [slice, hl, Nat.sub_self, List.replicate_zero, List.append_nil]
      rw [this, show 32 * (n + 1) = 32 * n + 32 by omega, List.take_add]
  have := key 128 (Nat.le_refl _)
  unfold pageRows
  rw [this, List.take_of_length_le (by omega)]

/-- A number written in little-endian bytes reads back, but for what the bytes do not hold. -/
theorem leNat_leBytes : ∀ (n v : Nat), leNat (leBytes n v) = v % 256 ^ n
  | 0, v => by simp [leBytes, leNat, Nat.mod_one]
  | n + 1, v => by
    simp only [leBytes, leNat, leNat_leBytes n]
    rw [Nat.pow_succ, Nat.mul_comm (256 ^ n), Nat.mod_mul, BitVec.toNat_ofNat]

/-- A page with an untagged record reads as its record says (R372). -/
theorem metaOf_mkRec (k : Nat) (d : List Byte) (p : List Byte × List Byte) :
    metaOf (mkRec k d stWritten noTags p) (mkRec k d stWritten noTags p).metaBurst = mkRec k d stWritten noTags p := by
  have h : ∀ c : BitVec 32, BitVec.ofNat 32 (leNat (leBytes 4 c.toNat)) = c := fun c => by
    rw [leNat_leBytes, Nat.mod_eq_of_lt (by have := c.isLt; omega), BitVec.ofNat_toNat, BitVec.setWidth_eq]
  have burst : (mkRec k d stWritten noTags p).metaBurst =
      List.replicate 20 (0 : Byte) ++ [1, 0xFE, 0, 0, 0, 0, 0, 0] ++ leBytes 4 (mkRec k d stWritten noTags p).crc.toNat := by
    have e : (~~~stWritten : Byte) = 0xFE := by decide
    simp only [PageRec.metaBurst, PageRec.metaBytes, mkRec, noTags, e]
    rfl
  have fields : ∀ x y z w : Byte, let l := List.replicate 20 (0 : Byte) ++ [1, 0xFE, 0, 0, 0, 0, 0, 0] ++ [x, y, z, w]
      field l 0 8 = 0 ∧ field l 8 8 = 0 ∧ field l 16 4 = 0 ∧ byteAt l 20 = 1 ∧ byteAt l 21 = 0xFE ∧ byteAt l 22 = 0 ∧ byteAt l 23 = 0 ∧
        field l 28 4 = leNat [x, y, z, w] := by
    intro x y z w
    simp [field, slice, byteAt, leNat]
  have split : ∀ v : Nat, ∃ x y z w, leBytes 4 v = [x, y, z, w] := fun v =>
    ⟨BitVec.ofNat 8 v, BitVec.ofNat 8 (v / 256), BitVec.ofNat 8 (v / 256 / 256), BitVec.ofNat 8 (v / 256 / 256 / 256), by
      simp only [leBytes]⟩
  obtain ⟨x, y, z, w, hx⟩ := split (mkRec k d stWritten noTags p).crc.toNat
  have back := h (mkRec k d stWritten noTags p).crc
  rw [hx] at back burst
  obtain ⟨f1, f2, f3, f4, f5, f6, f7, f8⟩ := fields x y z w
  unfold metaOf
  rw [burst, f1, f2, f3, f4, f5, f6, f7, f8, back]
  rfl

/-- A read of an intact untagged page answers its bytes, corrects nothing and changes nothing (R376). -/
theorem decodePage_intact {s : State} {k : Nat} {d : List Byte} (hlen : d.length = 4096) (hctl : s.ev.ctl = [])
    (hrec : s.mem.record k = mkRec k d stWritten noTags (pageParity d)) (hread : s.mem.read (pageAddr k 0) 4096 = d) :
    s.decodePage k = (s, .page d (mkRec k d stWritten noTags (pageParity d)), false) := by
  have hrs : s.reports k = [] := by simp [State.reports, hctl]
  have hrows : ((pageRows d).zip (List.range 128)).map (fun p => p.1) = pageRows d := by
    rw [List.map_fst_zip]
    simp [pageRows]
  unfold State.decodePage
  simp only [hrs, List.find?_nil, hrec, metaOf_mkRec, hread, hrows, List.filter_nil, List.isEmpty_nil, List.any_nil,
    State.countBursts, List.foldl_nil, Bool.false_eq_true, if_false]
  have st : (mkRec k d stWritten noTags (pageParity d)).st = stWritten := rfl
  have inv : (mkRec k d stWritten noTags (pageParity d)).stInv = ~~~stWritten := rfl
  simp only [st, inv, pageRows_flatten hlen]
  rw [if_neg (by decide), if_neg (by decide), if_neg (by decide), if_pos]
  refine ⟨trivial, ?_, ?_⟩
  · generalize pageParity d = p
    rfl
  · generalize pageParity d = p
    unfold mkRec
    generalize hc : pageCrc = f
    rfl

/-- So does a read that has no use for the correction. -/
theorem fetchPage_intact {s : State} {k : Nat} {d : List Byte} (hlen : d.length = 4096) (hctl : s.ev.ctl = [])
    (hrec : s.mem.record k = mkRec k d stWritten noTags (pageParity d)) (hread : s.mem.read (pageAddr k 0) 4096 = d) :
    s.fetchPage k = (s, .page d (mkRec k d stWritten noTags (pageParity d))) := by
  unfold State.fetchPage
  rw [decodePage_intact hlen hctl hrec hread]

/-- A page of a region without a fill is not waiting for one. -/
theorem fillTo_none {s : State} {k : Nat} {r : Region} (hreg : s.regionOfKey k = some r) (hfill : r.fill = none) : s.fillTo k = s := by
  unfold State.fillTo
  simp only [hreg, hfill]

/-- Padun's own read of an intact page of a page-coded one-handed area (R376). -/
theorem padunPage_intact {s : State} {k off n ctx : Nat} {r : Region} {d : List Byte} (hreg : s.regionOfKey k = some r)
    (hkind : r.kind.pageCoded = true) (hfill : r.fill = none) (hmerge : s.mergeOf k = none) (hlen : d.length = 4096) (hctl : s.ev.ctl = [])
    (hrec : s.mem.record k = mkRec k d stWritten noTags (pageParity d)) (hread : s.mem.read (pageAddr k 0) 4096 = d) :
    s.padunPage k off n ctx = (s, some d) := by
  unfold State.padunPage State.readPlain State.evictPlain
  simp only [fillTo_none hreg hfill, hreg, hkind, hmerge, if_true, fetchPage_intact hlen hctl hrec hread]

/-- Padun's own read of bytes inside one intact page. -/
theorem padunRead_intact {s : State} {a n ctx k o : Nat} {r : Region} {d : List Byte}
    (hparts : rangeParts (addrLower a) (addrOff a) n = [(k, o, 0, n)]) (hreg : s.regionOfKey k = some r)
    (hkind : r.kind.pageCoded = true) (hfill : r.fill = none) (hmerge : s.mergeOf k = none) (hlen : d.length = 4096) (hctl : s.ev.ctl = [])
    (hrec : s.mem.record k = mkRec k d stWritten noTags (pageParity d)) (hread : s.mem.read (pageAddr k 0) 4096 = d) :
    s.padunRead a n ctx = (s, some (slice d o n)) := by
  unfold State.padunRead
  rw [hparts]
  simp only [List.foldl_cons, List.foldl_nil, padunPage_intact hreg hkind hfill hmerge hlen hctl hrec hread, List.nil_append]

/-- A number below the first address of a byte list's cells is not listed by them. -/
theorem cellsFrom_below : ∀ (d : List Byte) (a x : Nat), x < a → Tab.get (cellsFrom a d) x = none
  | [], _, _, _ => by simp [cellsFrom, Tab.get]
  | b :: d, a, x, h => by
    unfold cellsFrom
    split
    · exact cellsFrom_below d (a + 1) x (by omega)
    · simp only [Tab.get]
      rw [if_neg (by omega)]
      exact cellsFrom_below d (a + 1) x (by omega)

/-- The cells of a byte list read as its bytes. -/
theorem cellsFrom_getD : ∀ (d : List Byte) (a i : Nat), Tab.getD (cellsFrom a d) (a + i) 0 = d.getD i 0
  | [], _, _ => by simp [cellsFrom, Tab.getD, Tab.get]
  | b :: d, a, 0 => by
    unfold cellsFrom Tab.getD
    split
    · next h => simp [cellsFrom_below d (a + 1) a (by omega), h]
    · simp [Tab.get]
  | b :: d, a, i + 1 => by
    have ih := cellsFrom_getD d (a + 1) i
    rw [show a + 1 + i = a + (i + 1) by omega] at ih
    unfold cellsFrom
    split
    · simpa using ih
    · unfold Tab.getD at ih ⊢
      simp only [Tab.get]
      rw [if_neg (by omega)]
      simpa using ih

/-- Memory whose cells are those of a byte list, between others below and above, reads as the byte list. -/
theorem Mem.read_cells {m : Mem} {l r : List Host.Cell} {a n : Nat} {d : List Byte} (h : m.bytes = l ++ (cellsFrom a d ++ r))
    (hn : d.length = n) (hl : ∀ c ∈ l, c.1 < a) (hr : ∀ c ∈ r, a + n ≤ c.1) : m.read a n = d := by
  have hf : m.bytes.filter (fun c => decide (a ≤ c.1 ∧ c.1 < a + n)) = cellsFrom a d := by
    rw [h, List.filter_append, List.filter_append, List.filter_eq_nil_iff.2, List.filter_eq_self.2, List.filter_eq_nil_iff.2]
    · simp
    · intro c hc
      have := hr c hc
      simp only [decide_eq_true_eq]
      omega
    · intro c hc
      have := (cellsFrom_spec d a).1 c hc
      simp only [decide_eq_true_eq]
      omega
    · intro c hc
      have := hl c hc
      simp only [decide_eq_true_eq]
      omega
  unfold Mem.read
  simp only [hf, cellsFrom_getD]
  apply List.ext_getElem
  · simp [hn]
  · intro i h1 h2
    simp [h2]

end Sys2Proof.Machine
end

