-- ==== Sys2Proof/Laws/State.lean ====
section
/-! SUPPORT. Each named update of the state, field by field: simp reads the conjunctions as one rewriting rule for every field, so no
proof unfolds an update. Then what the updates of every instance and of a unit's faults do. -/

namespace Sys2Proof.Machine

/-- An event begins: the clock, the circumstances and the marks of the capture logs move, nothing else. -/
@[simp] theorem State.at_fields (s : State) (e : Ev) :
    (s.at e).pending = s.pending ∧ (s.at e).clock = Nat.max s.clock e.t ∧ (s.at e).ev = e ∧
    (s.at e).marks = Vector.ofFn (fun u => (s.faultsOf u.val).seq) ∧ (s.at e).fresh = s.fresh ∧ (s.at e).serial = s.serial ∧
    (s.at e).cu = s.cu ∧ (s.at e).inst = s.inst ∧ (s.at e).mem = s.mem ∧ (s.at e).regions = s.regions ∧ (s.at e).stitches = s.stitches ∧
    (s.at e).pairs = s.pairs ∧ (s.at e).deltas = s.deltas ∧ (s.at e).folds = s.folds ∧ (s.at e).heldReqs = s.heldReqs ∧
    (s.at e).heldRegs = s.heldRegs ∧ (s.at e).heldDeltas = s.heldDeltas ∧ (s.at e).tierFolds = s.tierFolds ∧ (s.at e).rings = s.rings ∧
    (s.at e).pends = s.pends ∧ (s.at e).ctxs = s.ctxs ∧ (s.at e).coded = s.coded ∧ (s.at e).darns = s.darns ∧
    (s.at e).chains = s.chains ∧ (s.at e).sent = s.sent ∧ (s.at e).stitchQ = s.stitchQ ∧ (s.at e).loop = s.loop ∧
    (s.at e).seen = s.seen ∧ (s.at e).colls = s.colls ∧ (s.at e).kept = s.kept ∧ (s.at e).remotes = s.remotes ∧
    (s.at e).remoteIn = s.remoteIn ∧ (s.at e).infos = s.infos ∧ (s.at e).digests = s.digests ∧ (s.at e).tallies = s.tallies ∧
    (s.at e).frames = s.frames ∧ (s.at e).promos = s.promos ∧ (s.at e).tileRefs = s.tileRefs ∧ (s.at e).brims = s.brims ∧
    (s.at e).lostPages = s.lostPages ∧ (s.at e).stalePages = s.stalePages ∧ (s.at e).out = s.out :=
  ⟨rfl, rfl, rfl, rfl, rfl, rfl, rfl, rfl, rfl, rfl, rfl, rfl, rfl, rfl, rfl, rfl, rfl, rfl, rfl, rfl, rfl, rfl, rfl, rfl, rfl, rfl, rfl, rfl, rfl, rfl, rfl, rfl, rfl, rfl, rfl, rfl, rfl, rfl, rfl, rfl, rfl, rfl⟩

/-- A change of one instance. -/
@[simp] theorem State.modInst_fields (s : State) (i : Fin 16) (f : Inst → Inst) :
    (s.modInst i f).pending = s.pending ∧ (s.modInst i f).clock = s.clock ∧ (s.modInst i f).ev = s.ev ∧ (s.modInst i f).marks = s.marks ∧
    (s.modInst i f).fresh = s.fresh ∧ (s.modInst i f).serial = s.serial ∧ (s.modInst i f).cu = s.cu ∧
    (s.modInst i f).inst = s.inst.set i.val (f s.inst[i]) ∧ (s.modInst i f).mem = s.mem ∧ (s.modInst i f).regions = s.regions ∧
    (s.modInst i f).stitches = s.stitches ∧ (s.modInst i f).pairs = s.pairs ∧ (s.modInst i f).deltas = s.deltas ∧
    (s.modInst i f).folds = s.folds ∧ (s.modInst i f).heldReqs = s.heldReqs ∧ (s.modInst i f).heldRegs = s.heldRegs ∧
    (s.modInst i f).heldDeltas = s.heldDeltas ∧ (s.modInst i f).tierFolds = s.tierFolds ∧ (s.modInst i f).rings = s.rings ∧
    (s.modInst i f).pends = s.pends ∧ (s.modInst i f).ctxs = s.ctxs ∧ (s.modInst i f).coded = s.coded ∧ (s.modInst i f).darns = s.darns ∧
    (s.modInst i f).chains = s.chains ∧ (s.modInst i f).sent = s.sent ∧ (s.modInst i f).stitchQ = s.stitchQ ∧
    (s.modInst i f).loop = s.loop ∧ (s.modInst i f).seen = s.seen ∧ (s.modInst i f).colls = s.colls ∧ (s.modInst i f).kept = s.kept ∧
    (s.modInst i f).remotes = s.remotes ∧ (s.modInst i f).remoteIn = s.remoteIn ∧ (s.modInst i f).infos = s.infos ∧
    (s.modInst i f).digests = s.digests ∧ (s.modInst i f).tallies = s.tallies ∧ (s.modInst i f).frames = s.frames ∧
    (s.modInst i f).promos = s.promos ∧ (s.modInst i f).tileRefs = s.tileRefs ∧ (s.modInst i f).brims = s.brims ∧
    (s.modInst i f).lostPages = s.lostPages ∧ (s.modInst i f).stalePages = s.stalePages ∧ (s.modInst i f).out = s.out :=
  ⟨rfl, rfl, rfl, rfl, rfl, rfl, rfl, rfl, rfl, rfl, rfl, rfl, rfl, rfl, rfl, rfl, rfl, rfl, rfl, rfl, rfl, rfl, rfl, rfl, rfl, rfl, rfl, rfl, rfl, rfl, rfl, rfl, rfl, rfl, rfl, rfl, rfl, rfl, rfl, rfl, rfl, rfl⟩

/-- A change of the crown unit. -/
@[simp] theorem State.modCu_fields (s : State) (f : Cu → Cu) :
    (s.modCu f).pending = s.pending ∧ (s.modCu f).clock = s.clock ∧ (s.modCu f).ev = s.ev ∧ (s.modCu f).marks = s.marks ∧
    (s.modCu f).fresh = s.fresh ∧ (s.modCu f).serial = s.serial ∧ (s.modCu f).cu = f s.cu ∧ (s.modCu f).inst = s.inst ∧
    (s.modCu f).mem = s.mem ∧ (s.modCu f).regions = s.regions ∧ (s.modCu f).stitches = s.stitches ∧ (s.modCu f).pairs = s.pairs ∧
    (s.modCu f).deltas = s.deltas ∧ (s.modCu f).folds = s.folds ∧ (s.modCu f).heldReqs = s.heldReqs ∧ (s.modCu f).heldRegs = s.heldRegs ∧
    (s.modCu f).heldDeltas = s.heldDeltas ∧ (s.modCu f).tierFolds = s.tierFolds ∧ (s.modCu f).rings = s.rings ∧
    (s.modCu f).pends = s.pends ∧ (s.modCu f).ctxs = s.ctxs ∧ (s.modCu f).coded = s.coded ∧ (s.modCu f).darns = s.darns ∧
    (s.modCu f).chains = s.chains ∧ (s.modCu f).sent = s.sent ∧ (s.modCu f).stitchQ = s.stitchQ ∧ (s.modCu f).loop = s.loop ∧
    (s.modCu f).seen = s.seen ∧ (s.modCu f).colls = s.colls ∧ (s.modCu f).kept = s.kept ∧ (s.modCu f).remotes = s.remotes ∧
    (s.modCu f).remoteIn = s.remoteIn ∧ (s.modCu f).infos = s.infos ∧ (s.modCu f).digests = s.digests ∧ (s.modCu f).tallies = s.tallies ∧
    (s.modCu f).frames = s.frames ∧ (s.modCu f).promos = s.promos ∧ (s.modCu f).tileRefs = s.tileRefs ∧ (s.modCu f).brims = s.brims ∧
    (s.modCu f).lostPages = s.lostPages ∧ (s.modCu f).stalePages = s.stalePages ∧ (s.modCu f).out = s.out :=
  ⟨rfl, rfl, rfl, rfl, rfl, rfl, rfl, rfl, rfl, rfl, rfl, rfl, rfl, rfl, rfl, rfl, rfl, rfl, rfl, rfl, rfl, rfl, rfl, rfl, rfl, rfl, rfl, rfl, rfl, rfl, rfl, rfl, rfl, rfl, rfl, rfl, rfl, rfl, rfl, rfl, rfl, rfl⟩

/-- One output leaves. -/
@[simp] theorem State.emit_fields (s : State) (o : Out) :
    (s.emit o).pending = s.pending ∧ (s.emit o).clock = s.clock ∧ (s.emit o).ev = s.ev ∧ (s.emit o).marks = s.marks ∧
    (s.emit o).fresh = s.fresh ∧ (s.emit o).serial = s.serial ∧ (s.emit o).cu = s.cu ∧ (s.emit o).inst = s.inst ∧
    (s.emit o).mem = s.mem ∧ (s.emit o).regions = s.regions ∧ (s.emit o).stitches = s.stitches ∧ (s.emit o).pairs = s.pairs ∧
    (s.emit o).deltas = s.deltas ∧ (s.emit o).folds = s.folds ∧ (s.emit o).heldReqs = s.heldReqs ∧ (s.emit o).heldRegs = s.heldRegs ∧
    (s.emit o).heldDeltas = s.heldDeltas ∧ (s.emit o).tierFolds = s.tierFolds ∧ (s.emit o).rings = s.rings ∧ (s.emit o).pends = s.pends ∧
    (s.emit o).ctxs = s.ctxs ∧ (s.emit o).coded = s.coded ∧ (s.emit o).darns = s.darns ∧ (s.emit o).chains = s.chains ∧
    (s.emit o).sent = s.sent ∧ (s.emit o).stitchQ = s.stitchQ ∧ (s.emit o).loop = s.loop ∧ (s.emit o).seen = s.seen ∧
    (s.emit o).colls = s.colls ∧ (s.emit o).kept = s.kept ∧ (s.emit o).remotes = s.remotes ∧ (s.emit o).remoteIn = s.remoteIn ∧
    (s.emit o).infos = s.infos ∧ (s.emit o).digests = s.digests ∧ (s.emit o).tallies = s.tallies ∧ (s.emit o).frames = s.frames ∧
    (s.emit o).promos = s.promos ∧ (s.emit o).tileRefs = s.tileRefs ∧ (s.emit o).brims = s.brims ∧ (s.emit o).lostPages = s.lostPages ∧
    (s.emit o).stalePages = s.stalePages ∧ (s.emit o).out = o :: s.out :=
  ⟨rfl, rfl, rfl, rfl, rfl, rfl, rfl, rfl, rfl, rfl, rfl, rfl, rfl, rfl, rfl, rfl, rfl, rfl, rfl, rfl, rfl, rfl, rfl, rfl, rfl, rfl, rfl, rfl, rfl, rfl, rfl, rfl, rfl, rfl, rfl, rfl, rfl, rfl, rfl, rfl, rfl, rfl⟩

/-- A free value is taken. -/
@[simp] theorem State.bump_fields (s : State) :
    (s.bump).pending = s.pending ∧ (s.bump).clock = s.clock ∧ (s.bump).ev = s.ev ∧ (s.bump).marks = s.marks ∧
    (s.bump).fresh = s.fresh + 1 ∧ (s.bump).serial = s.serial ∧ (s.bump).cu = s.cu ∧ (s.bump).inst = s.inst ∧ (s.bump).mem = s.mem ∧
    (s.bump).regions = s.regions ∧ (s.bump).stitches = s.stitches ∧ (s.bump).pairs = s.pairs ∧ (s.bump).deltas = s.deltas ∧
    (s.bump).folds = s.folds ∧ (s.bump).heldReqs = s.heldReqs ∧ (s.bump).heldRegs = s.heldRegs ∧ (s.bump).heldDeltas = s.heldDeltas ∧
    (s.bump).tierFolds = s.tierFolds ∧ (s.bump).rings = s.rings ∧ (s.bump).pends = s.pends ∧ (s.bump).ctxs = s.ctxs ∧
    (s.bump).coded = s.coded ∧ (s.bump).darns = s.darns ∧ (s.bump).chains = s.chains ∧ (s.bump).sent = s.sent ∧
    (s.bump).stitchQ = s.stitchQ ∧ (s.bump).loop = s.loop ∧ (s.bump).seen = s.seen ∧ (s.bump).colls = s.colls ∧ (s.bump).kept = s.kept ∧
    (s.bump).remotes = s.remotes ∧ (s.bump).remoteIn = s.remoteIn ∧ (s.bump).infos = s.infos ∧ (s.bump).digests = s.digests ∧
    (s.bump).tallies = s.tallies ∧ (s.bump).frames = s.frames ∧ (s.bump).promos = s.promos ∧ (s.bump).tileRefs = s.tileRefs ∧
    (s.bump).brims = s.brims ∧ (s.bump).lostPages = s.lostPages ∧ (s.bump).stalePages = s.stalePages ∧ (s.bump).out = s.out :=
  ⟨rfl, rfl, rfl, rfl, rfl, rfl, rfl, rfl, rfl, rfl, rfl, rfl, rfl, rfl, rfl, rfl, rfl, rfl, rfl, rfl, rfl, rfl, rfl, rfl, rfl, rfl, rfl, rfl, rfl, rfl, rfl, rfl, rfl, rfl, rfl, rfl, rfl, rfl, rfl, rfl, rfl, rfl⟩

/-- A change of a coded context. -/
@[simp] theorem State.modCoded_fields (s : State) (ctx : Nat) (f : Coded → Coded) :
    (s.modCoded ctx f).pending = s.pending ∧ (s.modCoded ctx f).clock = s.clock ∧ (s.modCoded ctx f).ev = s.ev ∧
    (s.modCoded ctx f).marks = s.marks ∧ (s.modCoded ctx f).fresh = s.fresh ∧ (s.modCoded ctx f).serial = s.serial ∧
    (s.modCoded ctx f).cu = s.cu ∧ (s.modCoded ctx f).inst = s.inst ∧ (s.modCoded ctx f).mem = s.mem ∧
    (s.modCoded ctx f).regions = s.regions ∧ (s.modCoded ctx f).stitches = s.stitches ∧ (s.modCoded ctx f).pairs = s.pairs ∧
    (s.modCoded ctx f).deltas = s.deltas ∧ (s.modCoded ctx f).folds = s.folds ∧ (s.modCoded ctx f).heldReqs = s.heldReqs ∧
    (s.modCoded ctx f).heldRegs = s.heldRegs ∧ (s.modCoded ctx f).heldDeltas = s.heldDeltas ∧
    (s.modCoded ctx f).tierFolds = s.tierFolds ∧ (s.modCoded ctx f).rings = s.rings ∧ (s.modCoded ctx f).pends = s.pends ∧
    (s.modCoded ctx f).ctxs = s.ctxs ∧ (s.modCoded ctx f).coded = s.coded.map (fun p => if p.2.ctx == ctx then (p.1, f p.2) else p) ∧
    (s.modCoded ctx f).darns = s.darns ∧ (s.modCoded ctx f).chains = s.chains ∧ (s.modCoded ctx f).sent = s.sent ∧
    (s.modCoded ctx f).stitchQ = s.stitchQ ∧ (s.modCoded ctx f).loop = s.loop ∧ (s.modCoded ctx f).seen = s.seen ∧
    (s.modCoded ctx f).colls = s.colls ∧ (s.modCoded ctx f).kept = s.kept ∧ (s.modCoded ctx f).remotes = s.remotes ∧
    (s.modCoded ctx f).remoteIn = s.remoteIn ∧ (s.modCoded ctx f).infos = s.infos ∧ (s.modCoded ctx f).digests = s.digests ∧
    (s.modCoded ctx f).tallies = s.tallies ∧ (s.modCoded ctx f).frames = s.frames ∧ (s.modCoded ctx f).promos = s.promos ∧
    (s.modCoded ctx f).tileRefs = s.tileRefs ∧ (s.modCoded ctx f).brims = s.brims ∧ (s.modCoded ctx f).lostPages = s.lostPages ∧
    (s.modCoded ctx f).stalePages = s.stalePages ∧ (s.modCoded ctx f).out = s.out :=
  ⟨rfl, rfl, rfl, rfl, rfl, rfl, rfl, rfl, rfl, rfl, rfl, rfl, rfl, rfl, rfl, rfl, rfl, rfl, rfl, rfl, rfl, rfl, rfl, rfl, rfl, rfl, rfl, rfl, rfl, rfl, rfl, rfl, rfl, rfl, rfl, rfl, rfl, rfl, rfl, rfl, rfl, rfl⟩

/-- A change of a region. -/
@[simp] theorem State.modRegion_fields (s : State) (n : Nat) (f : Region → Region) :
    (s.modRegion n f).pending = s.pending ∧ (s.modRegion n f).clock = s.clock ∧ (s.modRegion n f).ev = s.ev ∧
    (s.modRegion n f).marks = s.marks ∧ (s.modRegion n f).fresh = s.fresh ∧ (s.modRegion n f).serial = s.serial ∧
    (s.modRegion n f).cu = s.cu ∧ (s.modRegion n f).inst = s.inst ∧ (s.modRegion n f).mem = s.mem ∧
    (s.modRegion n f).regions = s.regions.map (fun r => if r.num == n then f r else r) ∧ (s.modRegion n f).stitches = s.stitches ∧
    (s.modRegion n f).pairs = s.pairs ∧ (s.modRegion n f).deltas = s.deltas ∧ (s.modRegion n f).folds = s.folds ∧
    (s.modRegion n f).heldReqs = s.heldReqs ∧ (s.modRegion n f).heldRegs = s.heldRegs ∧ (s.modRegion n f).heldDeltas = s.heldDeltas ∧
    (s.modRegion n f).tierFolds = s.tierFolds ∧ (s.modRegion n f).rings = s.rings ∧ (s.modRegion n f).pends = s.pends ∧
    (s.modRegion n f).ctxs = s.ctxs ∧ (s.modRegion n f).coded = s.coded ∧ (s.modRegion n f).darns = s.darns ∧
    (s.modRegion n f).chains = s.chains ∧ (s.modRegion n f).sent = s.sent ∧ (s.modRegion n f).stitchQ = s.stitchQ ∧
    (s.modRegion n f).loop = s.loop ∧ (s.modRegion n f).seen = s.seen ∧ (s.modRegion n f).colls = s.colls ∧
    (s.modRegion n f).kept = s.kept ∧ (s.modRegion n f).remotes = s.remotes ∧ (s.modRegion n f).remoteIn = s.remoteIn ∧
    (s.modRegion n f).infos = s.infos ∧ (s.modRegion n f).digests = s.digests ∧ (s.modRegion n f).tallies = s.tallies ∧
    (s.modRegion n f).frames = s.frames ∧ (s.modRegion n f).promos = s.promos ∧ (s.modRegion n f).tileRefs = s.tileRefs ∧
    (s.modRegion n f).brims = s.brims ∧ (s.modRegion n f).lostPages = s.lostPages ∧ (s.modRegion n f).stalePages = s.stalePages ∧
    (s.modRegion n f).out = s.out :=
  ⟨rfl, rfl, rfl, rfl, rfl, rfl, rfl, rfl, rfl, rfl, rfl, rfl, rfl, rfl, rfl, rfl, rfl, rfl, rfl, rfl, rfl, rfl, rfl, rfl, rfl, rfl, rfl, rfl, rfl, rfl, rfl, rfl, rfl, rfl, rfl, rfl, rfl, rfl, rfl, rfl, rfl, rfl⟩

/-- A change of a hand-map entry. -/
@[simp] theorem State.modStitch_fields (s : State) (r i : Nat) (f : Stitch → Stitch) :
    (s.modStitch r i f).pending = s.pending ∧ (s.modStitch r i f).clock = s.clock ∧ (s.modStitch r i f).ev = s.ev ∧
    (s.modStitch r i f).marks = s.marks ∧ (s.modStitch r i f).fresh = s.fresh ∧ (s.modStitch r i f).serial = s.serial ∧
    (s.modStitch r i f).cu = s.cu ∧ (s.modStitch r i f).inst = s.inst ∧ (s.modStitch r i f).mem = s.mem ∧
    (s.modStitch r i f).regions = s.regions ∧
    (s.modStitch r i f).stitches = (if f (s.stitch r i) = Stitch.mapped then Tab.del s.stitches (stitchKey r i)
      else Tab.set s.stitches (stitchKey r i) (f (s.stitch r i))) ∧
    (s.modStitch r i f).pairs = s.pairs ∧ (s.modStitch r i f).deltas = s.deltas ∧ (s.modStitch r i f).folds = s.folds ∧
    (s.modStitch r i f).heldReqs = s.heldReqs ∧ (s.modStitch r i f).heldRegs = s.heldRegs ∧
    (s.modStitch r i f).heldDeltas = s.heldDeltas ∧ (s.modStitch r i f).tierFolds = s.tierFolds ∧ (s.modStitch r i f).rings = s.rings ∧
    (s.modStitch r i f).pends = s.pends ∧ (s.modStitch r i f).ctxs = s.ctxs ∧ (s.modStitch r i f).coded = s.coded ∧
    (s.modStitch r i f).darns = s.darns ∧ (s.modStitch r i f).chains = s.chains ∧ (s.modStitch r i f).sent = s.sent ∧
    (s.modStitch r i f).stitchQ = s.stitchQ ∧ (s.modStitch r i f).loop = s.loop ∧ (s.modStitch r i f).seen = s.seen ∧
    (s.modStitch r i f).colls = s.colls ∧ (s.modStitch r i f).kept = s.kept ∧ (s.modStitch r i f).remotes = s.remotes ∧
    (s.modStitch r i f).remoteIn = s.remoteIn ∧ (s.modStitch r i f).infos = s.infos ∧ (s.modStitch r i f).digests = s.digests ∧
    (s.modStitch r i f).tallies = s.tallies ∧ (s.modStitch r i f).frames = s.frames ∧ (s.modStitch r i f).promos = s.promos ∧
    (s.modStitch r i f).tileRefs = s.tileRefs ∧ (s.modStitch r i f).brims = s.brims ∧ (s.modStitch r i f).lostPages = s.lostPages ∧
    (s.modStitch r i f).stalePages = s.stalePages ∧ (s.modStitch r i f).out = s.out :=
  ⟨rfl, rfl, rfl, rfl, rfl, rfl, rfl, rfl, rfl, rfl, rfl, rfl, rfl, rfl, rfl, rfl, rfl, rfl, rfl, rfl, rfl, rfl, rfl, rfl, rfl, rfl, rfl, rfl, rfl, rfl, rfl, rfl, rfl, rfl, rfl, rfl, rfl, rfl, rfl, rfl, rfl, rfl⟩

/-- Messages await no answer any more. -/
@[simp] theorem State.dropSent_fields (s : State) (p : Sent → Bool) :
    (s.dropSent p).pending = s.pending ∧ (s.dropSent p).clock = s.clock ∧ (s.dropSent p).ev = s.ev ∧ (s.dropSent p).marks = s.marks ∧
    (s.dropSent p).fresh = s.fresh ∧ (s.dropSent p).serial = s.serial ∧ (s.dropSent p).cu = s.cu ∧ (s.dropSent p).inst = s.inst ∧
    (s.dropSent p).mem = s.mem ∧ (s.dropSent p).regions = s.regions ∧ (s.dropSent p).stitches = s.stitches ∧
    (s.dropSent p).pairs = s.pairs ∧ (s.dropSent p).deltas = s.deltas ∧ (s.dropSent p).folds = s.folds ∧
    (s.dropSent p).heldReqs = s.heldReqs ∧ (s.dropSent p).heldRegs = s.heldRegs ∧ (s.dropSent p).heldDeltas = s.heldDeltas ∧
    (s.dropSent p).tierFolds = s.tierFolds ∧ (s.dropSent p).rings = s.rings ∧ (s.dropSent p).pends = s.pends ∧
    (s.dropSent p).ctxs = s.ctxs ∧ (s.dropSent p).coded = s.coded ∧ (s.dropSent p).darns = s.darns ∧ (s.dropSent p).chains = s.chains ∧
    (s.dropSent p).sent = s.sent.filter (fun x => !p x) ∧ (s.dropSent p).stitchQ = s.stitchQ ∧ (s.dropSent p).loop = s.loop ∧
    (s.dropSent p).seen = s.seen ∧ (s.dropSent p).colls = s.colls ∧ (s.dropSent p).kept = s.kept ∧ (s.dropSent p).remotes = s.remotes ∧
    (s.dropSent p).remoteIn = s.remoteIn ∧ (s.dropSent p).infos = s.infos ∧ (s.dropSent p).digests = s.digests ∧
    (s.dropSent p).tallies = s.tallies ∧ (s.dropSent p).frames = s.frames ∧ (s.dropSent p).promos = s.promos ∧
    (s.dropSent p).tileRefs = s.tileRefs ∧ (s.dropSent p).brims = s.brims ∧ (s.dropSent p).lostPages = s.lostPages ∧
    (s.dropSent p).stalePages = s.stalePages ∧ (s.dropSent p).out = s.out :=
  ⟨rfl, rfl, rfl, rfl, rfl, rfl, rfl, rfl, rfl, rfl, rfl, rfl, rfl, rfl, rfl, rfl, rfl, rfl, rfl, rfl, rfl, rfl, rfl, rfl, rfl, rfl, rfl, rfl, rfl, rfl, rfl, rfl, rfl, rfl, rfl, rfl, rfl, rfl, rfl, rfl, rfl, rfl⟩

/-- A change of a collective. -/
@[simp] theorem State.modColl_fields (s : State) (k : CollKey) (f : Coll → Coll) :
    (s.modColl k f).pending = s.pending ∧ (s.modColl k f).clock = s.clock ∧ (s.modColl k f).ev = s.ev ∧ (s.modColl k f).marks = s.marks ∧
    (s.modColl k f).fresh = s.fresh ∧ (s.modColl k f).serial = s.serial ∧ (s.modColl k f).cu = s.cu ∧ (s.modColl k f).inst = s.inst ∧
    (s.modColl k f).mem = s.mem ∧ (s.modColl k f).regions = s.regions ∧ (s.modColl k f).stitches = s.stitches ∧
    (s.modColl k f).pairs = s.pairs ∧ (s.modColl k f).deltas = s.deltas ∧ (s.modColl k f).folds = s.folds ∧
    (s.modColl k f).heldReqs = s.heldReqs ∧ (s.modColl k f).heldRegs = s.heldRegs ∧ (s.modColl k f).heldDeltas = s.heldDeltas ∧
    (s.modColl k f).tierFolds = s.tierFolds ∧ (s.modColl k f).rings = s.rings ∧ (s.modColl k f).pends = s.pends ∧
    (s.modColl k f).ctxs = s.ctxs ∧ (s.modColl k f).coded = s.coded ∧ (s.modColl k f).darns = s.darns ∧
    (s.modColl k f).chains = s.chains ∧ (s.modColl k f).sent = s.sent ∧ (s.modColl k f).stitchQ = s.stitchQ ∧
    (s.modColl k f).loop = s.loop ∧ (s.modColl k f).seen = s.seen ∧
    (s.modColl k f).colls = s.colls.map (fun c => if c.key == k then f c else c) ∧ (s.modColl k f).kept = s.kept ∧
    (s.modColl k f).remotes = s.remotes ∧ (s.modColl k f).remoteIn = s.remoteIn ∧ (s.modColl k f).infos = s.infos ∧
    (s.modColl k f).digests = s.digests ∧ (s.modColl k f).tallies = s.tallies ∧ (s.modColl k f).frames = s.frames ∧
    (s.modColl k f).promos = s.promos ∧ (s.modColl k f).tileRefs = s.tileRefs ∧ (s.modColl k f).brims = s.brims ∧
    (s.modColl k f).lostPages = s.lostPages ∧ (s.modColl k f).stalePages = s.stalePages ∧ (s.modColl k f).out = s.out :=
  ⟨rfl, rfl, rfl, rfl, rfl, rfl, rfl, rfl, rfl, rfl, rfl, rfl, rfl, rfl, rfl, rfl, rfl, rfl, rfl, rfl, rfl, rfl, rfl, rfl, rfl, rfl, rfl, rfl, rfl, rfl, rfl, rfl, rfl, rfl, rfl, rfl, rfl, rfl, rfl, rfl, rfl, rfl⟩

/-- A collective has ended. -/
@[simp] theorem State.dropColl_fields (s : State) (k : CollKey) :
    (s.dropColl k).pending = s.pending ∧ (s.dropColl k).clock = s.clock ∧ (s.dropColl k).ev = s.ev ∧ (s.dropColl k).marks = s.marks ∧
    (s.dropColl k).fresh = s.fresh ∧ (s.dropColl k).serial = s.serial ∧ (s.dropColl k).cu = s.cu ∧ (s.dropColl k).inst = s.inst ∧
    (s.dropColl k).mem = s.mem ∧ (s.dropColl k).regions = s.regions ∧ (s.dropColl k).stitches = s.stitches ∧
    (s.dropColl k).pairs = s.pairs ∧ (s.dropColl k).deltas = s.deltas ∧ (s.dropColl k).folds = s.folds ∧
    (s.dropColl k).heldReqs = s.heldReqs ∧ (s.dropColl k).heldRegs = s.heldRegs ∧ (s.dropColl k).heldDeltas = s.heldDeltas ∧
    (s.dropColl k).tierFolds = s.tierFolds ∧ (s.dropColl k).rings = s.rings ∧ (s.dropColl k).pends = s.pends ∧
    (s.dropColl k).ctxs = s.ctxs ∧ (s.dropColl k).coded = s.coded ∧ (s.dropColl k).darns = s.darns ∧ (s.dropColl k).chains = s.chains ∧
    (s.dropColl k).sent = s.sent ∧ (s.dropColl k).stitchQ = s.stitchQ ∧ (s.dropColl k).loop = s.loop ∧ (s.dropColl k).seen = s.seen ∧
    (s.dropColl k).colls = s.colls.filter (fun c => c.key != k) ∧ (s.dropColl k).kept = s.kept ∧ (s.dropColl k).remotes = s.remotes ∧
    (s.dropColl k).remoteIn = s.remoteIn ∧ (s.dropColl k).infos = s.infos ∧ (s.dropColl k).digests = s.digests ∧
    (s.dropColl k).tallies = s.tallies ∧ (s.dropColl k).frames = s.frames ∧ (s.dropColl k).promos = s.promos ∧
    (s.dropColl k).tileRefs = s.tileRefs ∧ (s.dropColl k).brims = s.brims ∧ (s.dropColl k).lostPages = s.lostPages ∧
    (s.dropColl k).stalePages = s.stalePages ∧ (s.dropColl k).out = s.out :=
  ⟨rfl, rfl, rfl, rfl, rfl, rfl, rfl, rfl, rfl, rfl, rfl, rfl, rfl, rfl, rfl, rfl, rfl, rfl, rfl, rfl, rfl, rfl, rfl, rfl, rfl, rfl, rfl, rfl, rfl, rfl, rfl, rfl, rfl, rfl, rfl, rfl, rfl, rfl, rfl, rfl, rfl, rfl⟩

/-- A change of a brim. -/
@[simp] theorem State.modBrim_fields (s : State) (b : Nat) (f : Brim → Brim) :
    (s.modBrim b f).pending = s.pending ∧ (s.modBrim b f).clock = s.clock ∧ (s.modBrim b f).ev = s.ev ∧ (s.modBrim b f).marks = s.marks ∧
    (s.modBrim b f).fresh = s.fresh ∧ (s.modBrim b f).serial = s.serial ∧ (s.modBrim b f).cu = s.cu ∧ (s.modBrim b f).inst = s.inst ∧
    (s.modBrim b f).mem = s.mem ∧ (s.modBrim b f).regions = s.regions ∧ (s.modBrim b f).stitches = s.stitches ∧
    (s.modBrim b f).pairs = s.pairs ∧ (s.modBrim b f).deltas = s.deltas ∧ (s.modBrim b f).folds = s.folds ∧
    (s.modBrim b f).heldReqs = s.heldReqs ∧ (s.modBrim b f).heldRegs = s.heldRegs ∧ (s.modBrim b f).heldDeltas = s.heldDeltas ∧
    (s.modBrim b f).tierFolds = s.tierFolds ∧ (s.modBrim b f).rings = s.rings ∧ (s.modBrim b f).pends = s.pends ∧
    (s.modBrim b f).ctxs = s.ctxs ∧ (s.modBrim b f).coded = s.coded ∧ (s.modBrim b f).darns = s.darns ∧
    (s.modBrim b f).chains = s.chains ∧ (s.modBrim b f).sent = s.sent ∧ (s.modBrim b f).stitchQ = s.stitchQ ∧
    (s.modBrim b f).loop = s.loop ∧ (s.modBrim b f).seen = s.seen ∧ (s.modBrim b f).colls = s.colls ∧ (s.modBrim b f).kept = s.kept ∧
    (s.modBrim b f).remotes = s.remotes ∧ (s.modBrim b f).remoteIn = s.remoteIn ∧ (s.modBrim b f).infos = s.infos ∧
    (s.modBrim b f).digests = s.digests ∧ (s.modBrim b f).tallies = s.tallies ∧ (s.modBrim b f).frames = s.frames ∧
    (s.modBrim b f).promos = s.promos ∧ (s.modBrim b f).tileRefs = s.tileRefs ∧
    (s.modBrim b f).brims = s.brims.map (fun x => if x.num == b then f x else x) ∧ (s.modBrim b f).lostPages = s.lostPages ∧
    (s.modBrim b f).stalePages = s.stalePages ∧ (s.modBrim b f).out = s.out :=
  ⟨rfl, rfl, rfl, rfl, rfl, rfl, rfl, rfl, rfl, rfl, rfl, rfl, rfl, rfl, rfl, rfl, rfl, rfl, rfl, rfl, rfl, rfl, rfl, rfl, rfl, rfl, rfl, rfl, rfl, rfl, rfl, rfl, rfl, rfl, rfl, rfl, rfl, rfl, rfl, rfl, rfl, rfl⟩

/-- Only the named instance changes. -/
@[simp] theorem State.modInst_inst_self (s : State) (i : Fin 16) (f : Inst → Inst) : (s.modInst i f).inst[i] = f s.inst[i] := by
  simp [State.modInst]

theorem State.modInst_inst_other (s : State) (i j : Fin 16) (f : Inst → Inst) (h : j ≠ i) : (s.modInst i f).inst[j] = s.inst[j] := by
  have hv : i.val ≠ j.val := fun e => h (Fin.ext e.symm)
  simp [State.modInst, hv]

/-- A change of instances in a list changes nothing but instances. -/
theorem State.modInsts_fold_eq (f : Fin 16 → Inst → Inst) (l : List (Fin 16)) (s : State) :
    l.foldl (fun s i => s.modInst i (f i)) s = { s with inst := (l.foldl (fun s i => s.modInst i (f i)) s).inst } := by
  induction l generalizing s with
  | nil => rfl
  | cons a l ih => rw [List.foldl_cons, ih]; rfl

/-- A change of every instance changes nothing but the instances. -/
theorem State.modInsts_eq (s : State) (f : Fin 16 → Inst → Inst) : s.modInsts f = { s with inst := (s.modInsts f).inst } :=
  State.modInsts_fold_eq f instNums s

/-- An instance that the list does not name stays; one that it names once is changed once. -/
theorem State.modInsts_fold_inst (f : Fin 16 → Inst → Inst) (l : List (Fin 16)) (s : State) (j : Fin 16) (hl : l.Nodup) :
    (l.foldl (fun s i => s.modInst i (f i)) s).inst[j] = if j ∈ l then f j s.inst[j] else s.inst[j] := by
  induction l generalizing s with
  | nil => simp
  | cons a l ih =>
    obtain ⟨ha, hn⟩ := List.nodup_cons.1 hl
    rw [List.foldl_cons, ih _ hn]
    by_cases hj : j = a
    · subst hj; simp [ha]
    · rw [State.modInst_inst_other s a j (f a) hj]
      simp [hj]

/-- Every instance is changed by its own function. -/
theorem State.modInsts_inst (s : State) (f : Fin 16 → Inst → Inst) (j : Fin 16) : (s.modInsts f).inst[j] = f j s.inst[j] := by
  have h : j ∈ instNums := by revert j; decide
  rw [State.modInsts, State.modInsts_fold_inst f instNums s j (by decide), if_pos h]

/-- A change of a unit's fault registers changes nothing but that instance, or the crown unit. -/
theorem State.modFaults_eq (s : State) (u : Nat) (g : Faults → Faults) :
    s.modFaults u g = { s with inst := (s.modFaults u g).inst, cu := (s.modFaults u g).cu } := by
  unfold State.modFaults
  split <;> rfl

/-- A fault raised with a stamp changes nothing but the unit's fault registers. -/
theorem State.raiseAt_eq (s : State) (u b stamp : Nat) (d0 d1 : Word) :
    s.raiseAt u b stamp d0 d1 = { s with inst := (s.raiseAt u b stamp d0 d1).inst, cu := (s.raiseAt u b stamp d0 d1).cu } :=
  State.modFaults_eq s u _

/-- A fault raised changes nothing but the unit's fault registers. -/
theorem State.raise_eq (s : State) (u b : Nat) (d0 d1 : Word) :
    s.raise u b d0 d1 = { s with inst := (s.raise u b d0 d1).inst, cu := (s.raise u b d0 d1).cu } :=
  State.raiseAt_eq s u b s.now d0 d1

end Sys2Proof.Machine
end

