-- ==== Sys2Proof/WellFormed.lean ====
section
/-! DEFINITION. Well-formed commands: packets of 64 bytes (R451), stitch messages with a 23-byte body and a payload of
the length the fabric carries (R410), requests of at most 4,096 bytes inside their code fields (R32), and event times and
controller reports within their widths. -/

namespace Sys2Proof

/-- A controller report names one of a page's 131 bursts and carries its 32 bytes (R36, R371). -/
def Burst.wf (b : Burst) : Bool := decide (b.index ≤ 130) && (b.data.length == 32)

/-- A band count fits 64 bits (R47), and every controller report is well formed. -/
def Ev.wf (e : Ev) : Bool := decide (e.t < 2 ^ 64) && e.ctl.all Burst.wf

/-- Torus coordinates are 16-bit fields (R125). -/
def Coord.wf (c : Coord) : Bool := decide (c.x < 65536) && decide (c.y < 65536) && decide (c.z < 65536)

/-- A command packet is 64 bytes of one of 65,536 rings (R441, R451), under a 32-bit count (R444). -/
def Cmd.wf (c : Cmd) : Bool :=
  decide (c.ring < 65536) && decide (c.count < 2 ^ 32) && (c.bytes.length == 64)

/-- A stitch message: a 23-byte body, and no payload or one of 4,096 bytes (R410). -/
def Wire.wf (w : Wire) : Bool := (w.body.length == 23) && (w.payload.isEmpty || w.payload.length == 4096)

/-- A memory request: code fields within their widths, at most one page, no data on a read (R32). -/
def Req.wf (r : Req) (write : Bool) : Bool :=
  decide (r.src < 8) && decide (r.ctx < 256) && decide (r.tag < 65536) && decide (r.len ≤ 4096) &&
    decide (r.addr < 2 ^ 63) && (r.data.length == if write then r.len else 0)

/-- A remote operation: field widths, and data exactly on a write (R437). -/
def RemoteOp.wf (o : RemoteOp) : Bool :=
  o.src.wf && decide (o.region < 65536) && decide (o.len ≤ 4096) && (o.data.length == if o.write then o.len else 0)

/-- A register offset lies in the seventeen windows. -/
def offWf (off : Nat) : Bool := decide (off < 0x140000)

/-- The key of a collective: field widths. -/
def CollKey.wf (k : CollKey) : Bool :=
  decide (k.ctx < 256) && decide (k.step < 2 ^ 64) && decide (k.glove < 65536) && decide (k.phase < 256)

/-- The command is well formed. -/
def Instr.wf : Instr → Bool
  | .chipReset e _ => e.wf
  | .resetRelease e _ => e.wf
  | .firmwareRelease e image => e.wf && decide (image.length ≤ 262144)
  | .firmwareStart e => e.wf
  | .controllerReady e _ _ _ _ => e.wf
  | .controllerReadyTimeout e _ => e.wf
  | .laneTrainingDone e _ _ _ => e.wf
  | .bandAcquire e => e.wf
  | .bandFault e bad _ => e.wf && decide (bad < 2 ^ 64)
  | .bandStall e => e.wf
  | .watchdogExpiry e _ => e.wf
  | .watchdogService e => e.wf
  | .linkDown e _ => e.wf
  | .coordVerifiedChange e f => e.wf && f.coord.wf && f.cables.all (fun p => p.1.wf)
  | .residueAlarm e _ => e.wf
  | .hwarnEdgeFiltered e _ _ => e.wf
  | .hwarnGlitch e _ => e.wf
  | .hwarnStuck e _ => e.wf
  | .hwarnUnstuck e _ => e.wf
  | .clampRise e => e.wf
  | .clampFall e => e.wf
  | .boostGrantRise e => e.wf
  | .boostGrantFall e => e.wf
  | .peakLimitReached e => e.wf
  | .peakLimitCleared e => e.wf
  | .ieee1687Write e _ _ _ => e.wf
  | .debugHaltRequest e => e.wf
  | .doorbell e _ => e.wf
  | .packetFetch e ring => e.wf && decide (ring < 65536)
  | .commandAccept e ring => e.wf && decide (ring < 65536)
  | .deferredStart e ring count => e.wf && decide (ring < 65536) && decide (count < 2 ^ 32)
  | .ctxOpen e c => e.wf && c.wf
  | .ctxClose e c => e.wf && c.wf
  | .regionMap e c => e.wf && c.wf
  | .regionUnmap e c => e.wf && c.wf
  | .regionFill e c => e.wf && c.wf
  | .gloveForm e c => e.wf && c.wf
  | .gloveDissolve e c => e.wf && c.wf
  | .gloveQuery e c => e.wf && c.wf
  | .stepOpen e c => e.wf && c.wf
  | .drainClose e c => e.wf && c.wf
  | .crown e c => e.wf && c.wf
  | .rollback e c => e.wf && c.wf
  | .witnessArm e c => e.wf && c.wf
  | .witnessVerdict e c => e.wf && c.wf
  | .darnStart e c => e.wf && c.wf
  | .darnStitch e c => e.wf && c.wf
  | .standinAssign e c => e.wf && c.wf
  | .evacuate e c => e.wf && c.wf
  | .evacuateSelf e c => e.wf && c.wf
  | .admission e c => e.wf && c.wf
  | .hatboxConfigure e c => e.wf && c.wf
  | .hatboxWrite e c => e.wf && c.wf
  | .hatboxRestore e c => e.wf && c.wf
  | .imageExport e c => e.wf && c.wf
  | .imageImport e c => e.wf && c.wf
  | .digestArm e c => e.wf && c.wf
  | .digestRead e c => e.wf && c.wf
  | .tallyArm e c => e.wf && c.wf
  | .tallyRead e c => e.wf && c.wf
  | .tilePromote e c => e.wf && c.wf
  | .tileEvict e c => e.wf && c.wf
  | .brimOpen e c => e.wf && c.wf
  | .brimAdvance e c => e.wf && c.wf
  | .brimClose e c => e.wf && c.wf
  | .quotaSet e c => e.wf && c.wf
  | .quotaSetPool e c => e.wf && c.wf
  | .scrubCtrl e c => e.wf && c.wf
  | .testRun e c => e.wf && c.wf
  | .measureGet e c => e.wf && c.wf
  | .sealSet e c => e.wf && c.wf
  | .fenceSignal e c => e.wf && c.wf
  | .nop e c => e.wf && c.wf
  | .faultClear e _ _ _ => e.wf
  | .faultSet e _ _ => e.wf
  | .firstFaultRearm e _ => e.wf
  | .hwarnLatchClear e _ => e.wf
  | .laneDisable e _ _ => e.wf
  | .laneEnable e _ _ => e.wf
  | .instDisable e _ => e.wf
  | .instEnable e _ => e.wf
  | .laneStopDone e _ _ => e.wf
  | .instStopDone e _ => e.wf
  | .handleWrite e _ _ _ => e.wf
  | .cuffSnapshotRead e _ => e.wf
  | .complementRegisterRead e off => e.wf && offWf off
  | .sealedRegisterWrite e off _ => e.wf && offWf off
  | .badRegisterAccess e off _ _ => e.wf && offWf off
  | .registerWrite e off _ => e.wf && offWf off
  | .memoryRead e r => e.wf && r.wf false
  | .memoryWrite e r => e.wf && r.wf true
  | .updateRead e r => e.wf && r.wf false
  | .updateWrite e r => e.wf && r.wf true
  | .heldWriteApply e _ => e.wf
  | .tierParityFold e _ => e.wf
  | .remoteRequest e _ r => e.wf && (r.wf false || r.wf true)
  | .remoteOperation e op => e.wf && op.wf
  | .remoteAnswer e _ _ data => e.wf && decide (data.bytes.length ≤ 4096)
  | .remoteTimeout e _ => e.wf
  | .governorUpdate e _ _ => e.wf
  | .deltaSend e _ => e.wf
  | .messageResend e _ => e.wf
  | .memberTimeout e _ => e.wf
  | .delta e src m => e.wf && src.wf && m.wf
  | .deltaAck e src m => e.wf && src.wf && m.wf
  | .chipDrained e ctx => e.wf && decide (ctx < 256)
  | .drainDeadline e ctx => e.wf && decide (ctx < 256)
  | .vote e src m => e.wf && src.wf && m.wf
  | .voteClose e ctx => e.wf && decide (ctx < 256)
  | .crownMessage e src m => e.wf && src.wf && m.wf
  | .crownTakesEffect e ctx => e.wf && decide (ctx < 256)
  | .flipSweepDone e ctx => e.wf && decide (ctx < 256)
  | .undecidedTimeout e ctx => e.wf && decide (ctx < 256)
  | .votingTimeout e ctx => e.wf && decide (ctx < 256)
  | .holdBound e ctx _ => e.wf && decide (ctx < 256)
  | .discardDone e ctx => e.wf && decide (ctx < 256)
  | .abort e src m => e.wf && src.wf && m.wf
  | .collectiveClose e k => e.wf && k.wf
  | .collectiveAloneTimeout e k => e.wf && k.wf
  | .keptKeyExpiry e k => e.wf && k.wf
  | .formPassSend e ctx => e.wf && decide (ctx < 256)
  | .backgroundDarnChain e ctx darn => e.wf && decide (ctx < 256) && decide (darn < 4)
  | .darnReq e src m => e.wf && src.wf && m.wf
  | .darnPart e src m => e.wf && src.wf && m.wf
  | .darnDone e src m => e.wf && src.wf && m.wf
  | .admitCopySend e ctx => e.wf && decide (ctx < 256)
  | .hatboxPart e src m => e.wf && src.wf && m.wf
  | .hatboxPieceWrite e ctx => e.wf && decide (ctx < 256)
  | .sealWrite e ctx => e.wf && decide (ctx < 256)
  | .seal e src m => e.wf && src.wf && m.wf
  | .witnessDigest e src m => e.wf && src.wf && m.wf
  | .exportPart e m => e.wf && m.wf
  | .storageTimeout e ctx => e.wf && decide (ctx < 256)
  | .promotionCopyDone e _ _ => e.wf
  | .promotionDeadline e _ => e.wf
  | .frameFreed e => e.wf
  | .weightsScanDone e slot => e.wf && decide (slot < 4096)
  | .mergeIdleEvict e _ => e.wf
  | .wordCeWindow e => e.wf
  | .scrubRead e _ _ => e.wf
  | .scrubLapLimit e _ => e.wf
  | .testDue e _ => e.wf
  | .testOverdue e _ => e.wf
  | .testComplete e _ _ _ => e.wf
  | .restorePieceWrite e ctx => e.wf && decide (ctx < 256)
  | .exportPartSend e ctx => e.wf && decide (ctx < 256)
  | .regionFillPageWrite e _ _ => e.wf

end Sys2Proof
end

