-- ==== Sys2Proof/Tests/Slice0.lean ====
section
/-! SUPPORT. Tests: ill-formed terms that each well-formedness check refuses, a few effects from the manual's own numbers, and for
every statement with hypotheses a concrete state and operands that meet them, clause by clause. -/

namespace Sys2Proof.Tests

open Sys2Proof Sys2Proof.Machine

set_option maxRecDepth 20000
set_option Elab.async false
set_option linter.all false

/-! ### Small states -/

/-- An event at a band time, with nothing else reported. -/
def ev (t : Nat) : Ev := { t := t, ctl := [], lane := none, news := [] }

/-- A packet of context 1 with an opcode, a MODE and parameter fields (offset, bytes, value). -/
def cmd (op mode : Nat) (fs : List (Nat × Nat × Nat)) : Cmd :=
  { ring := 0, count := 0, bytes := fs.foldl (fun b f => overlay b f.1 (leBytes f.2.1 f.2.2))
      ([BitVec.ofNat 8 op, 0, 1, BitVec.ofNat 8 mode] ++ List.replicate 60 0) }

/-- A lane in service. -/
def lane : Lane := { Lane.reset with en := .on, trained := true, romOk := true }

/-- An instance in service. -/
def unit (lower : Bool) : Inst :=
  { Inst.reset with lower := lower, ctrlLower := lower, ready := true, active := true, harvest := 0xFF, en := .on,
                    lanes := Vector.replicate 8 lane, gov := { rate := 1000, ceiling := 2000, boosted := false, clamped := false } }

/-- A region of context 1. -/
def area (num : Nat) (kind : Kind) (lower : Bool) (base len : Nat) : Region :=
  { num := num, kind := kind, lower := lower, owner := 1, base := base, len := len, key := 0, keyInv := ~~~0, share := false,
    noticeRing := 0xFFFF, unmapping := false, fill := none }

/-- PLAIN, PASS, STATE, parity, lower TIER, the pool and the hatbox, one of each. -/
def plainR : Region := area 1 .plain false 0 0x30000
def passR : Region := area 2 .pass false 0x30000 0x30000
def stateR : Region := area 3 .state false 0x60000 0xC000
def parityR : Region := area 4 .parity false 0x90000 0xC000
def tierR : Region := area 5 .tier true 0 0xC0000
def poolR : Region := { area 6 .pool false 0xC0000 0x80000 with owner := 0xFF }

/-- The four members' coordinates. -/
def seat (i : Nat) : Coord := ⟨i, 0, 0⟩

/-- A placement table of `n` chips in a row (R125). -/
def placeTab (n : Nat) : List Byte :=
  leBytes 16 0xABCD ++ List.replicate 16 0 ++ ((List.range n).map (fun i => leBytes 8 i)).flatten

/-- A crown or restore table of one glove, or of one hatbox group, with its head (R167). -/
def crownTab (id : Nat) : List Byte := leBytes 8 1 ++ leBytes 2 id ++ leBytes 6 0

/-- Pages of the PLAIN region: the placement table, the crown table, a tile-group table of one group. -/
def page0 : List Byte := padTo 4096 (placeTab 4)
def page1 : List Byte := padTo 4096 (crownTab 7)
def page2 : List Byte := padTo 4096 (leBytes 4 1 ++ leBytes 4 1 ++ leBytes 8 0 ++ leBytes 2 5 ++ leBytes 2 0 ++ leBytes 4 1 ++ leBytes 8 0)

/-- A NOP packet, and one with its CRC (R451). -/
def nopCmd : Cmd := cmd 0x7F 0 []
def sealed (c : Cmd) : List Byte := overlay c.bytes 12 (leBytes 4 (crc32c c.bytes).toNat)

/-- The descriptor of a ring of 64 packets at 0x3000 with its completions at 0x4000, and two packets in it (R443). -/
def desc : List Byte :=
  leBytes 8 0x3000 ++ leBytes 8 0x4000 ++ leBytes 4 2 ++ leBytes 12 0 ++ [6, 1, 3, 0] ++ leBytes 2 0 ++ leBytes 2 8191 ++ List.replicate 24 0

/-- Two packets, the second with a wrong CRC, and the descriptor; and a page of the lower tier. -/
def page3 : List Byte := padTo 4096 (sealed nopCmd ++ nopCmd.bytes ++ desc)
def tierPage : List Byte := padTo 4096 [1]

/-- The key of the first parity page of the lower TIER region. -/
def tierKey : Nat := pageKey true 3

/-- An intact record of a page (R372). -/
def intact (k : Nat) (d : List Byte) : PageRec := mkRec k d stWritten noTags (pageParity d)

/-- The failure-domain entry of a seat: every identifier of its own (R522). -/
def domain (i : Nat) : Domain :=
  { coord := BitVec.ofNat 64 (2 ^ 63 + i), domA := BitVec.ofNat 64 ((i + 1) * (2 ^ 32 + 1)),
    domB := BitVec.ofNat 64 ((i + 1) * (2 ^ 32 + 1)) }

/-- A coded context crowned at step 5. -/
def K : Coded := Coded.opened 1 5 0x77

/-- A shape descriptor of four members of twelve palm stitches (R118). -/
def shape : List Byte := shapeBytes 0x53474450 32 4 1 4 [12, 12, 12, 12] [0, 0, 0, 0]

/-- A 4 + 1 group on seat 0. -/
def group : Group :=
  { id := 7, n := 4, m := 1, me := 0, q := [1, 0, 0, 0], tagKey := 0xABCD, tagKeyInv := ~~~0xABCD, shape := shape,
    shapeInv := invBytes shape, place := placeTab 4, placeInv := invBytes (placeTab 4), placeHash := 0, geomHash := 0, tmax := 4,
    base := 0x90000, region := 4, noticeRing := 0xFFFF }

/-- Its glove, READY. -/
def glove : Glove :=
  { g := group, state := .ready, lostMask := 0, standinMask := 0, filling := 0, filled := [], lacking := [], deals := [],
    lanes := List.replicate 4 0x0000888888888888 }

/-- A coded context in the glove. -/
def KG : Coded := { K with glove := some glove }

/-- The cells of the PLAIN region's pages. -/
def below : List Host.Cell := cellsFrom 0 page0 ++ cellsFrom 4096 page1 ++ cellsFrom 8192 page2 ++ cellsFrom 12288 page3

/-- A chip that has started up, with the regions above and nothing in flight. -/
def chip : State :=
  { State.reset with
    cu := { Cu.reset with released := true, started := true, fw := { Cu.reset.fw with state := 2 },
                          fabric := { coord := seat 0, verified := true, swapped := false, down := 0, cables := [] },
                          band := { acquired := true, valid := true, fault := false, good := 0 },
                          domains := (List.range 4).map (fun i => (i, domain i)) }
    inst := Vector.ofFn (fun i => unit (decide (12 ≤ i.val)))
    mem := { bytes := below ++ cellsFrom (pageAddr tierKey 0) tierPage
             recs := [(0, intact 0 page0), (1, intact 1 page1), (2, intact 2 page2), (3, intact 3 page3),
                      (tierKey, intact tierKey tierPage)], merge := [], repairQ := [] }
    regions := [plainR, passR, stateR, tierR, poolR]
    ctxs := [(1, { closing := false, coded := true, upper := 100, lowerQ := 100 })]
    coded := [(0, K)] }

/-- The chip with another coded context in its block. -/
def chipK (k : Coded) : State := { chip with coded := [(0, k)] }

/-- The chip in a glove, with its parity area. -/
def chipG (k : Coded) : State := { chip with coded := [(0, k)], regions := [plainR, passR, stateR, parityR, tierR, poolR] }

/-- Each page reads as written. -/
theorem test_pages_read : chip.mem.read (pageAddr 0 0) 4096 = page0 ∧ chip.mem.read (pageAddr 1 0) 4096 = page1 ∧
    chip.mem.read (pageAddr 2 0) 4096 = page2 ∧ chip.mem.read (pageAddr 3 0) 4096 = page3 ∧
    chip.mem.read (pageAddr tierKey 0) 4096 = tierPage := by
  have h : chip.mem.bytes = below ++ cellsFrom (pageAddr tierKey 0) tierPage := by unfold chip; rfl
  refine ⟨?_, ?_, ?_, ?_, ?_⟩
  · refine Mem.read_cells (l := []) (r := cellsFrom 4096 page1 ++ cellsFrom 8192 page2 ++ cellsFrom 12288 page3 ++
      cellsFrom (pageAddr tierKey 0) tierPage) ?_ (by decide +kernel) (by simp) (by decide +kernel)
    rw [h, below]; simp only [List.nil_append, List.append_assoc]; rfl
  · refine Mem.read_cells (l := cellsFrom 0 page0) (r := cellsFrom 8192 page2 ++ cellsFrom 12288 page3 ++
      cellsFrom (pageAddr tierKey 0) tierPage) ?_ (by decide +kernel) (by decide +kernel) (by decide +kernel)
    rw [h, below]; simp only [List.append_assoc]; rfl
  · refine Mem.read_cells (l := cellsFrom 0 page0 ++ cellsFrom 4096 page1) (r := cellsFrom 12288 page3 ++
      cellsFrom (pageAddr tierKey 0) tierPage) ?_ (by decide +kernel) (by decide +kernel) (by decide +kernel)
    rw [h, below]; simp only [List.append_assoc]; rfl
  · refine Mem.read_cells (l := cellsFrom 0 page0 ++ cellsFrom 4096 page1 ++ cellsFrom 8192 page2)
      (r := cellsFrom (pageAddr tierKey 0) tierPage) ?_ (by decide +kernel) (by decide +kernel) (by decide +kernel)
    rw [h, below]; simp only [List.append_assoc]; rfl
  · refine Mem.read_cells (l := below) (r := []) ?_ (by decide +kernel) (by decide +kernel) (by simp)
    rw [h, List.append_nil]

/-- The state that a command answers. -/
def after (c : Instr) (s : State) : State := match exec c s with
  | .next t => t
  | _ => s

/-- Each page has its intact record and 4,096 bytes. -/
theorem test_records : chip.mem.record 0 = intact 0 page0 ∧ chip.mem.record 1 = intact 1 page1 ∧ chip.mem.record 2 = intact 2 page2 ∧
    chip.mem.record 3 = intact 3 page3 ∧ chip.mem.record tierKey = intact tierKey tierPage ∧ chip.mem.merge = [] := by
  refine ⟨?_, ?_, ?_, ?_, ?_, rfl⟩
  all_goals
    simp only [chip, Mem.record, Tab.getD, Tab.get]
    repeat rw [if_neg (by decide)]
    rw [if_pos trivial]
    rfl

/-- A computation's answer is its state and its second part. -/
theorem snd_is {α β : Type} {p : α × β} {y : β} (h : p.2 = y) : p = (p.1, y) := by rw [← h]

/-- Padun's own read inside one of the pages of the PLAIN region. -/
theorem read_plain {s : State} {a n k o : Nat} {d : List Byte} (hmem : s.mem = chip.mem) (hctl : s.ev.ctl = [])
    (hreg : s.regionOfKey k = some plainR) (hparts : rangeParts (addrLower a) (addrOff a) n = [(k, o, 0, n)])
    (hread : chip.mem.read (pageAddr k 0) 4096 = d) (hrec : chip.mem.record k = intact k d) (hlen : d.length = 4096) :
    s.padunRead a n 1 = (s, some (slice d o n)) :=
  padunRead_intact hparts hreg rfl rfl (by rw [State.mergeOf, hmem, test_records.2.2.2.2.2]; rfl) hlen hctl (by rw [hmem]; exact hrec)
    (by rw [hmem]; exact hread)

/-- The placement table of the PLAIN region reads as written. -/
theorem read_place {s : State} {x a n : Nat} (hx : x = 1) (ha : a = 0) (hn : n = 4) (hmem : s.mem = chip.mem) (hctl : s.ev.ctl = [])
    (hreg : s.regionOfKey 0 = some plainR) (hp : s.plainTable 1 0 64 = true) : s.readPlacement x a n = (s, some (placeTab 4)) := by
  subst hx ha hn
  have h := read_plain (a := 0) (n := 64) (k := 0) (o := 0) hmem hctl hreg (by decide +kernel) test_pages_read.1 test_records.1
    (by decide +kernel)
  rw [show slice page0 0 64 = placeTab 4 by decide +kernel] at h
  unfold State.readPlacement
  simp only [show 32 + 8 * 4 = 64 by rfl, hp, h, Bool.not_true, Bool.false_eq_true, if_false]

/-- Its reserved bytes are zero. -/
theorem read_row {s : State} {x a n byte : Nat} (hx : x = 1) (ha : a = 0) (hn : n = 4) (hmem : s.mem = chip.mem) (hctl : s.ev.ctl = [])
    (hreg : s.regionOfKey 0 = some plainR) (hp : s.plainTable 1 0 64 = true) : s.tableRow x a n byte = (s, placeTab 4, none) := by
  unfold State.tableRow
  rw [read_place hx ha hn hmem hctl hreg hp]
  subst hn
  simp only [show placeClean (placeTab 4) 4 = true by decide +kernel, if_true]

/-- A list of one label reads from the zeros beside it. -/
theorem read_labels {s : State} {c : Cmd} (hx : c.ctx = 1) (hf : c.u64 40 = 0x800 ∧ c.u8 29 = 1) (hmem : s.mem = chip.mem)
    (hctl : s.ev.ctl = []) (hreg : s.regionOfKey 0 = some plainR) (hp : s.plainTable 1 0x800 8 = true) :
    s.readLabels c = (s, some (List.replicate 8 0)) := by
  have h := read_plain (a := 0x800) (n := 8) (k := 0) (o := 0x800) hmem hctl hreg (by decide +kernel) test_pages_read.1 test_records.1
    (by decide +kernel)
  rw [show slice page0 0x800 8 = List.replicate 8 0 by decide +kernel] at h
  unfold State.readLabels
  simp only [hx, hf.1, hf.2, Nat.mul_one, hp, if_true, h]

/-- So does the crown table. -/
theorem read_table {s : State} {x n : Nat} (hx : x = 1) (hn : n = 4096) (hmem : s.mem = chip.mem) (hctl : s.ev.ctl = [])
    (hreg : s.regionOfKey 1 = some plainR) (hp : s.plainTable 1 4096 8 = true) (hq : s.plainTable 1 4096 16 = true) :
    s.readTable x n = (s, some (crownTab 7, [(7, seat 0)])) := by
  subst hx hn
  have h := fun a o (hx : rangeParts (addrLower a) (addrOff a) 8 = [(1, o, 0, 8)]) =>
    read_plain (a := a) (n := 8) (k := 1) (o := o) hmem hctl hreg hx test_pages_read.2.1 test_records.2.1 (by decide +kernel)
  have h1 := h 4096 0 (by decide +kernel)
  have h2 := h 4104 8 (by decide +kernel)
  unfold State.readTable
  simp only [hp, h1, show field (slice page1 0 8) 0 4 = 1 by decide +kernel, show field (slice page1 0 8) 4 4 = 0 by decide +kernel,
    show 4096 + 8 = 4104 by rfl, show 8 * 1 = 8 by rfl, show 8 + 8 = 16 by rfl, hq, h2, Bool.not_true, Bool.false_eq_true, if_false]
  rw [if_neg (by decide), show slice page1 0 8 ++ slice page1 8 8 = crownTab 7 by decide +kernel,
    show tableEntries (slice page1 0 8) (slice page1 8 8) = [(7, seat 0)] by decide +kernel]

/-- And the tile-group table. -/
theorem read_groups {s : State} (hmem : s.mem = chip.mem) (hctl : s.ev.ctl = []) (hreg : s.regionOfKey 2 = some plainR)
    (hp : s.plainTable 1 8192 16 = true) (hq : s.plainTable 1 8192 32 = true) :
    s.readGroups 1 8192 = (s, some (1, [{ region := 5, first := 0, count := 1 }])) := by
  have h := fun a o (hx : rangeParts (addrLower a) (addrOff a) 16 = [(2, o, 0, 16)]) =>
    read_plain (a := a) (n := 16) (k := 2) (o := o) hmem hctl hreg hx test_pages_read.2.2.1 test_records.2.2.1 (by decide +kernel)
  have h1 := h 8192 0 (by decide +kernel)
  have h2 := h 8208 16 (by decide +kernel)
  unfold State.readGroups
  simp only [hp, h1, show field (slice page2 0 16) 0 4 = 1 by decide +kernel, show field (slice page2 0 16) 4 4 = 1 by decide +kernel,
    show field (slice page2 0 16) 8 8 = 0 by decide +kernel, show 8192 + 16 = 8208 by rfl,
    show 16 * 1 = 16 by rfl, show 16 + 16 = 32 by rfl, hq, h2, Bool.not_true, Bool.false_eq_true, if_false]
  rw [if_neg (by decide), if_neg (by decide), if_neg (by decide +kernel),
    show tableGroups 1 (slice page2 16 16) = [{ region := 5, first := 0, count := 1 }] by decide +kernel]

/-- With no region mapped, some number is free. -/
theorem free_number : ∃ n, State.reset.freeRegion = some n := ⟨_, rfl⟩

/-- So it is while numbers remain beside the mapped ones. -/
theorem free_beside {s : State} (h : ((List.range 4096).find? (fun n => !s.regions.any (fun r => r.num == n))).isSome = true) :
    ∃ n, s.freeRegion = some n := by
  unfold State.freeRegion
  simp only
  split
  · exact Option.isSome_iff_exists.1 h
  · exact ⟨_, rfl⟩

/-- The chip after its self-tests. -/
def tested : State := { chip with inst := chip.inst.map (fun x => { x with test := { x.test with okL := true, okM := true } }) }

/-- The cuff record of seat 0, with this chip's lanes (R88). -/
def cuff : Cuff :=
  { ctx := 1, member := 0, step := 5, time := 0, geom := 0, glove := 7, n := 4, m := 1, lanes := chip.lanesWord.toNat, key := 0xABCD,
    palm := 12, parity := 4, groups := [], digest := [], tally := [] }

/-- What the members give a chip that takes a seat: layout and lanes are those of this chip (R219, R312). -/
def info : SeatInfo :=
  { n := 4, m := 1, q := [1, 0, 0, 0], key := 0xABCD,
    shape := shapeBytes 0x53474450 32 4 1 4 [12, 12, 12, 12] (List.replicate 4 (chip.layoutHash 1).toNat),
    bank := [(0, cuff.bytes), (1, { cuff with member := 1 }.bytes)],
    attempt := 0, lost := 1, standin := 0, deals := [], filling := 0, filled := [], lacking := [], darns := [] }

/-- The tested chip with it. -/
def spare : State := { tested with infos := [(1, info)] }

/-- The glove with its last member lost, and with that member's seat dealt to the others. -/
def lostG : Glove := { glove with state := .degraded, lostMask := 8 }
def dealtG : Glove :=
  { glove with state := .standin, lostMask := 8, standinMask := 8
               deals := [{ member := 3, unit := 1, hosts := [0, 1, 2], region := 9, palmSlots := 4, groups := 0 }] }

/-- The hosting area of the dealt seat. -/
def hostR : Region := area 9 (.hosting 3) false 0x240000 0xC000

/-- The chip with a glove and a hosting area. -/
def chipS (k : Coded) : State := { chip with coded := [(0, k)], regions := [plainR, passR, stateR, parityR, tierR, poolR, hostR] }

/-- A hatbox group of the same four chips (R245, R254). -/
def hbGroup : HbGroup :=
  { g := { group with id := 9, shape := shapeBytes 0x47484450 64 4 1 33 [97, 97, 97, 97] [0, 0, 0, 0]
                      shapeInv := invBytes (shapeBytes 0x47484450 64 4 1 33 [97, 97, 97, 97] [0, 0, 0, 0])
                      tmax := 33, base := 0x300000, region := 8 }
    schedule := 0, minInterval := 0, seqLen := 97, copy := none }

/-- The chip with a hatbox group, and its area. -/
def hatR : Region := area 8 .hatbox true 0x300000 0x120000
def KB (c : Option HbCopy) : Coded := { KG with hb := some { hbGroup with copy := c } }
def chipB (k : Coded) : State := { chip with coded := [(0, k)], regions := [plainR, passR, stateR, parityR, tierR, poolR, hatR] }

/-- A piece of the hatbox that lies where the tier page does reads as that page. -/
theorem present_piece {s : State} {ctx pos : Nat} {h : HbGroup} {r : Restore} (ha : (r.absentMembers h).contains h.g.me = false)
    (hk : h.pieceKey r.slot false pos = tierKey) (hmem : s.mem = chip.mem) (hctl : s.ev.ctl = []) :
    s.presentPiece ctx h r pos = (s, some (tierPage, 0)) := by
  unfold State.presentPiece State.readStored
  simp only [ha, hk]
  rw [fetchPage_intact (d := tierPage) (by decide +kernel) hctl (by rw [hmem]; exact test_records.2.2.2.2.1)
    (by rw [hmem]; exact test_pages_read.2.2.2.2)]
  simp only [Bool.false_eq_true, if_false]
  rfl

/-- So does the page itself as a fold reads it. -/
theorem raw_tier {s : State} (hs : s.served tierKey = true) (hreg : s.regionOfKey tierKey = some tierR) (hmem : s.mem = chip.mem)
    (hctl : s.ev.ctl = []) (hk : tierR.fill = none) : s.rawTier tierKey = (s, some tierPage) := by
  unfold State.rawTier
  simp only [hs, fillTo_none hreg hk]
  rw [fetchPage_intact (d := tierPage) (by decide +kernel) hctl (by rw [hmem]; exact test_records.2.2.2.2.1)
    (by rw [hmem]; exact test_pages_read.2.2.2.2)]
  rfl

/-- The chip in an 8 + 2 glove, and a delta of it for both parity seats. -/
def wideG : Glove :=
  { glove with g := { group with n := 8, m := 2, place := placeTab 8, placeInv := invBytes (placeTab 8)
                                 shape := shapeBytes 0x53474450 32 8 2 4 (List.replicate 8 12) (List.replicate 8 0)
                                 shapeInv := invBytes (shapeBytes 0x53474450 32 8 2 4 (List.replicate 8 12) (List.replicate 8 0)) } }
def wideD : Delta :=
  { ctx := 1, inst := 0, member := 0, palm := 0, bytes := zeroPage, tauOld := 0, step := 5, form := false, seats := [0, 1] }
def chipW : State := { chipG { K with glove := some wideG } with deltas := [wideD] }

/-- A FORM collective of which this chip is gatherer, or of which seat 1 is. -/
def coll (gatherer : Nat) : Coll :=
  { key := { ctx := 1, step := 0, glove := 7, phase := phForm }, group := 7, me := 0, gatherer := gatherer
    parts := (List.range 4).map (fun i => (i, seat i)), acceptedAt := 0, timeout := 20000000, record := [], recs := [], sent := true
    cmd := nopCmd, detail := 255, lostBy := 3, place := [] }

/-- A message awaiting its answer. -/
def waiting (type : Nat) : Sent :=
  { id := 9, unit := 0, ctx := 1, member := 1, dst := seat 1, msg := mkWire type 0 1 7 0 [] [], first := 0, last := 0 }

/-- A full tile pool of one frame. -/
def fullPool : State :=
  { chip with regions := [plainR, { poolR with len := 0x40000 }, tierR]
              frames := [{ num := 0, state := .copying, region := 5, tile := 0, idleAt := 0 }] }

/-- It has no frame to give. -/
theorem no_frame : (fullPool.begin (ev 5000)).allocFrame 5 2 = none := by
  have h : (fullPool.begin (ev 5000)).pickFrame = none := by
    unfold State.pickFrame
    simp only [show (fullPool.begin (ev 5000)).poolFrames = 1 by decide +kernel, Nat.mod_one]
    decide +kernel
  unfold State.allocFrame
  simp only [h]
  rfl

/-- A message's CRC is that of its bytes (R116). -/
theorem seal_seal (w : Wire) : w.seal.seal.crc = w.seal.crc := rfl

/-- A message that carries a page is dropped or accepted as one with a single byte in its place: the CRC that it was given is its own. -/
theorem drop_page (s : State) (src : Coord) (w : Wire) (h : w.payload.isEmpty = false) :
    s.dropReason src w.seal = s.dropReason src (Wire.seal { w with payload := [0] }) := by
  have e1 : (w.seal.seal.crc != w.seal.crc) = false := bne_self_eq_false _
  have e2 : ((Wire.seal { w with payload := [0] }).seal.crc != (Wire.seal { w with payload := [0] }).crc) = false := bne_self_eq_false _
  have e3 : w.seal.legal = (Wire.seal { w with payload := [0] }).legal := by
    unfold Wire.legal
    rw [show w.seal.payload.isEmpty = (Wire.seal { w with payload := [0] }).payload.isEmpty from h]
    rfl
  unfold State.dropReason
  rw [e1, e2, e3]
  rfl


theorem test_meets_FusesChangeOnlyBySealSet :
    ∃ (c : Instr) (s t : State), c.mayFuse = false ∧ exec c s = .next t :=
  ⟨.wordCeWindow (ev 5000), chip, after (.wordCeWindow (ev 5000)) chip, rfl, rfl⟩

/-- A promotion that waits for a frame, and one to give it. -/
def waiter : Promo := { id := 1, holder := .direct 1, region := 5, tile := 2, deadline := 0, order := 0, shared := false }
def waits : State := { chip with promos := [waiter], tileRefs := [⟨.direct 1, 5, 2⟩] }

theorem test_meets_TileCommandsComplete_freed :
    ∃ (e : Ev) (p : Promo) (t s : State), (s.at e).waiters = [p] ∧ (s.at e).allocFrame p.region p.tile = some t ∧ t.waiters = [] :=
  ⟨ev 5000, waiter, ((waits.at (ev 5000)).allocFrame 5 2).get (by decide +kernel), waits, by decide +kernel, (Option.some_get _).symm,
   by decide +kernel⟩

theorem test_meets_WriteThenReadByte :
    (∃ (m : Mem) (a b : Nat) (d : List Byte), m.wf = true ∧ d.length = 4096 ∧ b = a + d.length) ∧ ∃ n i : Nat, i < n ∧ n = i + 1 :=
  ⟨⟨chip.mem, 0, 4096, page0, by decide +kernel, by decide +kernel, by decide +kernel⟩, 1, 0, by decide, rfl⟩

/-- A command's first capture in a unit: its mark is the unit's SEQ. -/
theorem test_first_capture_of_a_command : ∃ (s : State) (u : Nat), u ≤ 16 ∧ s.mark u = (s.faultsOf u).seq :=
  ⟨chip.at (ev 5000), 15, by decide, by decide +kernel⟩

/-- A first-fault capture that the command itself filled, and one from before it. -/
theorem test_first_fault_of_a_command :
    (∃ (s : State) (x : Capture), (s.faultsOf 16).first = some x ∧ s.mark 16 ≤ x.seq ∧ x.seq < (s.faultsOf 16).seq) ∧
    (∃ (s : State) (x : Capture), (s.faultsOf 16).first = some x ∧ x.seq < s.mark 16) :=
  ⟨⟨(chip.at (ev 5000)).raise 16 25 1 2, { code := 25, unit := 16, seq := 0, stamp := 5000, d0 := 1, d1 := 2 }, by decide +kernel⟩,
   ⟨((chip.at (ev 5000)).raise 16 25 1 2).at (ev 6000), { code := 25, unit := 16, seq := 0, stamp := 5000, d0 := 1, d1 := 2 },
    by decide +kernel⟩⟩

/-- A lower code raised later in the command stands before a higher one, in the log and in the first-fault capture (R504, R505). -/
theorem test_captures_of_a_command_ascend :
    let f := (((chip.at (ev 5000)).raise 16 25 1 2).raise 16 9 3 4).faultsOf 16
    f.log = [(0, { code := 9, unit := 16, seq := 0, stamp := 5000, d0 := 3, d1 := 4 }),
             (1, { code := 25, unit := 16, seq := 1, stamp := 5000, d0 := 1, d1 := 2 })] ∧
      f.first = some { code := 9, unit := 16, seq := 0, stamp := 5000, d0 := 3, d1 := 4 } ∧ f.seq = 2 := by decide +kernel
/-! ### Operands that meet each statement's hypotheses, clause by clause -/

theorem test_meets_StepRunsFrontCommand :
    ∃ (s : State) (c : Instr) (rest : List Instr),
      s.pending = c :: rest :=
  ⟨{ chip with pending := [.clampRise (ev 5000)] }, .clampRise (ev 5000), [], by decide +kernel⟩

theorem test_meets_StepConsumesOneCommand_0 :
    ∃ (s : State) (t : State) (c : Instr) (rest : List Instr),
      s.pending = c :: rest ∧ step s = .next t :=
  ⟨{ chip with pending := [(.wordCeWindow (ev 5000))] }, after (.wordCeWindow (ev 5000)) chip, (.wordCeWindow (ev 5000)), [], rfl, rfl⟩

theorem test_meets_StepConsumesOneCommand_1 :
    ∃ (s : State),
      s.pending = [] :=
  ⟨chip, by decide +kernel⟩

theorem test_meets_ClockAndOutputsNeverFallBack_0 :
    ∃ (c : Instr) (s : State) (t : State),
      (∀ e, c ≠ .bandAcquire e) ∧ exec c s = .next t :=
  ⟨(.wordCeWindow (ev 5000)), chip, after (.wordCeWindow (ev 5000)) chip, by simp, rfl⟩

theorem test_meets_ClockAndOutputsNeverFallBack_1 :
    ∃ (c : Instr) (s : State) (t : State),
      exec c s = .next t :=
  ⟨(.wordCeWindow (ev 5000)), chip, after (.wordCeWindow (ev 5000)) chip, rfl⟩

theorem test_meets_StepKeepsMemoryCanonical :
    ∃ (s : State) (t : State),
      s.mem.wf = true ∧ step s = .next t :=
  ⟨{ chip with pending := [(.wordCeWindow (ev 5000))] }, after (.wordCeWindow (ev 5000)) chip, by decide +kernel, rfl⟩

theorem test_meets_StepKeepsComplementPairs :
    ∃ (s : State) (t : State),
      s.pairsOk = true ∧ step s = .next t :=
  ⟨{ chip with pending := [(.wordCeWindow (ev 5000))] }, after (.wordCeWindow (ev 5000)) chip, by decide +kernel, rfl⟩

theorem test_meets_QuietEventEnds :
    ∃ (s : State),
      s.quiet = true :=
  ⟨chip, by decide +kernel⟩

theorem test_meets_StoredPageReadsBack :
    ∃ (s : State) (k : Nat) (d : List Byte),
      s.mem.wf = true ∧ s.ev.lane = none ∧ d.length = 4096 ∧ s.codingStopped k = false :=
  ⟨chip, 0, page0, by decide +kernel⟩

theorem test_meets_PageCodeCorrectsAnyByte :
    ∃ (d : List Byte) (row : Nat) (col : Nat) (e : Byte),
      d.length = 4096 ∧ row < 130 ∧ col < 32 ∧ e ≠ 0 :=
  ⟨page0, 129, 31, 0xFF, by decide +kernel⟩

theorem test_meets_DeltaFoldEqualsNewParity :
    ∃ (k : Nat) (d : Nat),
      d < k :=
  ⟨1, 0, by decide +kernel⟩

theorem test_meets_LostByteRebuilds :
    ∃ (k : Nat) (j : Nat) (x : Nat),
      k ≤ 31 ∧ j < 4 ∧ x < k :=
  ⟨31, 3, 30, by decide +kernel⟩

theorem test_meets_ParitySeatPlace :
    ∃ (q : Nat) (m : Nat) (j : Nat),
      2 ≤ q ∧ 1 ≤ m ∧ j < m :=
  ⟨2, 4, 3, by decide +kernel⟩

theorem test_meets_LayoutPlacesEachStitchOnce_0 :
    ∃ (q : Nat) (m : Nat) (j : Nat),
      2 ≤ q ∧ 1 ≤ m ∧ j < m :=
  ⟨2, 4, 3, by decide +kernel⟩

theorem test_meets_LayoutPlacesEachStitchOnce_1 :
    ∃ (q : Nat) (m : Nat) (d : Nat),
      2 ≤ q ∧ 1 ≤ m ∧ d < q * m - m :=
  ⟨2, 4, 3, by decide +kernel⟩

theorem test_meets_LayoutPlacesEachStitchOnce_2 :
    ∃ (q : Nat) (m : Nat) (i : Nat),
      2 ≤ q ∧ 1 ≤ m ∧ i < q * m :=
  ⟨2, 4, 7, by decide +kernel⟩

theorem test_meets_LayoutPlacesEachStitchOnce_3 :
    ∃ (q : Nat) (m : Nat) (i : Nat),
      2 ≤ q ∧ 1 ≤ m ∧ i < q * m :=
  ⟨2, 4, 7, by decide +kernel⟩

theorem test_meets_LayoutPlacesEachStitchOnce_4 :
    ∃ (q : Nat) (m : Nat) (i : Nat) (s : Nat) (d : Nat) (p : Nat),
      2 ≤ q ∧ 1 ≤ m ∧ i < q * m ∧ roleOf (q * m) m i s = (.data d, p) :=
  ⟨2, 4, 7, 0, 3, 0, by decide +kernel⟩

theorem test_meets_RaiseSetsBitAndCaptures :
    ∃ (u : Nat),
      u ≤ 16 :=
  ⟨16, by decide +kernel⟩

theorem test_meets_CapturesOfOneCommandAscend :
    ∃ (s : State) (u : Nat),
      u ≤ 16 ∧
      let m := s.mark u
      let f := s.faultsOf u
      let old := f.since u m
      m + f.count m + 1 < 2 ^ 31 ∧ f.seq = m + f.count m ∧ f.count m < (if u < 16 then 16 else 64) ∧ old.length = f.count m ∧ old.Pairwise
        (fun x y => x.code ≤ y.code) :=
  ⟨(chip.at (ev 5000)).raise 16 25 1 2, 16, by decide +kernel⟩

theorem test_meets_ResetCommandsComplete :
    ∃ (s : State),
      s.cu.released = false :=
  ⟨State.reset, by decide +kernel⟩

def firmware1S : State :=
  { State.reset with cu := { Cu.reset with fw := { Cu.reset.fw with image := some [] } } }

theorem test_meets_FirmwareCommandsComplete_0 :
    ∃ (image : List Byte) (s : State),
      s.cu.released = true ∧ s.cu.fw.state = 0 ∧ s.cu.fw.image = none ∧ image.length = 262144 :=
  ⟨(List.replicate 262144 0), { State.reset with cu := { Cu.reset with released := true } }, rfl, rfl, rfl, List.length_replicate⟩

theorem test_meets_FirmwareCommandsComplete_1 :
    ∃ (image : List Byte) (s : State),
      s.cu.fw.state = 0 ∧ s.cu.fw.image = some image :=
  ⟨[], firmware1S, by decide +kernel⟩

theorem test_meets_FirmwareCommandsComplete_2 :
    ∃ (s : State),
      s.cu.fw.state = 2 :=
  ⟨chip, by decide +kernel⟩

theorem test_meets_FirmwareCommandsComplete_3 :
    ∃ (e : Ev) (s : State),
      s.cu.fw.state = 2 ∧ s.cu.fw.service + 10000000 ≤ Nat.max s.clock e.t :=
  ⟨ev 10000000, chip, by decide +kernel⟩

def controller0S : State :=
  { State.reset with cu := { Cu.reset with released := true }, inst := Vector.replicate 16 { Inst.reset with harvest := 0x0F } }

def controller3S : State :=
  { State.reset with cu := { Cu.reset with released := true },
                     inst := Vector.replicate 16 { Inst.reset with harvest := 0x0F, ready := true } }

theorem test_meets_ControllerCommandsComplete_0 :
    ∃ (e : Ev) (i : Fin 16) (lpddr : Bool) (pseudo : Bool) (s : State),
      (s.at e).awaitsCtrl i = true ∧ (s.inst[i]).lower = lpddr ∧ 4 ≤ (enabledLanes s.inst[i]).length ∧ (lpddr || pseudo) = true :=
  ⟨ev 5000, 15, false, true, controller0S, by decide +kernel⟩

theorem test_meets_ControllerCommandsComplete_1 :
    ∃ (e : Ev) (i : Fin 16) (lpddr : Bool) (s : State),
      (s.at e).awaitsCtrl i = true ∧ (s.inst[i]).lower ≠ lpddr :=
  ⟨ev 5000, 0, true, controller0S, by decide +kernel⟩

theorem test_meets_ControllerCommandsComplete_2 :
    ∃ (e : Ev) (i : Fin 16) (s : State),
      (s.at e).awaitsCtrl i = true ∧ (s.inst[i]).arraysAt + 100000000 ≤ Nat.max s.clock e.t :=
  ⟨ev 100000000, 0, controller0S, by decide +kernel⟩

theorem test_meets_ControllerCommandsComplete_3 :
    ∃ (i : Fin 16) (passed : BitVec 8) (encoded : List LaneRom) (s : State),
      (s.inst[i]).ready = true ∧ (s.inst[i]).active = false ∧ (s.inst[i]).test.cause = 0 ∧ 4 ≤ (enabledLanes s.inst[i]).length ∧ (∀ k ∈
        enabledLanes s.inst[i], passed.getLsbD k = true ∧ encoded[k]? = some romImage) :=
  ⟨0, 0x0F, List.replicate 4 romImage, controller3S, by decide +kernel⟩

theorem test_meets_BandCommandsComplete_0 :
    ∃ (s : State),
      (if s.cu.band.acquired then s.cu.band.fault = true else s.cu.released = true ∧ ∀ i : Fin 16, (s.inst[i]).trainedUp = true) :=
  ⟨{ chip with cu := { chip.cu with band := Cu.reset.band } }, by decide +kernel⟩

theorem test_meets_BandCommandsComplete_1 :
    ∃ (e : Ev) (s : State),
      let b := (s.at e).checkPairs.checkTs
      b.cu.band.acquired = true ∧ b.cu.band.fault = false :=
  ⟨ev 5000, chip, by decide +kernel⟩

theorem test_meets_BandCommandsComplete_2 :
    ∃ (e : Ev) (s : State),
      let b := (s.at e).checkPairs.checkTs
      b.cu.band.acquired = true ∧ b.cu.band.fault = false :=
  ⟨ev 5000, chip, by decide +kernel⟩

theorem test_meets_FabricCommandsComplete_0 :
    ∃ (e : Ev) (s : State),
      let b := s.begin e
      b.cu.fwFault = false :=
  ⟨ev 5000, chipG KG, by decide +kernel⟩

theorem test_meets_FabricCommandsComplete_1 :
    ∃ (e : Ev) (s : State),
      let b := s.begin e
      b.cu.fwFault = false :=
  ⟨ev 5000, chip, by decide +kernel⟩

def health1S : State :=
  { chip with
      cu := { chip.cu with hwarn := Vector.replicate 8 { level := true, since := 0, stuck := false, latch := false, edges := 0 } } }

def health3S : State :=
  { chip with
      cu := { chip.cu with hwarn := Vector.replicate 8 { level := false, since := 0, stuck := true, latch := false, edges := 0 } } }

theorem test_meets_HealthCommandsComplete_0 :
    ∃ (n : Fin 8) (s : State),
      (s.cu.hwarn[n]).level = false ∧ (s.cu.hwarn[n]).stuck = false ∧ s.cu.fwFault = false :=
  ⟨7, chip, by decide +kernel⟩

theorem test_meets_HealthCommandsComplete_1 :
    ∃ (n : Fin 8) (s : State),
      (s.cu.hwarn[n]).level = true :=
  ⟨7, health1S, by decide +kernel⟩

theorem test_meets_HealthCommandsComplete_2 :
    ∃ (e : Ev) (n : Fin 8) (s : State),
      (s.cu.hwarn[n]).level = true ∧ (s.cu.hwarn[n]).stuck = false ∧ (s.cu.hwarn[n]).since + 10000000000 ≤ Nat.max s.clock e.t :=
  ⟨ev 10000000000, 7, health1S, by decide +kernel⟩

theorem test_meets_HealthCommandsComplete_3 :
    ∃ (e : Ev) (n : Fin 8) (s : State),
      (s.cu.hwarn[n]).level = false ∧ (s.cu.hwarn[n]).stuck = true ∧ (s.cu.hwarn[n]).since + 1000000000 ≤ Nat.max s.clock e.t :=
  ⟨ev 1000000000, 7, health3S, by decide +kernel⟩

def power1S : State :=
  { chip with cu := { chip.cu with power := { chip.cu.power with clamp := true } } }

def power2S : State :=
  { chip with cu := { chip.cu with power := { chip.cu.power with grant := true } } }

def power3S : State :=
  { chip with cu := { chip.cu with power := { chip.cu.power with boostReq := true, grant := true, spans := [(0, 400000000)] } } }

def power4S : State :=
  { chip with cu := { chip.cu with power := { chip.cu.power with limited := true } } }

theorem test_meets_PowerCommandsComplete_0 :
    ∃ (s : State),
      s.cu.power.clamp = false :=
  ⟨chip, by decide +kernel⟩

theorem test_meets_PowerCommandsComplete_1 :
    ∃ (s : State),
      s.cu.power.clamp = true :=
  ⟨power1S, by decide +kernel⟩

theorem test_meets_PowerCommandsComplete_2 :
    ∃ (s : State),
      s.cu.power.grant = true :=
  ⟨power2S, by decide +kernel⟩

theorem test_meets_PowerCommandsComplete_3 :
    ∃ (e : Ev) (s : State),
      s.cu.power.limited = false ∧ 400000 ≤ (s.at e).peakUsed :=
  ⟨ev 400000000, power3S, by decide +kernel⟩

theorem test_meets_PowerCommandsComplete_4 :
    ∃ (e : Ev) (s : State),
      s.cu.power.limited = true ∧ (s.at e).peakUsed ≤ 300000 :=
  ⟨ev 400000, power4S, by decide +kernel⟩

theorem test_meets_DebugCommandsComplete_0 :
    ∃ (e : Ev) (i : Fin 16) (s : State),
      ((s.at e).mapsOn i = false ∨ (s.inst[i]).inBypass = true) :=
  ⟨ev 5000, 15, State.reset, by decide +kernel⟩

theorem test_meets_DebugCommandsComplete_1 :
    ∃ (e : Ev) (i : Fin 16) (s : State),
      (s.at e).mapsOn i = true ∧ (s.inst[i]).inBypass = false :=
  ⟨ev 5000, 0, chip, by decide +kernel⟩

theorem test_meets_DebugCommandsComplete_2 :
    ∃ (s : State),
      s.coded = [] :=
  ⟨State.reset, by decide +kernel⟩

theorem test_meets_DebugCommandsComplete_3 :
    ∃ (s : State),
      s.coded ≠ [] :=
  ⟨chip, by decide +kernel⟩

def faultRegister4S : State :=
  { chip with inst := chip.inst.set 15 { chip.inst[15] with test := { chip.inst[15].test with running := true } } }

theorem test_meets_FaultRegisterCommandsComplete_0 :
    ∃ (u : Fin 17) (s : State),
      (u.val < 16 → (s.inst[instIdx u.val]).test.running = false) :=
  ⟨0, chip, by decide +kernel⟩

theorem test_meets_FaultRegisterCommandsComplete_1 :
    ∃ (u : Fin 17) (s : State),
      (u.val < 16 → (s.inst[instIdx u.val]).test.running = false) :=
  ⟨15, chip, by decide +kernel⟩

theorem test_meets_FaultRegisterCommandsComplete_2 :
    ∃ (u : Fin 17) (b : Nat) (s : State),
      (u.val < 16 → (s.inst[instIdx u.val]).test.running = false) ∧ b < 34 ∧ raisable u.val b = true :=
  ⟨16, 33, chip, by decide +kernel⟩

theorem test_meets_FaultRegisterCommandsComplete_3 :
    ∃ (u : Fin 17) (s : State),
      (u.val < 16 → (s.inst[instIdx u.val]).test.running = false) :=
  ⟨16, chip, by decide +kernel⟩

theorem test_meets_FaultRegisterCommandsComplete_4 :
    ∃ (u : Fin 17) (s : State),
      let i := instIdx u.val
      u.val < 16 ∧ (s.inst[i]).test.running = true :=
  ⟨15, faultRegister4S, by decide +kernel⟩

def enable1S : State :=
  { chip with inst := chip.inst.set 0 { unit false with lanes := (Vector.replicate 8 lane).set 7 { lane with en := .off } } }

def enable3S : State :=
  { chip with inst := chip.inst.set 0 { unit false with en := .off } }

theorem test_meets_EnableCommandsComplete_0 :
    ∃ (e : Ev) (i : Fin 16) (k : Fin 8) (s : State),
      let x := s.inst[i]
      x.test.running = false ∧ x.active = true ∧ s.heldRegs = [] ∧ (x.lanes[k]).en = .on ∧ (s.at e).enableRefused i ((s.at e).enableWith i
        k.val false) = false :=
  ⟨ev 5000, 0, 7, chip, by decide +kernel⟩

theorem test_meets_EnableCommandsComplete_1 :
    ∃ (e : Ev) (i : Fin 16) (k : Fin 8) (s : State),
      let x := s.inst[i]
      x.test.running = false ∧ x.active = true ∧ s.heldRegs = [] ∧ ((x.lanes[k]).en = .off ∨ (x.lanes[k]).en = .stopping) ∧ (s.at
        e).enableRefused i ((s.at e).enableWith i k.val true) = false :=
  ⟨ev 5000, 0, 7, enable1S, by decide +kernel⟩

theorem test_meets_EnableCommandsComplete_2 :
    ∃ (e : Ev) (i : Fin 16) (s : State),
      let x := s.inst[i]
      x.test.running = false ∧ x.active = true ∧ s.heldRegs = [] ∧ x.en = .on ∧ (s.at e).enableRefused i ((s.at e).enableWith i 8 false) =
        false :=
  ⟨ev 5000, 0, { chip with regions := [], mem := State.reset.mem }, by decide +kernel⟩

theorem test_meets_EnableCommandsComplete_3 :
    ∃ (e : Ev) (i : Fin 16) (s : State),
      let x := s.inst[i]
      x.test.running = false ∧ x.active = true ∧ s.heldRegs = [] ∧ x.en = .off ∧ (s.at e).enableRefused i ((s.at e).enableWith i 8 true) =
        false :=
  ⟨ev 5000, 0, enable3S, by decide +kernel⟩

theorem test_meets_EnableCommandsComplete_4 :
    ∃ (i : Fin 16) (s : State),
      s.tracked i = 0 :=
  ⟨15, chip, by decide +kernel⟩

theorem test_meets_HandleAndPairCommandsComplete_0 :
    ∃ (h : Fin 4096) (w : Fin 4) (v : Word) (s : State),
      let x := s.handle h.val
      x.valid = false ∧ (w = 1 → v.toNat % 2 ^ 48 ≤ 2 ^ 37) ∧ (w = 0 → v.getLsbD 63 = true → x.keyInv = ~~~x.key) :=
  ⟨4095, 0, 0, chip, by decide +kernel⟩

theorem test_meets_HandleAndPairCommandsComplete_1 :
    ∃ (e : Ev) (b : Fin 4) (k : Coded) (s : State),
      let u := (s.at e).crownsDue
      Tab.get u.coded b.val = some k ∧ (∀ r, k.ownCuff = some r → cuffOk r = true) :=
  ⟨ev 5000, 0, K, chip, by decide +kernel⟩

theorem test_meets_HandleAndPairCommandsComplete_2 :
    ∃ (e : Ev) (off : Nat) (s : State),
      let u := (s.at e).crownsDue
      u.pairBroken off = none :=
  ⟨ev 5000, 0x1008, chip, by decide +kernel⟩

theorem test_meets_HandleAndPairCommandsComplete_3 :
    ∃ (e : Ev) (b : Fin 4) (k : Coded) (s : State),
      let u := (s.at e).crownsDue
      Tab.get u.coded b.val = some k ∧ k.cInv ≠ ~~~k.c :=
  ⟨ev 5000, 3, { K with cInv := 0 }, { chip with coded := [(3, { K with cInv := 0 })] }, by decide +kernel⟩

theorem test_meets_RegisterWriteCommandsComplete_0 :
    ∃ (off : Nat),
      (off = 0x1800 ∨ off = 0x1808 ∨ off = 0x1810) :=
  ⟨0x1810, by decide +kernel⟩

theorem test_meets_RegisterWriteCommandsComplete_1 :
    ∃ (off : Nat),
      off < 0x40000 :=
  ⟨0x3FFFF, by decide +kernel⟩

theorem test_meets_RegisterWriteCommandsComplete_2 :
    ∃ (v : Word) (s : State),
      s.cu.released = true ∧ 1000000 ≤ v.toNat % 2 ^ 30 ∧ v.toNat % 2 ^ 30 ≤ 1000000000 :=
  ⟨1000000, chip, by decide +kernel⟩

theorem test_meets_RegisterWriteCommandsComplete_3 :
    ∃ (v : Word) (s : State),
      s.cu.released = true ∧ (v.toNat % 2 ^ 30 < 1000000 ∨ 1000000000 < v.toNat % 2 ^ 30) :=
  ⟨999999, chip, by decide +kernel⟩

theorem test_meets_RegisterWriteCommandsComplete_4 :
    ∃ (s : State),
      s.cu.released = true :=
  ⟨chip, by decide +kernel⟩

theorem test_meets_RegisterWriteCommandsComplete_5 :
    ∃ (off : Nat) (s : State),
      s.cu.released = true ∧ 0x140000 ≤ off ∧ off % 8 = 0 :=
  ⟨0x140000, chip, by decide +kernel⟩

def network0R : Req :=
  { id := 1, src := 4, ctx := 1, tag := 0, final := false, lower := false, addr := 0x30FFF, len := 2, data := [] }

def network1R : Req :=
  { id := 1, src := 4, ctx := 1, tag := 0, final := false, lower := false, addr := 0x30FFF, len := 1, data := [] }

def network2R : Req :=
  { id := 1, src := 4, ctx := 1, tag := 0, final := false, lower := false, addr := 0x5FFF8, len := 8, data := List.replicate 8 0xFF }

def network3R : Req :=
  { id := 1, src := 5, ctx := 1, tag := 0, final := false, lower := false, addr := 0x30000, len := 64, data := [] }

def network4R : Req :=
  { id := 1, src := 5, ctx := 1, tag := 0, final := false, lower := false, addr := 0x30000, len := 64, data := [1] }

theorem test_meets_NetworkCommandsComplete_0 :
    ∃ (e : Ev) (r : Req) (g : Region) (s : State),
      let q : Req := { r with id := r.id % 2 ^ 64 }
      let b := (s.at e).checkPairs.checkTs.crownsDue.countGuard q
      r.src ≤ 4 ∧ b.regionAt r.lower r.addr = some g ∧ rangeWhole g r.addr r.len = true ∧ ctxAllowed g r.src r.ctx false = true ∧
        (rangeParts r.lower r.addr r.len).all (fun p => b.mayRead g p.1 r.src r.ctx) = true ∧ b.firstBlock g (rangeParts r.lower r.addr
        r.len) false = none :=
  ⟨ev 5000, network0R, passR, chip, by decide +kernel⟩

theorem test_meets_NetworkCommandsComplete_1 :
    ∃ (e : Ev) (r : Req) (g : Region) (s : State),
      let b := (s.at e).checkPairs.checkTs.crownsDue
      r.src ≤ 4 ∧ b.regionAt r.lower r.addr = some g ∧ g.kind = .pass ∧ g.fill = none ∧ r.addr + r.len ≤ g.base + g.len ∧ ctxAllowed g
        r.src r.ctx false = true ∧ 0 < r.len ∧ r.addr % 4096 + r.len ≤ 4096 ∧ b.ev.ctl = [] :=
  ⟨ev 5000, network1R, passR, chip, by decide +kernel⟩

theorem test_meets_NetworkCommandsComplete_2 :
    ∃ (e : Ev) (r : Req) (g : Region) (s : State),
      let b := (s.at e).checkPairs.checkTs
      b.updateStopped r = false ∧ r.src ≤ 4 ∧ r.src ≠ 3 ∧ b.regionAt r.lower r.addr = some g ∧ g.kind = .pass ∧ g.fill = none ∧ r.final =
        false ∧ r.addr + r.data.length ≤ g.base + g.len ∧ ctxAllowed g r.src r.ctx true = true ∧ 0 < r.data.length ∧ r.addr % 4096 +
        r.data.length ≤ 4096 :=
  ⟨ev 5000, network2R, passR, chip, by decide +kernel⟩

theorem test_meets_NetworkCommandsComplete_3 :
    ∃ (e : Ev) (r : Req) (s : State),
      let b := (s.at e).checkPairs.checkTs.crownsDue
      (4 < r.src ∨ b.regionAt r.lower r.addr = none) :=
  ⟨ev 5000, network3R, chip, by decide +kernel⟩

theorem test_meets_NetworkCommandsComplete_4 :
    ∃ (e : Ev) (r : Req) (s : State),
      let b := (s.at e).checkPairs.checkTs
      (4 < r.src ∨ b.regionAt r.lower r.addr = none) :=
  ⟨ev 5000, network4R, chip, by decide +kernel⟩

def update0R : Req :=
  { id := 1, src := 1, ctx := 1, tag := 0, final := false, lower := false, addr := 0x6BFF0, len := 16, data := [] }

def update1P : Pair :=
  { ctx := 1, region := 3, idx := 11, tag := 0, old := zeroPage, cur := zeroPage, cover := 0 }

def update1R : Req :=
  { id := 1, src := 1, ctx := 1, tag := 0, final := false, lower := false, addr := 0x6BFF0, len := 16, data := List.replicate 16 0xFF }

def update1S : State :=
  { chipG { KG with phase := .opened, s := 6, sInv := ~~~6 } with pairs := [update1P] }

theorem test_meets_UpdateCommandsComplete_0 :
    ∃ (e : Ev) (r : Req) (g : Region) (idx : Nat) (s : State),
      let b := (s.at e).checkPairs.checkTs.crownsDue
      let k := g.handKey idx false
      r.src = 1 ∧ b.regionAt r.lower r.addr = some g ∧ g.kind = .state ∧ g.lower = r.lower ∧ g.lower = false ∧ g.len % 4096 = 0 ∧ g.base %
        4096 = 0 ∧ idx < g.len / 4096 ∧ k < 2 ^ 51 ∧ g.fill = none ∧ r.ctx = g.owner ∧ r.addr / 4096 = g.base / 4096 + idx ∧ 0 < r.len ∧
        r.addr % 4096 + r.len ≤ 4096 ∧ b.stepOpen g.owner = true ∧ b.inGuard g.owner = false ∧ (b.inst[keyInst k]).test.running = false ∧
        b.stitch g.num idx = Stitch.mapped ∧ Tab.get b.mem.recs k = none ∧ b.ev.ctl = [] :=
  ⟨ev 5000, update0R, stateR, 11, chipG { KG with phase := .opened, s := 6, sInv := ~~~6 }, by decide +kernel⟩

theorem test_meets_UpdateCommandsComplete_1 :
    ∃ (e : Ev) (r : Req) (g : Region) (idx : Nat) (p : Pair) (s : State),
      let b := (s.at e).checkPairs.checkTs
      let k := g.handKey idx false
      r.src = 1 ∧ (∀ x, b.codedOf g.owner = some x → x.portInv = ~~~x.port) ∧ b.regionAt r.lower r.addr = some g ∧ g.kind = .state ∧
        g.lower = r.lower ∧ g.lower = false ∧ g.len % 4096 = 0 ∧ g.base % 4096 = 0 ∧ idx < g.len / 4096 ∧ k < 2 ^ 51 ∧ g.fill = none ∧
        r.ctx = g.owner ∧ r.final = false ∧ r.addr / 4096 = g.base / 4096 + idx ∧ 0 < r.data.length ∧ r.data.length < 4096 ∧ r.addr % 4096
        + r.data.length ≤ 4096 ∧ b.stepOpen g.owner = true ∧ b.cu.evac = false ∧ b.cu.fwFault = false ∧ (b.inst[keyInst k]).test.running =
        false ∧ b.stitch g.num idx = Stitch.mapped ∧ b.pairs = [p] ∧ p.region = g.num ∧ p.idx = idx ∧ p.tag = r.tag ∧ p.cover = 0 ∧
        b.mem.merge = [] :=
  ⟨ev 5000, update1R, stateR, 11, update1P, update1S, by decide +kernel⟩

theorem test_meets_UpdateCommandsComplete_2 :
    ∃ (e : Ev) (r : Req) (g : Region) (k : Coded) (s : State),
      let b := ((s.at e).checkPairs.checkTs).checkPort r.ctx
      r.src = 1 ∧ b.regionAt r.lower r.addr = some g ∧ g.owner = r.ctx ∧ b.codedOf r.ctx = some k ∧ k.portInv ≠ ~~~k.port :=
  ⟨ev 5000, update1R, stateR, { K with portInv := 0, stopped := true, found := [3] }, { chip with
        coded := [(3, { K with portInv := 0 })] }, by decide +kernel⟩

def deferredMemory0H : Held :=
  { req := { id := 1, src := 1, ctx := 1, tag := 0, final := false, lower := false, addr := 0x60000, len := 4096, data := zeroPage },
    write := true, why := .pairing 0 }

def deferredMemory0S : State :=
  { chip with heldReqs := [deferredMemory0H] }

def deferredMemory1S : State :=
  { chip with tierFolds := [{ page := tierKey, delta := [1], reqs := [9] }] }

def deferredMemory2S : State :=
  { chip with mem := { chip.mem with merge := [{ page := 0, bytes := [(0, 1)], last := 4000, waiting := [] }] } }

theorem test_meets_DeferredMemoryCommandsComplete_0 :
    ∃ (e : Ev) (i : Fin 16) (h : Held) (s : State),
      let b := (s.at e).checkPairs.checkTs
      let mine := fun (h : Held) => h.why == .pairing i.val
      b.heldReqs.find? mine = some h ∧ (b.roomForPair i).isSome = true :=
  ⟨ev 5000, 0, deferredMemory0H, deferredMemory0S, by decide +kernel⟩

theorem test_meets_DeferredMemoryCommandsComplete_1 :
    ∃ (e : Ev) (i : Fin 16) (f : TierFold) (d : List Byte) (u : State) (s : State),
      let b := (s.at e).checkPairs.checkTs
      (b.inst[i]).test.running = false ∧ b.tierFolds.find? (fun f => decide (keyInst f.page = i)) = some f ∧ State.rawTier { b with
          tierFolds := delFirst (fun f => decide (keyInst f.page = i)) b.tierFolds } f.page = (u, some d) :=
  ⟨ev 5000, 15, { page := tierKey, delta := [1], reqs := [9] }, tierPage, _, deferredMemory1S, by decide +kernel, by decide +kernel,
    raw_tier (by decide +kernel) rfl rfl rfl rfl⟩

theorem test_meets_DeferredMemoryCommandsComplete_2 :
    ∃ (e : Ev) (page : Nat) (m : Merge) (s : State),
      let b := (s.at e).checkPairs.checkTs
      b.mergeOf page = some m ∧ m.last + 1000 ≤ b.now :=
  ⟨ev 5000, 0, { page := 0, bytes := [(0, 1)], last := 4000, waiting := [] }, deferredMemory2S, by decide +kernel⟩

def remote0R : Req :=
  { id := 1, src := 2, ctx := 1, tag := 0, final := false, lower := false, addr := 4080, len := 16, data := [] }

def remote0S : State :=
  { chip with
      cu := { chip.cu with handles := [(4095, { attr := 0xB001000000000001, target := 0x0009000000001000, key := 5, keyInv := ~~~5 })] } }

def remote1S : State :=
  { chip with regions := [{ passR with key := 5, keyInv := ~~~5 }] }

def remote1Op : RemoteOp :=
  { id := 3, src := seat 1, write := false, region := 2, off := 0x2FFF0, len := 16, key := 5, data := [] }

def remote2Op : RemoteOp :=
  { id := 3, src := seat 1, write := false, region := 2, off := 0x2FFF0, len := 16, key := 6, data := [] }

def remote3X : Remote :=
  { id := 9, handle := 4095, write := false, off := 0,
    req := { id := 1, src := 4, ctx := 1, tag := 0, final := false, lower := false, addr := 0x30000, len := 64, data := [] }, at' := 0 }

def remote3S : State :=
  { chip with remotes := [remote3X] }

theorem test_meets_RemoteCommandsComplete_0 :
    ∃ (e : Ev) (h : Fin 4096) (r : Req) (s : State),
      let b := s.at e
      let q : Req := { r with id := r.id % 2 ^ 64 }
      let x := s.handle h.val
      b.remoteRefused x q (!r.data.isEmpty) = false ∧ x.keyInv = ~~~x.key :=
  ⟨ev 5000, 4095, remote0R, remote0S, by decide +kernel⟩

theorem test_meets_RemoteCommandsComplete_1 :
    ∃ (e : Ev) (op : RemoteOp) (g : Region) (s : State),
      let b := (s.at e).checkPairs.checkTs
      b.region? op.region = some g ∧ g.keyInv = ~~~g.key ∧ g.key ≠ 0 ∧ g.key = op.key ∧ b.remoteDenied op g = false :=
  ⟨ev 5000, remote1Op, { passR with key := 5, keyInv := ~~~5 }, remote1S, by decide +kernel⟩

theorem test_meets_RemoteCommandsComplete_2 :
    ∃ (e : Ev) (op : RemoteOp) (g : Region) (s : State),
      let b := (s.at e).checkPairs.checkTs
      b.region? op.region = some g ∧ g.keyInv = ~~~g.key ∧ (g.key = 0 ∨ g.key ≠ op.key) :=
  ⟨ev 5000, remote2Op, { passR with key := 5, keyInv := ~~~5 }, remote1S, by decide +kernel⟩

theorem test_meets_RemoteCommandsComplete_3 :
    ∃ (id : Nat) (x : Remote) (s : State),
      s.remoteOf id = some x :=
  ⟨9, remote3X, remote3S, by decide +kernel⟩

theorem test_meets_RemoteCommandsComplete_4 :
    ∃ (e : Ev) (id : Nat) (x : Remote) (s : State),
      s.remoteOf id = some x ∧ x.at' + 2000000 ≤ (s.at e).now :=
  ⟨ev 2000000, 9, remote3X, remote3S, by decide +kernel⟩

def ring1S : State :=
  { chip with cu := { chip.cu with ringTable := 0x3080, ringOwner := 1, ringValid := true } }

def ring2R : Ring :=
  { base := 0x3000, cqBase := 0x4000, tail := 2, head := 0, cqHead := 0, posted := 0, log2 := 6, owner := 1, enable := true, priv := true,
    fenceLo := 0, fenceHi := 8191, fetched := none, stalled := false }

def ring2S : State :=
  { chip with rings := [(0, ring2R)] }

def ring3R : Ring :=
  { base := 0x3000, cqBase := 0x4000, tail := 2, head := 1, cqHead := 0, posted := 0, log2 := 6, owner := 1, enable := true, priv := true,
    fenceLo := 0, fenceHi := 8191, fetched := none, stalled := false }

def ring3S : State :=
  { chip with rings := [(0, ring3R)] }

def ring4R : Ring :=
  { base := 0x3000, cqBase := 0x4000, tail := 2, head := 0, cqHead := 0, posted := 0, log2 := 6, owner := 1, enable := true, priv := true,
    fenceLo := 0, fenceHi := 8191, fetched := some nopCmd, stalled := false }

def ring4S : State :=
  { chip with rings := [(0, ring4R)] }

def ring5P : Pend :=
  { cmd := (cmd 0x03 4 [(16, 8, 0x600000), (24, 8, 0x1000)]), job := .deferred, at' := 0, second := true }

def ring5S : State :=
  { chip with pends := [ring5P] }

theorem test_meets_RingCommandsComplete_0 :
    ∃ (s : State),
      s.cu.released = true ∧ s.cu.started = false :=
  ⟨{ State.reset with cu := { Cu.reset with released := true } }, by decide +kernel⟩

theorem test_meets_RingCommandsComplete_1 :
    ∃ (e : Ev) (v : Word) (d : List Byte) (u : State) (s : State),
      s.cu.released = true ∧ s.commandsRun = true ∧ s.cu.doorbells = [] ∧ Tab.get s.rings (v.toNat % 65536) = none ∧ (s.at e).readDesc
        (v.toNat % 65536) = (u, some d) ∧ u.descOk d (field d 0x14 4) (field d 0x1C 4) = true :=
  ⟨ev 5000, 0, slice page3 128 64, _, ring1S, by decide +kernel, by decide +kernel, by decide +kernel, by decide +kernel, (if_pos
    (by decide +kernel)).trans (read_plain (s := State.at ({ chip with
              cu := { chip.cu with ringTable := 0x3080, ringOwner := 1, ringValid := true } }) (ev 5000)) (a := 0x3080) (n := 64) (k := 3)
    (o := 128) rfl rfl (by decide +kernel) (by decide +kernel) test_pages_read.2.2.2.1 test_records.2.2.2.1 (by decide +kernel)),
    by decide +kernel⟩

theorem test_meets_RingCommandsComplete_2 :
    ∃ (e : Ev) (ring : Nat) (r : Ring) (bytes : List Byte) (u : State) (s : State),
      Tab.get s.rings ring = some r ∧ s.commandsRun = true ∧ r.enable = true ∧ r.stalled = false ∧ r.fetched = none ∧ r.head ≠ r.tail ∧
        inService s.inst[instIdx (ring / 4096)] = true ∧ (s.at e).ringRoom ring r = true ∧ (s.at e).padunRead (r.base + 64 * (r.head % 2 ^
        r.log2)) 64 r.owner = (u, some bytes) ∧
      let c : Cmd := { ring := ring, count := r.head, bytes := bytes }
      r.fetchFault c = none :=
  ⟨ev 5000, 0, ring2R, slice page3 0 64, _, ring2S, by decide +kernel, by decide +kernel, by decide +kernel, by decide +kernel,
    by decide +kernel, by decide +kernel, by decide +kernel, by decide +kernel, (read_plain (a := 0x3000) (n := 64) (k := 3) (o := 0) rfl
    rfl (by decide +kernel) (by decide +kernel) test_pages_read.2.2.2.1 test_records.2.2.2.1 (by decide +kernel)), by decide +kernel⟩

theorem test_meets_RingCommandsComplete_3 :
    ∃ (e : Ev) (ring : Nat) (r : Ring) (bytes : List Byte) (u : State) (s : State),
      Tab.get s.rings ring = some r ∧ s.commandsRun = true ∧ r.enable = true ∧ r.stalled = false ∧ r.fetched = none ∧ r.head ≠ r.tail ∧
        inService s.inst[instIdx (ring / 4096)] = true ∧ (s.at e).ringRoom ring r = true ∧ (s.at e).padunRead (r.base + 64 * (r.head % 2 ^
        r.log2)) 64 r.owner = (u, some bytes) ∧
      let c : Cmd := { ring := ring, count := r.head, bytes := bytes }
      c.crcOk = false :=
  ⟨ev 5000, 0, ring3R, slice page3 64 64, _, ring3S, by decide +kernel, by decide +kernel, by decide +kernel, by decide +kernel,
    by decide +kernel, by decide +kernel, by decide +kernel, by decide +kernel, (read_plain (a := 0x3040) (n := 64) (k := 3) (o := 64) rfl
    rfl (by decide +kernel) (by decide +kernel) test_pages_read.2.2.2.1 test_records.2.2.2.1 (by decide +kernel)), by decide +kernel⟩

theorem test_meets_RingCommandsComplete_4 :
    ∃ (e : Ev) (ring : Nat) (r : Ring) (c : Cmd) (s : State),
      let b := s.begin e
      Tab.get b.rings ring = some r ∧ r.fetched = some c ∧ b.commandsRun = true ∧ (c.waits = true → b.fenceSet c.waitFence = true) ∧
        (c.barrier = true → ∀ p ∈ b.pends, p.cmd.ring ≠ c.ring) ∧ (needsTransfer c = true → b.tracked (instIdx (c.ring / 4096)) <
        Config.trackedMax) :=
  ⟨ev 5000, 0, ring4R, nopCmd, ring4S, by decide +kernel⟩

theorem test_meets_RingCommandsComplete_5 :
    ∃ (e : Ev) (ring : Nat) (count : Nat) (p : Pend) (s : State),
      let b := s.begin e
      b.pends.find? (fun p => p.cmd.ring == ring && p.cmd.count == count && p.job == .deferred) = some p ∧ b.cu.fwFault = false ∧
        b.cu.debugHalted = false ∧ b.shutting p.cmd = false :=
  ⟨ev 5000, 0, 0, ring5P, ring5S, by decide +kernel⟩

theorem test_meets_RingCommandsComplete_6 :
    ∃ (s : State) (c : Cmd),
      (s.cu.fwFault && cuScope c) = false :=
  ⟨chip, nopCmd, by decide +kernel⟩

theorem test_meets_RingCommandsComplete_7 :
    ∃ (s : State) (c : Cmd),
      s.cu.fwFault = true ∧ cuScope c = true :=
  ⟨{ chip with cu := { chip.cu with fwFault := true } }, (cmd 0x20 0 []), by decide +kernel⟩

theorem test_meets_ContextCommandsComplete_0 :
    ∃ (e : Ev) (c : Cmd) (s : State),
      let b := s.begin e
      b.rowTakes c 0x01 true = true ∧ (∀ p ∈ b.pends, p.job = .deferred → p.cmd.opcode = 1 → p.cmd.ctx ≠ c.ctx) ∧ Tab.get b.ctxs c.ctx =
        none ∧ c.modeBit 0 = false ∧ c.u64 16 = 0 ∧ c.u64 24 = 0 ∧ c.u64 32 = 0 :=
  ⟨ev 5000, (cmd 0x01 0 []), { chip with ctxs := [], coded := [], regions := [] }, by decide +kernel⟩

theorem test_meets_ContextCommandsComplete_1 :
    ∃ (e : Ev) (c : Cmd) (block : Nat) (s : State),
      let b := s.begin e
      b.rowTakes c 0x01 true = true ∧ (∀ p ∈ b.pends, p.job = .deferred → p.cmd.opcode = 1 → p.cmd.ctx ≠ c.ctx) ∧ Tab.get b.ctxs c.ctx =
        none ∧ c.modeBit 0 = true ∧ b.freeBlock = some block ∧ c.u64 32 < 2 ^ 56 :=
  ⟨ev 5000, (cmd 0x01 1 [(16, 8, 0x77), (32, 8, 0xFFFFFFFFFFFFFF)]), 0, { chip with ctxs := [], coded := [], regions := [] },
    by decide +kernel⟩

theorem test_meets_ContextCommandsComplete_2 :
    ∃ (e : Ev) (c : Cmd) (x : Ctx) (s : State),
      let b := s.begin e
      b.rowTakes c 0x02 true = true ∧ Tab.get b.ctxs c.ctx = some x ∧ x.closing = false ∧ b.gloveOf c.ctx = none ∧ b.ctxBusy c.ctx = false :=
  ⟨ev 5000, (cmd 0x02 0 []), { closing := false, coded := true, upper := 100, lowerQ := 100 }, chip, by decide +kernel⟩

def region3R : Region :=
  { plainR with fill := some { pattern := 5, todo := [16, 20], written := 0 } }

def region3S : State :=
  { chip with regions := [region3R] }

theorem test_meets_RegionCommandsComplete_0 :
    ∃ (e : Ev) (c : Cmd) (kind : Kind) (n : Nat) (s : State),
      let b := s.begin e
      let r := mapRequest c kind 0
      b.rowTakes c 0x03 true = true ∧ b.mapAgain c = false ∧ b.unmappingUnder c = [] ∧ b.ctxOpen c.ctx = true ∧ kindOf (c.mode % 8) = some
        kind ∧ (kind.twoHanded = true → (b.codedOf c.ctx).isSome = true ∧ b.gloveOf c.ctx = none) ∧ b.mapBad c r = none ∧ (kind = .tier →
        (c.modeBit 4 = false → b.upperCharge c.ctx + c.u64 24 / 262144 ≤ b.upperQuota c.ctx) ∧ (c.modeBit 4 = true → b.lowerCharge c.ctx +
        c.u64 24 / 262144 ≤ b.lowerQuota c.ctx)) ∧ b.freeRegion = some n :=
  ⟨ev 5000, (cmd 0x03 4 [(16, 8, 0x600000), (24, 8, 0x1000)]), .plain, Classical.choose (free_beside (s := chip.begin (ev 5000))
    (by decide +kernel)), chip, by decide +kernel, by decide +kernel, by decide +kernel, by decide +kernel, by decide +kernel,
    by decide +kernel, by decide +kernel, by decide +kernel, Classical.choose_spec (free_beside (s := chip.begin (ev 5000))
    (by decide +kernel))⟩

theorem test_meets_RegionCommandsComplete_1 :
    ∃ (e : Ev) (c : Cmd) (r : Region) (s : State),
      let b := s.begin e
      b.rowTakes c 0x04 true = true ∧ b.ctxOpen c.ctx = true ∧ b.region? (c.u16 16) = some r ∧ r.kind.mappable = true ∧ r.owner = c.ctx ∧
        r.unmapping = false ∧ (r.kind.twoHanded = true → b.gloveOf c.ctx = none) ∧ (r.lowerTier = true → b.tilesInUse r.num = false) :=
  ⟨ev 5000, (cmd 0x04 0 [(16, 2, 5)]), tierR, chip, by decide +kernel⟩

theorem test_meets_RegionCommandsComplete_2 :
    ∃ (e : Ev) (c : Cmd) (r : Region) (s : State),
      let b := s.begin e
      b.rowTakes c 0x05 true = true ∧ b.ctxOpen c.ctx = true ∧ b.region? (c.u16 16) = some r ∧ r.kind.mappable = true ∧ r.owner = c.ctx ∧
        r.kind.twoHanded = false ∧ b.tilesInUse r.num = false :=
  ⟨ev 5000, (cmd 0x05 0 [(16, 2, 1), (24, 8, 0x11)]), plainR, chip, by decide +kernel⟩

theorem test_meets_RegionCommandsComplete_3 :
    ∃ (e : Ev) (num : Nat) (k : Nat) (i : Fin 16) (r : Region) (f : Fill) (s : State),
      let b := (s.at e).checkPairs.checkTs
      b.region? num = some r ∧ r.fill = some f ∧ f.todo.find? (fun k => keyInst k = i) = some k :=
  ⟨ev 5000, 1, 16, 4, region3R, { pattern := 5, todo := [16, 20], written := 0 }, region3S, by decide +kernel⟩

theorem test_meets_RegionCommandsComplete_4 :
    ∃ (e : Ev) (c : Cmd) (x : Ctx) (s : State),
      let b := s.begin e
      b.rowTakes c 0x64 (!c.modeBit 0) = true ∧ Tab.get b.ctxs (c.u8 16) = some x ∧ x.closing = false :=
  ⟨ev 5000, (cmd 0x64 0 [(16, 1, 1), (24, 4, 9), (28, 4, 8)]), { closing := false, coded := true, upper := 100, lowerQ := 100 }, chip,
    by decide +kernel⟩

theorem test_meets_RegionCommandsComplete_5 :
    ∃ (e : Ev) (c : Cmd) (n : Nat) (s : State),
      let b := s.begin e
      b.rowTakes c 0x64 (c.modeBit 0) = true ∧ (∀ f ∈ b.frames, f.state = .idle) ∧
        (match b.pool with | some r => some r.num | none => b.freeRegion) = some n ∧ c.u64 32 % 262144 = 0 ∧ c.u64 40 % 262144 = 0 ∧ c.u64
        40 ≤ 2 ^ 38 ∧ (0 < c.u64 40 → c.u64 32 + c.u64 40 ≤ tierBytes false ∧ b.rangeTaken false (c.u64 32) (c.u64 40) (fun r => r.kind ==
        .pool) = false) :=
  ⟨ev 5000, (cmd 0x64 1 [(32, 8, 0x100000), (40, 8, 0x40000)]), Classical.choose (free_beside (s := State.begin { chip with
            regions := [plainR] } (ev 5000)) (by decide +kernel)), { chip with regions := [plainR] }, by decide +kernel,
    by decide +kernel, Classical.choose_spec (free_beside (s := State.begin { chip with regions := [plainR] } (ev 5000))
    (by decide +kernel)), by decide +kernel, by decide +kernel, by decide +kernel, by decide +kernel⟩

def glove3D : Delta :=
  { ctx := 1, inst := 0, member := 0, palm := 3, bytes := zeroPage, tauOld := 0, step := 5, form := true, seats := [0] }

def glove3S : State :=
  { chipG KG with deltas := [glove3D] }

theorem test_meets_GloveCommandsComplete_0 :
    ∃ (e : Ev) (c : Cmd) (t : List Byte) (k : Coded) (u : State) (w : State) (s : State),
      let b := s.begin e
      let n := c.u8 18
      b.rowTakes c 0x10 true = true ∧ b.formDeferred c = false ∧ b.dissolving c.ctx (c.u16 16) = false ∧ b.ctxOpen c.ctx = true ∧
        b.cu.evac = false ∧ 4 ≤ n ∧ n ≤ 32 ∧ c.u8 20 < n ∧ b.readPlacement c.ctx (c.u64 40) n = (u, some t) ∧ u.collOf (formKey c.ctx
        (c.u16 16) 0) = none ∧ u.collOf (formKey c.ctx (c.u16 16) 1) = none ∧ u.formCheck c t false = (w, none) ∧ w.codedOf c.ctx = some k :=
  ⟨ev 5000, (cmd 0x10 0 [(16, 2, 7), (18, 1, 4), (19, 1, 1), (20, 1, 0), (21, 1, 1), (26, 2, 0xFFFF), (32, 8, 0x180000), (40, 8, 0)]),
    placeTab 4, K, _, _, chip, by decide +kernel, by decide +kernel, by decide +kernel, by decide +kernel, by decide +kernel,
    by decide +kernel, by decide +kernel, by decide +kernel, (read_place (by decide +kernel) (by decide +kernel) (by decide +kernel) rfl
    rfl (by decide +kernel) (by decide +kernel)), by decide +kernel, by decide +kernel, snd_is (by decide +kernel), by decide +kernel⟩

theorem test_meets_GloveCommandsComplete_1 :
    ∃ (e : Ev) (c : Cmd) (k : Coded) (gl : Glove) (s : State),
      let b := s.begin e
      b.rowTakes c 0x11 true = true ∧ b.ctxOpen c.ctx = true ∧ b.codedOf c.ctx = some k ∧ b.gloveOf c.ctx = some gl ∧ gl.state.formed =
        true ∧ b.gloveBusy c.ctx k = false ∧ b.cu.fabric.verified = true :=
  ⟨ev 5000, (cmd 0x11 0 [(16, 2, 7)]), KG, glove, chipG KG, by decide +kernel⟩

theorem test_meets_GloveCommandsComplete_2 :
    ∃ (e : Ev) (c : Cmd) (s : State),
      let b := s.begin e
      b.rowTakes c 0x12 true = true ∧ b.ctxOpen c.ctx = true ∧ c.u64 16 % 64 = 0 ∧ b.bufferOk c.ctx (c.u64 16) 64 = true :=
  ⟨ev 5000, (cmd 0x12 0 [(16, 8, 0x30000)]), chip, by decide +kernel⟩

theorem test_meets_GloveCommandsComplete_3 :
    ∃ (e : Ev) (ctx : Nat) (d : Delta) (s : State),
      let b := (s.at e).checkPairs.checkTs
      b.deltas.find? (fun d => d.ctx == ctx && d.form) = some d :=
  ⟨ev 5000, 1, glove3D, glove3S, by decide +kernel⟩

theorem test_meets_GloveCommandsComplete_4 :
    (∃ (s : State) (ctx : Nat), s.gloveOf ctx = none) ∧ ∃ (s : State) (ctx : Nat) (k : Coded) (gl : Glove), s.codedOf ctx = some k ∧
      s.gloveOf ctx = some gl ∧ gl.g.id < 2 ^ 16 ∧ gl.g.n < 2 ^ 8 ∧ gl.g.m < 2 ^ 8 :=
  ⟨⟨chip, 1, by decide +kernel⟩, chipG KG, 1, KG, glove, by decide +kernel⟩

def step6K : Coded :=
  { KG with phase := .voting, s := 6, sInv := ~~~6,
            vote := some { step := 6, parts := [0, 1, 2, 3], entries := [(7, seat 0)], mine := 0, tableHash := 0, base := 1000,
                           tmo := 1000, d := 10, guard := 2000, cast := none, holdFrom := none, witnessUntil := 0, testHold := 0,
                           drainedAt := 0, recs := [], kids := [], sentUp := none, ended := false, skew := false, badTable := false } }

def step6S : State :=
  chipG step6K

def step7K : Coded :=
  { KG with phase := .voted, s := 6, sInv := ~~~6,
            vote := some { step := 6, parts := [0, 1, 2, 3], entries := [(7, seat 0)], mine := 0, tableHash := 0, base := 1000,
                           tmo := 1000, d := 10, guard := 2000, cast := none, holdFrom := none, witnessUntil := 0, testHold := 0,
                           drainedAt := 0, recs := [], kids := [], sentUp := none, ended := false, skew := false, badTable := false } }

def step7S : State :=
  chipG step7K

def step8K : Coded :=
  { KG with phase := .undecided, s := 6, sInv := ~~~6,
            vote := some { step := 6, parts := [0, 1, 2, 3], entries := [(7, seat 0)], mine := 0, tableHash := 0, base := 1000,
                           tmo := 1000, d := 10, guard := 2000, cast := none, holdFrom := none, witnessUntil := 0, testHold := 0,
                           drainedAt := 0, recs := [], kids := [], sentUp := none, ended := false, skew := false, badTable := false } }

def step8S : State :=
  chipG step8K

def step9K : Coded :=
  { KG with phase := .decided, s := 6, sInv := ~~~6,
            decision := some { t := 9000, tInv := ~~~9000, tInst := List.replicate 12 (9000, ~~~9000), tMsg := 9000, msgOk := true,
                               hbStart := false, hbSlot := false, bank := [] } }

def step9S : State :=
  chipG step9K

theorem test_meets_StepCommandsComplete_0 :
    ∃ (e : Ev) (c : Cmd) (k : Coded) (s : State),
      let b := s.begin e
      b.rowTakes c 0x20 true = true ∧ b.ctxOpen c.ctx = true ∧ b.codedOf c.ctx = some k ∧ ((b.gloveOf c.ctx).any (fun gl =>
        gl.state.steps) = true ∨ k.asWitness.isSome = true) ∧ k.stopped = false ∧ k.phase = .crowned ∧ c.u64 16 = k.c.toNat + 1 ∧ c.u64 16
        < 2 ^ 56 ∧ k.sweeping = false ∧ b.bandOk = true ∧ b.stepWithheld c.ctx k = false :=
  ⟨ev 5000, (cmd 0x20 0 [(16, 8, 6)]), KG, chipG KG, by decide +kernel⟩

theorem test_meets_StepCommandsComplete_1 :
    ∃ (e : Ev) (c : Cmd) (k : Coded) (s : State),
      let b := s.begin e
      b.rowTakes c 0x21 true = true ∧ b.ctxOpen c.ctx = true ∧ b.codedOf c.ctx = some k ∧ k.phase = .opened ∧ c.u64 16 = k.s.toNat :=
  ⟨ev 5000, (cmd 0x21 0 [(16, 8, 6)]), { KG with phase := .opened, s := 6, sInv := ~~~6 }, chipG { KG with phase := .opened, s := 6,
                                                                                                           sInv := ~~~6 },
    by decide +kernel⟩

theorem test_meets_StepCommandsComplete_2 :
    ∃ (e : Ev) (c : Cmd) (k : Coded) (gl : Glove) (bytes : List Byte) (entries : List (Nat × Coord)) (at' : Nat) (u : State) (s : State),
      let b := s.begin e
      b.rowTakes c 0x22 true = true ∧ b.ctxOpen c.ctx = true ∧ b.codedOf c.ctx = some k ∧ b.gloveOf c.ctx = some gl ∧ k.stopped = false ∧
        k.phase = .closed ∧ c.u64 16 = k.s.toNat ∧ b.readTable c.ctx (c.u64 32) = (u, some (bytes, entries)) ∧ (List.range
        entries.length).filter (fun e => (entries.getD e (0, ⟨0, 0, 0⟩)).1 == gl.g.id) = [at'] :=
  ⟨ev 5000, (cmd 0x22 0 [(16, 8, 6), (32, 8, 4096)]), { KG with phase := .closed, s := 6, sInv := ~~~6 }, glove, crownTab 7, [(7, seat
    0)], 0, _, chipG { KG with phase := .closed, s := 6, sInv := ~~~6 }, by decide +kernel, by decide +kernel, by decide +kernel,
    by decide +kernel, by decide +kernel, by decide +kernel, by decide +kernel, read_table (by decide +kernel) (by decide +kernel) rfl rfl
    (by decide +kernel) (by decide +kernel) (by decide +kernel), by decide +kernel⟩

theorem test_meets_StepCommandsComplete_3 :
    ∃ (e : Ev) (c : Cmd) (k : Coded) (s : State),
      let b := s.begin e
      b.rowTakes c 0x23 true = true ∧ b.ctxOpen c.ctx = true ∧ b.codedOf c.ctx = some k ∧ k.phase = .crowned :=
  ⟨ev 5000, (cmd 0x23 0 []), KG, chipG KG, by decide +kernel⟩

theorem test_meets_StepCommandsComplete_4 :
    ∃ (e : Ev) (c : Cmd) (k : Coded) (s : State),
      let b := s.begin e
      b.rowTakes c 0x23 true = true ∧ b.ctxOpen c.ctx = true ∧ b.codedOf c.ctx = some k ∧ (k.phase = .opened ∨ k.phase = .closed) :=
  ⟨ev 5000, (cmd 0x23 0 []), { KG with phase := .closed, s := 6, sInv := ~~~6 }, chipG { KG with phase := .closed, s := 6, sInv := ~~~6 },
    by decide +kernel⟩

theorem test_meets_StepCommandsComplete_5 :
    ∃ (e : Ev) (c : Cmd) (k : Coded) (s : State),
      let b := s.begin e
      b.rowTakes c 0x23 true = true ∧ b.ctxOpen c.ctx = true ∧ b.codedOf c.ctx = some k ∧ k.phase = .discarding :=
  ⟨ev 5000, (cmd 0x23 0 []), { KG with phase := .discarding, s := 6, sInv := ~~~6 }, chipG { KG with phase := .discarding, s := 6,
                                                                                                     sInv := ~~~6 }, by decide +kernel⟩

theorem test_meets_StepCommandsComplete_6 :
    ∃ (e : Ev) (c : Cmd) (k : Coded) (s : State),
      let b := s.begin e
      b.rowTakes c 0x23 true = true ∧ b.ctxOpen c.ctx = true ∧ b.codedOf c.ctx = some k ∧ k.phase = .voting :=
  ⟨ev 5000, (cmd 0x23 0 []), step6K, step6S, by decide +kernel⟩

theorem test_meets_StepCommandsComplete_7 :
    ∃ (e : Ev) (c : Cmd) (k : Coded) (s : State) (gl : Glove),
      let b := s.begin e
      b.rowTakes c 0x23 true = true ∧ b.ctxOpen c.ctx = true ∧ b.codedOf c.ctx = some k ∧ k.phase = .voted ∧ b.gloveOf c.ctx = some gl ∧
        b.cu.evac = false :=
  ⟨ev 5000, (cmd 0x23 0 []), step7K, step7S, glove, by decide +kernel⟩

theorem test_meets_StepCommandsComplete_8 :
    ∃ (e : Ev) (c : Cmd) (k : Coded) (s : State),
      let b := s.begin e
      b.rowTakes c 0x23 true = true ∧ b.ctxOpen c.ctx = true ∧ b.codedOf c.ctx = some k ∧ k.phase = .undecided :=
  ⟨ev 5000, (cmd 0x23 0 []), step8K, step8S, by decide +kernel⟩

theorem test_meets_StepCommandsComplete_9 :
    ∃ (e : Ev) (c : Cmd) (k : Coded) (s : State),
      let b := s.begin e
      b.rowTakes c 0x23 true = true ∧ b.ctxOpen c.ctx = true ∧ b.codedOf c.ctx = some k ∧ k.phase = .decided :=
  ⟨ev 5000, (cmd 0x23 0 []), step9K, step9S, by decide +kernel⟩

def drainAndVoteTimers1K : Coded :=
  { KG with phase := .opened, s := 6, sInv := ~~~6, drainDeadline := 5000 }

def drainAndVoteTimers1S : State :=
  chipG drainAndVoteTimers1K

def drainAndVoteTimers2V : CrownVote :=
  { step := 6, parts := [0, 1, 2, 3], entries := [(7, seat 0)], mine := 0, tableHash := 0, base := 1000, tmo := 1000, d := 10,
    guard := 2000, cast := none, holdFrom := none, witnessUntil := 0, testHold := 0, drainedAt := 0, recs := [], kids := [],
    sentUp := none, ended := false, skew := false, badTable := false }

theorem test_meets_DrainAndVoteTimersComplete_0 :
    ∃ (e : Ev) (ctx : Nat) (k : Coded) (s : State),
      let b := s.begin e
      b.codedOf ctx = some k ∧ (k.phase = .closed ∨ k.phase = .voting) ∧ k.drained = false ∧ b.drainedNow ctx = true :=
  ⟨ev 5000, 1, { KG with phase := .closed, s := 6, sInv := ~~~6 }, chipG { KG with phase := .closed, s := 6, sInv := ~~~6 },
    by decide +kernel⟩

theorem test_meets_DrainAndVoteTimersComplete_1 :
    ∃ (e : Ev) (ctx : Nat) (k : Coded) (s : State),
      let b := (s.at e).checkPairs.checkTs
      b.codedOf ctx = some k ∧ (k.phase = .opened ∨ k.phase = .closed ∨ k.phase = .voting) ∧ k.drained = false ∧ k.deadlinePast = false ∧
        k.drainDeadline ≤ b.now :=
  ⟨ev 5000, 1, drainAndVoteTimers1K, drainAndVoteTimers1S, by decide +kernel⟩

theorem test_meets_DrainAndVoteTimersComplete_2 :
    ∃ (e : Ev) (ctx : Nat) (i : Nat) (k : Coded) (gl : Glove) (v : CrownVote) (s : State),
      let b := s.begin e
      b.codedOf ctx = some k ∧ b.gloveOf ctx = some gl ∧ k.vote = some v ∧ v.ended = false ∧ v.isHead gl = true ∧ v.close gl ≤ b.now ∧
        v.parts.find? (fun i => (Tab.get v.recs i).isNone) = some i ∧ b.cu.fwFault = false ∧ b.cu.evac = false :=
  ⟨ev 5000, 1, 0, step6K, glove, drainAndVoteTimers2V, step6S, by decide +kernel⟩

theorem test_meets_DrainAndVoteTimersComplete_3 :
    ∃ (e : Ev) (ctx : Nat) (k : Coded) (s : State),
      let b := s.begin e
      b.codedOf ctx = some k ∧ k.phase = .discarding :=
  ⟨ev 5000, 1, { KG with phase := .discarding, s := 6, sInv := ~~~6 }, chipG { KG with phase := .discarding, s := 6, sInv := ~~~6 },
    by decide +kernel⟩

def crownTakesEffects0D : Decision :=
  { t := 5000, tInv := ~~~5000, tInst := List.replicate 12 (5000, ~~~5000), tMsg := 5000, msgOk := true, hbStart := false,
    hbSlot := false, bank := [] }

def crownTakesEffects0K : Coded :=
  { KG with phase := .decided, s := 6, sInv := ~~~6, decision := some crownTakesEffects0D }

def crownTakesEffects0S : State :=
  chipG crownTakesEffects0K

def crownTakesEffects1D : Decision :=
  { t := 5001, tInv := ~~~5001, tInst := List.replicate 12 (5001, ~~~5001), tMsg := 5001, msgOk := true, hbStart := false,
    hbSlot := false, bank := [] }

def crownTakesEffects1K : Coded :=
  { KG with phase := .decided, s := 6, sInv := ~~~6, decision := some crownTakesEffects1D }

def crownTakesEffects1S : State :=
  chipG crownTakesEffects1K

theorem test_meets_CrownTakesEffectCompletes_0 :
    ∃ (e : Ev) (ctx : Nat) (T : Nat) (k : Coded) (gl : Glove) (d : Decision) (bank : List (Nat × List Byte)) (v : State) (s : State),
      let b := s.begin e
      b.codedOf ctx = some k ∧ b.gloveOf ctx = some gl ∧ k.phase = .decided ∧ k.decision = some d ∧ d.time = some T ∧ T ≤ b.now ∧
        (b.checkSteps ctx).checkBank ctx d.bank = (v, bank) :=
  ⟨ev 5000, 1, 5000, crownTakesEffects0K, glove, crownTakesEffects0D, [], _, crownTakesEffects0S, by decide +kernel, by decide +kernel,
    by decide +kernel, by decide +kernel, by decide +kernel, by decide +kernel, snd_is (by decide +kernel)⟩

theorem test_meets_CrownTakesEffectCompletes_1 :
    ∃ (e : Ev) (ctx : Nat) (T : Nat) (k : Coded) (d : Decision) (s : State),
      let b := s.begin e
      b.codedOf ctx = some k ∧ k.phase = .decided ∧ k.decision = some d ∧ d.time = some T ∧ b.now < T :=
  ⟨ev 5000, 1, 5001, crownTakesEffects1K, crownTakesEffects1D, crownTakesEffects1S, by decide +kernel⟩

def crownTimers4V : CrownVote :=
  { step := 6, parts := [0, 1, 2, 3], entries := [(7, seat 0)], mine := 0, tableHash := 0, base := 1000, tmo := 1000, d := 10,
    guard := 2000, cast := some .hold, holdFrom := some 0, witnessUntil := 0, testHold := 0, drainedAt := 0, recs := [], kids := [],
    sentUp := none, ended := false, skew := false, badTable := false }

def crownTimers4K : Coded :=
  { KG with phase := .voting, s := 6, sInv := ~~~6, vote := some crownTimers4V,
            hb := some { g := { group with id := 9, base := 0x200000, region := 8 }, schedule := 0, minInterval := 0, seqLen := 97,
                         copy := some { slot := false, step := 5, start := 0, next := 0, parity := 0, sealed := false, seals := [],
                                        quorum := false } } }

def crownTimers4S : State :=
  chipG crownTimers4K

def crownTimers5V : CrownVote :=
  { step := 6, parts := [0, 1, 2, 3], entries := [(7, seat 0)], mine := 0, tableHash := 0, base := 1000, tmo := 1000, d := 10,
    guard := 2000, cast := some .hold, holdFrom := some 0, witnessUntil := 5000, testHold := 0, drainedAt := 0, recs := [], kids := [],
    sentUp := none, ended := false, skew := false, badTable := false }

def crownTimers5K : Coded :=
  { KG with phase := .voting, s := 6, sInv := ~~~6, vote := some crownTimers5V,
            witness := [{ w := 1, role := 1, trail := false, step := 6, suspect := 0, darn := 0, labels := [], wcoord := seat 9,
                          report := 0, place := [], geom := none, digests := [], result := none, verdict := none, sent := false,
                          completed := false }] }

def crownTimers5S : State :=
  chipG crownTimers5K

def crownTimers6D : Decision :=
  { t := 7000, tInv := ~~~7000, tInst := List.replicate 12 (7000, ~~~7000), tMsg := 7000, msgOk := true, hbStart := false,
    hbSlot := false, bank := [] }

def crownTimers6K : Coded :=
  { KG with phase := .decided, s := 6, sInv := ~~~6, decision := some crownTimers6D }

def crownTimers6S : State :=
  chipG crownTimers6K

theorem test_meets_CrownTimersComplete_0 :
    ∃ (e : Ev) (ctx : Nat) (k : Coded) (s : State),
      let b := s.begin e
      b.codedOf ctx = some k ∧ k.sweeping = true :=
  ⟨ev 5000, 1, { KG with sweeping := true }, chipG { KG with sweeping := true }, by decide +kernel⟩

theorem test_meets_CrownTimersComplete_1 :
    ∃ (s : State) (right : Bool) (r : Region) (idx : Nat) (u : State),
      s.crownedHand r idx = (u, some right) :=
  ⟨chip, false, stateR, 0, _, snd_is (by decide +kernel)⟩

theorem test_meets_CrownTimersComplete_2 :
    ∃ (e : Ev) (ctx : Nat) (k : Coded) (gl : Glove) (v : CrownVote) (s : State),
      let b := s.begin e
      b.codedOf ctx = some k ∧ b.gloveOf ctx = some gl ∧ k.vote = some v ∧ v.ended = false ∧ v.close gl + v.tmo ≤ b.now ∧ k.phase = .voted :=
  ⟨ev 5000, 1, step7K, glove, drainAndVoteTimers2V, step7S, by decide +kernel⟩

theorem test_meets_CrownTimersComplete_3 :
    ∃ (e : Ev) (ctx : Nat) (k : Coded) (gl : Glove) (v : CrownVote) (s : State),
      let b := s.begin e
      b.codedOf ctx = some k ∧ b.gloveOf ctx = some gl ∧ k.vote = some v ∧ v.ended = false ∧ v.close gl + v.tmo ≤ b.now ∧ k.phase =
        .voting :=
  ⟨ev 5000, 1, step6K, glove, drainAndVoteTimers2V, step6S, by decide +kernel⟩

theorem test_meets_CrownTimersComplete_4 :
    ∃ (e : Ev) (ctx : Nat) (since : Nat) (k : Coded) (gl : Glove) (v : CrownVote) (s : State),
      let b := s.begin e
      b.codedOf ctx = some k ∧ b.gloveOf ctx = some gl ∧ k.vote = some v ∧ v.cast = some .hold ∧ v.holdFrom = some since ∧ k.hatboxHold =
        true ∧ since + 2000000000 ≤ b.now :=
  ⟨ev 2000000000, 1, 0, crownTimers4K, glove, crownTimers4V, crownTimers4S, by decide +kernel⟩

theorem test_meets_CrownTimersComplete_5 :
    ∃ (e : Ev) (ctx : Nat) (since : Nat) (k : Coded) (gl : Glove) (v : CrownVote) (s : State),
      let b := s.begin e
      b.codedOf ctx = some k ∧ b.gloveOf ctx = some gl ∧ k.vote = some v ∧ v.cast = some .hold ∧ v.holdFrom = some since ∧ k.witnessHold =
        true ∧ v.witnessUntil ≤ b.now :=
  ⟨ev 5000, 1, 0, crownTimers5K, glove, crownTimers5V, crownTimers5S, by decide +kernel⟩

theorem test_meets_CrownTimersComplete_6 :
    ∃ (e : Ev) (ctx : Nat) (k : Coded) (d : Decision) (s : State),
      let b := s.begin e
      b.codedOf ctx = some k ∧ k.decision = some d ∧ (d.time).getD 0 ≤ b.now + k.voteGuard b.cu.crownGuard :=
  ⟨ev 5000, 1, crownTimers6K, crownTimers6D, crownTimers6S, by decide +kernel⟩

def witness2S : State :=
  chipG { KG with phase := .voting, s := 6, sInv := ~~~6,
                  witness := [{ w := 1, role := 1, trail := false, step := 6, suspect := 0, darn := 0, labels := [], wcoord := seat 9,
                                report := 0, place := [], geom := none, digests := [], result := some 0, verdict := none, sent := false,
                                completed := false }] }

theorem test_meets_WitnessCommandsComplete_0 :
    ∃ (e : Ev) (c : Cmd) (k : Coded) (gl : Glove) (labels : List Byte) (u : State) (s : State),
      let b := s.begin e
      let key := witnessKey c.ctx (c.u64 16) (c.u16 24) (c.u8 27)
      b.rowTakes c 0x24 true = true ∧ b.ctxOpen c.ctx = true ∧ armBad c = none ∧ (∀ x, b.codedOf c.ctx = some x → x.stopped = false) ∧
        c.mode % 4 ≠ 2 ∧ b.readLabels c = (u, some labels) ∧ u.codedOf c.ctx = some k ∧ u.gloveOf c.ctx = some gl ∧ gl.g.id = c.u16 24 ∧
        c.u8 26 < gl.g.n ∧ (c.mode % 4 = 1 ↔ gl.g.me = c.u8 26) ∧ u.armRows c k gl (u.reportRow c gl) false = none ∧ u.cu.fabric.verified
        = true ∧ u.collOf key = none :=
  ⟨ev 5000, (cmd 0x24 0 [(16, 8, 6), (24, 2, 7), (26, 1, 1), (27, 1, 1), (28, 1, 0), (29, 1, 1), (30, 2, 9), (40, 8, 0x800), (48, 8,
    0x30100)]), KG, glove, List.replicate 8 0, _, chipG KG, by decide +kernel, by decide +kernel, by decide +kernel, by decide +kernel,
    by decide +kernel, (read_labels (by decide +kernel) (by decide +kernel) rfl rfl (by decide +kernel) (by decide +kernel)),
    by decide +kernel, by decide +kernel, by decide +kernel, by decide +kernel, by decide +kernel, by decide +kernel, by decide +kernel,
    by decide +kernel⟩

theorem test_meets_WitnessCommandsComplete_1 :
    ∃ (e : Ev) (c : Cmd) (k : Coded) (x : SeatInfo) (labels : List Byte) (t : List Byte) (u : State) (v : State) (w : State) (s : State),
      let b := s.begin e
      let key := witnessKey c.ctx (c.u64 16) (c.u16 24) (c.u8 27)
      b.rowTakes c 0x24 true = true ∧ b.ctxOpen c.ctx = true ∧ armBad c = none ∧ (∀ x, b.codedOf c.ctx = some x → x.stopped = false) ∧
        c.mode % 4 = 2 ∧ b.readLabels c = (u, some labels) ∧ u.codedOf c.ctx = some k ∧ Tab.get u.infos c.ctx = some x ∧ c.u8 26 < x.n ∧
        u.collOf key = none ∧ u.tableRow c.ctx (c.u64 56) x.n 56 = (v, t, none) ∧ t ≠ [] ∧ v.armWitnessRows c k x none false = (w, none) ∧
        w.cu.fabric.verified = true ∧ w.collOf key = none :=
  ⟨ev 5000, (cmd 0x24 2 [(16, 8, 6), (24, 2, 7), (26, 1, 1), (27, 1, 1), (28, 1, 0), (29, 1, 1), (30, 2, 0), (40, 8, 0x800), (56, 8, 0)]),
    K, info, List.replicate 8 0, placeTab 4, _, _, _, spare, by decide +kernel, by decide +kernel, by decide +kernel, by decide +kernel,
    by decide +kernel, (read_labels (by decide +kernel) (by decide +kernel) rfl rfl (by decide +kernel) (by decide +kernel)),
    by decide +kernel, by decide +kernel, by decide +kernel, by decide +kernel, (read_row (by decide +kernel) (by decide +kernel)
    (by decide +kernel) rfl rfl (by decide +kernel) (by decide +kernel)), by decide +kernel, snd_is (by decide +kernel),
    by decide +kernel, by decide +kernel⟩

theorem test_meets_WitnessCommandsComplete_2 :
    ∃ (e : Ev) (c : Cmd) (gl : Glove) (s : State),
      let b := s.begin e
      let roles := (b.witnesses c.ctx).filter (fun x => x.role == 1 && x.step == c.u64 16 && !x.trail && !x.completed)
      b.rowTakes c 0x25 true = true ∧ b.ctxOpen c.ctx = true ∧ b.gloveOf c.ctx = some gl ∧ roles ≠ [] ∧ c.u8 24 ≤ 2 ∧ (c.u8 24 = 0 →
        b.cu.fuses.witness = true → ∃ x ∈ roles, x.result = some 0 ∨ x.result = some 3) :=
  ⟨ev 5000, (cmd 0x25 0 [(16, 8, 6), (24, 1, 0)]), glove, witness2S, by decide +kernel⟩

def darn5D : Darn :=
  { ctx := 1, num := 3, lost := 0, standin := false, boost := false, witness := false, dest := true, failed := 0, lastWrite := 0 }

def darn5S : State :=
  { chipG KG with stitches := [(stitchKey 3 5, { Stitch.mapped with fill := true })], darns := [darn5D] }

theorem test_meets_DarnCommandsComplete_0 :
    ∃ (e : Ev) (c : Cmd) (k : Coded) (gl : Glove) (t : List Byte) (u : State) (w : State) (s : State),
      let b := s.begin e
      let key := darnKey c.ctx gl.g.id (c.u8 17)
      let named := decide (c.u8 16 < gl.g.n) && gl.lostMask.getLsbD (c.u8 16) && !u.darnRuns c.ctx (c.u8 16) && ((gl.dealOf (c.u8
        16)).isSome == false)
      b.rowTakes c 0x30 true = true ∧ b.ctxOpen c.ctx = true ∧ c.u8 17 ≤ 3 ∧ b.codedOf c.ctx = some k ∧ k.stopped = false ∧ k.glove = some
        gl ∧ gl.g.id = c.u16 18 ∧ b.cu.evac = false ∧ c.modeBit 0 = false ∧ c.u64 32 = 0 ∧ b.tableRow c.ctx (c.u64 24) gl.g.n 24 = (u, t,
        none) ∧ u.memberRows c.ctx gl k none named (u.darnTaken c.ctx (c.u8 17)) true true t = (w, none) ∧ w.collOf key = none :=
  ⟨ev 5000, (cmd 0x30 0 [(16, 1, 3), (17, 1, 3), (18, 2, 7)]), { KG with glove := some lostG }, lostG, placeTab 4, _, _, chipG { KG with
        glove := some lostG }, by decide +kernel, by decide +kernel, by decide +kernel, by decide +kernel, by decide +kernel,
    by decide +kernel, by decide +kernel, by decide +kernel, by decide +kernel, by decide +kernel, (read_row (by decide +kernel)
    (by decide +kernel) (by decide +kernel) rfl rfl (by decide +kernel) (by decide +kernel)), snd_is (by decide +kernel),
    by decide +kernel⟩

theorem test_meets_DarnCommandsComplete_1 :
    ∃ (e : Ev) (c : Cmd) (k : Coded) (gl : Glove) (w : State) (s : State),
      let b := s.begin e
      let key := darnKey c.ctx gl.g.id (c.u8 17)
      let named := decide (c.u8 16 < gl.g.n) && gl.lostMask.getLsbD (c.u8 16) && !b.darnRuns c.ctx (c.u8 16) && ((gl.dealOf (c.u8
        16)).isSome == true)
      b.rowTakes c 0x30 true = true ∧ b.ctxOpen c.ctx = true ∧ c.u8 17 ≤ 3 ∧ b.codedOf c.ctx = some k ∧ k.stopped = false ∧ k.glove = some
        gl ∧ gl.g.id = c.u16 18 ∧ b.cu.evac = false ∧ c.modeBit 0 = true ∧ c.u64 24 = 0 ∧ c.u64 32 = 0 ∧ b.memberRows c.ctx gl k none
        named (b.darnTaken c.ctx (c.u8 17)) true true gl.g.place = (w, none) ∧ w.collOf key = none :=
  ⟨ev 5000, (cmd 0x30 1 [(16, 1, 3), (17, 1, 0), (18, 2, 7)]), { KG with glove := some dealtG }, dealtG, _, chipS { KG with
        glove := some dealtG }, by decide +kernel, by decide +kernel, by decide +kernel, by decide +kernel, by decide +kernel,
    by decide +kernel, by decide +kernel, by decide +kernel, by decide +kernel, by decide +kernel, by decide +kernel, snd_is
    (by decide +kernel), by decide +kernel⟩

theorem test_meets_DarnCommandsComplete_2 :
    ∃ (e : Ev) (c : Cmd) (k : Coded) (x : SeatInfo) (t : List Byte) (u : State) (w : State) (s : State),
      let b := s.begin e
      let key := darnKey c.ctx (c.u16 18) (c.u8 17)
      b.rowTakes c 0x30 true = true ∧ b.ctxOpen c.ctx = true ∧ c.u8 17 ≤ 3 ∧ b.codedOf c.ctx = some k ∧ k.stopped = false ∧ k.glove = none
        ∧ Tab.get b.infos c.ctx = some x ∧ c.modeBit 0 = false ∧ c.u8 16 < x.n ∧ b.tableRow c.ctx (c.u64 24) x.n 24 = (u, t, none) ∧ t ≠
        [] ∧ u.spareRows c.ctx (c.u8 16) (c.u64 32) k x none (u.darnTaken c.ctx (c.u8 17)) t = (w, none) ∧ w.collOf key = none :=
  ⟨ev 5000, (cmd 0x30 0 [(16, 1, 0), (17, 1, 0), (18, 2, 7), (32, 8, 0x180000)]), K, info, placeTab 4, _, _, spare, by decide +kernel,
    by decide +kernel, by decide +kernel, by decide +kernel, by decide +kernel, by decide +kernel, by decide +kernel, by decide +kernel,
    by decide +kernel, (read_row (by decide +kernel) (by decide +kernel) (by decide +kernel) rfl rfl (by decide +kernel)
    (by decide +kernel)), by decide +kernel, snd_is (by decide +kernel), by decide +kernel⟩

theorem test_meets_DarnCommandsComplete_3 :
    ∃ (e : Ev) (c : Cmd) (k : Coded) (gl : Glove) (w : State) (s : State),
      let b := s.begin e
      let key := standinKey c.ctx gl.g.id
      let named := decide (c.u8 16 < gl.g.n) && gl.lostMask.getLsbD (c.u8 16) && !b.darnRuns c.ctx (c.u8 16)
      b.rowTakes c 0x32 true = true ∧ b.ctxOpen c.ctx = true ∧ b.codedOf c.ctx = some k ∧ b.gloveOf c.ctx = some gl ∧ c.u8 17 ≤ 16 ∧ (c.u8
        16 < gl.g.n → c.u64 32 ≤ gl.g.palmOf (c.u8 16)) ∧ b.collOf key = none ∧ b.memberRows c.ctx gl k none named b.darnsFull false
        (b.hostingOk c.ctx gl (c.u8 16) (c.u64 24) (planDeal gl c).2) gl.g.place = (w, none) ∧ w.cu.fabric.verified = true :=
  ⟨ev 5000, (cmd 0x32 0 [(16, 1, 3), (17, 1, 16), (24, 8, 0x240000), (32, 8, 12)]), { KG with glove := some lostG }, lostG, _, chipG { KG with
        glove := some lostG }, by decide +kernel, by decide +kernel, by decide +kernel, by decide +kernel, by decide +kernel,
    by decide +kernel, by decide +kernel, snd_is (by decide +kernel), by decide +kernel⟩

theorem test_meets_DarnCommandsComplete_4 :
    ∃ (e : Ev) (c : Cmd) (k : Coded) (gl : Glove) (r : Region) (i : Nat) (s : State),
      let b := s.begin e
      let w := b.hold c (.darnStitch c.ctx r.num i)
      let v := w.issueChain c.ctx r i .stitch
      b.rowTakes c 0x31 true = true ∧ b.ctxOpen c.ctx = true ∧ b.codedOf c.ctx = some k ∧ b.gloveOf c.ctx = some gl ∧ gl.state.formed =
        true ∧ gl.state ≠ .lost ∧ c.u8 16 < gl.g.n ∧ c.u64 24 < (if c.modeBit 0 then gl.g.tmax else gl.g.palmOf (c.u8 16)) ∧ b.seatAt
        c.ctx gl (c.u8 16) (c.modeBit 0) (c.u64 24) = some (r, i) ∧ (v.erased c.ctx gl (gl.g.stripeFor (c.u8 16) (c.modeBit 0) (c.u64
        24))).length ≤ 4 :=
  ⟨ev 5000, (cmd 0x31 0 [(16, 1, 0), (24, 8, 11)]), KG, glove, stateR, 11, chipG KG, by decide +kernel⟩

theorem test_meets_DarnCommandsComplete_5 :
    ∃ (e : Ev) (ctx : Nat) (num : Nat) (d : Darn) (gl : Glove) (r : Region) (i : Nat) (s : State),
      let b := s.begin e
      let place := fun (p : Region × Nat) => (let q := b.seatOf gl p.1 p.2; (q.1, gl.g.stripeFor q.1 q.2.1 q.2.2))
      let erased := fun (p : Region × Nat) => (place p).1 :: (b.erased ctx gl (place p).2).filter (· != (place p).1)
      b.darns.find? (fun d => d.ctx == ctx && d.num == num && d.dest) = some d ∧ b.chainGlove ctx = some gl ∧ (sortOn (fun p => (place
        p).2) ((b.fillSet ctx d.areas).filter (fun p => (b.chainFor p.1.num p.2).isNone))).find? (fun p => decide (4 < (erased p).length)
        || (gl.g.plan (place p).2 (place p).1 (erased p)).isSome) = some (r, i) :=
  ⟨ev 5000, 1, 3, darn5D, glove, stateR, 5, darn5S, by decide +kernel⟩

def seat4A : Admission :=
  { member := 3, isNew := false, glove := 7, place := placeTab 4, base := 0, region := 0xFFFF, step := 0, handover := none }

def seat4K : Coded :=
  { KG with glove := some dealtG, admission := some seat4A }

def seat4S : State :=
  { chipS seat4K with stitches := [(stitchKey 9 0, { Stitch.mapped with copy := true })] }

theorem test_meets_SeatCommandsComplete_0 :
    ∃ (e : Ev) (c : Cmd) (k : Coded) (gl : Glove) (s : State),
      let b := s.begin e
      let bit : BitVec 32 := (1 : BitVec 32) <<< c.u8 16
      b.rowTakes c 0x33 (!c.modeBit 0) = true ∧ b.ctxOpen c.ctx = true ∧ b.codedOf c.ctx = some k ∧ b.gloveOf c.ctx = some gl ∧
        gl.state.formed = true ∧ c.u8 16 < gl.g.n ∧ c.u8 16 ≠ gl.g.me ∧ k.phase = .crowned ∧ b.erasures c.ctx { gl with
          lostMask := gl.lostMask ||| bit, filling := gl.filling &&& ~~~bit } ≤ gl.g.m :=
  ⟨ev 5000, (cmd 0x33 0 [(16, 1, 3)]), KG, glove, chipG KG, by decide +kernel⟩

theorem test_meets_SeatCommandsComplete_1 :
    ∃ (e : Ev) (c : Cmd) (s : State),
      let b := s.begin e
      b.rowTakes c 0x33 (c.modeBit 0) = true ∧ c.u8 16 = 0 :=
  ⟨ev 5000, (cmd 0x33 1 []), chip, by decide +kernel⟩

theorem test_meets_SeatCommandsComplete_2 :
    ∃ (e : Ev) (c : Cmd) (k : Coded) (gl : Glove) (t : List Byte) (u : State) (w : State) (s : State),
      let b := s.begin e
      let key := admitKey c.ctx gl.g.id
      b.rowTakes c 0x34 true = true ∧ b.ctxOpen c.ctx = true ∧ b.codedOf c.ctx = some k ∧ k.stopped = false ∧ k.glove = some gl ∧
        c.modeBit 0 = false ∧ gl.g.id = c.u16 18 ∧ b.cu.evac = false ∧ c.u64 32 = 0 ∧ b.tableRow c.ctx (c.u64 24) gl.g.n 24 = (u, t, none)
        ∧ u.collOf key = none ∧ u.memberRows c.ctx gl k none (gl.hosted (c.u8 16) && (u.darnRuns c.ctx (c.u8 16) || u.seatFilled c.ctx gl
        (c.u8 16))) (u.darnRuns c.ctx (c.u8 16) || k.admission.isSome || u.darnsFull) true true t = (w, none) :=
  ⟨ev 5000, (cmd 0x34 0 [(16, 1, 3), (18, 2, 7)]), { KG with glove := some dealtG }, dealtG, placeTab 4, _, _, chipS { KG with
        glove := some dealtG }, by decide +kernel, by decide +kernel, by decide +kernel, by decide +kernel, by decide +kernel,
    by decide +kernel, by decide +kernel, by decide +kernel, by decide +kernel, (read_row (by decide +kernel) (by decide +kernel)
    (by decide +kernel) rfl rfl (by decide +kernel) (by decide +kernel)), by decide +kernel, snd_is (by decide +kernel)⟩

theorem test_meets_SeatCommandsComplete_3 :
    ∃ (e : Ev) (c : Cmd) (k : Coded) (x : SeatInfo) (t : List Byte) (u : State) (w : State) (s : State),
      let b := s.begin e
      let key := admitKey c.ctx (c.u16 18)
      b.rowTakes c 0x34 true = true ∧ b.ctxOpen c.ctx = true ∧ b.codedOf c.ctx = some k ∧ k.stopped = false ∧ k.glove = none ∧ Tab.get
        b.infos c.ctx = some x ∧ c.modeBit 0 = true ∧ c.u8 16 < x.n ∧ b.tableRow c.ctx (c.u64 24) x.n 24 = (u, t, none) ∧ t ≠ [] ∧
        u.collOf key = none ∧ u.spareRows c.ctx (c.u8 16) (c.u64 32) k x none (k.admission.isSome || u.darnsFull) t = (w, none) :=
  ⟨ev 5000, (cmd 0x34 1 [(16, 1, 0), (18, 2, 7), (32, 8, 0x180000)]), K, info, placeTab 4, _, _, spare, by decide +kernel,
    by decide +kernel, by decide +kernel, by decide +kernel, by decide +kernel, by decide +kernel, by decide +kernel, by decide +kernel,
    (read_row (by decide +kernel) (by decide +kernel) (by decide +kernel) rfl rfl (by decide +kernel) (by decide +kernel)),
    by decide +kernel, by decide +kernel, snd_is (by decide +kernel)⟩

theorem test_meets_SeatCommandsComplete_4 :
    ∃ (e : Ev) (ctx : Nat) (a : Admission) (gl : Glove) (r : Region) (i : Nat) (k : Coded) (d : List Byte) (y : List Byte) (tag : Word)
      (key : Option Nat) (u : State) (w : State) (s : State),
      let b := s.begin e
      let stripe := fun (i : Nat) => (let q := b.seatOf gl r i; gl.g.stripeFor q.1 q.2.1 q.2.2)
      let lane := match key with | some p => u.codeLane p | none => 0
      b.admitRegion ctx = some (a, gl, r) ∧ b.codedOf ctx = some k ∧ b.inGuard ctx = false ∧ k.sweeping = false ∧ (b.copySet ctx).find?
        (fun i => !b.sent.any (fun x => x.ctx == ctx && x.msg.type == tDarnDone && x.member == 0xFD && x.msg.chStripe == stripe i)) = some
        i ∧ b.gloveTerm ctx gl a.member (stripe i) = (u, some (d, tag, key)) ∧ (u.inst[keyInst (r.handKey i false)]).test.running = false
        ∧ u.checked (keyInst (r.handKey i false)) lane pChain d = (w, some y) :=
  ⟨ev 5000, 1, seat4A, dealtG, hostR, 0, seat4K, zeroPage, zeroPage, 0, some (hostR.handKey 0 false), _, _, seat4S, by decide +kernel,
    by decide +kernel, by decide +kernel, by decide +kernel, by decide +kernel, snd_is (by decide +kernel), by decide +kernel, snd_is
    (by decide +kernel)⟩

def hatbox3C : HbCopy :=
  { slot := false, step := 5, start := 0, next := 1, parity := 0, sealed := false, seals := [], quorum := false }

def hatbox3K : Coded :=
  (KB (some hatbox3C))

def hatbox3S : State :=
  chipB hatbox3K

def hatbox3H : HbGroup :=
  { hbGroup with copy := some hatbox3C }

def hatbox4C : HbCopy :=
  { slot := false, step := 5, start := 0, next := 99, parity := 33, sealed := false, seals := [], quorum := false }

def hatbox4S : State :=
  chipB (KB (some hatbox4C))

def hatbox4H : HbGroup :=
  { hbGroup with copy := some hatbox4C }

theorem test_meets_HatboxCommandsComplete_0 :
    ∃ (e : Ev) (c : Cmd) (k : Coded) (s : State),
      let b := s.begin e
      b.rowTakes c 0x40 (c.mode % 4 != 1) = true ∧ b.ctxOpen c.ctx = true ∧ c.mode % 4 = 0 ∧ b.codedOf c.ctx = some k ∧ k.stopped = false
        ∧ k.hb.isSome = true :=
  ⟨ev 5000, (cmd 0x40 0 []), (KB (none)), chipB (KB (none)), by decide +kernel⟩

theorem test_meets_HatboxCommandsComplete_1 :
    ∃ (e : Ev) (c : Cmd) (s : State),
      let b := s.begin e
      b.rowTakes c 0x40 (c.mode % 4 != 1) = true ∧ b.ctxOpen c.ctx = true ∧ 2 ≤ c.mode % 4 :=
  ⟨ev 5000, (cmd 0x40 2 []), chip, by decide +kernel⟩

theorem test_meets_HatboxCommandsComplete_2 :
    ∃ (e : Ev) (c : Cmd) (k : Coded) (t : List Byte) (u : State) (w : State) (s : State),
      let b := s.begin e
      let n := c.u8 18
      let seq := seqLength (lanesUpper u.lanesWord) (u.palmCount c.ctx)
      b.rowTakes c 0x40 (c.mode % 4 == 1) = true ∧ b.ctxOpen c.ctx = true ∧ b.codedOf c.ctx = some k ∧ k.stopped = false ∧ k.hbBusy =
        false ∧ b.collOf (hbKey c.ctx (c.u16 16)) = none ∧ n ≤ 64 ∧ b.readPlacement c.ctx (c.u64 48) n = (u, some t) ∧ u.confCheck c seq t
        = (w, none) ∧ 4 ≤ n ∧ c.u8 20 < n :=
  ⟨ev 5000, (cmd 0x40 1 [(16, 2, 9), (18, 1, 4), (19, 1, 1), (20, 1, 0), (21, 1, 1), (28, 4, 86400), (40, 8, 0x300000), (48, 8, 0)]), K,
    placeTab 4, _, _, chip, by decide +kernel, by decide +kernel, by decide +kernel, by decide +kernel, by decide +kernel,
    by decide +kernel, by decide +kernel, (read_place (by decide +kernel) (by decide +kernel) (by decide +kernel) rfl rfl
    (by decide +kernel) (by decide +kernel)), snd_is (by decide +kernel), by decide +kernel, by decide +kernel⟩

theorem test_meets_HatboxCommandsComplete_3 :
    ∃ (e : Ev) (ctx : Nat) (h : HbGroup) (k : Coded) (c : HbCopy) (data : List Byte) (tag : Word) (u : State) (s : State),
      let b := s.begin e
      b.hbOf ctx = some h ∧ b.codedOf ctx = some k ∧ h.copy = some c ∧ c.next < h.g.tmax * (h.g.period - 1) ∧ b.cu.fwFault = false ∧
        b.pieceTested ctx h c.slot c.next = false ∧ (c.next < h.seqLen → (b.useGroup ctx h.g).pieceAt ctx k c.next = (u, .piece data tag))
        ∧ (h.seqLen ≤ c.next → u = b.useGroup ctx h.g ∧ data = zeroPage ∧ tag = 0) :=
  ⟨ev 5000, 1, hatbox3H, hatbox3K, hatbox3C, zeroPage, 0, _, hatbox3S, by decide +kernel, by decide +kernel, by decide +kernel,
    by decide +kernel, by decide +kernel, by decide +kernel, fun _ => snd_is (by decide +kernel), fun h => absurd h (by decide +kernel)⟩

theorem test_meets_HatboxCommandsComplete_4 :
    ∃ (e : Ev) (ctx : Nat) (h : HbGroup) (c : HbCopy) (s : State),
      let b := s.begin e
      b.hbOf ctx = some h ∧ h.copy = some c ∧ h.written c = true ∧ c.sealed = false ∧ b.cu.fwFault = false ∧ b.testing (h.sealKey c.slot)
        = false :=
  ⟨ev 5000, 1, hatbox4H, hatbox4C, hatbox4S, by decide +kernel⟩

def restore0K : Coded :=
  { K with hb := some { hbGroup with g := { hbGroup.g with id := 7 } } }

def restore0S : State :=
  chipB restore0K

def restore1R : Restore :=
  { want := 5, entries := [(9, seat 0)], mine := 0, report := 0x30000, voteStart := 0, decided := some 5, slot := false, next := 0,
    recs := [(0, restoreRec 0 5 0)], kids := [], sentUp := true, lastWrite := 0, header := none }

def restore1K : Coded :=
  { K with hb := some { hbGroup with g := { hbGroup.g with base := 0x3000 } }, restore := some restore1R }

def restore1S : State :=
  chipB restore1K

def restore2K : Coded :=
  { KB none with glove := none, restore := some restore1R }

def restore2S : State :=
  chipB restore2K

def restore3R : Restore :=
  { want := 5, entries := [(9, seat 0)], mine := 0, report := 0x30000, voteStart := 0, decided := some 5, slot := false, next := 1,
    recs := [(0, restoreRec 0 5 0)], kids := [], sentUp := true, lastWrite := 0, header := some zeroPage }

def restore3K : Coded :=
  { K with hb := some { hbGroup with g := { hbGroup.g with base := 0x2000 } }, restore := some restore3R }

def restore3S : State :=
  chipB restore3K

theorem test_meets_RestoreCommandsComplete_0 :
    ∃ (e : Ev) (c : Cmd) (k : Coded) (h : HbGroup) (bytes : List Byte) (entries : List (Nat × Coord)) (at' : Nat) (head : Nat) (x : Nat)
      (y : Nat) (u : State) (v : State) (w : State) (s : State),
      let b := s.begin e
      b.rowTakes c 0x41 true = true ∧ b.ctxOpen c.ctx = true ∧ b.codedOf c.ctx = some k ∧ k.hb = some h ∧ k.phase = .crowned ∧ (∀ g ∈
        k.glove, g.state = .lost) ∧ h.copying = false ∧ k.image = none ∧ k.restore = none ∧ b.collOf (restoreKey c.ctx (c.u64 16)) = none
        ∧ b.readTable c.ctx (c.u64 32) = (u, some (bytes, entries)) ∧ (List.range entries.length).filter (fun e => (entries.getD e (0, ⟨0,
        0, 0⟩)).1 == h.g.id) = [at'] ∧ h.g.memberAt (entries.getD at' (0, ⟨0, 0, 0⟩)).2 = some head ∧ u.bufferOk c.ctx (c.u64 40) 1024 =
        true ∧ (u.dropGlove c.ctx).slotSeal c.ctx h false = (v, x) ∧ v.slotSeal c.ctx h true = (w, y) :=
  ⟨ev 5000, (cmd 0x41 0 [(16, 8, 5), (32, 8, 4096), (40, 8, 0x30000)]), restore0K, { hbGroup with g := { hbGroup.g with id := 7 } },
    crownTab 7, [(7, seat 0)], 0, 0, 0, 0, _, _, _, restore0S, by decide +kernel, by decide +kernel, by decide +kernel, by decide +kernel,
    by decide +kernel, by decide +kernel, by decide +kernel, by decide +kernel, by decide +kernel, by decide +kernel, read_table
    (by decide +kernel) (by decide +kernel) rfl rfl (by decide +kernel) (by decide +kernel) (by decide +kernel), by decide +kernel,
    by decide +kernel, by decide +kernel, snd_is (by decide +kernel), snd_is (by decide +kernel)⟩

theorem test_meets_RestoreCommandsComplete_1 :
    ∃ (e : Ev) (ctx : Nat) (h : HbGroup) (k : Coded) (r : Restore) (x : Nat) (d : List Byte) (tag : Word) (u : State) (s : State),
      let b := s.begin e
      let w := b.useGroup ctx h.g
      b.codedOf ctx = some k ∧ k.hb = some h ∧ k.restore = some r ∧ r.decided = some x ∧ r.header = none ∧ b.cu.fwFault = false ∧
        w.pieceTested ctx h r.slot 0 = false ∧ w.presentPiece ctx h r 0 = (u, some (d, tag)) :=
  ⟨ev 5000, 1, { hbGroup with g := { hbGroup.g with base := 0x3000 } }, restore1K, restore1R, 5, tierPage, 0, _, restore1S,
    by decide +kernel, by decide +kernel, by decide +kernel, by decide +kernel, by decide +kernel, by decide +kernel, by decide +kernel,
    (present_piece (by decide +kernel) (by decide +kernel) rfl rfl)⟩

theorem test_meets_RestoreCommandsComplete_2 :
    ∃ (e : Ev) (ctx : Nat) (h : HbGroup) (k : Coded) (r : Restore) (x : Nat) (u : State) (s : State),
      let b := s.begin e
      let w := b.useGroup ctx h.g
      let pos := if r.header.isNone then 0 else r.next
      b.codedOf ctx = some k ∧ k.hb = some h ∧ k.restore = some r ∧ r.decided = some x ∧ b.cu.fwFault = false ∧ (r.header.isNone = false →
        r.next < h.seqLen ∧ (seqPalm (lanesUpper w.lanesWord) (w.palmCount ctx) r.next).isSome = true) ∧ w.pieceTested ctx h r.slot pos =
        false ∧ w.presentPiece ctx h r pos = (u, none) :=
  ⟨ev 5000, 1, hbGroup, restore2K, restore1R, 5, _, restore2S, by decide +kernel, by decide +kernel, by decide +kernel, by decide +kernel,
    by decide +kernel, by decide +kernel, by decide +kernel, snd_is (by decide +kernel)⟩

theorem test_meets_RestoreCommandsComplete_3 :
    ∃ (e : Ev) (ctx : Nat) (h : HbGroup) (k : Coded) (r : Restore) (x : Nat) (d : List Byte) (t : List Byte) (tag : Word) (u : State) (s :
      State),
      let b := s.begin e
      let w := b.useGroup ctx h.g
      b.codedOf ctx = some k ∧ k.hb = some h ∧ k.restore = some r ∧ r.decided = some x ∧ r.header = some t ∧ r.next < h.seqLen ∧
        b.cu.fwFault = false ∧ w.pieceTested ctx h r.slot r.next = false ∧ (seqPalm (lanesUpper w.lanesWord) (w.palmCount ctx)
        r.next).isSome = true ∧ w.presentPiece ctx h r r.next = (u, some (d, tag)) :=
  ⟨ev 5000, 1, { hbGroup with g := { hbGroup.g with base := 0x2000 } }, restore3K, restore3R, 5, tierPage, zeroPage, 0, _, restore3S,
    by decide +kernel, by decide +kernel, by decide +kernel, by decide +kernel, by decide +kernel, by decide +kernel, by decide +kernel,
    by decide +kernel, by decide +kernel, (present_piece (by decide +kernel) (by decide +kernel) rfl rfl)⟩

def image2J : ImageJob :=
  { isImport := true, step := 5, handle := 0x99, port := 5, tiles := [], source := 0, todo := [.header], waiting := none, sentAt := 0,
    outside := 0, descriptor := [], digests := [], cuffIndex := 1, cuffBase := 0x1000, digestBase := 0x2000, header := [], record := [],
    got := [], read := [], misfit := false }

def image2K : Coded :=
  { K with image := some image2J }

def image2S : State :=
  chipK image2K

def image3J : ImageJob :=
  { isImport := false, step := 5, handle := 0x99, port := 5, tiles := [], source := 0, todo := [.digests], waiting := none, sentAt := 0,
    outside := 0, descriptor := [], digests := [], cuffIndex := 1, cuffBase := 0x1000, digestBase := 0x2000, header := [], record := [],
    got := [], read := [], misfit := false }

def image3K : Coded :=
  { K with image := some image3J }

def image3S : State :=
  chipK image3K

def image3D : List Byte :=
  State.digestEntries (State.begin (image3S) (ev 5000)) 1 []

def image4J : ImageJob :=
  { isImport := false, step := 5, handle := 0x99, port := 5, tiles := [], source := 0, todo := [.digests], waiting := some (0x2800, 0),
    sentAt := 0, outside := 0, descriptor := [], digests := [], cuffIndex := 1, cuffBase := 0x1000, digestBase := 0x2000, header := [],
    record := [], got := [], read := [], misfit := false }

def image4K : Coded :=
  { K with image := some image4J }

def image4S : State :=
  chipK image4K

theorem test_meets_ImageCommandsComplete_0 :
    ∃ (e : Ev) (c : Cmd) (k : Coded) (ts : List TileEntry) (desc : List Byte) (list : List Byte) (outside : Nat) (u : State) (v : State)
      (w : State) (x : State) (y : State) (s : State),
      let b := s.begin e
      b.rowTakes c 0x42 true = true ∧ b.ctxOpen c.ctx = true ∧ b.codedOf c.ctx = some k ∧ c.mode % 4 ≤ 2 ∧ c.u8 60 ≤ 5 ∧ c.u8 61 ≤ 64 ∧
        k.image = none ∧ k.restore = none ∧ b.readTiles c.ctx (c.u64 32) (c.u32 56) (c.mode % 4 == 0) = (u, some ts) ∧ (c.modeBit 2 =
        false → c.u64 48 = 0) ∧ (0 < c.u8 61 → u.bufferOk c.ctx (c.u64 40) (16 * c.u8 61) = true) ∧ (c.modeBit 2 = true → u.bufferOk c.ctx
        (c.u64 48) 48 = true) ∧ u.bufferRead c.ctx (c.u64 40) (16 * c.u8 61) = (v, some list) ∧ digestsClean (c.u8 61) list = true ∧
        v.bufferRead c.ctx (c.u64 48) (if c.modeBit 2 then 48 else 0) = (w, some desc) ∧ w.exportStep k (c.mode % 4) (c.u64 16) = (x,
        none) ∧ x.outsideTiles c.ctx k (c.mode % 4) ts = (y, outside) :=
  ⟨ev 5000, (cmd 0x42 0 [(16, 8, 5), (24, 8, 0x99), (60, 1, 5), (61, 1, 0), (62, 2, 1)]), K, [], [], [], 0, _, _, _, _, _, chip,
    by decide +kernel, by decide +kernel, by decide +kernel, by decide +kernel, by decide +kernel, by decide +kernel, by decide +kernel,
    by decide +kernel, snd_is (by decide +kernel), by decide +kernel, by decide +kernel, by decide +kernel, snd_is (by decide +kernel),
    by decide +kernel, snd_is (by decide +kernel), snd_is (by decide +kernel), snd_is (by decide +kernel)⟩

theorem test_meets_ImageCommandsComplete_1 :
    ∃ (e : Ev) (c : Cmd) (k : Coded) (ts : List TileEntry) (u : State) (s : State),
      let b := s.begin e
      b.rowTakes c 0x43 true = true ∧ b.ctxOpen c.ctx = true ∧ b.codedOf c.ctx = some k ∧ k.phase = .crowned ∧ k.glove = none ∧ c.u8 44 ≤
        5 ∧ k.image = none ∧ k.restore = none ∧ b.readTiles c.ctx (c.u64 32) (c.u32 40) false = (u, some ts) :=
  ⟨ev 5000, (cmd 0x43 0 [(16, 8, 5), (24, 8, 0x99), (44, 1, 5)]), K, [], _, chip, by decide +kernel, by decide +kernel, by decide +kernel,
    by decide +kernel, by decide +kernel, by decide +kernel, by decide +kernel, by decide +kernel, snd_is (by decide +kernel)⟩

theorem test_meets_ImageCommandsComplete_2 :
    ∃ (e : Ev) (ctx : Nat) (k : Coded) (j : ImageJob) (p : ImagePart) (rest : List ImagePart) (s : State),
      let b := s.begin e
      b.codedOf ctx = some k ∧ k.image = some j ∧ j.waiting = none ∧ j.todo = p :: rest ∧ b.cu.fwFault = false ∧ b.cu.evac = false ∧
        j.isImport = true :=
  ⟨ev 5000, 1, image2K, image2J, .header, [], image2S, by decide +kernel⟩

theorem test_meets_ImageCommandsComplete_3 :
    ∃ (e : Ev) (ctx : Nat) (k : Coded) (j : ImageJob) (p : ImagePart) (rest : List ImagePart) (s : State) (off : Nat) (d : List Byte) (u :
      State),
      let b := s.begin e
      b.codedOf ctx = some k ∧ k.image = some j ∧ j.waiting = none ∧ j.todo = p :: rest ∧ b.cu.fwFault = false ∧ b.cu.evac = false ∧
        j.isImport = false ∧ (j.source = 0 → b.inGuard ctx = false ∧ k.c.toNat = j.step) ∧ b.imagePart ctx k j p = (u, some (off, d)) ∧
        u.cu.evac = false :=
  ⟨ev 5000, 1, image3K, image3J, .digests, [], image3S, 0x2800, image3D, _, by decide +kernel, by decide +kernel, by decide +kernel,
    by decide +kernel, by decide +kernel, by decide +kernel, by decide +kernel, by decide +kernel, snd_is (by decide +kernel),
    by decide +kernel⟩

theorem test_meets_ImageCommandsComplete_4 :
    ∃ (e : Ev) (ctx : Nat) (k : Coded) (j : ImageJob) (part : Nat × Nat) (s : State),
      let b := (s.at e).checkPairs.checkTs
      b.codedOf ctx = some k ∧ k.image = some j ∧ j.waiting = some part ∧ b.cu.fwFault = false ∧ j.sentAt + 2000000 ≤ b.now :=
  ⟨ev 2000000, 1, image4K, image4J, (0x2800, 0), image4S, by decide +kernel⟩

def slot0G : Digest :=
  { ctx := 1, kind := 2, root := false, clearOnRead := true, label := 3, dkey := 0, region := 0, tbase := 0, tlog := 0, expect := 0,
    first := 0, group := 0, stride := 0, hosted := 0xFF, value := 5, bytes := 0, tiles := 0, written := [], twice := false, late := 0,
    frozen := none }

def slot0S : State :=
  { chip with digests := [(4095, slot0G)] }

def slot3T : Tally :=
  { ctx := 1, kind := 2, source := 1, format := 3, root := false, clearOnRead := false, label := 3, hosted := 0xFF, region := 0,
    counts := List.replicate 6 0, acc := 0, inc := 0, excluded := 0, incExcluded := 0, overflow := false, scanning := false, late := 0,
    frozen := none, frozenAcc := 0 }

def slot3S : State :=
  { chip with tallies := [(4095, slot3T)] }

def slot6T : Tally :=
  { ctx := 1, kind := 2, source := 1, format := 3, root := false, clearOnRead := false, label := 3, hosted := 0xFF, region := 0,
    counts := List.replicate 6 0, acc := 0, inc := 0, excluded := 0, incExcluded := 0, overflow := false, scanning := true, late := 0,
    frozen := none, frozenAcc := 0 }

def slot6S : State :=
  { chip with tallies := [(4095, slot6T)] }

theorem test_meets_SlotCommandsComplete_0 :
    ∃ (e : Ev) (c : Cmd) (g : Digest) (s : State),
      let b := s.begin e
      b.rowTakes c 0x50 true = true ∧ b.ctxOpen c.ctx = true ∧ c.u16 16 < 4096 ∧ Tab.get b.digests (c.u16 16) = some g ∧ g.ctx = c.ctx ∧
        c.modeBit 1 = true :=
  ⟨ev 5000, (cmd 0x50 2 [(16, 2, 4095)]), slot0G, slot0S, by decide +kernel⟩

theorem test_meets_SlotCommandsComplete_1 :
    ∃ (e : Ev) (c : Cmd) (l : List Byte) (u : State) (s : State),
      let b := s.begin e
      b.rowTakes c 0x50 true = true ∧ b.ctxOpen c.ctx = true ∧ c.u16 16 < 4096 ∧ Tab.get b.digests (c.u16 16) = none ∧ c.modeBit 1 = false
        ∧ (c.u8 18 = 1 → b.bufferOk c.ctx (c.u64 56) 32 = true ∧ b.bufferRead c.ctx (c.u64 56) 32 = (u, some l)) ∧ (c.u8 18 ≠ 1 → u = b ∧
        l = [] ∧ (b.codedOf c.ctx).isSome = true) ∧ u.digestBad c (digestOf c l) = none ∧ (c.modeBit 0 = true → u.rootStatus c.ctx = none) :=
  ⟨ev 5000, (cmd 0x50 0 [(16, 2, 4095), (18, 1, 2), (19, 1, 0xFF), (24, 8, 3)]), [], _, chip, by decide +kernel, by decide +kernel,
    by decide +kernel, by decide +kernel, by decide +kernel, fun h => absurd h (by decide +kernel), fun _ => ⟨rfl, rfl,
    by decide +kernel⟩, by decide +kernel, by decide +kernel⟩

theorem test_meets_SlotCommandsComplete_2 :
    ∃ (e : Ev) (c : Cmd) (g : Digest) (s : State),
      let b := s.begin e
      b.rowTakes c 0x51 true = true ∧ b.ctxOpen c.ctx = true ∧ Tab.get b.digests (c.u16 16) = some g ∧ g.ctx = c.ctx ∧ b.bufferOk c.ctx
        (c.u64 24) 64 = true :=
  ⟨ev 5000, (cmd 0x51 0 [(16, 2, 4095), (24, 8, 0x30000)]), slot0G, slot0S, by decide +kernel⟩

theorem test_meets_SlotCommandsComplete_3 :
    ∃ (e : Ev) (c : Cmd) (t : Tally) (s : State),
      let b := s.begin e
      b.rowTakes c 0x52 true = true ∧ b.ctxOpen c.ctx = true ∧ c.u16 16 < 4096 ∧ Tab.get b.tallies (c.u16 16) = some t ∧ t.ctx = c.ctx ∧
        c.modeBit 1 = true :=
  ⟨ev 5000, (cmd 0x52 2 [(16, 2, 4095)]), slot3T, slot3S, by decide +kernel⟩

theorem test_meets_SlotCommandsComplete_4 :
    ∃ (e : Ev) (c : Cmd) (s : State),
      let b := s.begin e
      b.rowTakes c 0x52 true = true ∧ b.ctxOpen c.ctx = true ∧ c.u16 16 < 4096 ∧ Tab.get b.tallies (c.u16 16) = none ∧ c.modeBit 1 = false
        ∧ (c.u8 19 ≠ 0 → (b.codedOf c.ctx).isSome = true) ∧ b.tallyBad c (tallyOf c) = none ∧ (c.modeBit 0 = true ∨ c.u8 19 = 1 →
        b.rootStatus c.ctx = none) :=
  ⟨ev 5000, (cmd 0x52 0 [(16, 2, 4095), (18, 1, 2), (19, 1, 1), (20, 1, 6), (21, 1, 0xFF), (24, 8, 3)]), chip, by decide +kernel⟩

theorem test_meets_SlotCommandsComplete_5 :
    ∃ (e : Ev) (c : Cmd) (t : Tally) (s : State),
      let b := s.begin e
      b.rowTakes c 0x53 true = true ∧ b.ctxOpen c.ctx = true ∧ Tab.get b.tallies (c.u16 16) = some t ∧ t.ctx = c.ctx ∧ b.bufferOk c.ctx
        (c.u64 24) 128 = true ∧ t.scanning = false :=
  ⟨ev 5000, (cmd 0x53 0 [(16, 2, 4095), (24, 8, 0x30000)]), slot3T, slot3S, by decide +kernel⟩

theorem test_meets_SlotCommandsComplete_6 :
    ∃ (e : Ev) (c : Cmd) (t : Tally) (s : State),
      let b := s.begin e
      b.rowTakes c 0x53 true = true ∧ b.ctxOpen c.ctx = true ∧ Tab.get b.tallies (c.u16 16) = some t ∧ t.ctx = c.ctx ∧ b.bufferOk c.ctx
        (c.u64 24) 128 = true ∧ t.scanning = true ∧ b.hasJob (fun j => j == Job.tallyRead (c.u16 16)) = false :=
  ⟨ev 5000, (cmd 0x53 0 [(16, 2, 4095), (24, 8, 0x30000)]), slot6T, slot6S, by decide +kernel⟩

theorem test_meets_SlotCommandsComplete_7 :
    ∃ (e : Ev) (slot : Nat) (t : Tally) (s : State),
      let b := (s.at e).checkPairs.checkTs
      Tab.get b.tallies slot = some t ∧ t.scanning = true ∧ (∀ p ∈ b.weightStitches t, b.testing (p.1.handKey p.2 false) = false) ∧ (∀ p ∈
        b.weightStitches t, (b.stitch p.1.num p.2).fill = false) :=
  ⟨ev 5000, 4095, slot6T, slot6S, by decide +kernel⟩

def tile1F : Frame :=
  { num := 0, state := .resident, region := 5, tile := 2, idleAt := 0 }

def tile1S : State :=
  { chip with frames := [tile1F] }

def tile2F : Frame :=
  { num := 0, state := .idle, region := 5, tile := 2, idleAt := 0 }

def tile2S : State :=
  { chip with frames := [tile2F] }

def tile3F : Frame :=
  { num := 0, state := .copying, region := 5, tile := 2, idleAt := 0 }

def tile3S : State :=
  { chip with frames := [tile3F] }

def tile4S : State :=
  { chip with promos := [{ id := 1, holder := .brim 3, region := 5, tile := 2, deadline := 0, order := 0, shared := false }],
              tileRefs := [⟨.brim 3, 5, 2⟩] }

def tile7S : State :=
  { chip with frames := [tile3F],
              promos := [{ id := 1, holder := .direct 1, region := 5, tile := 2, deadline := 0, order := 0, shared := false }],
              tileRefs := [⟨.direct 1, 5, 2⟩] }

def tile10S : State :=
  { chip with frames := [tile3F],
              promos := [{ id := 1, holder := .direct 1, region := 5, tile := 2, deadline := 0, order := 0, shared := false }],
              tileRefs := [⟨.direct 1, 5, 2⟩], lostPages := [(5, 2, 0)],
              mem := { chip.mem with recs := [(pageKey true 170, { neverRec with st := 3, stInv := 0xFC })] } }

def tile11P : Promo :=
  { id := 1, holder := .brim 3, region := 5, tile := 2, deadline := 5000, order := 0, shared := false }

def tile11S : State :=
  { chip with promos := [tile11P] }

def tile12P : Promo :=
  { id := 1, holder := .direct 1, region := 5, tile := 2, deadline := 5000, order := 0, shared := false }

def tile12S : State :=
  { chip with promos := [tile12P], tileRefs := [⟨.direct 1, 5, 2⟩] }

theorem test_meets_TileCommandsComplete_0 :
    ∃ (e : Ev) (c : Cmd) (p : Region) (r : Region) (s : State),
      let b := s.begin e
      let region := c.u16 16
      let tile := c.u32 20
      let h := Holder.direct c.ctx
      b.rowTakes c 0x60 true = true ∧ b.ctxOpen c.ctx = true ∧ b.pool = some p ∧ b.region? region = some r ∧ r.lowerTier = true ∧ tile <
        r.len / 262144 ∧ (r.owner = c.ctx ∨ r.share = true) ∧ b.quarantined region tile = false ∧ b.holds h region tile = true :=
  ⟨ev 5000, (cmd 0x60 0 [(16, 2, 5), (20, 4, 2), (24, 8, 9000)]), poolR, tierR, { chip with tileRefs := [⟨.direct 1, 5, 2⟩] },
    by decide +kernel⟩

theorem test_meets_TileCommandsComplete_1 :
    ∃ (e : Ev) (c : Cmd) (p : Region) (r : Region) (s : State) (f : Frame),
      let b := s.begin e
      let region := c.u16 16
      let tile := c.u32 20
      let h := Holder.direct c.ctx
      b.rowTakes c 0x60 true = true ∧ b.ctxOpen c.ctx = true ∧ b.pool = some p ∧ b.region? region = some r ∧ r.lowerTier = true ∧ tile <
        r.len / 262144 ∧ (r.owner = c.ctx ∨ r.share = true) ∧ b.quarantined region tile = false ∧ b.holds h region tile = false ∧
        b.upperCharge c.ctx + 1 ≤ b.upperQuota c.ctx ∧ b.frameOf region tile = some f ∧ f.state = .resident :=
  ⟨ev 5000, (cmd 0x60 0 [(16, 2, 5), (20, 4, 2), (24, 8, 9000)]), poolR, tierR, tile1S, tile1F, by decide +kernel⟩

theorem test_meets_TileCommandsComplete_2 :
    ∃ (e : Ev) (c : Cmd) (p : Region) (r : Region) (s : State) (f : Frame),
      let b := s.begin e
      let region := c.u16 16
      let tile := c.u32 20
      let h := Holder.direct c.ctx
      b.rowTakes c 0x60 true = true ∧ b.ctxOpen c.ctx = true ∧ b.pool = some p ∧ b.region? region = some r ∧ r.lowerTier = true ∧ tile <
        r.len / 262144 ∧ (r.owner = c.ctx ∨ r.share = true) ∧ b.quarantined region tile = false ∧ b.holds h region tile = false ∧
        b.upperCharge c.ctx + 1 ≤ b.upperQuota c.ctx ∧ b.frameOf region tile = some f ∧ f.state = .idle :=
  ⟨ev 5000, (cmd 0x60 0 [(16, 2, 5), (20, 4, 2), (24, 8, 9000)]), poolR, tierR, tile2S, tile2F, by decide +kernel⟩

theorem test_meets_TileCommandsComplete_3 :
    ∃ (e : Ev) (c : Cmd) (p : Region) (r : Region) (s : State) (f : Frame),
      let b := s.begin e
      let region := c.u16 16
      let tile := c.u32 20
      let h := Holder.direct c.ctx
      b.rowTakes c 0x60 true = true ∧ b.ctxOpen c.ctx = true ∧ b.pool = some p ∧ b.region? region = some r ∧ r.lowerTier = true ∧ tile <
        r.len / 262144 ∧ (r.owner = c.ctx ∨ r.share = true) ∧ b.quarantined region tile = false ∧ b.holds h region tile = false ∧
        b.upperCharge c.ctx + 1 ≤ b.upperQuota c.ctx ∧ b.frameOf region tile = some f ∧ f.state = .copying :=
  ⟨ev 5000, (cmd 0x60 0 [(16, 2, 5), (20, 4, 2), (24, 8, 9000)]), poolR, tierR, tile3S, tile3F, by decide +kernel⟩

theorem test_meets_TileCommandsComplete_4 :
    ∃ (e : Ev) (c : Cmd) (p : Region) (r : Region) (s : State),
      let b := s.begin e
      let region := c.u16 16
      let tile := c.u32 20
      let h := Holder.direct c.ctx
      b.rowTakes c 0x60 true = true ∧ b.ctxOpen c.ctx = true ∧ b.pool = some p ∧ b.region? region = some r ∧ r.lowerTier = true ∧ tile <
        r.len / 262144 ∧ (r.owner = c.ctx ∨ r.share = true) ∧ b.quarantined region tile = false ∧ b.holds h region tile = false ∧
        b.upperCharge c.ctx + 1 ≤ b.upperQuota c.ctx ∧ b.frameOf region tile = none ∧
      let v := serveWaiters b.promos.length b
      (v.frameOf region tile).isSome = true :=
  ⟨ev 5000, (cmd 0x60 0 [(16, 2, 5), (20, 4, 2), (24, 8, 9000)]), poolR, tierR, tile4S, by decide +kernel⟩

theorem test_meets_TileCommandsComplete_5 :
    ∃ (e : Ev) (c : Cmd) (p : Region) (r : Region) (s : State) (t : State),
      let b := s.begin e
      let region := c.u16 16
      let tile := c.u32 20
      let h := Holder.direct c.ctx
      b.rowTakes c 0x60 true = true ∧ b.ctxOpen c.ctx = true ∧ b.pool = some p ∧ b.region? region = some r ∧ r.lowerTier = true ∧ tile <
        r.len / 262144 ∧ (r.owner = c.ctx ∨ r.share = true) ∧ b.quarantined region tile = false ∧ b.holds h region tile = false ∧
        b.upperCharge c.ctx + 1 ≤ b.upperQuota c.ctx ∧ b.frameOf region tile = none ∧
      let v := serveWaiters b.promos.length b
      v.frameOf region tile = none ∧ v.allocFrame region tile = some t :=
  ⟨ev 5000, (cmd 0x60 0 [(16, 2, 5), (20, 4, 2), (24, 8, 9000)]), poolR, tierR, chip, (State.allocFrame (serveWaiters (State.begin chip
    (ev 5000)).promos.length (State.begin chip (ev 5000))) 5 2).get (by decide +kernel), by decide +kernel, by decide +kernel,
    by decide +kernel, by decide +kernel, by decide +kernel, by decide +kernel, by decide +kernel, by decide +kernel, by decide +kernel,
    by decide +kernel, by decide +kernel, by decide +kernel, (Option.some_get _).symm⟩

theorem test_meets_TileCommandsComplete_6 :
    ∃ (e : Ev) (c : Cmd) (p : Region) (r : Region) (s : State),
      let b := s.begin e
      let region := c.u16 16
      let tile := c.u32 20
      let h := Holder.direct c.ctx
      b.rowTakes c 0x60 true = true ∧ b.ctxOpen c.ctx = true ∧ b.pool = some p ∧ b.region? region = some r ∧ r.lowerTier = true ∧ tile <
        r.len / 262144 ∧ (r.owner = c.ctx ∨ r.share = true) ∧ b.quarantined region tile = false ∧ b.holds h region tile = false ∧
        b.upperCharge c.ctx + 1 ≤ b.upperQuota c.ctx ∧ b.frameOf region tile = none ∧
      let v := serveWaiters b.promos.length b
      v.frameOf region tile = none ∧ v.allocFrame region tile = none ∧ c.u64 24 ≠ 0 :=
  ⟨ev 5000, (cmd 0x60 0 [(16, 2, 5), (20, 4, 2), (24, 8, 9000)]), { poolR with len := 0x40000 }, tierR, fullPool, by decide +kernel,
    by decide +kernel, by decide +kernel, by decide +kernel, by decide +kernel, by decide +kernel, by decide +kernel, by decide +kernel,
    by decide +kernel, by decide +kernel, by decide +kernel, by decide +kernel, no_frame, by decide +kernel⟩

theorem test_meets_TileCommandsComplete_7 :
    ∃ (e : Ev) (c : Cmd) (s : State),
      let b := s.begin e
      let region := c.u16 16
      let tile := c.u32 20
      b.rowTakes c 0x61 true = true ∧ b.ctxOpen c.ctx = true ∧ b.promoting c.ctx region tile = true :=
  ⟨ev 5000, (cmd 0x61 0 [(16, 2, 5), (20, 4, 2)]), tile7S, by decide +kernel⟩

theorem test_meets_TileCommandsComplete_8 :
    ∃ (e : Ev) (c : Cmd) (s : State),
      let b := s.begin e
      let region := c.u16 16
      let tile := c.u32 20
      b.rowTakes c 0x61 true = true ∧ b.ctxOpen c.ctx = true ∧ b.promoting c.ctx region tile = false ∧ b.holds (.direct c.ctx) region tile
        = true :=
  ⟨ev 5000, (cmd 0x61 0 [(16, 2, 5), (20, 4, 2)]), { chip with tileRefs := [⟨.direct 1, 5, 2⟩] }, by decide +kernel⟩

theorem test_meets_TileCommandsComplete_9 :
    ∃ (e : Ev) (region : Nat) (tile : Nat) (r : Region) (f : Frame) (u : State) (s : State),
      let b := (s.at e).checkPairs.checkTs
      b.nextCopy = some (region, tile) ∧ b.region? region = some r ∧ b.frameOf region tile = some f ∧ b.tileTested r f = false ∧
        b.copyTile r f = (u, true) :=
  ⟨ev 5000, 5, 2, tierR, tile3F, _, tile7S, by decide +kernel, by decide +kernel, by decide +kernel, by decide +kernel, snd_is
    (by decide +kernel)⟩

theorem test_meets_TileCommandsComplete_10 :
    ∃ (e : Ev) (region : Nat) (tile : Nat) (r : Region) (f : Frame) (u : State) (s : State),
      let b := (s.at e).checkPairs.checkTs
      b.nextCopy = some (region, tile) ∧ b.region? region = some r ∧ b.frameOf region tile = some f ∧ b.tileTested r f = false ∧
        b.copyTile r f = (u, false) :=
  ⟨ev 5000, 5, 2, tierR, tile3F, _, tile10S, by decide +kernel, by decide +kernel, by decide +kernel, by decide +kernel, snd_is
    (by decide +kernel)⟩

theorem test_meets_TileCommandsComplete_11 :
    ∃ (e : Ev) (id : Nat) (p : Promo) (s : State) (n : Nat),
      let b := s.at e
      b.promos.find? (fun p => p.id == id) = some p ∧ p.deadline ≠ 0 ∧ p.deadline ≤ b.now ∧ p.holder = .brim n :=
  ⟨ev 5000, 1, tile11P, tile11S, 3, by decide +kernel⟩

theorem test_meets_TileCommandsComplete_12 :
    ∃ (e : Ev) (id : Nat) (p : Promo) (s : State) (ctx : Nat),
      let b := s.at e
      b.promos.find? (fun p => p.id == id) = some p ∧ p.deadline ≠ 0 ∧ p.deadline ≤ b.now ∧ p.holder = .direct ctx :=
  ⟨ev 5000, 1, tile12P, tile12S, 1, by decide +kernel⟩

def brim1N : Brim :=
  { num := 3, ctx := 1, depth := 1, wrap := false, groups := [{ region := 5, first := 0, count := 1 }], slots := 0x8000, tmax := 1,
    reserve := 1, seq := 0, held := [], past := [] }

def brim1S : State :=
  { chip with brims := [brim1N] }

theorem test_meets_BrimCommandsComplete_0 :
    ∃ (e : Ev) (c : Cmd) (tmax : Nat) (gs : List TileGroup) (u : State) (s : State),
      let b := s.begin e
      let d := c.u8 17
      b.rowTakes c 0x62 true = true ∧ b.ctxOpen c.ctx = true ∧ c.u8 16 ≤ 63 ∧ b.readGroups c.ctx (c.u64 32) = (u, some (tmax, gs)) ∧
        u.plainTable c.ctx (c.u64 40) (d * (16 + 8 * tmax)) = true ∧ u.brimOf (c.u8 16) = none ∧ u.brimBad d tmax gs = none ∧ (∀ g ∈ gs,
        u.groupAllowed c.ctx g = true) ∧ u.upperCharge c.ctx + reservation (c.modeBit 0) d gs ≤ u.upperQuota c.ctx :=
  ⟨ev 5000, (cmd 0x62 0 [(16, 1, 3), (17, 1, 1), (24, 8, 9000), (32, 8, 8192), (40, 8, 0x8000)]), 1, [{ region := 5, first := 0,
                                                                                                        count := 1 }], _, chip,
    by decide +kernel, by decide +kernel, by decide +kernel, read_groups rfl rfl (by decide +kernel) (by decide +kernel)
    (by decide +kernel), by decide +kernel, by decide +kernel, by decide +kernel, by decide +kernel, by decide +kernel⟩

theorem test_meets_BrimCommandsComplete_1 :
    ∃ (e : Ev) (c : Cmd) (n : Brim) (s : State),
      let b := s.begin e
      b.rowTakes c 0x63 (!c.modeBit 0) = true ∧ b.ctxOpen c.ctx = true ∧ b.brimOf (c.u8 16) = some n ∧ n.ctx = c.ctx :=
  ⟨ev 5000, (cmd 0x63 0 [(16, 1, 3)]), brim1N, brim1S, by decide +kernel⟩

theorem test_meets_BrimCommandsComplete_2 :
    ∃ (e : Ev) (c : Cmd) (n : Brim) (s : State),
      let b := s.begin e
      b.rowTakes c 0x63 (c.modeBit 0) = true ∧ b.ctxOpen c.ctx = true ∧ b.brimOf (c.u8 16) = some n ∧ n.ctx = c.ctx :=
  ⟨ev 5000, (cmd 0x63 1 [(16, 1, 3)]), brim1N, brim1S, by decide +kernel⟩

theorem test_meets_ServiceCommandsComplete_0 :
    ∃ (e : Ev) (c : Cmd) (s : State),
      let b := s.begin e
      b.rowTakes c 0x7F true = true :=
  ⟨ev 5000, nopCmd, chip, by decide +kernel⟩

theorem test_meets_ServiceCommandsComplete_1 :
    ∃ (e : Ev) (c : Cmd) (s : State),
      let b := s.begin e
      b.rowTakes c 0x74 true = true ∧ b.fenceAllowed c.ring (c.u16 16) = true ∧ c.u16 16 < 8192 :=
  ⟨ev 5000, (cmd 0x74 0 [(16, 2, 0)]), ring2S, by decide +kernel⟩

theorem test_meets_ServiceCommandsComplete_2 :
    ∃ (e : Ev) (c : Cmd) (s : State),
      let b := s.begin e
      b.rowTakes c 0x72 true = true ∧ b.ctxOpen c.ctx = true ∧ b.bufferOk c.ctx (c.u64 16) 64 = true :=
  ⟨ev 5000, (cmd 0x72 0 [(16, 8, 0x30000)]), chip, by decide +kernel⟩

theorem test_meets_ServiceCommandsComplete_3 :
    ∃ (e : Ev) (c : Cmd) (s : State),
      let b := s.begin e
      let f := b.cu.fuses
      let v := c.u8 16
      b.rowTakes c 0x73 true = true ∧ c.mode % 4 = 0 ∧ 1 ≤ v ∧ v ≤ 4 ∧ v = f.mMin :=
  ⟨ev 5000, (cmd 0x73 0 [(16, 1, 1)]), chip, by decide +kernel⟩

theorem test_meets_ServiceCommandsComplete_4 :
    ∃ (e : Ev) (c : Cmd) (s : State),
      let b := s.begin e
      let f := b.cu.fuses
      let v := c.u8 16
      b.rowTakes c 0x73 true = true ∧ c.mode % 4 = 0 ∧ 1 ≤ v ∧ v ≤ 4 ∧ v ≠ f.mMin ∧ f.log.length < 32 ∧ (v < f.mMin → 0 < f.mMinLeft) :=
  ⟨ev 5000, (cmd 0x73 0 [(16, 1, 4)]), chip, by decide +kernel⟩

theorem test_meets_ServiceCommandsComplete_5 :
    ∃ (e : Ev) (c : Cmd) (s : State),
      let b := s.begin e
      let f := b.cu.fuses
      let v := c.u8 16
      b.rowTakes c 0x73 true = true ∧ c.mode % 4 = 1 ∧ v ≤ 1 ∧ v ≠ (if f.witness then 1 else 0) ∧ f.log.length < 32 ∧ 0 < f.witnessLeft :=
  ⟨ev 5000, (cmd 0x73 1 [(16, 1, 1)]), chip, by decide +kernel⟩

theorem test_meets_ServiceCommandsComplete_6 :
    ∃ (e : Ev) (c : Cmd) (s : State),
      let b := s.begin e
      b.rowTakes c 0x73 true = true ∧ c.mode % 4 = 2 :=
  ⟨ev 5000, (cmd 0x73 2 []), chip, by decide +kernel⟩

theorem test_meets_ServiceCommandsComplete_7 :
    ∃ (e : Ev) (c : Cmd) (s : State),
      let b := s.begin e
      b.rowTakes c 0x73 true = true ∧ c.mode % 4 = 3 :=
  ⟨ev 5000, (cmd 0x73 3 []), chip, by decide +kernel⟩

theorem test_meets_ServiceCommandsComplete_8 :
    ∃ (e : Ev) (c : Cmd) (s : State),
      let b := s.begin e
      b.rowTakes c 0x70 true = true :=
  ⟨ev 5000, (cmd 0x70 2 []), chip, by decide +kernel⟩

theorem test_meets_ServiceCommandsComplete_9 :
    ∃ (e : Ev) (c : Cmd) (s : State),
      let b := s.begin e
      let i := instIdx (c.ring / 4096)
      b.rowTakes c 0x71 true = true ∧ c.mode % 4 ≤ 2 ∧ (b.inst[i]).test.running = false ∧ (b.inst[i]).test.pending = false ∧
        b.cu.power.clamp = false :=
  ⟨ev 5000, (cmd 0x71 0 []), chip, by decide +kernel⟩

def upkeep6S : State :=
  { chip with inst := chip.inst.set 0 { unit false with test := { Inst.reset.test with pending := true } } }

def upkeep7S : State :=
  { chip with inst := chip.inst.set 0 { unit false with test := { Inst.reset.test with running := true } } }

theorem test_meets_UpkeepCommandsComplete_0 :
    ∃ (e : Ev) (s : State),
      let b := s.at e
      (s.cu.ceWindow + 1000000000 ≤ b.now ∨ b.now < s.cu.ceWindow) :=
  ⟨ev 1000000000, chip, by decide +kernel⟩

theorem test_meets_UpkeepCommandsComplete_1 :
    ∃ (e : Ev) (i : Fin 16) (idle : Nat) (s : State) (k : Nat),
      let b := (s.at e).checkPairs.checkTs
      let x := b.inst[i]
      let waiting := b.mem.repairQ.find? (fun k => decide (keyInst k = i) && (b.mergeOf k).isNone)
      inService x = true ∧ x.test.running = false ∧ x.scrub.paused = false ∧ x.scrub.idle ≤ idle ∧ waiting = some k :=
  ⟨ev 5000, 1, 64, { chip with mem := { chip.mem with repairQ := [1] } }, 1, by decide +kernel⟩

theorem test_meets_UpkeepCommandsComplete_2 :
    ∃ (e : Ev) (i : Fin 16) (idle : Nat) (s : State) (k : Nat),
      let b := (s.at e).checkPairs.checkTs
      let x := b.inst[i]
      let waiting := b.mem.repairQ.find? (fun k => decide (keyInst k = i) && (b.mergeOf k).isNone)
      inService x = true ∧ x.test.running = false ∧ x.scrub.paused = false ∧ x.scrub.idle ≤ idle ∧ waiting = none ∧ leastPage (b.lapPages
        i x.scrub.pos) = some k :=
  ⟨ev 5000, 1, 64, chip, 1, by decide +kernel⟩

theorem test_meets_UpkeepCommandsComplete_3 :
    ∃ (e : Ev) (i : Fin 16) (idle : Nat) (s : State),
      let b := (s.at e).checkPairs.checkTs
      let x := b.inst[i]
      let waiting := b.mem.repairQ.find? (fun k => decide (keyInst k = i) && (b.mergeOf k).isNone)
      inService x = true ∧ x.test.running = false ∧ x.scrub.paused = false ∧ x.scrub.idle ≤ idle ∧ waiting = none ∧ b.lapPages i
        x.scrub.pos = [] :=
  ⟨ev 5000, 5, 64, chip, by decide +kernel⟩

theorem test_meets_UpkeepCommandsComplete_4 :
    ∃ (e : Ev) (i : Fin 16) (s : State),
      let b := s.at e
      let x := (s.inst[i]).scrub
      (s.inst[i]).active = true ∧ x.lapLate = false ∧ x.lapStart + x.lapLimit * 3600000000000 ≤ b.now :=
  ⟨ev 86400000000000, 15, chip, by decide +kernel⟩

theorem test_meets_UpkeepCommandsComplete_5 :
    ∃ (e : Ev) (i : Fin 16) (s : State),
      let b := s.at e
      let x := (s.inst[i]).test
      s.cu.started = true ∧ (s.inst[i]).active = true ∧ x.pending = false ∧ x.running = false ∧ (if x.last = 0 then x.dueAt else x.last) +
        s.cu.testInterval * 1000000000 ≤ b.now :=
  ⟨ev 86400000000000, 0, chip, by decide +kernel⟩

theorem test_meets_UpkeepCommandsComplete_6 :
    ∃ (e : Ev) (i : Fin 16) (s : State),
      let b := s.at e
      let x := (s.inst[i]).test
      x.pending = true ∧ x.overdue = false ∧ x.running = false ∧ (64 ≤ x.deferrals ∨ x.dueAt + 14400000000000 ≤ b.now) :=
  ⟨ev 14400000000000, 0, upkeep6S, by decide +kernel⟩

theorem test_meets_UpkeepCommandsComplete_7 :
    ∃ (e : Ev) (i : Fin 16) (s : State),
      let b := (s.at e).checkPairs.checkTs
      let x := (b.inst[i]).test
      x.running = true :=
  ⟨ev 5000, 0, upkeep7S, by decide +kernel⟩

theorem test_meets_UpkeepCommandsComplete_8 :
    ∃ (e : Ev) (i : Fin 16) (s : State),
      let b := (s.at e).checkPairs.checkTs
      let x := (b.inst[i]).test
      x.running = true ∧ x.mode = 0 ∧ ((b.inst[i]).lower = false ∨ b.ordered i = false) :=
  ⟨ev 5000, 0, upkeep7S, by decide +kernel⟩

def sendingAndTimers2E : Ev :=
  { ev 5000 with lane := some { primary := 1, shadow := 2, third := 3, again := 4 } }

theorem test_meets_SendingAndTimersComplete_0 :
    ∃ (i : Fin 16) (s : State),
      (s.inst[i]).lower = false ∧ (s.inst[i]).active = true :=
  ⟨0, chip, by decide +kernel⟩

theorem test_meets_SendingAndTimersComplete_1 :
    ∃ (e : Ev) (i : Fin 16) (d : Delta) (gl : Glove) (s : State),
      let b := (s.at e).checkPairs.checkTs
      b.deltas.find? (fun d => d.inst == i.val) = some d ∧ (b.inst[i]).halted = false ∧ b.agentWaits i = false ∧ b.gloveOf d.ctx = some gl ∧
      let u := b.useGroup d.ctx gl.g
      let r := (u.trimDelta d).seats.foldl (fun (acc : State × List Nat) j => if acc.1.agentWaits i ∨ acc.1.inst[i].halted then (acc.1,
        acc.2 ++ [j]) else ((acc.1.sendSeat gl d j).1, if (acc.1.sendSeat gl d j).2 then acc.2 else acc.2 ++ [j])) (u, [])
      r.2 = [] :=
  ⟨ev 5000, 0, wideD, wideG, chipW, by decide +kernel⟩

theorem test_meets_SendingAndTimersComplete_2 :
    ∃ (e : Ev) (i : Fin 16) (d : Delta) (gl : Glove) (s : State),
      let b := (s.at e).checkPairs.checkTs
      b.deltas.find? (fun d => d.inst == i.val) = some d ∧ (b.inst[i]).halted = false ∧ b.agentWaits i = false ∧ b.gloveOf d.ctx = some gl ∧
      let u := b.useGroup d.ctx gl.g
      let r := (u.trimDelta d).seats.foldl (fun (acc : State × List Nat) j => if acc.1.agentWaits i ∨ acc.1.inst[i].halted then (acc.1,
        acc.2 ++ [j]) else ((acc.1.sendSeat gl d j).1, if (acc.1.sendSeat gl d j).2 then acc.2 else acc.2 ++ [j])) (u, [])
      r.2 ≠ [] :=
  ⟨sendingAndTimers2E, 0, wideD, wideG, chipW, by decide +kernel⟩

theorem test_meets_SendingAndTimersComplete_3 :
    ∃ (e : Ev) (id : Nat) (x : Sent) (s : State),
      let b := s.at e
      s.sent.find? (fun x => x.id == id) = some x ∧ x.last + 250000 ≤ b.now ∧ x.msg.type ≠ tExport ∧ s.cu.evac = false ∧ (s.cu.fwFault =
        false ∨ x.msg.type = tDelta) :=
  ⟨ev 250000, 9, waiting tDelta, { chipG KG with sent := [waiting tDelta] }, by decide +kernel⟩

theorem test_meets_SendingAndTimersComplete_4 :
    ∃ (e : Ev) (id : Nat) (x : Sent) (s : State),
      let b := s.begin e
      b.sent.find? (fun x => x.id == id) = some x ∧ x.first + 2000000 ≤ b.now ∧ x.msg.type ≠ tExport ∧ b.cu.fwFault = false ∧ x.member <
        0xFD ∧ Wire.toHatbox x.msg = false ∧ ((x.msg.type ≠ tVote ∧ x.msg.type ≠ tCrown) ∨ x.msg.phase = 1) ∧ (b.gloveOf x.ctx).isSome =
        true :=
  ⟨ev 2000000, 9, waiting tDelta, { chipG KG with sent := [waiting tDelta] }, by decide +kernel⟩

theorem test_meets_SendingAndTimersComplete_5 :
    ∃ (e : Ev) (id : Nat) (x : Sent) (s : State) (gl : Glove),
      let b := s.begin e
      b.sent.find? (fun x => x.id == id) = some x ∧ x.first + 2000000 ≤ b.now ∧ x.msg.type ≠ tExport ∧ b.cu.fwFault = false ∧ x.member <
        0xFD ∧ Wire.toHatbox x.msg = false ∧ (x.msg.type = tVote ∨ x.msg.type = tCrown) ∧ x.msg.phase ≠ 1 ∧ b.gloveOf x.ctx = some gl ∧
        gl.g.id = x.msg.cGlove ∧ gl.g.coord x.member = x.dst :=
  ⟨ev 2000000, 9, waiting tVote, { chipG KG with sent := [waiting tVote] }, glove, by decide +kernel⟩

theorem test_meets_SendingAndTimersComplete_6 :
    ∃ (e : Ev) (id : Nat) (x : Sent) (s : State),
      let b := s.begin e
      b.sent.find? (fun x => x.id == id) = some x ∧ x.first + 2000000 ≤ b.now ∧ x.msg.type ≠ tExport ∧ b.cu.fwFault = false ∧ x.member <
        0xFD ∧ Wire.toHatbox x.msg = true ∧ x.msg.type ≠ tSeal ∧ x.msg.type ≠ tAbort :=
  ⟨ev 2000000, 9, waiting tHatbox, { chipB (KB none) with sent := [waiting tHatbox] }, by decide +kernel⟩

theorem test_meets_SendingAndTimersComplete_7 :
    ∃ (e : Ev) (k : CollKey) (c : Coll) (s : State),
      let b := s.begin e
      b.collOf k = some c ∧ b.cu.fwFault = false ∧ CollKey.isRound k = false ∧ c.me = c.gatherer ∧ c.acceptedAt + c.timeout ≤ b.now ∧
        k.phase ≠ phRestore ∧ c.complete = false :=
  ⟨ev 20000000, { ctx := 1, step := 0, glove := 7, phase := phForm }, coll 0, { chipG KG with colls := [coll 0] }, by decide +kernel⟩

theorem test_meets_SendingAndTimersComplete_8 :
    ∃ (e : Ev) (k : CollKey) (c : Coll) (s : State),
      let b := s.begin e
      b.collOf k = some c ∧ b.cu.fwFault = false ∧ CollKey.isRound k = false ∧ c.acceptedAt + 2 * c.timeout + 2000000 ≤ b.now :=
  ⟨ev 42000000, { ctx := 1, step := 0, glove := 7, phase := phForm }, coll 1, { chipG KG with colls := [coll 1] }, by decide +kernel⟩

def stitch0F : Fold :=
  { ctx := 1, region := 4, idx := 3, bytes := zeroPage, tag := 0, mask := 0, form := false }

def stitch0S : State :=
  { chipG KG with folds := [stitch0F] }

def stitch1F : Fold :=
  { ctx := 1, region := 4, idx := 3, bytes := zeroPage, tag := 0, mask := 4, form := false }

def stitch1S : State :=
  { chipG KG with folds := [stitch1F] }

def stitch7C : Chain :=
  { ctx := 1, hb := false, stripe := 1, member := 0, erased := [0], step := 5, darn := 0, region := 3, idx := 0, why := .demand,
    check := none, result := none }

def stitch7S : State :=
  { chipG KG with chains := [stitch7C] }

theorem test_meets_StitchMessagesComplete_0 :
    ∃ (e : Ev) (src : Coord) (m : Wire) (gl : Glove) (k : Coded) (r : Region) (idx : Nat) (f : Fold) (u : State) (s : State),
      let b := s.begin e
      let ctx := m.cCtx
      let stripe := m.bodyField 0x0D 4
      let j := m.bodyField 0x11 1
      let d := m.bodyField 0x12 1
      let holder := parityHolder gl.g.n gl.g.m stripe j
      let unit := keyInst (r.handKey idx false)
      m.type = tDelta ∧ m.sub = 0 ∧ b.cu.fwFault = false ∧ b.dropReason src m = none ∧ b.repeated src m = false ∧ b.gloveOf ctx = some gl
        ∧ b.codedOf ctx = some k ∧ j < gl.g.m ∧ stripe < gl.g.stripes ∧ d < gl.g.k ∧ b.seatAt ctx gl holder true (stripe / gl.g.period) =
        some (r, idx) ∧ (b.inst[unit]).test.running = false ∧ m.stepField % 2 ^ 56 = k.c.toNat + 1 ∧ m.stepField / 2 ^ 56 = k.attempt ∧
        k.sweeping = false ∧ k.phase ≠ .discarding ∧ b.foldFailed ctx r idx = false ∧ b.getFold ctx r idx false = (u, .entry f) ∧
        f.mask.getLsbD d = false :=
  ⟨ev 5000, seat 3, (mkWire tDelta 0 1 7 3 (stepBody 6 12 0 2 0) zeroPage), glove, KG, parityR, 3, stitch0F, _, stitch0S,
    by decide +kernel, by decide +kernel, by decide +kernel, (drop_page _ _ _ (by decide +kernel)).trans (by decide +kernel),
    by decide +kernel, by decide +kernel, by decide +kernel, by decide +kernel, by decide +kernel, by decide +kernel, by decide +kernel,
    by decide +kernel, by decide +kernel, by decide +kernel, by decide +kernel, by decide +kernel, rfl, by exact rfl, by decide +kernel⟩

theorem test_meets_StitchMessagesComplete_1 :
    ∃ (e : Ev) (src : Coord) (m : Wire) (gl : Glove) (k : Coded) (r : Region) (idx : Nat) (f : Fold) (u : State) (s : State),
      let b := s.begin e
      let ctx := m.cCtx
      let stripe := m.bodyField 0x0D 4
      let j := m.bodyField 0x11 1
      let d := m.bodyField 0x12 1
      let holder := parityHolder gl.g.n gl.g.m stripe j
      let unit := keyInst (r.handKey idx false)
      m.type = tDelta ∧ m.sub = 0 ∧ b.cu.fwFault = false ∧ b.dropReason src m = none ∧ b.repeated src m = false ∧ b.gloveOf ctx = some gl
        ∧ b.codedOf ctx = some k ∧ j < gl.g.m ∧ stripe < gl.g.stripes ∧ d < gl.g.k ∧ b.seatAt ctx gl holder true (stripe / gl.g.period) =
        some (r, idx) ∧ (b.inst[unit]).test.running = false ∧ m.stepField % 2 ^ 56 = k.c.toNat + 1 ∧ m.stepField / 2 ^ 56 = k.attempt ∧
        k.sweeping = false ∧ k.phase ≠ .discarding ∧ b.foldFailed ctx r idx = false ∧ b.getFold ctx r idx false = (u, .entry f) ∧
        f.mask.getLsbD d = true :=
  ⟨ev 5000, seat 3, (mkWire tDelta 0 1 7 3 (stepBody 6 12 0 2 0) zeroPage), glove, KG, parityR, 3, stitch1F, _, stitch1S,
    by decide +kernel, by decide +kernel, by decide +kernel, (drop_page _ _ _ (by decide +kernel)).trans (by decide +kernel),
    by decide +kernel, by decide +kernel, by decide +kernel, by decide +kernel, by decide +kernel, by decide +kernel, by decide +kernel,
    by decide +kernel, by decide +kernel, by decide +kernel, by decide +kernel, by decide +kernel, rfl, by exact rfl, by decide +kernel⟩

theorem test_meets_StitchMessagesComplete_2 :
    ∃ (e : Ev) (src : Coord) (m : Wire) (s : State),
      let b := s.begin e
      m.type = tDeltaAck ∧ b.dropReason src m = none :=
  ⟨ev 5000, seat 1, (mkWire tDeltaAck 0 1 7 1 [] []), chipG KG, by decide +kernel⟩

theorem test_meets_StitchMessagesComplete_3 :
    ∃ (e : Ev) (src : Coord) (m : Wire) (s : State),
      let b := s.begin e
      m.type = tDarnReq ∧ b.cu.fwFault = false ∧ b.dropReason src m = none ∧ b.chainWaits m = false ∧ m.sub = 3 :=
  ⟨ev 5000, seat 3, (mkWire tDarnReq 3 1 7 3 (chainBody (chainWord 1 [3] 5 0 false) 0 0) []), chipG KG, by decide +kernel⟩

theorem test_meets_StitchMessagesComplete_4 :
    ∃ (e : Ev) (src : Coord) (m : Wire) (s : State),
      let b := s.begin e
      m.type = tDarnReq ∧ b.cu.fwFault = false ∧ b.dropReason src m = none ∧ b.chainWaits m = false ∧ m.sub = 0 ∧ b.repeated src m = false
        ∧ b.chainsOver m = false ∧
      let t := if m.chHb then b.contributePiece m else b.contribute m
      (t.serial ≠ b.serial ∨ t.stitchQ.length ≠ b.stitchQ.length) :=
  ⟨ev 5000, seat 3, (mkWire tDarnReq 0 1 7 3 (chainBody (chainWord 1 [3] 5 0 false) 0 0) []), chipG KG, by decide +kernel⟩

theorem test_meets_StitchMessagesComplete_5 :
    ∃ (e : Ev) (src : Coord) (m : Wire) (s : State),
      let b := s.begin e
      m.type = tDarnPart ∧ b.cu.fwFault = false ∧ b.dropReason src m = none ∧ m.sub = 0 ∧ b.repeated src m = false ∧ b.chainWaits m =
        false ∧ (m.chHb = true → (b.hbSlotStep m.cCtx).isSome = true) :=
  ⟨ev 5000, seat 2, (mkWire tDarnPart 0 1 7 2 (chainBody (chainWord 1 [3] 5 0 false) 0 0) zeroPage), chipG KG, by decide +kernel,
    by decide +kernel, (drop_page _ _ _ (by decide +kernel)).trans (by decide +kernel), by decide +kernel, by decide +kernel,
    by decide +kernel, by decide +kernel⟩

theorem test_meets_StitchMessagesComplete_6 :
    ∃ (e : Ev) (src : Coord) (m : Wire) (s : State),
      let b := s.begin e
      m.type = tDarnPart ∧ b.cu.fwFault = false ∧ b.dropReason src m = none ∧ m.sub = 1 :=
  ⟨ev 5000, seat 3, (mkWire tDarnPart 1 1 7 3 (chainBody (chainWord 1 [3] 5 0 false) 0 0) []), chipG KG, by decide +kernel⟩

theorem test_meets_StitchMessagesComplete_7 :
    ∃ (e : Ev) (src : Coord) (m : Wire) (c : Chain) (s : State),
      let b := s.begin e
      m.type = tDarnDone ∧ b.cu.fwFault = false ∧ b.dropReason src m = none ∧ b.repeated src m = false ∧ b.chainNow m = some c ∧
        b.destWaits c = false :=
  ⟨ev 5000, seat 3, (mkWire tDarnDone 0 1 7 3 (chainBody (chainWord 1 [0] 5 0 false) 0 0) zeroPage), stitch7C, stitch7S,
    by decide +kernel, by decide +kernel, (drop_page _ _ _ (by decide +kernel)).trans (by decide +kernel), by decide +kernel,
    by decide +kernel, by decide +kernel⟩

def agreement3C : HbCopy :=
  { slot := false, step := 5, start := 0, next := 0, parity := 0, sealed := false, seals := [], quorum := false }

def agreement3K : Coded :=
  (KB (some agreement3C))

def agreement3S : State :=
  chipB agreement3K

def agreement3H : HbGroup :=
  { hbGroup with copy := some agreement3C }

def agreement3M : Wire :=
  (Wire.seal { code := codeByte tHatbox 0 true true, context := 1, glove := 9, member := 1,
               body := padTo 23 (chainBody (chainWord 4 [] 5 0 true) 0 0), crc := 0, payload := zeroPage })

def agreement4M : Wire :=
  (mkWire tSeal 0 1 9 1 (leBytes 8 5 ++ [0]) (padTo 4096 (sealBytes 1 false { hbGroup with g := { hbGroup.g with me := 1 } } 5 0)))

def agreement8J : ImageJob :=
  { isImport := true, step := 5, handle := 0x99, port := 5, tiles := [], source := 0, todo := [.header], waiting := some (0x2800, 64),
    sentAt := 0, outside := 0, descriptor := [], digests := [], cuffIndex := 1, cuffBase := 0x1000, digestBase := 0x2000, header := [],
    record := [], got := [], read := [], misfit := false }

def agreement8K : Coded :=
  { K with image := some agreement8J }

def agreement8S : State :=
  chipK agreement8K

theorem test_meets_AgreementMessagesComplete_0 :
    ∃ (e : Ev) (src : Coord) (m : Wire) (c : Coll) (s : State) (r : List Byte),
      let b := s.begin e
      m.sub = 0 ∧ m.legal = true ∧ m.seal.crc = m.crc ∧ b.cu.fwFault = false ∧ b.collOf m.key = some c ∧ b.collDrop src m c = none ∧
        b.repeated src m = false ∧ m.type = tVote ∧ c.key.phase ≠ phRestore ∧ c.me = c.gatherer ∧ Tab.get (pageRecords c.key.phase
        m.payload) m.cMember = some r :=
  ⟨ev 5000, seat 1, (mkWire tVote 0 1 7 1 (collBody 0 phForm 0xFFFF) (collPage phForm [(1, (statusRec 0 1 0).bytes)] [])), coll 0, { chipG KG with
        colls := [coll 0] }, (statusRec 0 1 0).bytes, by decide +kernel, by decide +kernel, seal_seal _, by decide +kernel,
    by decide +kernel, by decide +kernel, by decide +kernel, by decide +kernel, by decide +kernel, by decide +kernel, by decide +kernel⟩

theorem test_meets_AgreementMessagesComplete_1 :
    ∃ (e : Ev) (src : Coord) (m : Wire) (c : Coll) (s : State),
      let b := s.begin e
      m.sub = 0 ∧ m.legal = true ∧ m.seal.crc = m.crc ∧ b.cu.fwFault = false ∧ b.collOf m.key = some c ∧ b.collDrop src m c = none ∧
        b.repeated src m = false ∧ m.type = tCrown ∧ c.key.phase ≠ phRestore :=
  ⟨ev 5000, seat 1, (mkWire tCrown 0 1 7 1 (collBody 0 phForm 0xFFFF) (collPage phForm [(1, (statusRec 0 1 0).bytes)] [])), coll 1, { chipG KG with
        colls := [coll 1] }, by decide +kernel, by decide +kernel, seal_seal _, by decide +kernel, by decide +kernel, by decide +kernel,
    by decide +kernel, by decide +kernel, by decide +kernel⟩

theorem test_meets_AgreementMessagesComplete_2 :
    ∃ (e : Ev) (src : Coord) (m : Wire) (s : State),
      let b := s.begin e
      m.type = tAbort ∧ m.sub = 0 ∧ m.phase = 0 ∧ b.cu.fwFault = false ∧ b.dropReason src m = none ∧ b.repeated src m = false :=
  ⟨ev 5000, seat 1, (mkWire tAbort 0 1 7 1 (abortBody 0 0 0 3 0) []), chipG KG, by decide +kernel⟩

theorem test_meets_AgreementMessagesComplete_3 :
    ∃ (e : Ev) (src : Coord) (m : Wire) (h : HbGroup) (k : Coded) (c : HbCopy) (j : Nat) (s : State),
      let b := s.begin e
      let stripe := m.chStripe
      m.type = tHatbox ∧ m.sub = 0 ∧ m.last = true ∧ b.cu.fwFault = false ∧ b.dropReason src m = none ∧ b.repeated src m = false ∧
        b.cu.evac = false ∧ b.inGuard m.cCtx = false ∧ b.hbOf m.cCtx = some h ∧ b.codedOf m.cCtx = some k ∧ h.copy = some c ∧ c.step % 4 =
        m.chStep ∧ h.g.seatIn h.g.me stripe = .parity j ∧ b.testing (h.pieceKey c.slot true (stripe / h.g.period)) = false :=
  ⟨ev 5000, seat 1, agreement3M, agreement3H, agreement3K, agreement3C, 0, agreement3S, by decide +kernel, by decide +kernel,
    by decide +kernel, by decide +kernel, (drop_page _ _ _ (by decide +kernel)).trans (by decide +kernel), by decide +kernel,
    by decide +kernel, by decide +kernel, by decide +kernel, by decide +kernel, by decide +kernel, by decide +kernel, by decide +kernel,
    by decide +kernel⟩

theorem test_meets_AgreementMessagesComplete_4 :
    ∃ (e : Ev) (src : Coord) (m : Wire) (h : HbGroup) (c : HbCopy) (s : State),
      let b := s.begin e
      m.type = tSeal ∧ m.sub = 0 ∧ b.cu.fwFault = false ∧ b.dropReason src m = none ∧ b.repeated src m = false ∧ b.hbOf m.cCtx = some h ∧
        h.copy = some c ∧ m.stepField = c.step ∧ (m.bodyField 0x0D 1 == 1) = c.slot ∧ sealOk h c.slot m.payload = true ∧ sealStep
        m.payload = c.step ∧ field m.payload 0x0C 1 = m.cMember :=
  ⟨ev 5000, seat 1, agreement4M, agreement3H, agreement3C, agreement3S, by decide +kernel, by decide +kernel, by decide +kernel,
    (drop_page _ _ _ (by decide +kernel)).trans (by decide +kernel), by decide +kernel, by decide +kernel, by decide +kernel,
    by decide +kernel, by decide +kernel, by decide +kernel, by decide +kernel, by decide +kernel⟩

theorem test_meets_AgreementMessagesComplete_5 :
    ∃ (e : Ev) (src : Coord) (m : Wire) (s : State),
      let b := s.begin e
      m.type = tWitness ∧ m.sub = 0 ∧ b.cu.fwFault = false ∧ b.dropReason src m = none ∧ b.repeated src m = false ∧ m.len = true :=
  ⟨ev 5000, seat 1, (mkWire tWitness 0 1 7 1 (leBytes 8 6 ++ [1]) zeroPage), chipG KG, by decide +kernel, by decide +kernel,
    by decide +kernel, (drop_page _ _ _ (by decide +kernel)).trans (by decide +kernel), by decide +kernel, by decide +kernel⟩

theorem test_meets_AgreementMessagesComplete_6 :
    ∃ (e : Ev) (src : Coord) (m : Wire) (s : State),
      let b := s.begin e
      m.type = tWitness ∧ m.sub = 0 ∧ b.cu.fwFault = false ∧ b.dropReason src m = none ∧ b.repeated src m = false ∧ m.len = false :=
  ⟨ev 5000, seat 1, (mkWire tWitness 0 1 7 1 (leBytes 8 6 ++ [1, 3]) []), chipG KG, by decide +kernel⟩

theorem test_meets_AgreementMessagesComplete_7 :
    ∃ (e : Ev) (m : Wire) (k : Coded) (j : ImageJob) (s : State),
      let b := s.begin e
      let off := m.bodyField 0x0D 8
      let count := m.bodyField 0x15 2
      m.type = tExport ∧ m.legal = true ∧ m.seal.crc = m.crc ∧ b.codedOf m.cCtx = some k ∧ k.image = some j ∧ m.cGlove = 0xFFFF ∧
        b.cu.fwFault = false ∧ m.cMember = 0xFF ∧ m.bodyField 0x05 8 = j.handle.toNat ∧ m.bodyField 0x17 1 = j.port ∧ j.waiting = some
        (off, count) ∧ m.sub = 1 ∧ j.isImport = false :=
  ⟨ev 5000, (mkWire tExport 1 1 0xFFFF 0xFF (exportBody 0x99 0x2800 0 5) []), image4K, image4J, image4S, by decide +kernel,
    by decide +kernel, seal_seal _, by decide +kernel, by decide +kernel, by decide +kernel, by decide +kernel, by decide +kernel,
    by decide +kernel, by decide +kernel, by decide +kernel, by decide +kernel, by decide +kernel⟩

theorem test_meets_AgreementMessagesComplete_8 :
    ∃ (e : Ev) (m : Wire) (k : Coded) (j : ImageJob) (s : State),
      let b := s.begin e
      let off := m.bodyField 0x0D 8
      let count := m.bodyField 0x15 2
      m.type = tExport ∧ m.legal = true ∧ m.seal.crc = m.crc ∧ b.codedOf m.cCtx = some k ∧ k.image = some j ∧ m.cGlove = 0xFFFF ∧
        b.cu.fwFault = false ∧ m.cMember = 0xFF ∧ m.bodyField 0x05 8 = j.handle.toNat ∧ m.bodyField 0x17 1 = j.port ∧ j.waiting = some
        (off, count) ∧ m.sub = 0 ∧ j.isImport = true :=
  ⟨ev 5000, (mkWire tExport 0 1 0xFFFF 0xFF (exportBody 0x99 0x2800 64 5) zeroPage), agreement8K, agreement8J, agreement8S,
    by decide +kernel, by decide +kernel, seal_seal _, by decide +kernel, by decide +kernel, by decide +kernel, by decide +kernel,
    by decide +kernel, by decide +kernel, by decide +kernel, by decide +kernel, by decide +kernel, by decide +kernel⟩

/-! ### Ill-formed terms that each check refuses -/

/-- A burst beyond the page's 131, or of another length than 32 bytes; a coordinate of 17 bits; a packet of 63 bytes, or of a ring or a
count out of range; a message body of 22 bytes, or a payload of another length than a page. -/
theorem test_wf_refuses_parts :
    Burst.wf ⟨0, 131, 0, List.replicate 32 0⟩ = false ∧ Burst.wf ⟨0, 130, 0, List.replicate 31 0⟩ = false ∧
    Ev.wf (ev (2 ^ 64)) = false ∧ Ev.wf { ev 0 with ctl := [⟨0, 131, 0, List.replicate 32 0⟩] } = false ∧
    Coord.wf ⟨65536, 0, 0⟩ = false ∧ Coord.wf ⟨0, 65536, 0⟩ = false ∧ Coord.wf ⟨0, 0, 65536⟩ = false ∧
    Cmd.wf { nopCmd with bytes := List.replicate 63 0 } = false ∧ Cmd.wf { nopCmd with ring := 65536 } = false ∧
    Cmd.wf { nopCmd with count := 2 ^ 32 } = false ∧
    Wire.wf { mkWire tVote 0 1 7 1 [] [] with body := List.replicate 22 0 } = false ∧
    Wire.wf { mkWire tVote 0 1 7 1 [] [] with payload := [1] } = false := by decide +kernel

/-- A request with a field out of its code's width, of more than a page, with data on a read or with a byte too few on a write; a remote
operation of the same faults; a register outside the windows; a collective's key with a field out of its width. -/
theorem test_wf_refuses_requests :
    Req.wf ⟨1, 8, 1, 0, false, false, 0, 1, []⟩ false = false ∧ Req.wf ⟨1, 4, 256, 0, false, false, 0, 1, []⟩ false = false ∧
    Req.wf ⟨1, 4, 1, 65536, false, false, 0, 1, []⟩ false = false ∧ Req.wf ⟨1, 4, 1, 0, false, false, 0, 4097, []⟩ false = false ∧
    Req.wf ⟨1, 4, 1, 0, false, false, 2 ^ 63, 1, []⟩ false = false ∧ Req.wf ⟨1, 4, 1, 0, false, false, 0, 1, [1]⟩ false = false ∧
    Req.wf ⟨1, 4, 1, 0, false, false, 0, 2, [1]⟩ true = false ∧
    RemoteOp.wf ⟨1, ⟨65536, 0, 0⟩, false, 2, 0, 1, 0, []⟩ = false ∧ RemoteOp.wf ⟨1, seat 1, false, 65536, 0, 1, 0, []⟩ = false ∧
    RemoteOp.wf ⟨1, seat 1, false, 2, 0, 4097, 0, []⟩ = false ∧ RemoteOp.wf ⟨1, seat 1, true, 2, 0, 2, 0, [1]⟩ = false ∧
    offWf 0x140000 = false ∧ CollKey.wf ⟨256, 0, 0, 0⟩ = false ∧ CollKey.wf ⟨0, 2 ^ 64, 0, 0⟩ = false ∧
    CollKey.wf ⟨0, 0, 65536, 0⟩ = false ∧ CollKey.wf ⟨0, 0, 0, 256⟩ = false := by decide

/-- A command with an ill-formed event, packet, message, request, operation, register or key; and each number out of its range. -/
theorem test_wf_refuses_commands :
    Instr.wf (.bandAcquire (ev (2 ^ 64))) = false ∧ Instr.wf (.nop (ev 0) { nopCmd with ring := 65536 }) = false ∧
    Instr.wf (.delta (ev 0) ⟨65536, 0, 0⟩ (mkWire tDelta 0 1 7 1 [] [])) = false ∧
    Instr.wf (.memoryRead (ev 0) ⟨1, 4, 1, 0, false, false, 0, 1, [1]⟩) = false ∧
    Instr.wf (.remoteOperation (ev 0) ⟨1, seat 1, false, 65536, 0, 1, 0, []⟩) = false ∧
    Instr.wf (.registerWrite (ev 0) 0x140000 0) = false ∧ Instr.wf (.collectiveClose (ev 0) ⟨256, 0, 0, 0⟩) = false ∧
    Instr.wf (.coordVerifiedChange (ev 0) ⟨⟨65536, 0, 0⟩, true, false, 0, []⟩) = false ∧
    Instr.wf (.coordVerifiedChange (ev 0) ⟨seat 0, true, false, 0, [(⟨65536, 0, 0⟩, 1)]⟩) = false ∧
    Instr.wf (.bandFault (ev 0) (2 ^ 64) true) = false ∧ Instr.wf (.packetFetch (ev 0) 65536) = false ∧
    Instr.wf (.deferredStart (ev 0) 0 (2 ^ 32)) = false ∧ Instr.wf (.chipDrained (ev 0) 256) = false ∧
    Instr.wf (.backgroundDarnChain (ev 0) 1 4) = false ∧ Instr.wf (.weightsScanDone (ev 0) 4096) = false ∧
    Instr.wf (.remoteAnswer (ev 0) 1 0 ⟨List.replicate 4097 0, false⟩) = false := by decide +kernel

/-- A firmware image beyond the CU's 256 KiB. -/
theorem test_wf_refuses_image : Instr.wf (.firmwareRelease (ev 0) (List.replicate 262145 0)) = false := by
  simp only [Instr.wf, List.length_replicate]; decide

/-- A well-formed command of each shape passes. -/
theorem test_wf_accepts :
    Instr.wf (.nop (ev 0) nopCmd) = true ∧ Instr.wf (.vote (ev 0) (seat 1) (mkWire tVote 0 1 7 1 [] [])) = true ∧
    Instr.wf (.memoryWrite (ev 0) ⟨1, 4, 1, 0, false, false, 0, 1, [1]⟩) = true ∧ Instr.wf (.registerWrite (ev 0) 0x13FFF8 0) = true := by
  decide +kernel

/-! ### The manual's own numbers -/

/-- The table spells no command in bits (log entry 1). -/
theorem test_no_word_spells_a_command : decodeTableWord 8 0 = none ∧ (chip.withFetchWord 8 0) = chip := ⟨rfl, rfl⟩

/-- The CRC-32C check value (R374). -/
theorem test_crc32c_check : crc32c ("123456789".toList.map (fun c => BitVec.ofNat 8 c.toNat)) = 0xE3069283 := by decide +kernel

/-- Coefficients and products of the worked stripe (R99, R100): c(0, 9), c(1, 9), c(0, 9) times 0x5A, and 1 / 0xF4. -/
theorem test_worked_products :
    coeff 0 9 = 0xD4 ∧ coeff 1 9 = 0x42 ∧ gmul 0xD4 0x5A = 0xB9 ∧ ginv 0xF4 = 0x03 ∧ ginv 0xD4 ≠ 0 ∧ gmul (ginv 0xD4) 0xB9 = 0x5A := by
  decide +kernel

/-- Byte 0 of the two parity seats of the worked stripe, by the table of its fourteen terms. -/
theorem test_worked_stripe :
    let col : List (Nat × Byte) := [(0, 1), (1, 2), (3, 0x10), (4, 0xFF), (6, 0x80), (9, 0x5A), (12, 1)]
    col.foldl (fun a p => a ^^^ gmul (coeff 0 p.1) p.2) 0 = 0x0D ∧ col.foldl (fun a p => a ^^^ gmul (coeff 1 p.1) p.2) 0 = 0x85 := by
  decide +kernel

/-- Member 9's palm stitch 1,000,005 of a 16 + 2 glove: stripe 1,142,863, data index 9, seats on members 14 and 15 at parity index 142,857
(R104 to R106). -/
theorem test_worked_layout :
    stripeOf 16 2 9 1000005 = 1142863 ∧ roleOf 16 2 9 1142863 = (.data 9, 1000005) ∧ parityHolder 16 2 1142863 0 = 14 ∧
    parityHolder 16 2 1142863 1 = 15 ∧ roleOf 16 2 14 1142863 = (.parity 0, 142857) ∧ dataHolder 16 2 37 10 = 12 := by decide +kernel

/-- U5 with lane 2 fused off: page 12,000,041 is of instance 5, page number 1,000,003 there, and of lane 5; with lane 5 retired, of lane 6
(R15, R21, R24). -/
theorem test_worked_lane :
    let i := { unit false with harvest := 0xFB }
    (keyInst 12000041).val = 5 ∧ keyIpn 12000041 = 1000003 ∧ workLane i 12000041 = 5 ∧
      workLane { i with lanes := i.lanes.set 5 { lane with retired := true } } 12000041 = 6 := by decide +kernel

/-- The two hands of offset index 1,000,005 of region 17 (R54, R55). -/
theorem test_worked_hands :
    let r := area 17 .state false (96 * 2 ^ 30) (12 * 2 ^ 30)
    r.handKey 1000005 false = 26165829 ∧ r.handKey 1000005 true = 29311557 ∧ (keyInst 26165829).val = 9 ∧
      keyIpn 26165829 = 2180485 := by decide +kernel

/-- What member 0 hosts of the lost member 6 (R223). -/
theorem test_worked_deal : hostedPalm (262144 * 64) 64 15 0 = 1118528 ∧ hostedParity 2396746 15 0 = 159784 := by decide +kernel

/-- The CHAIN word of the spare's first chain, and its link 2: CODE, context, glove, member and bytes 0x05 to 0x0B (R410, R416). -/
theorem test_worked_chain :
    chainWord 37 [9] 120000 0 false = 0x0000924924000025 ∧ codeByte tDarnPart 0 true false = 0x44 ∧
    (chainBody (chainWord 37 [9] 120000 0 false) 0 0).take 7 = [0x25, 0, 0, 0x24, 0x49, 0x92, 0] := by decide +kernel

/-- K1 is below K2 in the order of R430. -/
theorem test_worked_ranks : CollKey.rank ⟨1, 0, 0x0100, 0x10⟩ < CollKey.rank ⟨2, 0, 0x0200, 0x10⟩ := by decide

/-- The worked tile's terms (R289): k², x · k² and the tile's hash. -/
theorem test_worked_tile :
    let k : Word := 0x8000000000000000
    wmul k k = 0xC00000000000005A ∧ wmul 2 (wmul k k) = 0x80000000000000AF ∧ k ^^^ wmul 2 (wmul k k) = 0xAF := by decide +kernel

/-- The squares of 3.0 and 2^−149 round to 9.0 (R307). -/
theorem test_worked_norm : roundFp64 (9 * 2 ^ 320 + 2 ^ 22) = 0x4022000000000000 := by decide +kernel

/-! ### Effects of single commands -/

/-- A write of one byte answers its requester and reads back from the region (R32, R55). -/
theorem test_pass_write :
    let t := after (.memoryWrite (ev 5000) ⟨1, 4, 1, 0, false, false, 0x30FFF, 1, [0xA5]⟩) chip
    t.out = chip.out ++ [.writeDone 1 true] ∧ t.mem.byte 0x30FFF = 0xA5 := by decide +kernel

/-- STEP_OPEN opens step C + 1, with the complement of its register (R83, R141). -/
theorem test_step_open :
    (after (.stepOpen (ev 5000) (cmd 0x20 0 [(16, 8, 6)])) (chipG KG)).coded.map (fun p => (p.2.s, p.2.sInv, p.2.phase)) =
      [(6, ~~~6, .opened)] := by decide +kernel

/-- The rise of CLAMP is seen at its band count. -/
theorem test_clamp_rise : (after (.clampRise (ev 5000)) chip).cu.power.clamp = true := by decide +kernel

/-- NOP posts status 0 under its own opcode. -/
theorem test_nop_posts : ((after (.nop (ev 5000) nopCmd) (chipG KG)).out).map (fun o => match o with
    | .completion c => (c.status, c.opcode)
    | _ => (0xFF, 0)) = [(0, 0x7F)] := by decide +kernel

end Sys2Proof.Tests
end

/-! PROOFS. The fuses (R13, R488, R519, R520): every operation but SEAL_SET leaves them as they are, and SEAL_SET spends them. -/

namespace Sys2Proof

/-- The commands that may change the fuses. -/
theorem Instr.eq_of_mayFuse {i : Instr} (h : i.mayFuse = true) :
    (∃ e c, i = .sealSet e c) ∨ (∃ e ring, i = .commandAccept e ring) ∨ ∃ e ring count, i = .deferredStart e ring count := by
  unfold Instr.mayFuse at h
  split at h
  · exact .inl ⟨_, _, rfl⟩
  · exact .inr (.inl ⟨_, _, rfl⟩)
  · exact .inr (.inr ⟨_, _, _, rfl⟩)
  · exact absurd h Bool.false_ne_true

end Sys2Proof

namespace Sys2Proof.Machine

/-! ### Spending the fuses -/

/-- From `f` the fuses have come to `g`: no setting has regained a change, and the change log has at most grown at its end (R519, R520). -/
structure Fuses.SpentTo (f g : Fuses) : Prop where
  mMinLeft : g.mMinLeft ≤ f.mMinLeft
  witnessLeft : g.witnessLeft ≤ f.witnessLeft
  log : f.log <+: g.log

theorem Fuses.SpentTo.refl (f : Fuses) : f.SpentTo f := ⟨Nat.le_refl _, Nat.le_refl _, List.prefix_rfl⟩

theorem Fuses.SpentTo.of_eq {f g : Fuses} (h : g = f) : f.SpentTo g := h ▸ .refl f

/-- A change of a setting spends at most one of its changes and appends its log entry. -/
theorem Fuses.spentTo_change (f : Fuses) (n v stamp : Nat) (requester : Word) : f.SpentTo (f.change n v stamp requester) := by
  unfold Fuses.change
  dsimp only
  split
  · refine ⟨?_, Nat.le_refl _, List.prefix_append _ _⟩
    dsimp only
    split
    · exact Nat.sub_le _ _
    · exact Nat.le_refl _
  · exact ⟨Nat.le_refl _, Nat.sub_le _ _, List.prefix_append _ _⟩

/-! ### What the shared operations leave of the fuses -/

/-- Work that is no SEAL_SET leaves the fuses as they are. -/
theorem Keeps.fuses_eq {b s : State} (h : Keeps True b s) : s.cu.fuses = b.cu.fuses := h.fuses trivial

@[simp] theorem State.post_fuses (s : State) (c : Cmd) (status result : Nat) : (s.post c status result).cu.fuses = s.cu.fuses :=
  (State.post_keeps (Keeps.refl s) c status result).fuses_eq

@[simp] theorem State.badParam_fuses (s : State) (c : Cmd) (detail : Nat) : (s.badParam c detail).cu.fuses = s.cu.fuses :=
  (State.badParam_keeps (Keeps.refl s) c detail).fuses_eq

@[simp] theorem State.passHead_fuses (s : State) (ring : Nat) : (s.passHead ring).cu.fuses = s.cu.fuses :=
  (State.passHead_keeps (Keeps.refl s) ring).fuses_eq

@[simp] theorem State.begin_fuses (s : State) (e : Ev) : (s.begin e).cu.fuses = s.cu.fuses :=
  (State.begin_keeps s e).fuses_eq

@[simp] theorem State.finish_fuses (s : State) : s.finish.cu.fuses = s.cu.fuses :=
  (State.finish_keeps (Keeps.refl s)).fuses_eq

/-! ### The operations that may spend them -/

theorem State.opSealSet_spent (s : State) (c : Cmd) : s.cu.fuses.SpentTo (s.opSealSet c).cu.fuses := by
  unfold State.opSealSet
  dsimp only
  split
  · exact .of_eq (State.badParam_fuses ..)
  split
  · exact .of_eq (State.post_fuses ..)
  split
  · exact .of_eq (State.badParam_fuses ..)
  split
  · exact .of_eq (State.post_fuses ..)
  split
  · exact .of_eq (State.post_fuses ..)
  · rw [State.post_fuses]
    exact Fuses.spentTo_change ..

/-- An accepted packet of any opcode but SEAL_SET's leaves the fuses as they are. -/
theorem State.runOp_keeps_of_ne_sealSet (s : State) (c : Cmd) (hop : c.opcode ≠ 0x73) : Keeps True s (s.runOp c) := by
  have h : Keeps True s s := Keeps.refl s
  unfold State.runOp
  split
  · exact State.opCtxOpen_keeps h c
  · exact State.opCtxClose_keeps h c
  · exact State.opRegionMap_keeps h c
  · exact State.opRegionUnmap_keeps h c
  · exact State.opRegionFill_keeps h c
  · exact State.opGloveForm_keeps h c
  · exact State.opGloveDissolve_keeps h c
  · exact State.opGloveQuery_keeps h c
  · exact State.opStepOpen_keeps h c
  · exact State.opDrainClose_keeps h c
  · exact State.opCrown_keeps h c
  · exact State.opRollback_keeps h c
  · exact State.opWitnessArm_keeps h c
  · exact State.opWitnessVerdict_keeps h c
  · exact State.opDarnStart_keeps h c
  · exact State.opDarnStitch_keeps h c
  · exact State.opStandinAssign_keeps h c
  · split
    · exact State.opEvacuateSelf_keeps h c
    · exact State.opEvacuate_keeps h c
  · exact State.opAdmit_keeps h c
  · split
    · exact State.opHatboxConfigure_keeps h c
    · exact State.opHatboxWrite_keeps h c
  · exact State.opRestore_keeps h c
  · exact State.opImageExport_keeps h c
  · exact State.opImageImport_keeps h c
  · exact State.opDigestArm_keeps h c
  · exact State.opDigestRead_keeps h c
  · exact State.opTallyArm_keeps h c
  · exact State.opTallyRead_keeps h c
  · exact State.opTilePromote_keeps h c
  · exact State.opTileEvict_keeps h c
  · exact State.opBrimOpen_keeps h c
  · split
    · exact State.opBrimClose_keeps h c
    · exact State.opBrimAdvance_keeps h c
  · split
    · exact State.opQuotaPool_keeps h c
    · exact State.opQuotaSet_keeps h c
  · exact State.opScrubCtrl_keeps h c
  · exact State.opTestRun_keeps h c
  · exact State.opMeasureGet_keeps h c
  · next hseal => exact absurd hseal hop
  · exact State.opFenceSignal_keeps h c
  · exact State.opNop_keeps h c
  · exact h

theorem State.runOp_spent (s : State) (c : Cmd) : s.cu.fuses.SpentTo (s.runOp c).cu.fuses := by
  by_cases hop : c.opcode = 0x73
  · have hrun : s.runOp c = s.opSealSet c := by simp only [State.runOp, hop]
    rw [hrun]
    exact State.opSealSet_spent s c
  · exact .of_eq (State.runOp_keeps_of_ne_sealSet s c hop).fuses_eq

theorem State.commandAccept_spent (s : State) (ring : Nat) : s.cu.fuses.SpentTo (s.commandAccept ring).cu.fuses := by
  unfold State.commandAccept
  split
  · exact .refl _
  split
  · next c _ _ =>
    rw [← State.passHead_fuses s ring]
    exact State.runOp_spent (s.passHead ring) c
  · exact .refl _

theorem State.deferredStart_spent (s : State) (ring count : Nat) : s.cu.fuses.SpentTo (s.deferredStart ring count).cu.fuses := by
  unfold State.deferredStart
  split
  · exact .refl _
  split
  · exact .refl _
  · exact State.runOp_spent ..

/-! ### From an operation to its command -/

/-- An event spends what its act spends: what comes before and after the act leaves the fuses as they are. -/
theorem State.hear_spent {act : State → State} (s : State) (e : Ev) (hact : ∀ x : State, x.cu.fuses.SpentTo (act x).cu.fuses) :
    s.cu.fuses.SpentTo (s.hear e act).cu.fuses := by
  rw [State.hear, State.finish_fuses, ← State.begin_fuses s e]
  exact hact (s.begin e)

/-- The row of an opcode spends what its operation spends. -/
theorem State.row_spent {op : State → Cmd → State} (s : State) (e : Ev) (c : Cmd) (code : Nat) (form : Bool)
    (hop : ∀ x : State, x.cu.fuses.SpentTo (op x c).cu.fuses) : s.cu.fuses.SpentTo (s.row e c code form op).cu.fuses := by
  rw [State.row, ← State.begin_fuses s e]
  split
  · rw [State.finish_fuses]
    exact hop (s.begin e)
  · exact .refl _

/-! ### Every command -/

/-- A command that is no SEAL_SET and starts no packet leaves the fuses as they are. -/
theorem exec_fuses_of_not_mayFuse {i : Instr} {s t : State} (hi : i.mayFuse = false) (ht : exec i s = .next t) :
    t.cu.fuses = s.cu.fuses := by
  by_cases hreset : ∃ e p, i = .chipReset e p
  · obtain ⟨e, p, rfl⟩ := hreset
    obtain ⟨u, hu, hk⟩ := execChipReset_keeps e p s
    cases hu.symm.trans ht
    exact hk.fuses_eq
  by_cases hband : ∃ e, i = .bandAcquire e
  · obtain ⟨e, rfl⟩ := hband
    obtain ⟨u, b, hu, hk, hb⟩ := execBandAcquire_keeps e s
    cases hu.symm.trans ht
    rcases hb with rfl | rfl <;> exact hk.fuses_eq
  · obtain ⟨u, hu, hk⟩ := exec_keeps s i (fun e p h => hreset ⟨e, p, h⟩) (fun e h => hband ⟨e, h⟩)
    cases hu.symm.trans ht
    exact hk.fuses hi

/-- Whatever the command, the fuses are only spent. -/
theorem exec_spent {i : Instr} {s t : State} (ht : exec i s = .next t) : s.cu.fuses.SpentTo t.cu.fuses := by
  cases hi : i.mayFuse with
  | false => exact .of_eq (exec_fuses_of_not_mayFuse hi ht)
  | true =>
    obtain ⟨e, c, rfl⟩ | ⟨e, ring, rfl⟩ | ⟨e, ring, count, rfl⟩ := Instr.eq_of_mayFuse hi
    · obtain rfl : s.row e c 0x73 true State.opSealSet = t := Host.Outcome.next.inj ht
      exact State.row_spent s e c 0x73 true (State.opSealSet_spent · c)
    · obtain rfl : s.hear e (·.commandAccept ring) = t := Host.Outcome.next.inj ht
      exact State.hear_spent s e (State.commandAccept_spent · ring)
    · obtain rfl : s.hear e (·.deferredStart ring count) = t := Host.Outcome.next.inj ht
      exact State.hear_spent s e (State.deferredStart_spent · ring count)

/-- Settles O8: every command but the three that may start a SEAL_SET leaves the fuses as they are, and SEAL_SET only spends them. -/
theorem fusesChangeOnlyBySealSet : Obligations.FusesChangeOnlyBySealSet := by
  unfold Obligations.FusesChangeOnlyBySealSet
  refine ⟨fun _ _ _ => exec_fuses_of_not_mayFuse, fun _ _ _ ht => ?_⟩
  obtain ⟨hmin, hwitness, hlog⟩ := exec_spent ht
  exact ⟨hmin, hwitness, hlog⟩

end Sys2Proof.Machine

/-! PROOFS. The chip in its Koset: the clock and the outputs (R47, R568), a byte of memory after a write (R32), the interrupt (R42, R502),
and what controllers, lanes, the fabric and the test access port change (R17, R35, R39 to R41, R44, R49, R50, R403). -/

namespace Sys2Proof.Machine

/-! ### The clock and the outputs -/

/-- A command that acquires no band moves the clock to its event's count, and never backward. -/
theorem exec_clock_of_ne_bandAcquire {i : Instr} {s t : State} (hband : ∀ e, i ≠ .bandAcquire e) (ht : exec i s = .next t) :
    t.clock = Nat.max s.clock i.event.t := by
  by_cases hreset : ∃ e p, i = .chipReset e p
  · obtain ⟨e, p, rfl⟩ := hreset
    obtain ⟨u, hu, hk⟩ := execChipReset_keeps e p s
    cases hu.symm.trans ht
    exact hk.clock
  · obtain ⟨u, hu, hk⟩ := exec_keeps s i (fun e p h => hreset ⟨e, p, h⟩) hband
    cases hu.symm.trans ht
    exact hk.clock

/-- No command takes an output back. -/
theorem exec_out_length_le {i : Instr} {s t : State} (ht : exec i s = .next t) : s.out.length ≤ t.out.length := by
  by_cases hreset : ∃ e p, i = .chipReset e p
  · obtain ⟨e, p, rfl⟩ := hreset
    obtain ⟨u, hu, hk⟩ := execChipReset_keeps e p s
    cases hu.symm.trans ht
    exact hk.out
  by_cases hband : ∃ e, i = .bandAcquire e
  · obtain ⟨e, rfl⟩ := hband
    obtain ⟨u, b, hu, hk, hb⟩ := execBandAcquire_keeps e s
    cases hu.symm.trans ht
    rcases hb with rfl | rfl <;> exact hk.out
  · obtain ⟨u, hu, hk⟩ := exec_keeps s i (fun e p h => hreset ⟨e, p, h⟩) (fun e h => hband ⟨e, h⟩)
    cases hu.symm.trans ht
    exact hk.out

/-- Settles O4: what every command keeps holds the clock of its event and every output that has left. -/
theorem clockAndOutputsNeverFallBack : Obligations.ClockAndOutputsNeverFallBack := by
  unfold Obligations.ClockAndOutputsNeverFallBack
  exact ⟨fun _ _ _ => exec_clock_of_ne_bandAcquire, fun _ _ _ => exec_out_length_le⟩

end Sys2Proof.Machine

namespace Sys2Proof

/-! ### Tables -/

/-- A table lists nothing under a key that none of its entries has. -/
theorem Tab.get_eq_none {α : Type} {l : List (Nat × α)} {k : Nat} (h : ∀ p ∈ l, p.1 ≠ k) : Tab.get l k = none := by
  induction l with
  | nil => rfl
  | cons p l ih =>
    obtain ⟨hp, hl⟩ := List.forall_mem_cons.1 h
    rw [Tab.get, if_neg hp, ih hl]

/-- Of two tables joined, the first that lists the key is read. -/
theorem Tab.get_append {α : Type} (l r : List (Nat × α)) (k : Nat) : Tab.get (l ++ r) k = (Tab.get l k).or (Tab.get r k) := by
  induction l with
  | nil => rfl
  | cons p l ih =>
    rw [List.cons_append, Tab.get, Tab.get]
    split
    · rfl
    · exact ih

/-- A table cut down to some keys lists under each of them what it listed. -/
theorem Tab.get_filter_of_pos {α : Type} {l : List (Nat × α)} {q : Nat × α → Bool} {k : Nat} (h : ∀ v, q (k, v) = true) :
    Tab.get (l.filter q) k = Tab.get l k := by
  induction l with
  | nil => rfl
  | cons p l ih =>
    obtain ⟨j, v⟩ := p
    by_cases hj : j = k
    · subst hj
      rw [List.filter_cons_of_pos (h v), Tab.get, Tab.get, if_pos rfl, if_pos rfl]
    · rw [Tab.get, if_neg hj, ← ih, List.filter_cons]
      split
      · rw [Tab.get, if_neg hj]
      · rfl

/-- It lists nothing under a key that was cut. -/
theorem Tab.get_filter_of_neg {α : Type} {l : List (Nat × α)} {q : Nat × α → Bool} {k : Nat} (h : ∀ v, q (k, v) = false) :
    Tab.get (l.filter q) k = none :=
  Tab.get_eq_none fun p hp hk => by
    have hq : q p = true := (List.mem_filter.1 hp).2
    rw [← hk] at h
    exact Bool.false_ne_true ((h p.2).symm.trans hq)

end Sys2Proof

namespace Sys2Proof.Machine

/-! ### One byte of memory -/

/-- Beyond a byte list's range its cells list nothing. -/
theorem cellsFrom_above (d : List Byte) {a x : Nat} (h : a + d.length ≤ x) : Tab.get (cellsFrom a d) x = none :=
  Tab.get_eq_none fun c hc hx => by
    obtain ⟨-, hlt, -⟩ := (cellsFrom_spec d a).1 c hc
    omega

/-- A byte that a write covers is the one written. -/
theorem Mem.byte_write_of_mem (m : Mem) {a b : Nat} (d : List Byte) (hab : a ≤ b) (hb : b < a + d.length) :
    (m.write a d).byte b = d.getD (b - a) 0 := by
  have hbelow : Tab.get (m.bytes.filter (fun c => decide (c.1 < a))) b = none :=
    Tab.get_filter_of_neg fun _ => decide_eq_false (by omega)
  have habove : Tab.get (m.bytes.filter (fun c => decide (a + d.length ≤ c.1))) b = none :=
    Tab.get_filter_of_neg fun _ => decide_eq_false (by omega)
  have hcells := cellsFrom_getD d a (b - a)
  rw [Nat.add_sub_cancel' hab] at hcells
  rw [Mem.byte, Mem.write, Tab.getD, Tab.get_append, Tab.get_append, hbelow, habove, Option.none_or, Option.or_none]
  exact hcells

/-- A byte below a write stands. -/
theorem Mem.byte_write_of_lt (m : Mem) {a b : Nat} (d : List Byte) (hb : b < a) : (m.write a d).byte b = m.byte b := by
  have hbelow : Tab.get (m.bytes.filter (fun c => decide (c.1 < a))) b = Tab.get m.bytes b :=
    Tab.get_filter_of_pos fun _ => decide_eq_true hb
  have habove : Tab.get (m.bytes.filter (fun c => decide (a + d.length ≤ c.1))) b = none :=
    Tab.get_filter_of_neg fun _ => decide_eq_false (by omega)
  rw [Mem.byte, Mem.byte, Mem.write, Tab.getD, Tab.getD, Tab.get_append, Tab.get_append, hbelow, habove, cellsFrom_below d a b hb,
    Option.or_none, Option.or_none]

/-- A byte above a write stands. -/
theorem Mem.byte_write_of_ge (m : Mem) {a b : Nat} (d : List Byte) (hb : a + d.length ≤ b) : (m.write a d).byte b = m.byte b := by
  have hbelow : Tab.get (m.bytes.filter (fun c => decide (c.1 < a))) b = none :=
    Tab.get_filter_of_neg fun _ => decide_eq_false (by omega)
  have habove : Tab.get (m.bytes.filter (fun c => decide (a + d.length ≤ c.1))) b = Tab.get m.bytes b :=
    Tab.get_filter_of_pos fun _ => decide_eq_true hb
  rw [Mem.byte, Mem.byte, Mem.write, Tab.getD, Tab.getD, Tab.get_append, Tab.get_append, hbelow, habove, cellsFrom_above d hb,
    Option.none_or, Option.none_or]

/-- Every byte after a write. -/
theorem Mem.byte_write (m : Mem) (a b : Nat) (d : List Byte) :
    (m.write a d).byte b = if a ≤ b ∧ b < a + d.length then d.getD (b - a) 0 else m.byte b := by
  split
  · next h => exact m.byte_write_of_mem d h.1 h.2
  · next h =>
    rcases Nat.lt_or_ge b a with hlt | hge
    · exact m.byte_write_of_lt d hlt
    · exact m.byte_write_of_ge d (by omega)

/-- A run of bytes reads as its single bytes. -/
theorem Mem.getElem?_read (m : Mem) (a : Nat) {n i : Nat} (hi : i < n) : (m.read a n)[i]? = some (m.byte (a + i)) := by
  have hcut : Tab.get (m.bytes.filter (fun c => decide (a ≤ c.1 ∧ c.1 < a + n))) (a + i) = Tab.get m.bytes (a + i) :=
    Tab.get_filter_of_pos fun _ => decide_eq_true (by omega)
  simp only [Mem.read, Mem.byte, Tab.getD, List.getElem?_map, List.getElem?_range hi, Option.map_some, hcut]

/-- Settles O12: a write replaces the cells of its range by those of its bytes, and nothing else of memory. -/
theorem writeThenReadByte : Obligations.WriteThenReadByte := by
  unfold Obligations.WriteThenReadByte
  exact ⟨fun m a b d hwf => ⟨m.byte_write a b d, Mem.write_wf hwf a d, rfl, rfl, rfl⟩, fun m a _ _ => m.getElem?_read a⟩

/-! ### The interrupt -/

/-- A bit vector that is not zero has a bit set. -/
theorem ne_zero_iff_exists_getLsbD {w : Nat} (x : BitVec w) : x ≠ 0 ↔ ∃ b < w, x.getLsbD b = true := by
  constructor
  · intro hx
    refine Classical.byContradiction fun hnone => hx (BitVec.eq_of_getLsbD_eq fun b hb => ?_)
    exact (Bool.eq_false_iff.2 fun h => hnone ⟨b, hb, h⟩).trans BitVec.getLsbD_zero.symm
  · rintro ⟨b, -, hb⟩ rfl
    exact Bool.false_ne_true (BitVec.getLsbD_zero.symm.trans hb)

/-- A unit is pending when its ROUTE bit is set and a fault bit stands whose MASK bit is clear (R502). -/
theorem State.unitPending_iff (s : State) (u : Nat) : s.unitPending u = true ↔ s.cu.irqRoute.getLsbD u = true ∧
    ∃ b < 34, (s.faultsOf u).bits.getLsbD b = true ∧ (s.faultsOf u).mask.getLsbD b = false := by
  have hbit : ∀ b < 34, (((s.faultsOf u).bits &&& ~~~(s.faultsOf u).mask).getLsbD b = true ↔
      (s.faultsOf u).bits.getLsbD b = true ∧ (s.faultsOf u).mask.getLsbD b = false) := fun b hb => by simp [hb]
  rw [State.unitPending, Bool.and_eq_true, bne_iff_ne, ne_zero_iff_exists_getLsbD]
  exact and_congr_right fun _ => exists_congr fun b => and_congr_right (hbit b)

/-- Settles O22: the interrupt is the disjunction of the seventeen units' pending faults. -/
theorem interruptFollowsUnmaskedFaults : Obligations.InterruptFollowsUnmaskedFaults := by
  unfold Obligations.InterruptFollowsUnmaskedFaults
  intro s
  simp only [State.irq, List.any_eq_true, List.mem_range, State.unitPending_iff]
  constructor
  · rintro ⟨u, hu, hroute, b, hb, hbit, hmask⟩
    exact ⟨u, b, hu, hb, hroute, hbit, hmask⟩
  · rintro ⟨u, b, hu, hb, hroute, hbit, hmask⟩
    exact ⟨u, hu, hroute, b, hb, hbit, hmask⟩

/-! ### The fabric and the residue alarms -/

/-- While the firmware runs, every chip is lost that a hit port leads toward and only ports down do (R41). -/
theorem State.loseChips_of_fw (s : State) (hit : BitVec 48 → Bool) (hfw : s.cu.fwFault = false) :
    s.loseChips hit = (s.cu.fabric.cables.filter (fun p => hit p.2 && (p.2 &&& s.cu.fabric.down == p.2))).foldl
      (fun t p => t.loseChip p.1) s := by
  rw [State.loseChips, if_neg (by rw [hfw]; exact Bool.false_ne_true)]

/-- Settles O27: the fabric's report and a link's fall each lose the chips that only ports down lead toward; an alarm only counts. -/
theorem fabricCommandsComplete : Obligations.FabricCommandsComplete := by
  unfold Obligations.FabricCommandsComplete
  refine ⟨fun e f s => ?_, fun e port s => ?_, fun e pulses s => rfl⟩
  · intro b hfw
    let u : State := { b with cu := { b.cu with fabric := f } }
    exact congrArg (fun t : State => Host.Outcome.next t.finish) (u.loseChips_of_fw (fun _ => true) hfw)
  · intro b down u hfw
    exact congrArg (fun t : State => Host.Outcome.next t.finish) (u.loseChips_of_fw (fun ports => ports.getLsbD port.val) hfw)

/-! ### The test access port -/

/-- ACCESS from outside every context has its cause as its first detail. -/
theorem State.access_of_no_ctx (s : State) (u : Nat) (d1 : Word) (cause : Nat) :
    s.access u cause 0 0 d1 = s.raise u 33 (BitVec.ofNat 64 cause) d1 := by
  simp [State.access, packWord, fAccess]

/-- An instrument takes a write while nothing is mapped on its unit or the unit is in bypass (R49). -/
theorem State.writeInstrument_of_open (s : State) (i : Fin 16) (n : Nat) (v : Word)
    (hopen : s.mapsOn i = false ∨ (s.inst[i]).inBypass = true) :
    s.writeInstrument i n v = s.modInst i (fun x => { x with instruments := Tab.set x.instruments n v }) := by
  have hcond : (s.mapsOn i && !(s.inst[i]).inBypass) = false := by
    rcases hopen with hmaps | hbypass
    · rw [hmaps, Bool.false_and]
    · rw [hbypass, Bool.not_true, Bool.and_false]
  rw [State.writeInstrument, hcond, if_neg Bool.false_ne_true]

/-- A write to an instrument of a unit that serves mapped pages only raises ACCESS (R49). -/
theorem State.writeInstrument_of_closed (s : State) (i : Fin 16) (n : Nat) (v : Word) (hmaps : s.mapsOn i = true)
    (hbypass : (s.inst[i]).inBypass = false) : s.writeInstrument i n v = s.raise i.val 33 4 (BitVec.ofNat 64 n) := by
  rw [State.writeInstrument, hmaps, hbypass, if_pos (show (true && !false) = true from rfl), State.access_of_no_ctx]
  rfl

/-- The halt is granted while no context owns coded state (R50). -/
theorem State.haltRequest_of_nil (s : State) (hnone : s.coded = []) :
    s.haltRequest = s.modCu (fun c => { c with debugHalted := true }) := by
  rw [State.haltRequest, hnone, if_pos List.isEmpty_nil]

/-- Otherwise it only raises ACCESS (R50). -/
theorem State.haltRequest_of_ne_nil (s : State) (hsome : s.coded ≠ []) : s.haltRequest = s.raise 16 33 5 0 := by
  rw [State.haltRequest, if_neg (mt List.isEmpty_iff.1 hsome), State.access_of_no_ctx]
  rfl

/-- Settles O30: the write and the halt each test one condition, and what it refuses raises ACCESS. -/
theorem debugCommandsComplete : Obligations.DebugCommandsComplete := by
  unfold Obligations.DebugCommandsComplete
  refine ⟨fun e i n v s hopen => ?_, fun e i n v s hmaps hbypass => ?_, fun e s hnone => ?_, fun e s hsome => ?_⟩
  · exact congrArg Host.Outcome.next ((s.at e).writeInstrument_of_open i n v hopen)
  · exact congrArg Host.Outcome.next ((s.at e).writeInstrument_of_closed i n v hmaps hbypass)
  · exact congrArg Host.Outcome.next ((s.at e).haltRequest_of_nil hnone)
  · exact congrArg Host.Outcome.next ((s.at e).haltRequest_of_ne_nil hsome)

/-! ### Controllers and lane training -/

/-- Two changes of one Padun unit are one. -/
theorem State.modInst_modInst (s : State) (i : Fin 16) (f g : Inst → Inst) :
    (s.modInst i f).modInst i g = s.modInst i (fun x => g (f x)) := by
  simp [State.modInst]

/-- The lanes of a list change, each by its own function, and nothing else of their unit. -/
theorem Inst.modLanes_fold_eq (f : Nat → Lane → Lane) (l : List Nat) (x : Inst) :
    l.foldl (fun x k => x.modLane (laneIdx k) (f k)) x =
      { x with lanes := (l.foldl (fun x k => x.modLane (laneIdx k) (f k)) x).lanes } := by
  induction l generalizing x with
  | nil => rfl
  | cons k l ih => rw [List.foldl_cons, ih]; rfl

/-- A lane that the list does not name stays; one that it names once is changed once. -/
theorem Inst.modLanes_fold_lanes (f : Nat → Lane → Lane) (l : List Nat) (x : Inst) (j : Fin 8) (hl : l.Nodup)
    (hlt : ∀ k ∈ l, k < 8) :
    (l.foldl (fun x k => x.modLane (laneIdx k) (f k)) x).lanes[j] = if j.val ∈ l then f j.val x.lanes[j] else x.lanes[j] := by
  induction l generalizing x with
  | nil => simp
  | cons k l ih =>
    obtain ⟨hk, hnodup⟩ := List.nodup_cons.1 hl
    obtain ⟨hk8, hl8⟩ := List.forall_mem_cons.1 hlt
    rw [List.foldl_cons, ih _ hnodup hl8]
    by_cases hj : j.val = k
    · subst hj
      simp [hk, Inst.modLane, laneIdx, Nat.mod_eq_of_lt hk8]
    · have hne : k ≠ j.val := fun h => hj h.symm
      simp [hj, hne, Inst.modLane, laneIdx, Nat.mod_eq_of_lt hk8]

/-- The enabled lanes are those of the harvest map. -/
theorem mem_enabledLanes (x : Inst) (k : Fin 8) : k.val ∈ enabledLanes x ↔ x.harvest.getLsbD k.val = true := by
  simp [enabledLanes]

theorem enabledLanes_nodup (x : Inst) : (enabledLanes x).Nodup := List.nodup_range.filter _

theorem enabledLanes_lt (x : Inst) : ∀ k ∈ enabledLanes x, k < 8 := fun _ hk => List.mem_range.1 (List.mem_filter.1 hk).1

/-- A failure that follows a change of its unit is one change with it, then the fault (R496). -/
theorem State.failInst_modInst (s : State) (i : Fin 16) (f : Inst → Inst) (cause d1 : Nat) :
    (s.modInst i f).failInst i cause d1 = (s.modInst i (fun x => { f x with test := { (f x).test with cause := cause } })).raise i.val 28
      (BitVec.ofNat 64 cause) (BitVec.ofNat 64 d1) := by
  rw [State.failInst, State.modTest, State.modInst_modInst]
  rfl

/-- A controller of the strap's kind, with the codes its kind needs, readies a unit of four enabled lanes or more (R17, R35). -/
theorem State.ctrlReady_of_fits (s : State) (i : Fin 16) (lpddr pseudo : Bool) (hawaits : s.awaitsCtrl i = true)
    (hkind : (s.inst[i]).lower = lpddr) (hlanes : 4 ≤ (enabledLanes s.inst[i]).length) (hcodes : (lpddr || pseudo) = true) :
    s.ctrlReady i lpddr true pseudo = s.modInst i (fun x => { x with ready := true, ctrlLower := lpddr }) := by
  have hcode : ¬((!true) = true ∨ (!lpddr && !pseudo) = true) := by
    rw [← Bool.not_or, hcodes]
    simp
  simp only [State.ctrlReady, hawaits, State.modInst_inst_self]
  rw [if_neg (by simp), if_neg (fun h => h hkind)]
  exact (if_neg (Nat.not_lt.2 hlanes)).trans (if_neg hcode)

/-- A controller of the other kind leaves its unit in test bypass, failed with cause 1 (R17, R540). -/
theorem State.ctrlReady_of_other_kind (s : State) (i : Fin 16) (lpddr wordCode pseudo : Bool) (hawaits : s.awaitsCtrl i = true)
    (hkind : (s.inst[i]).lower ≠ lpddr) :
    s.ctrlReady i lpddr wordCode pseudo = (s.modInst i (fun x =>
      { x with ready := true, ctrlLower := lpddr, bypass := true, test := { x.test with cause := 1 } })).raise i.val 28 1 0 := by
  simp only [State.ctrlReady, hawaits, State.modInst_inst_self]
  rw [if_neg (by simp), if_pos hkind, State.modInst_modInst, State.failInst_modInst]
  rfl

/-- A controller that is late fails its unit with cause 3 (R540). -/
theorem State.ctrlLate_of_late (s : State) (i : Fin 16) (hawaits : s.awaitsCtrl i = true)
    (hlate : (s.inst[i]).arraysAt + 100000000 ≤ s.clock) :
    s.ctrlLate i = (s.modInst i (fun x => { x with test := { x.test with cause := 3 } })).raise i.val 28 3 0 := by
  have hcond : ¬((!s.awaitsCtrl i) = true ∨ s.clock < (s.inst[i]).arraysAt + Config.ctrlReady) := by
    rw [hawaits]
    exact not_or.2 ⟨by simp, Nat.not_lt.2 hlate⟩
  rw [State.ctrlLate, if_neg hcond]
  rfl

/-- A lane after training: in service where it passed and computed what its ROM holds (R403, R541). -/
def Lane.afterTraining (passed : BitVec 8) (encoded : List LaneRom) (k : Nat) (l : Lane) : Lane :=
  let rom := encoded[k]? == some romImage
  let ok := passed.getLsbD k && rom
  { l with trained := ok, romOk := rom, en := if ok then .on else .off }

/-- A lane that passed and computed its ROM's values is in service. -/
theorem Lane.afterTraining_of_passed {passed : BitVec 8} {encoded : List LaneRom} {k : Nat} (hpassed : passed.getLsbD k = true)
    (hrom : encoded[k]? = some romImage) (l : Lane) :
    l.afterTraining passed encoded k = { l with trained := true, romOk := true, en := .on } := by
  simp only [Lane.afterTraining, hpassed, hrom, beq_self_eq_true, Bool.and_self, if_true]

/-- A unit after training: every enabled lane has been trained. -/
def Inst.afterTraining (passed : BitVec 8) (encoded : List LaneRom) (x : Inst) : Inst :=
  (enabledLanes x).foldl (fun x k => x.modLane (laneIdx k) (Lane.afterTraining passed encoded k)) x

/-- Training changes the lanes alone. -/
theorem Inst.afterTraining_eq (passed : BitVec 8) (encoded : List LaneRom) (x : Inst) :
    x.afterTraining passed encoded = { x with lanes := (x.afterTraining passed encoded).lanes } :=
  Inst.modLanes_fold_eq _ _ x

/-- Training changes the enabled lanes, each by its own result. -/
theorem Inst.afterTraining_lanes (passed : BitVec 8) (encoded : List LaneRom) (x : Inst) (k : Fin 8) :
    (x.afterTraining passed encoded).lanes[k] =
      if x.harvest.getLsbD k.val then Lane.afterTraining passed encoded k.val x.lanes[k] else x.lanes[k] := by
  simp only [Inst.afterTraining, Inst.modLanes_fold_lanes _ _ x k (enabledLanes_nodup x) (enabledLanes_lt x), mem_enabledLanes]

/-- A unit whose enabled lanes, four or more, all pass becomes active (R403, R541). -/
theorem State.lanesTrained_of_passed (s : State) (i : Fin 16) (passed : BitVec 8) (encoded : List LaneRom)
    (hready : (s.inst[i]).ready = true) (hactive : (s.inst[i]).active = false) (hcause : (s.inst[i]).test.cause = 0)
    (hlanes : 4 ≤ (enabledLanes s.inst[i]).length)
    (hok : ∀ k ∈ enabledLanes s.inst[i], passed.getLsbD k = true ∧ encoded[k]? = some romImage) :
    s.lanesTrained i passed encoded =
      s.modInst i (fun x => { x.afterTraining passed encoded with active := true, en := .on }) := by
  have hbad : (enabledLanes s.inst[i]).filter (fun k => !(passed.getLsbD k && encoded[k]? == some romImage)) = [] :=
    List.filter_eq_nil_iff.2 fun k hk => by
      obtain ⟨hpassed, hrom⟩ := hok k hk
      simp [hpassed, hrom]
  rw [← State.modInst_modInst s i (Inst.afterTraining passed encoded) (fun x => { x with active := true, en := .on })]
  simp only [State.lanesTrained, hbad, List.foldl_nil, List.length_nil]
  rw [if_neg (by simp only [hready, hactive, hcause]; simp), if_neg (Nat.not_lt.2 hlanes)]
  rfl

/-- Settles O25: each event of start-up passes its checks and changes its one unit. -/
theorem controllerCommandsComplete : Obligations.ControllerCommandsComplete := by
  unfold Obligations.ControllerCommandsComplete
  refine ⟨fun e i lpddr pseudo s hawaits hkind hlanes hcodes => ?_, fun e i lpddr wordCode pseudo s hawaits hkind => ?_,
    fun e i s hawaits hlate => ?_, fun e i passed encoded s hready hactive hcause hlanes hok => ?_⟩
  · exact congrArg Host.Outcome.next ((s.at e).ctrlReady_of_fits i lpddr pseudo hawaits hkind hlanes hcodes)
  · exact congrArg Host.Outcome.next ((s.at e).ctrlReady_of_other_kind i lpddr wordCode pseudo hawaits hkind)
  · exact congrArg Host.Outcome.next ((s.at e).ctrlLate_of_late i hawaits hlate)
  · have hnext := (s.at e).lanesTrained_of_passed i passed encoded hready hactive hcause hlanes hok
    refine ⟨_, congrArg Host.Outcome.next hnext, rfl, fun j hj => State.modInst_inst_other _ i j _ hj, ?_, fun k => ?_⟩
    · rw [State.modInst_inst_self, Inst.afterTraining_eq]
      rfl
    · rw [State.modInst_inst_self]
      refine ((s.inst[i]).afterTraining_lanes passed encoded k).trans ?_
      split
      · next hk =>
        obtain ⟨hpassed, hrom⟩ := hok k.val ((mem_enabledLanes _ k).2 hk)
        exact Lane.afterTraining_of_passed hpassed hrom _
      · rfl

end Sys2Proof.Machine

/-! PROOFS. The gloves: the glove code's parity and its deltas (R101 to R103), the declustered layout (R104 to R107), and forming,
dissolving and querying a glove (R126 to R130, R134 to R136). -/

namespace Sys2Proof.Machine

/-! ### The glove code -/

/-- Settles O15: the coefficients of the default geometry are those of the table. -/
theorem defaultCoefficients : Obligations.DefaultCoefficients := by
  unfold Obligations.DefaultCoefficients
  exact ⟨by decide +kernel, by decide +kernel⟩

/-- A product in GF(2^8) distributes over the sum of its second factors (R99). -/
theorem gf8Mul_xor (red : Byte) (n : Nat) (a b c : Byte) :
    gf8Mul red n a (b ^^^ c) = gf8Mul red n a b ^^^ gf8Mul red n a c := by
  induction n generalizing a b c with
  | zero => exact BitVec.xor_self.symm
  | succ n ih =>
    have hbit : (if (b ^^^ c).getLsbD 0 then a else 0) = (if b.getLsbD 0 then a else 0) ^^^ (if c.getLsbD 0 then a else 0) := by
      rw [BitVec.getLsbD_xor]
      cases b.getLsbD 0 <;> cases c.getLsbD 0 <;> simp
    simp only [gf8Mul, hbit, BitVec.ushiftRight_xor_distrib, ih]
    ac_rfl

theorem gmul_xor (a b c : Byte) : gmul a (b ^^^ c) = gmul a b ^^^ gmul a c := gf8Mul_xor _ _ a b c

/-- The byte that parity seat `j` holds over the first `k` data indices (R101). -/
def parityByte (j k : Nat) (data : Nat → Byte) : Byte := (List.range k).foldl (fun a x => a ^^^ gmul (coeff j x) (data x)) 0

theorem parityByte_succ (j k : Nat) (data : Nat → Byte) :
    parityByte j (k + 1) data = parityByte j k data ^^^ gmul (coeff j k) (data k) := by
  rw [parityByte, List.range_succ, List.foldl_append]
  rfl

/-- A delta at data index `d` changes by its product every parity byte that covers `d`, and no other. -/
theorem parityByte_delta (j k d : Nat) (data : Nat → Byte) (delta : Byte) :
    parityByte j k (fun x => if x = d then data x ^^^ delta else data x) =
      parityByte j k data ^^^ (if d < k then gmul (coeff j d) delta else 0#8) := by
  induction k with
  | zero => exact BitVec.xor_zero.symm
  | succ k ih =>
    rw [parityByte_succ, parityByte_succ, ih]
    rcases Nat.lt_trichotomy d k with hlt | rfl | hgt
    · rw [if_pos hlt, if_pos (Nat.lt_succ_of_lt hlt), if_neg (Nat.ne_of_gt hlt)]
      ac_rfl
    · rw [if_neg (Nat.lt_irrefl d), if_pos (Nat.lt_succ_self d), if_pos rfl, gmul_xor, BitVec.xor_zero, BitVec.xor_assoc]
    · rw [if_neg (Nat.lt_asymm hgt), if_neg (Nat.not_lt.2 hgt), if_neg (Nat.ne_of_lt hgt), BitVec.xor_zero, BitVec.xor_zero]

/-- Settles O16: of the deltas' sum only the product of the index that changed is left. -/
theorem deltaFoldEqualsNewParity : Obligations.DeltaFoldEqualsNewParity := by
  unfold Obligations.DeltaFoldEqualsNewParity
  intro k j d data delta hd
  have h := parityByte_delta j k d data delta
  rwa [if_pos hd] at h

/-! ### The stripe layout -/

/-- The member of parity seat `j`, by the stripe's position in its period (R104). -/
theorem parityHolder_eq {q m j : Nat} (s : Nat) (hq : 0 < q) (hj : j < m) : parityHolder (q * m) m s j = s % q * m + j := by
  have hlt : s % q * m + j < q * m := calc
    s % q * m + j < s % q * m + m := Nat.add_lt_add_left hj _
    _ = (s % q + 1) * m := (Nat.succ_mul _ _).symm
    _ ≤ q * m := Nat.mul_le_mul_right m (Nat.mod_lt s hq)
  have hsplit : s * m + j = s % q * m + j + q * m * (s / q) := calc
    s * m + j = (s % q + q * (s / q)) * m + j := by rw [Nat.mod_add_div]
    _ = s % q * m + j + q * m * (s / q) := by rw [Nat.add_mul, Nat.mul_right_comm, Nat.add_right_comm]
  rw [parityHolder, hsplit, Nat.add_mul_mod_self_left, Nat.mod_eq_of_lt hlt]

/-- Settles O18: n is a multiple of m, so the periods before the stripe drop out. -/
theorem paritySeatPlace : Obligations.ParitySeatPlace := by
  unfold Obligations.ParitySeatPlace
  exact fun q m s j hq _ hj => ⟨rfl, parityHolder_eq s (Nat.lt_of_lt_of_le Nat.two_pos hq) hj⟩

/-- Counting on past the skipped position `b` gives a position that is not `b`, and the count is found again from it (R106). -/
theorem position_of_count {q b u r : Nat} (hu : u < q - 1) (hr : (if u < b then u else u + 1) = r) :
    r < q ∧ b ≠ r ∧ (if r < b then r else r - 1) = u := by
  split at hr <;> subst hr
  · next hlt => exact ⟨by omega, by omega, if_pos hlt⟩
  · next hge => exact ⟨by omega, by omega, if_neg (by omega)⟩

/-- The count of a position other than the skipped position `b`, and the position found again from it (R106). -/
theorem count_of_position {q b u r : Nat} (hr : r < q) (hb : b < q) (hne : b ≠ r) (hu : (if r < b then r else r - 1) = u) :
    u < q - 1 ∧ (if u < b then u else u + 1) = r := by
  split at hu <;> subst hu
  · next hlt => exact ⟨by omega, if_pos hlt⟩
  · next hge => exact ⟨by omega, by rw [if_neg (by omega)]; omega⟩

/-- Period and position of a stripe (or of a palm index) are found again from their sum. -/
theorem div_mod_of_lt {n t r : Nat} (h : r < n) : (t * n + r) / n = t ∧ (t * n + r) % n = r :=
  (Nat.div_mod_unique (Nat.zero_lt_of_lt h)).2 ⟨by rw [Nat.mul_comm, Nat.add_comm], h⟩

section
variable {q m : Nat} (hm : 0 < m)
include hm

/-- The member with data index `d`, by the stripe's position in its period (R105). -/
theorem dataHolder_eq (s d : Nat) : dataHolder (q * m) m s d = if d < s % q * m then d else d + m := by
  rw [dataHolder, Nat.mul_div_cancel q hm]

/-- The stripe of a palm index skips the position in which the member holds parity (R106). -/
theorem stripeOf_eq (i p : Nat) : stripeOf (q * m) m i p =
    p / (q - 1) * q + (if p % (q - 1) < i / m then p % (q - 1) else p % (q - 1) + 1) := by
  rw [stripeOf, Nat.mul_div_cancel q hm]

/-- A member of the stripe's own position holds parity (R104, R107). -/
theorem roleOf_of_eq {i s : Nat} (h : i / m = s % q) : roleOf (q * m) m i s = (.parity (i - s % q * m), s / q) := by
  rw [roleOf, Nat.mul_div_cancel q hm, if_pos h]

/-- Every other member holds data (R105, R106). -/
theorem roleOf_of_ne {i s : Nat} (h : i / m ≠ s % q) : roleOf (q * m) m i s =
    (.data (if i < s % q * m then i else i - m), s / q * (q - 1) + (if s % q < i / m then s % q else s % q - 1)) := by
  rw [roleOf, Nat.mul_div_cancel q hm, if_neg h]

/-- The members that hold parity are the `m` ones from r · m on. -/
theorem div_eq_iff_between (i r : Nat) : i / m = r ↔ r * m ≤ i ∧ i < r * m + m := by
  rw [Nat.div_eq_iff hm]
  omega

/-- The holder of a parity seat has it in its role. -/
theorem roleOf_parityHolder {s j : Nat} (hq : 0 < q) (hj : j < m) :
    roleOf (q * m) m (parityHolder (q * m) m s j) s = (.parity j, s / q) := by
  rw [parityHolder_eq s hq hj, roleOf_of_eq hm ((div_eq_iff_between hm _ _).2 ⟨by omega, by omega⟩), Nat.add_sub_cancel_left]

/-- The holder of a data index has it in its role. -/
theorem roleOf_dataHolder (s d : Nat) : (roleOf (q * m) m (dataHolder (q * m) m s d) s).1 = .data d := by
  rw [dataHolder_eq hm]
  split
  · next hd =>
    rw [roleOf_of_ne hm (mt (div_eq_iff_between hm _ _).1 (by omega)), if_pos hd]
  · next hd =>
    rw [roleOf_of_ne hm (mt (div_eq_iff_between hm _ _).1 (by omega)), if_neg (by omega), Nat.add_sub_cancel]

/-- The holder of the seat of a member's role is that member. -/
theorem seatHolder_roleOf {i : Nat} (s : Nat) (hq : 0 < q) : seatHolder (q * m) m s (roleOf (q * m) m i s).1 = i := by
  by_cases h : i / m = s % q
  · obtain ⟨hle, hlt⟩ := (div_eq_iff_between hm _ _).1 h
    rw [roleOf_of_eq hm h, seatHolder, parityHolder_eq s hq (by omega), Nat.add_sub_cancel' hle]
  · have hout := mt (div_eq_iff_between hm _ _).2 h
    rw [roleOf_of_ne hm h, seatHolder, dataHolder_eq hm]
    rcases Nat.lt_or_ge i (s % q * m) with hlt | hge
    · rw [if_pos hlt, if_pos hlt]
    · rw [if_neg (Nat.not_lt.2 hge), if_neg (by omega)]
      omega

/-- In the stripe of a palm index the member holds that palm index, as data. -/
theorem roleOf_stripeOf (i p : Nat) (hq : 2 ≤ q) :
    ∃ d, roleOf (q * m) m i (stripeOf (q * m) m i p) = (.data d, p) := by
  have hu : p % (q - 1) < q - 1 := Nat.mod_lt _ (by omega)
  rw [stripeOf_eq hm]
  generalize hr : (if p % (q - 1) < i / m then p % (q - 1) else p % (q - 1) + 1) = r
  obtain ⟨hrq, hne, hback⟩ := position_of_count hu hr
  obtain ⟨hdiv, hmod⟩ := div_mod_of_lt (t := p / (q - 1)) hrq
  rw [roleOf_of_ne hm (by rwa [hmod]), hmod, hdiv, hback, Nat.div_add_mod']
  exact ⟨_, rfl⟩

/-- The palm index of a member that holds data in a stripe leads back to the stripe. -/
theorem stripeOf_of_roleOf {i s d p : Nat} (hq : 2 ≤ q) (hi : i < q * m) (hrole : roleOf (q * m) m i s = (.data d, p)) :
    stripeOf (q * m) m i p = s := by
  have hb : i / m < q := (Nat.div_lt_iff_lt_mul hm).2 hi
  have hr : s % q < q := Nat.mod_lt _ (by omega)
  by_cases h : i / m = s % q
  · rw [roleOf_of_eq hm h] at hrole
    cases hrole
  · rw [roleOf_of_ne hm h] at hrole
    generalize hu : (if s % q < i / m then s % q else s % q - 1) = u at hrole
    obtain ⟨-, rfl⟩ := Prod.mk.inj hrole
    obtain ⟨huq, hback⟩ := count_of_position hr hb h hu
    obtain ⟨hdiv, hmod⟩ := div_mod_of_lt (t := s / q) huq
    rw [stripeOf_eq hm, hmod, hdiv, hback, Nat.div_add_mod']

end

/-- Settles O19: holder and role invert one another, and so do palm index and stripe. -/
theorem layoutPlacesEachStitchOnce : Obligations.LayoutPlacesEachStitchOnce := by
  unfold Obligations.LayoutPlacesEachStitchOnce
  intro q m hq hm
  have hq0 : 0 < q := Nat.lt_of_lt_of_le Nat.two_pos hq
  refine ⟨fun s j hj => roleOf_parityHolder hm hq0 hj, fun s d _ => roleOf_dataHolder hm s d,
    fun s i _ => seatHolder_roleOf hm s hq0, fun i p _ => ?_, fun i s d p hi => stripeOf_of_roleOf hm hq hi⟩
  obtain ⟨d, hd⟩ := roleOf_stripeOf hm i p hq
  exact ⟨congrArg Prod.snd hd, d, congrArg Prod.fst hd⟩

/-! ### Little-endian fields of a record -/

@[simp] theorem length_leBytes (n v : Nat) : (leBytes n v).length = n := by
  induction n generalizing v with
  | zero => rfl
  | succ n ih => rw [leBytes, List.length_cons, ih]

/-- A field behind a record's first part is a field of the rest. -/
theorem field_append_of_le {a b : List Byte} {off n : Nat} (h : a.length ≤ off) : field (a ++ b) off n = field b (off - a.length) n := by
  rw [field, field, slice, slice, List.drop_append, List.drop_eq_nil_of_le h, List.nil_append]

/-- The field that a record begins with, when the field's bytes hold its number. -/
theorem field_leBytes_append {n v : Nat} (l : List Byte) (h : v < 256 ^ n) : field (leBytes n v ++ l) 0 n = v := by
  have htake : (leBytes n v ++ l).take n = leBytes n v := List.take_left' (length_leBytes n v)
  rw [field, slice, List.drop_zero, htake, length_leBytes, Nat.sub_self, List.replicate_zero, List.append_nil, leNat_leBytes,
    Nat.mod_eq_of_lt h]

/-! ### Forming, dissolving and querying a glove -/

/-- A row that takes its packet runs the opcode's operation on the event's state (R457). -/
theorem State.row_of_takes {s : State} {e : Ev} {c : Cmd} {code : Nat} {form : Bool} {op : State → Cmd → State}
    {t : State} (htakes : (s.begin e).rowTakes c code form = true) (hop : op (s.begin e) c = t) :
    s.row e c code form op = t.finish := by
  rw [State.row, if_pos htakes, hop]

/-- The glove record has 64 bytes (R134). -/
theorem State.length_gloveRecord (s : State) (ctx : Nat) : (s.gloveRecord ctx).length = 64 := by
  unfold State.gloveRecord
  split <;> simp

/-- The record of a context in no glove names none (R134). -/
theorem State.gloveRecord_of_none {s : State} {ctx : Nat} (h : s.gloveOf ctx = none) : field (s.gloveRecord ctx) 0 2 = 0xFFFF := by
  have hrec : s.gloveRecord ctx = leBytes 2 0xFFFF ++ List.replicate 62 0 := by
    cases hk : s.codedOf ctx <;> simp [State.gloveRecord, hk, h]
  rw [hrec, field_leBytes_append _ (by decide)]

/-- The identifier, the geometry, the lost members and the crowned step stand in the record at R134's offsets. -/
theorem State.gloveRecord_fields {s : State} {ctx : Nat} {k : Coded} {gl : Glove} (hk : s.codedOf ctx = some k)
    (hgl : s.gloveOf ctx = some gl) (hid : gl.g.id < 2 ^ 16) (hn : gl.g.n < 2 ^ 8) (hm : gl.g.m < 2 ^ 8) :
    field (s.gloveRecord ctx) 0 2 = gl.g.id ∧ field (s.gloveRecord ctx) 4 1 = gl.g.n ∧ field (s.gloveRecord ctx) 5 1 = gl.g.m ∧
      field (s.gloveRecord ctx) 8 4 = gl.lostMask.toNat ∧ field (s.gloveRecord ctx) 0x28 8 = k.c.toNat := by
  have hlost : gl.lostMask.toNat < 256 ^ 4 := gl.lostMask.isLt
  have hc : k.c.toNat < 256 ^ 8 := k.c.isLt
  simp only [State.gloveRecord, hk, hgl, List.append_assoc]
  refine ⟨field_leBytes_append _ hid, ?_, ?_, ?_, ?_⟩
  · simp [field_append_of_le, field_leBytes_append (n := 1) _ hn]
  · simp [field_append_of_le, field_leBytes_append (n := 1) _ hm]
  · simp [field_append_of_le, field_leBytes_append _ hlost]
  · simp [field_append_of_le, field_leBytes_append _ hc]

/-- The record with which a member enters the FORM collective when its local checks pass (R127). -/
def State.formRecord (s : State) (c : Cmd) (k : Coded) (hash : Word) : CollRec :=
  { verdict := 1, status := 0, member := c.u8 20, role := 0, c := k.c.toNat, palm := s.palmCount c.ctx,
    layout := (s.layoutHash c.ctx).toNat, lanes := s.lanesWord.toNat, place := hash.toNat,
    tlim := (s.periodLimit c.ctx (c.u64 32)).getD 0, groups := [] }

/-- The record with which a member enters the DISSOLVE collective (R136). -/
def State.dissolveRecord (s : State) (ctx : Nat) (k : Coded) (gl : Glove) : CollRec :=
  { verdict := 1, status := 0, member := gl.g.me, role := 0, c := k.c.toNat, palm := s.palmCount ctx,
    layout := (s.layoutHash ctx).toNat, lanes := s.lanesWord.toNat, place := 0, tlim := noLimit, groups := [] }

/-- A GLOVE_FORM that nothing defers or stops reads its placement table; when the local checks pass the glove is FORMING and the
collective starts (R126 to R128). -/
theorem State.opGloveForm_of_passed {s u w : State} {c : Cmd} {t : List Byte} {k : Coded} (hdeferred : s.formDeferred c = false)
    (hdissolving : s.dissolving c.ctx (c.u16 16) = false) (hopen : s.ctxOpen c.ctx = true) (hevac : s.cu.evac = false)
    (hleast : 4 ≤ c.u8 18) (hmost : c.u8 18 ≤ 32) (hme : c.u8 20 < c.u8 18)
    (htable : s.readPlacement c.ctx (c.u64 40) (c.u8 18) = (u, some t)) (hfirst : u.collOf (formKey c.ctx (c.u16 16) 0) = none)
    (hround : u.collOf (formKey c.ctx (c.u16 16) 1) = none) (hcheck : u.formCheck c t false = (w, none))
    (hk : w.codedOf c.ctx = some k) :
    s.opGloveForm c = ((w.modCoded c.ctx (fun k => { k with
      glove := some (formingGlove c (w.chosenM (c.u8 19)) t (w.placementHash t (c.u8 18))) })).startColl c
        (formKey c.ctx (c.u16 16) 0) (c.u16 16) (c.u8 20) 0 ((List.range (c.u8 18)).map (fun i => (i, placeCoord t i)))
        (w.formRecord c k (w.placementHash t (c.u8 18))).bytes t).hold c (.gloveForm c.ctx) := by
  have hplaced : ¬(c.u8 18 < 4 ∨ 32 < c.u8 18 ∨ c.u8 18 ≤ c.u8 20) := by omega
  simp only [State.opGloveForm, hdeferred, hdissolving, hopen, hevac, Bool.not_true, Bool.false_eq_true, if_false, if_pos hmost,
    htable, hfirst, hround, Option.isSome_none, Bool.or_self, hcheck, or_false, if_neg hplaced, hk]
  rfl

/-- GLOVE_DISSOLVE of a formed glove in which nothing is in progress makes it DISSOLVING and starts the collective among the live
members (R135, R136). -/
theorem State.opGloveDissolve_of_idle {s : State} {c : Cmd} {k : Coded} {gl : Glove} (hopen : s.ctxOpen c.ctx = true)
    (hk : s.codedOf c.ctx = some k) (hgl : s.gloveOf c.ctx = some gl) (hformed : gl.state.formed = true)
    (hbusy : s.gloveBusy c.ctx k = false) (hverified : s.cu.fabric.verified = true) :
    s.opGloveDissolve c = ((s.modGlove c.ctx (fun g => { g with state := .dissolving })).startColl c
      (dissolveKey c.ctx gl.g.id) gl.g.id gl.g.me gl.head (gl.live.map (fun i => (i, gl.g.coord i)))
      ((s.modGlove c.ctx (fun g => { g with state := .dissolving })).dissolveRecord c.ctx k gl).bytes []).hold c
        (.gloveDissolve c.ctx) := by
  simp [State.opGloveDissolve, State.dissolveRecord, hopen, hk, hgl, hformed, hbusy, hverified]

/-- The state that GLOVE_QUERY answers: the glove's, or 0 in no glove (R134). -/
def State.gloveCode (s : State) (ctx : Nat) : Nat := match s.gloveOf ctx with
  | some g => g.state.code
  | none => 0

/-- GLOVE_QUERY with a buffer of its context writes the glove record and answers the glove's state (R134). -/
theorem State.opGloveQuery_of_buffer {s : State} {c : Cmd} (hopen : s.ctxOpen c.ctx = true) (haligned : c.u64 16 % 64 = 0)
    (hbuffer : s.bufferOk c.ctx (c.u64 16) 64 = true) :
    s.opGloveQuery c = (s.bufferWrite (c.u64 16) (s.gloveRecord c.ctx)).post c stOk (s.gloveCode c.ctx) := by
  rw [State.opGloveQuery, hopen, haligned, hbuffer, if_neg (by simp), if_neg (by simp)]
  rfl

/-- The form pass brings its next delta to the front and sends it (R130). -/
theorem State.sendForm_of_find {s : State} {ctx : Nat} {d : Delta}
    (hnext : s.deltas.find? (fun d => d.ctx == ctx && d.form) = some d) :
    s.sendForm ctx = ({ s with deltas := d :: delFirst (fun x => x == d) s.deltas }).sendDelta (instIdx d.inst) := by
  simp only [State.sendForm, hnext]

/-- Settles O42: each row takes its packet and runs the branch of its operation in which every check passes; the record is read field
by field. -/
theorem gloveCommandsComplete : Obligations.GloveCommandsComplete := by
  unfold Obligations.GloveCommandsComplete
  refine ⟨?_, ?_, ?_, ?_, fun s ctx => ⟨s.length_gloveRecord ctx, State.gloveRecord_of_none, fun _ _ => State.gloveRecord_fields⟩⟩
  · intro e c t k u w s b n m hash rec' htakes hdeferred hdissolving hopen hevac hleast hmost hme htable hfirst hround hcheck hk
    have hop := State.opGloveForm_of_passed hdeferred hdissolving hopen hevac hleast hmost hme htable hfirst hround hcheck hk
    exact congrArg Host.Outcome.next (State.row_of_takes htakes hop)
  · intro e c k gl s b htakes hopen hk hgl hformed hbusy hverified
    have hop := State.opGloveDissolve_of_idle hopen hk hgl hformed hbusy hverified
    exact congrArg Host.Outcome.next (State.row_of_takes htakes hop)
  · intro e c s b htakes hopen haligned hbuffer
    have hop := State.opGloveQuery_of_buffer hopen haligned hbuffer
    exact congrArg Host.Outcome.next (State.row_of_takes htakes hop)
  · intro e ctx d s b hnext
    exact congrArg (fun t : State => Host.Outcome.next t.finish) (State.sendForm_of_find hnext)

end Sys2Proof.Machine

/-! PROOFS. The drain and the timers: the end of the drain and its deadline (R157, R163, R165), a node's close (R173), the discard's
end (R81), and what the units and the CU send, send again and give up (R145 to R148, R158 to R161, R193, R429 to R434). -/

namespace Sys2Proof.Machine

/-! ### The drain, the votes and the discard of a step -/

/-- What a context that has drained does as a witness: it freezes its digests and sends them (R316). -/
def State.sendFrozen (s : State) (ctx : Nat) (k : Coded) : State := match k.asWitness with
  | some x => ((s.freezeRooted ctx).rootFaults ctx).sendDigests ctx x
  | none => s

/-- A context that has just drained keeps the time and sends what it has frozen, and DRAIN_CLOSE completes, late past the
deadline (R157, R165). -/
theorem State.noteDrained_of_drainedNow {s : State} {ctx : Nat} {k : Coded} (hk : s.codedOf ctx = some k)
    (hphase : k.phase = .closed ∨ k.phase = .voting) (hfirst : k.drained = false) (hnow : s.drainedNow ctx = true) :
    let u := (s.modCoded ctx (fun k =>
      { k.modVote (fun v => { v with drainedAt := s.now }) with drained := true, drainedAt := s.now })).sendFrozen ctx k
    s.noteDrained ctx = u.endJobs (fun j => j == .drainClose ctx) (if u.now ≤ k.drainDeadline then 0 else 0x31) k.sentBytes u.now := by
  have hguard : ¬((k.phase ≠ .closed ∧ k.phase ≠ .voting) ∨ k.drained = true ∨ (!s.drainedNow ctx) = true) := by
    rw [hfirst, hnow]
    rcases hphase with h | h <;> simp [h]
  simp only [State.noteDrained, hk, if_neg hguard]
  rfl

/-- The passed deadline of a context that has not drained raises DRAIN_DEADLINE, ends BOOST_REQ and lets every upper unit send at
its ceiling (R161, R163). -/
theorem State.passDeadline_of_past {s : State} {ctx : Nat} {k : Coded} (hk : s.codedOf ctx = some k)
    (hphase : k.phase = .opened ∨ k.phase = .closed ∨ k.phase = .voting) (hdrained : k.drained = false)
    (hfirst : k.deadlinePast = false) (hpast : k.drainDeadline ≤ s.now) :
    s.passDeadline ctx =
      ((((s.raiseAt 16 8 k.drainDeadline (packWord [(32, ctx)]) (BitVec.ofNat 64 (s.unacked ctx))).setBoost false).modCoded ctx
        (fun k => { k with deadlinePast := true })).modUppers (fun x => { x with gov := { x.gov with rate := x.gov.ceiling } })) := by
  have hguard : ¬(k.phase ∉ [Phase.opened, .closed, .voting] ∨ k.drained = true ∨ k.deadlinePast = true ∨ s.now < k.drainDeadline) := by
    rw [hdrained, hfirst]
    rcases hphase with h | h | h <;> simp [h, hpast]
  simp only [State.passDeadline, hk, if_neg hguard]
  rfl

/-- The NO with which a node stands in for a member whose vote is missing at its close (R173). -/
def CrownVote.lostMemberNo (v : CrownVote) (member : Nat) : VoteRec :=
  { verdict := 3, status := 0x32, member := member, hb := 6, origin := v.mine, testHold := 0, holdUntil := 0, drainedAt := 0, hbLast := 0,
    tableHash := v.tableHash.toNat, groups := [], digest := [], tally := [] }

/-- A node that lacks a member's vote is not complete. -/
theorem CrownVote.complete_of_missing {v : CrownVote} {i : Nat} (hmissing : v.parts.find? (fun i => (Tab.get v.recs i).isNone) = some i) :
    v.complete = false := by
  have hparts : v.parts.all (fun i => (Tab.get v.recs i).isSome) = false :=
    List.all_eq_false.2 ⟨i, List.mem_of_find?_eq_some hmissing, by simpa using List.find?_some hmissing⟩
  rw [CrownVote.complete, hparts, Bool.false_and]

/-- At its close a node keeps a NO for its first missing member (R173). -/
theorem State.closeVote_of_missing {s : State} {ctx i : Nat} {k : Coded} {gl : Glove} {v : CrownVote} (hk : s.codedOf ctx = some k)
    (hgl : s.gloveOf ctx = some gl) (hv : k.vote = some v) (hended : v.ended = false) (hhead : v.isHead gl = true)
    (hclose : v.close gl ≤ s.now) (hmissing : v.parts.find? (fun i => (Tab.get v.recs i).isNone) = some i)
    (hfw : s.cu.fwFault = false) (hevac : s.cu.evac = false) :
    s.closeVote ctx = s.modCoded ctx (fun k => k.modVote (fun w =>
      { w with recs := Tab.set w.recs missingKey (v.lostMemberNo i).bytes })) := by
  have hguard : ¬(v.ended = true ∨ (!v.isHead gl) = true ∨ s.now < v.close gl ∨ v.complete = true ∨ s.cu.fwFault = true ∨
      s.cu.evac = true) := by
    rw [hended, hhead, CrownVote.complete_of_missing hmissing, hfw, hevac]
    simp [hclose]
  simp only [State.closeVote, hk, hgl, hv, if_neg hguard, hmissing]
  rfl

/-- The work of a discard under way ends it (R81). -/
theorem State.discardDue_of_discarding {s : State} {ctx : Nat} {k : Coded} (hk : s.codedOf ctx = some k) (hphase : k.phase = .discarding) :
    s.discardDue ctx = s.finishDiscard ctx := by
  simp only [State.discardDue, hk, if_pos hphase]

/-- Settles O44: each event finds its cause in the context and none of what would keep it back. -/
theorem drainAndVoteTimersComplete : Obligations.DrainAndVoteTimersComplete := by
  unfold Obligations.DrainAndVoteTimersComplete
  refine ⟨?_, ?_, ?_, ?_⟩
  · intro e ctx k s b hk hphase hfirst hnow
    exact congrArg (fun t : State => Host.Outcome.next t.finish) (State.noteDrained_of_drainedNow hk hphase hfirst hnow)
  · intro e ctx k s b hk hphase hdrained hfirst hpast
    exact congrArg (fun t : State => Host.Outcome.next t.finish) (State.passDeadline_of_past hk hphase hdrained hfirst hpast)
  · intro e ctx i k gl v s b hk hgl hv hended hhead hclose hmissing hfw hevac
    have hno := State.closeVote_of_missing hk hgl hv hended hhead hclose hmissing hfw hevac
    exact congrArg (fun t : State => Host.Outcome.next t.finish) hno
  · intro e ctx k s b hk hphase
    exact congrArg (fun t : State => Host.Outcome.next t.finish) (State.discardDue_of_discarding hk hphase)

/-! ### What the units send -/

/-- A governor of an active upper unit takes its rate and ceiling, unless it is clamped, and reviews BOOST_REQ (R158 to R162). -/
theorem State.governorTick_of_active {s : State} {i : Fin 16} (busy : Bool) (hupper : (s.inst[i]).lower = false)
    (hactive : (s.inst[i]).active = true) :
    let u := s.takeWeight i.val
    s.governorTick i busy = (if (s.inst[i]).gov.clamped then u else
      u.modInst i (fun x => { x with gov := { x.gov with rate := u.sendRate i.val busy, ceiling := u.ceilingNow } })).findBoost := by
  have hguard : ¬((s.inst[i]).lower = true ∨ (!(s.inst[i]).active) = true) := by
    rw [hupper, hactive]
    simp
  simp only [State.governorTick, if_neg hguard]

/-- One seat of a queued delta in its turn: its DELTA leaves while the unit has a tracked transfer free and is not halted (R148,
R405); a seat whose DELTA has not left is kept behind those kept before it. -/
def State.offerSeat (i : Fin 16) (gl : Glove) (d : Delta) (acc : State × List Nat) (j : Nat) : State × List Nat :=
  if acc.1.agentWaits i ∨ acc.1.inst[i].halted then (acc.1, acc.2 ++ [j])
  else ((acc.1.sendSeat gl d j).1, if (acc.1.sendSeat gl d j).2 then acc.2 else acc.2 ++ [j])

/-- The seats of a queued delta in turn: the state after them, and the seats that are kept. -/
def State.offerSeats (s : State) (i : Fin 16) (gl : Glove) (d : Delta) : State × List Nat :=
  (s.trimDelta d).seats.foldl (State.offerSeat i gl d) (s, [])

section
variable {s : State} {i : Fin 16} {d : Delta} {gl : Glove} (hnext : s.deltas.find? (fun d => d.inst == i.val) = some d)
  (hrunning : (s.inst[i]).halted = false) (hfree : s.agentWaits i = false) (hgl : s.gloveOf d.ctx = some gl)
include hnext hrunning hfree hgl

/-- The lane agents offer the first queued delta to its seats, and the queue keeps it with the seats that are left (R145, R148). -/
theorem State.sendDelta_of_find :
    let r := (s.useGroup d.ctx gl.g).offerSeats i gl d
    s.sendDelta i = { r.1 with
      deltas := if r.2.isEmpty then delFirst (fun x => x == d) r.1.deltas
        else updFirst (fun x => x == d) (fun x => { x with seats := r.2 }) r.1.deltas } := by
  have hguard : ¬((s.inst[i]).halted = true ∨ s.agentWaits i = true) := by
    rw [hrunning, hfree]
    simp
  simp only [State.sendDelta, hnext, if_neg hguard, hgl]
  rfl

/-- A delta that has left for every seat is queued no more. -/
theorem State.sendDelta_of_all_left (hleft : ((s.useGroup d.ctx gl.g).offerSeats i gl d).2 = []) :
    let r := (s.useGroup d.ctx gl.g).offerSeats i gl d
    s.sendDelta i = { r.1 with deltas := delFirst (fun x => x == d) r.1.deltas } := by
  intro r
  rw [State.sendDelta_of_find hnext hrunning hfree hgl, if_pos (List.isEmpty_iff.2 hleft)]

/-- A delta that has not left for every seat stays queued for the others. -/
theorem State.sendDelta_of_some_kept (hkept : ((s.useGroup d.ctx gl.g).offerSeats i gl d).2 ≠ []) :
    let r := (s.useGroup d.ctx gl.g).offerSeats i gl d
    s.sendDelta i = { r.1 with deltas := updFirst (fun x => x == d) (fun x => { x with seats := r.2 }) r.1.deltas } := by
  intro r
  rw [State.sendDelta_of_find hnext hrunning hfree hgl, if_neg (mt List.isEmpty_iff.1 hkept)]

end

/-! ### Messages without an answer -/

/-- A message for another chip goes out. -/
theorem State.carry_of_ne {s : State} {dst : Coord} (w : Wire) (hother : dst ≠ s.cu.fabric.coord) :
    s.carry dst w = { s with out := .message dst w :: s.out } := by
  rw [State.carry, if_neg hother]
  rfl

/-- A message unanswered for 250 µs since it last left leaves again (R434). -/
theorem State.resend_of_due {s : State} {id : Nat} {x : Sent} (hx : s.sent.find? (fun x => x.id == id) = some x)
    (hdue : x.last + 250000 ≤ s.now) (hexport : x.msg.type ≠ tExport) (hevac : s.cu.evac = false)
    (hfw : s.cu.fwFault = false ∨ x.msg.type = tDelta) :
    s.resend id = { s.carry x.dst x.msg with sent := s.sent.map (fun y => if y.id == id then { y with last := s.now } else y) } := by
  have htime : ¬s.now < x.last + Config.resendTime := Nat.not_lt.2 hdue
  have hstopped : ¬(s.cu.fwFault = true ∧ x.msg.type ≠ tDelta) := by
    rcases hfw with h | h <;> simp [h]
  simp only [State.resend, hx, hevac, Bool.false_and, Bool.false_eq_true, htime, hexport, hstopped, or_self, if_false]

section
variable {s : State} {id : Nat} {x : Sent} (hx : s.sent.find? (fun x => x.id == id) = some x) (hdue : x.first + 2000000 ≤ s.now)
  (hexport : x.msg.type ≠ tExport) (hfw : s.cu.fwFault = false)
include hx hdue hexport hfw

/-- A message of a hatbox group without an answer for 2 ms loses its addressee to the group (R263, R434). -/
theorem State.answerMissing_of_hatbox (hhatbox : Wire.toHatbox x.msg = true) (hseal : x.msg.type ≠ tSeal)
    (habort : x.msg.type ≠ tAbort) :
    s.answerMissing id = (s.dropSent (fun y => y.id == id)).hbLoss x.ctx x.member 2 := by
  have htime : ¬s.now < x.first + Config.memberTimeout := Nat.not_lt.2 hdue
  simp only [State.answerMissing, hx, htime, hexport, hfw, Bool.false_eq_true, or_self, if_false, hhatbox, if_true, hseal, habort]
  rfl

variable (hmember : x.member < 0xFD) (hhatbox : Wire.toHatbox x.msg = false)
include hmember hhatbox

/-- A message to a member of the context's glove without an answer for 2 ms loses the member (R193, R434). -/
theorem State.answerMissing_of_member (hother : (x.msg.type ≠ tVote ∧ x.msg.type ≠ tCrown) ∨ x.msg.phase = 1)
    (hglove : (s.gloveOf x.ctx).isSome = true) :
    s.answerMissing id = (s.dropSent (fun y => y.id == id)).loseMember x.ctx x.member 2 := by
  have htime : ¬s.now < x.first + Config.memberTimeout := Nat.not_lt.2 hdue
  have hno_coll : ¬((x.msg.type = tVote ∨ x.msg.type = tCrown) ∧ x.msg.phase ≠ 1) := by
    rintro ⟨hvote, hphase⟩
    exact hother.elim (fun h => hvote.elim h.1 h.2) hphase
  obtain ⟨hnew, htree, hwitness⟩ : x.member ≠ 0xFD ∧ x.member ≠ 0xFF ∧ x.member ≠ 0xFE := by omega
  obtain ⟨gl, hgl⟩ := Option.isSome_iff_exists.1 hglove
  have hgl' : (s.dropSent (fun y => y.id == id)).gloveOf x.ctx = some gl := hgl
  simp only [State.answerMissing, hx, htime, hexport, hfw, Bool.false_eq_true, or_self, if_false, hhatbox, hno_coll, hnew, htree,
    hwitness]
  split
  · next hnone => cases hgl'.symm.trans hnone
  · rfl

/-- A collective's message to a member of its glove without an answer for 2 ms loses the member and ends the collective (R193, R432). -/
theorem State.answerMissing_of_voter {gl : Glove} (hvote : x.msg.type = tVote ∨ x.msg.type = tCrown) (hphase : x.msg.phase ≠ 1)
    (hgl : s.gloveOf x.ctx = some gl) (hid : gl.g.id = x.msg.cGlove) (hcoord : gl.g.coord x.member = x.dst) :
    s.answerMissing id =
      ((s.dropSent (fun y => y.id == id)).loseMember x.ctx x.member 2).collLoss x.msg.key x.member 2 := by
  have htime : ¬s.now < x.first + Config.memberTimeout := Nat.not_lt.2 hdue
  have hnew : x.member ≠ 0xFD := Nat.ne_of_lt hmember
  have hgl' : (s.dropSent (fun y => y.id == id)).gloveOf x.ctx = some gl := hgl
  simp only [State.answerMissing, hx, htime, hexport, hfw, Bool.false_eq_true, or_self, if_false, hhatbox, hnew,
    if_pos (And.intro hvote hphase), hgl', if_pos (And.intro hid hcoord)]
  rfl

end

/-! ### Collectives -/

section
variable {s : State} {k : CollKey} {c : Coll} (hc : s.collOf k = some c) (hfw : s.cu.fwFault = false)
  (hround : CollKey.isRound k = false)
include hc hfw hround

/-- The gatherer that lacks a record at its close decides the abort (R429). -/
theorem State.closeColl_of_incomplete (hme : c.me = c.gatherer) (hdue : c.acceptedAt + c.timeout ≤ s.now) (hphase : k.phase ≠ phRestore)
    (hincomplete : c.complete = false) :
    s.closeColl k = s.decideColl c (abortBlock 0x44 (c.acceptedAt + c.timeout)) := by
  have hguard : ¬(s.cu.fwFault = true ∨ c.me ≠ c.gatherer ∨ s.now < c.acceptedAt + c.timeout) := by
    rw [hfw]
    simp [hme, hdue]
  have hlacks : ¬(c.complete = true ∨ CollKey.isRound k = true) := by
    rw [hincomplete, hround]
    simp
  simp only [State.closeColl, hc, if_neg hguard, if_neg hphase, if_neg hlacks]
  rfl

/-- A participant without a decision by its own bound completes alone (R433). -/
theorem State.aloneColl_of_undecided (hdue : c.acceptedAt + 2 * c.timeout + 2000000 ≤ s.now) :
    s.aloneColl k = s.conclude c c.recs (abortBlock 0x44 (c.acceptedAt + c.timeout)) := by
  have hguard : ¬(s.cu.fwFault = true ∨ CollKey.isRound k = true ∨
      s.now < c.acceptedAt + 2 * c.timeout + Config.memberTimeout) := by
    rw [hfw, hround]
    simp [Config.memberTimeout, hdue]
  simp only [State.aloneColl, hc, if_neg hguard]
  rfl

end

/-- Settles O58: each timer finds its cause due and nothing that keeps it back; the kept messages' expiry is its definition. -/
theorem sendingAndTimersComplete : Obligations.SendingAndTimersComplete := by
  unfold Obligations.SendingAndTimersComplete
  refine ⟨?_, ?_, ?_, ?_, ?_, fun e k s => rfl⟩
  · intro e i busy s u hupper hactive
    exact congrArg Host.Outcome.next (State.governorTick_of_active (s := s.at e) busy hupper hactive)
  · intro e i d gl s b hnext hrunning hfree hgl u r
    refine ⟨fun hleft => ?_, fun hkept => ?_⟩
    · have hsent := State.sendDelta_of_all_left hnext hrunning hfree hgl hleft
      exact congrArg (fun t : State => Host.Outcome.next t.finish) hsent
    · have hsent := State.sendDelta_of_some_kept hnext hrunning hfree hgl hkept
      exact congrArg (fun t : State => Host.Outcome.next t.finish) hsent
  · intro e id x s b hx hdue hexport hevac hfw
    have hresent := State.resend_of_due (s := s.at e) hx hdue hexport hevac hfw
    exact ⟨congrArg Host.Outcome.next hresent, State.carry_of_ne (s := s.at e) x.msg⟩
  · intro e id x s b u hx hdue hexport hfw hmember
    refine ⟨fun hhatbox hother hglove => ?_, fun gl hhatbox hvote hphase hgl hid hcoord => ?_, fun hhatbox hseal habort => ?_⟩
    · have hlost := State.answerMissing_of_member hx hdue hexport hfw hmember hhatbox hother hglove
      exact congrArg (fun t : State => Host.Outcome.next t.finish) hlost
    · have hlost := State.answerMissing_of_voter hx hdue hexport hfw hmember hhatbox hvote hphase hgl hid hcoord
      exact congrArg (fun t : State => Host.Outcome.next t.finish) hlost
    · have hlost := State.answerMissing_of_hatbox hx hdue hexport hfw hhatbox hseal habort
      exact congrArg (fun t : State => Host.Outcome.next t.finish) hlost
  · intro e k c s b hc hfw hround
    refine ⟨fun hme hdue hphase hincomplete => ?_, fun hdue => ?_⟩
    · have hclosed := State.closeColl_of_incomplete hc hfw hround hme hdue hphase hincomplete
      exact congrArg (fun t : State => Host.Outcome.next t.finish) hclosed
    · exact congrArg (fun t : State => Host.Outcome.next t.finish) (State.aloneColl_of_undecided hc hfw hround hdue)

end Sys2Proof.Machine

/-! PROOFS. Darning and seats: the field of the glove code and the rebuilding of one lost byte (R99, R100, R203), DARN_START,
STANDIN_ASSIGN, DARN_STITCH and background darns (R202, R213, R216 to R228, R236), EVACUATE, ADMIT and its copies (R237 to R242). -/

namespace Sys2Proof.Machine

/-! ### The field of the glove code -/

/-- One shift step of the product is additive: the carries of two bytes that have both set one cancel (R99). -/
theorem shiftStep_xor (red a b : Byte) :
    (if (a ^^^ b).getLsbD 7 then (a ^^^ b) <<< 1 ^^^ red else (a ^^^ b) <<< 1) =
      (if a.getLsbD 7 then a <<< 1 ^^^ red else a <<< 1) ^^^ (if b.getLsbD 7 then b <<< 1 ^^^ red else b <<< 1) := by
  have hcancel : a <<< 1 ^^^ red ^^^ (b <<< 1 ^^^ red) = a <<< 1 ^^^ b <<< 1 := calc
    _ = a <<< 1 ^^^ b <<< 1 ^^^ (red ^^^ red) := by ac_rfl
    _ = _ := by rw [BitVec.xor_self, BitVec.xor_zero]
  rw [BitVec.getLsbD_xor, BitVec.shiftLeft_xor_distrib]
  cases a.getLsbD 7 <;> cases b.getLsbD 7
  case true.true => exact hcancel.symm
  all_goals simp <;> ac_rfl

/-- A product in GF(2^8) distributes over the sum of its first factors (R99). -/
theorem gf8Mul_xor_left (red : Byte) (n : Nat) (a b c : Byte) :
    gf8Mul red n (a ^^^ b) c = gf8Mul red n a c ^^^ gf8Mul red n b c := by
  induction n generalizing a b c with
  | zero => exact BitVec.xor_self.symm
  | succ n ih =>
    have hbit : (if c.getLsbD 0 then a ^^^ b else 0) = (if c.getLsbD 0 then a else 0) ^^^ (if c.getLsbD 0 then b else 0) := by
      split <;> simp
    simp only [gf8Mul, hbit, shiftStep_xor, ih]
    ac_rfl

theorem gmul_xor_left (a b c : Byte) : gmul (a ^^^ b) c = gmul a c ^^^ gmul b c := gf8Mul_xor_left _ _ a b c

/-- The sum of those powers of two, with exponents in `l`, that a byte has set. -/
def bitSum (b : Byte) (l : List (Fin 8)) : Byte := l.foldr (fun (i : Fin 8) a => (if b.getLsbD i.val then 1#8 <<< i.val else 0#8) ^^^ a) 0

theorem bitSum_all : ∀ b : Byte, bitSum b (List.finRange 8) = b := by decide +kernel

/-- Two additive maps of bytes that agree on the powers of two agree. -/
theorem eq_of_additive {f g : Byte → Byte} (hf : ∀ b c, f (b ^^^ c) = f b ^^^ f c) (hg : ∀ b c, g (b ^^^ c) = g b ^^^ g c)
    (hpow : ∀ i : Fin 8, f (1#8 <<< i.val) = g (1#8 <<< i.val)) (b : Byte) : f b = g b := by
  have hzero : f 0 = g 0 := by
    have hf0 := hf 0 0
    have hg0 := hg 0 0
    rw [BitVec.xor_self] at hf0 hg0
    exact (hf0.trans BitVec.xor_self).trans (hg0.trans BitVec.xor_self).symm
  have hsum (l : List (Fin 8)) : f (bitSum b l) = g (bitSum b l) := by
    induction l with
    | nil => exact hzero
    | cons i l ih =>
      rw [bitSum, List.foldr_cons, ← bitSum, hf, hg, ih]
      split
      · rw [hpow]
      · exact congrArg (· ^^^ _) hzero
  rw [← bitSum_all b, hsum]

/-- The product of GF(2^8) is associative: each side is additive in each factor, so the products of powers of two settle it (R99). -/
theorem gmul_assoc (a b c : Byte) : gmul (gmul a b) c = gmul a (gmul b c) := by
  have hpow : ∀ i j l : Fin 8, gmul (gmul (1#8 <<< i.val) (1#8 <<< j.val)) (1#8 <<< l.val) =
      gmul (1#8 <<< i.val) (gmul (1#8 <<< j.val) (1#8 <<< l.val)) := by decide +kernel
  refine eq_of_additive (f := fun a => gmul (gmul a b) c) (g := fun a => gmul a (gmul b c))
    (fun _ _ => by simp only [gmul_xor_left]) (fun _ _ => by simp only [gmul_xor_left]) (fun i => ?_) a
  refine eq_of_additive (f := fun b => gmul (gmul _ b) c) (g := fun b => gmul _ (gmul b c))
    (fun _ _ => by simp only [gmul_xor_left, gmul_xor]) (fun _ _ => by simp only [gmul_xor_left, gmul_xor]) (fun j => ?_) b
  exact eq_of_additive (f := fun c => gmul (gmul _ _) c) (g := fun c => gmul _ (gmul _ c))
    (fun _ _ => by simp only [gmul_xor]) (fun _ _ => by simp only [gmul_xor]) (hpow i j) c

theorem gmul_one : ∀ a : Byte, gmul a 1#8 = a := by decide +kernel

theorem one_gmul : ∀ a : Byte, gmul 1#8 a = a := by decide +kernel

/-- Every byte but zero has its inverse (R99). -/
theorem ginv_gmul : ∀ a : Byte, a ≠ 0#8 → gmul (ginv a) a = 1#8 := by decide +kernel

/-- An inverse is not zero. -/
theorem ginv_ne_zero {a : Byte} (h : a ≠ 0#8) : ginv a ≠ 0#8 := by
  intro hz
  have hone := ginv_gmul a h
  rw [hz] at hone
  have hnot : ∀ a : Byte, gmul 0#8 a ≠ 1#8 := by decide +kernel
  exact hnot a hone

/-- No coefficient of the code is zero: the data indices stay below the numbers 0xF0 + j of the parity seats (R100). -/
theorem coeff_ne_zero {j d : Nat} (hj : j < 16) (hd : d < 0xF0) : coeff j d ≠ 0#8 := by
  refine ginv_ne_zero fun h => ?_
  have heq := congrArg BitVec.toNat (BitVec.xor_eq_zero_iff.1 h)
  simp only [BitVec.toNat_ofNat] at heq
  omega

/-! ### Rebuilding a lost data byte -/

/-- With data index `x` lost, the chain over parity seat `j` weighs the seat by the inverse of its coefficient of `x`, and each
surviving data index by that inverse times its own coefficient (R203). -/
theorem targetCoeffs_of_one_lost {j x : Nat} (h : coeff j x ≠ 0#8) : ∃ a, targetCoeffs field8 coeff [j] [x] (.data x) = some a ∧
    a (.parity j) = ginv (coeff j x) ∧ ∀ y, a (.data y) = gmul (ginv (coeff j x)) (coeff j y) := by
  have hsolve : solveRow field8 coeff [j] [x] (fun y => if y = x then field8.one else field8.zero) = some [ginv (coeff j x)] := by
    simp [solveRow, gauss, List.findIdx?_cons, field8, h, gmul_one]
  refine ⟨_, by rw [targetCoeffs, expression, hsolve], ?_, fun y => ?_⟩
  · simp [List.idxOf_cons_self]
  · exact BitVec.zero_xor

/-- The sum over the first `k` indices is the sum over all but `x`, begun with the summand of `x`. -/
theorem foldl_range_split {k x : Nat} (hx : x < k) (f : Nat → Byte) :
    (List.range k).foldl (fun b y => b ^^^ f y) 0 = ((List.range k).filter (fun y => y != x)).foldl (fun b y => b ^^^ f y) (f x) := by
  have hperm : (List.range k).Perm (x :: (List.range k).filter (fun y => y != x)) := by
    rw [← List.nodup_range.erase_eq_filter]
    exact List.perm_cons_erase (List.mem_range.2 hx)
  rw [hperm.foldl_eq' (fun y _ z _ b => by ac_rfl), List.foldl_cons]
  exact congrArg (List.foldl _ · _) BitVec.zero_xor

/-- Adding the same summands twice changes nothing. -/
theorem foldl_xor_twice (l : List Nat) (f : Nat → Byte) (b : Byte) :
    l.foldl (fun b y => b ^^^ f y) (l.foldl (fun b y => b ^^^ f y) b) = b := by
  induction l generalizing b with
  | nil => rfl
  | cons y l ih =>
    have hcomm : l.foldl (fun b y => b ^^^ f y) (b ^^^ f y) = l.foldl (fun b y => b ^^^ f y) b ^^^ f y :=
      List.foldl_hom (· ^^^ f y) (fun b z => by ac_rfl)
    rw [List.foldl_cons, List.foldl_cons, hcomm, BitVec.xor_assoc, BitVec.xor_self, BitVec.xor_zero, ih]

/-- The survivors' summands, added to the sum over all indices, leave the summand of the lost one. -/
theorem foldl_survivors {k x : Nat} (hx : x < k) (f : Nat → Byte) :
    ((List.range k).filter (fun y => y != x)).foldl (fun b y => b ^^^ f y) ((List.range k).foldl (fun b y => b ^^^ f y) 0) = f x := by
  rw [foldl_range_split hx, foldl_xor_twice]

/-- Settles O17: the chain is the inverse coefficient times the sum of the parity byte and the survivors' products, and of that sum the
lost byte's product is left. -/
theorem lostByteRebuilds : Obligations.LostByteRebuilds := by
  unfold Obligations.LostByteRebuilds
  intro k j x data hk hj hx parity
  have hne : coeff j x ≠ 0#8 := coeff_ne_zero (by omega) (by omega)
  obtain ⟨a, ha, hpar, hdata⟩ := targetCoeffs_of_one_lost hne
  have hterm (b : Byte) (y : Nat) : gmul (ginv (coeff j x)) b ^^^ gmul (a (.data y)) (data y) =
      gmul (ginv (coeff j x)) (b ^^^ gmul (coeff j y) (data y)) := by
    rw [hdata, gmul_xor, gmul_assoc]
  refine ⟨a, ha, ?_⟩
  rw [hpar, List.foldl_hom _ hterm, foldl_survivors hx, ← gmul_assoc, ginv_gmul _ hne, one_gmul]

/-! ### Starting the collective of a darn -/

section
variable {s u w : State} {c : Cmd} {k : Coded} {gl : Glove} {x : SeatInfo} {t : List Byte} {num : Nat}

/-- A member whose rows of R217 all pass starts the DARN collective with its record (R218). -/
theorem State.darnMember_of_passed (hrows : s.memberRows c.ctx gl k none
      (decide (c.u8 16 < gl.g.n) && gl.lostMask.getLsbD (c.u8 16) && !s.darnRuns c.ctx (c.u8 16) &&
        ((gl.dealOf (c.u8 16)).isSome == c.modeBit 0))
      (s.darnTaken c.ctx (c.u8 17)) true true t = (w, none))
    (hfree : w.collOf (darnKey c.ctx gl.g.id (c.u8 17)) = none) :
    s.darnMember c k gl t none = (w.startColl c (darnKey c.ctx gl.g.id (c.u8 17)) gl.g.id gl.g.me gl.head
      (if c.modeBit 0 then gl.live.map (fun i => (i, gl.g.coord i)) else gl.seatParts (c.u8 16) t)
      (w.seatRecord c.ctx k none gl.g.me 0 (w.placementHash t gl.g.n).toNat noLimit).bytes t).hold c (.darn c.ctx (c.u8 17)) := by
  simp only [State.darnMember, hrows, hfree, Option.isSome_none, Bool.false_eq_true, if_false, State.noteFailed]

/-- The live members that a spare or a new chip finds beside the seat it takes (R427). -/
def otherSeats (x : SeatInfo) (seat : Nat) : List Nat := (List.range x.n).filter (fun i => !x.lost.getLsbD i && i != seat)

/-- The record with which a spare or a new chip that passes its checks enters its collective (R218, R241). -/
def State.spareRecord (s : State) (c : Cmd) (k : Coded) (x : SeatInfo) (t : List Byte) : CollRec :=
  s.seatRecord c.ctx k none (c.u8 16) 1 (s.placementHash t x.n).toNat ((s.periodLimit c.ctx (c.u64 32)).getD 0)

/-- A spare whose rows of R217 all pass starts the DARN collective with its record (R218). -/
theorem State.darnSpare_of_passed (htable : t ≠ [])
    (hrows : s.spareRows c.ctx (c.u8 16) (c.u64 32) k x none (s.darnTaken c.ctx (c.u8 17)) t = (w, none))
    (hfree : w.collOf (darnKey c.ctx (c.u16 18) (c.u8 17)) = none) :
    s.darnSpare c k x t none = (w.startColl c (darnKey c.ctx (c.u16 18) (c.u8 17)) (c.u16 18) (c.u8 16)
      ((otherSeats x (c.u8 16)).head?.getD 0) (seatParts (otherSeats x (c.u8 16)) (c.u8 16) t) (w.spareRecord c k x t).bytes t).hold c
        (.darn c.ctx (c.u8 17)) := by
  have hplaced : ¬(t.isEmpty = true ∨ (w.collOf (darnKey c.ctx (c.u16 18) (c.u8 17))).isSome = true) := by
    simp [hfree, htable]
  simp only [State.darnSpare, hrows, if_neg hplaced, State.noteFailed]
  rfl

section
variable (hopen : s.ctxOpen c.ctx = true) (hnum : c.u8 17 ≤ 3) (hk : s.codedOf c.ctx = some k) (hstopped : k.stopped = false)
include hopen hnum hk hstopped

/-- DARN_START on a member reads its placement table and checks the member's rows (R216, R217). -/
theorem State.opDarnStart_of_member (hgl : k.glove = some gl) (hid : gl.g.id = c.u16 18) (hevac : s.cu.evac = false)
    (hmode : c.modeBit 0 = false) (hbase : c.u64 32 = 0) (htable : s.tableRow c.ctx (c.u64 24) gl.g.n 24 = (u, t, none)) :
    s.opDarnStart c = u.darnMember c k gl t none := by
  simp [State.opDarnStart, hopen, Nat.not_lt.2 hnum, hk, hstopped, hgl, hid, hevac, hmode, hbase, htable]

/-- DARN_START of a stand-in checks the member's rows against the glove's own table (R216, R228). -/
theorem State.opDarnStart_of_standin (hgl : k.glove = some gl) (hid : gl.g.id = c.u16 18) (hevac : s.cu.evac = false)
    (hmode : c.modeBit 0 = true) (haddr : c.u64 24 = 0) (hbase : c.u64 32 = 0) :
    s.opDarnStart c = s.darnMember c k gl gl.g.place none := by
  simp [State.opDarnStart, hopen, Nat.not_lt.2 hnum, hk, hstopped, hgl, hid, hevac, hmode, haddr, hbase]

/-- DARN_START on the spare reads its placement table and checks the spare's rows (R216, R217). -/
theorem State.opDarnStart_of_spare (hgl : k.glove = none) (hinfo : Tab.get s.infos c.ctx = some x) (hmode : c.modeBit 0 = false)
    (hseat : c.u8 16 < x.n) (htable : s.tableRow c.ctx (c.u64 24) x.n 24 = (u, t, none)) :
    s.opDarnStart c = u.darnSpare c k x t none := by
  simp [State.opDarnStart, hopen, Nat.not_lt.2 hnum, hk, hstopped, hgl, hinfo, hmode, Nat.not_le.2 hseat, htable]

end

/-- STANDIN_ASSIGN that passes its local checks starts the STANDIN collective with the chip's record (R222, R409). -/
theorem State.opStandinAssign_of_passed (hopen : s.ctxOpen c.ctx = true) (hk : s.codedOf c.ctx = some k)
    (hgl : s.gloveOf c.ctx = some gl) (hunit : c.u8 17 ≤ 16) (hgroups : c.u8 16 < gl.g.n → c.u64 32 ≤ gl.g.palmOf (c.u8 16))
    (hfree : s.collOf (standinKey c.ctx gl.g.id) = none)
    (hrows : s.memberRows c.ctx gl k none
      (decide (c.u8 16 < gl.g.n) && gl.lostMask.getLsbD (c.u8 16) && !s.darnRuns c.ctx (c.u8 16)) s.darnsFull false
      (s.hostingOk c.ctx gl (c.u8 16) (c.u64 24) (planDeal gl c).2) gl.g.place = (w, none))
    (hverified : w.cu.fabric.verified = true) :
    s.opStandinAssign c = (w.startColl c (standinKey c.ctx gl.g.id) gl.g.id gl.g.me gl.head
      (gl.live.map (fun i => (i, gl.g.coord i)))
      (w.seatRecord c.ctx k none gl.g.me 0 (w.placementHash gl.g.place gl.g.n).toNat noLimit).bytes gl.g.place).hold c
        (.standin c.ctx) := by
  have hfirst : ¬(c.u8 16 < gl.g.n ∧ gl.g.palmOf (c.u8 16) < c.u64 32) := fun h => Nat.not_lt.2 (hgroups h.1) h.2
  simp [State.opStandinAssign, hopen, hk, hgl, Nat.not_lt.2 hunit, hfirst, hfree, hrows, hverified, State.noteFailed]

/-! ### The chains of a stitch -/

/-- DARN_STITCH waits for the chain that rebuilds its stitch, or issues one; with at most four seats erased the stitch is not
given up (R201, R236). -/
theorem State.opDarnStitch_of_present {r : Region} {i : Nat} (hopen : s.ctxOpen c.ctx = true) (hk : s.codedOf c.ctx = some k)
    (hgl : s.gloveOf c.ctx = some gl) (hformed : gl.state.formed = true) (hlost : gl.state ≠ .lost) (hmember : c.u8 16 < gl.g.n)
    (hindex : c.u64 24 < (if c.modeBit 0 then gl.g.tmax else gl.g.palmOf (c.u8 16)))
    (hseat : s.seatAt c.ctx gl (c.u8 16) (c.modeBit 0) (c.u64 24) = some (r, i))
    (hfew : (((s.hold c (.darnStitch c.ctx r.num i)).issueChain c.ctx r i .stitch).erased c.ctx gl
      (gl.g.stripeFor (c.u8 16) (c.modeBit 0) (c.u64 24))).length ≤ 4) :
    s.opDarnStitch c =
      if ((s.hold c (.darnStitch c.ctx r.num i)).chainFor r.num i).isSome then s.hold c (.darnStitch c.ctx r.num i)
      else (s.hold c (.darnStitch c.ctx r.num i)).issueChain c.ctx r i .stitch := by
  simp only [State.opDarnStitch, hopen, hk, hgl, hformed, Bool.not_true, Bool.false_eq_true, if_false, if_neg (Nat.not_le.2 hmember),
    if_neg (Nat.not_le.2 hindex), hseat, if_neg hlost, Nat.not_lt.2 hfew, and_false]

/-- The seat and the stripe of a stitch of this chip. -/
def State.chainPlace (s : State) (gl : Glove) (p : Region × Nat) : Nat × Nat :=
  let q := s.seatOf gl p.1 p.2
  (q.1, gl.g.stripeFor q.1 q.2.1 q.2.2)

/-- The erasure set of the chain that fills a stitch: the seat itself in front of the others that lack content (R201). -/
def State.chainErased (s : State) (ctx : Nat) (gl : Glove) (p : Region × Nat) : List Nat :=
  (s.chainPlace gl p).1 :: (s.erased ctx gl (s.chainPlace gl p).2).filter (· != (s.chainPlace gl p).1)

/-- The stitch whose chain a background darn issues next: of the lowest stripe, unfilled, rebuilt by no chain yet, and either beyond
rebuilding or with its data in place (R202, R213). -/
def State.nextFill (s : State) (ctx : Nat) (gl : Glove) (d : Darn) : Option (Region × Nat) :=
  (sortOn (fun p => (s.chainPlace gl p).2) ((s.fillSet ctx d.areas).filter (fun p => (s.chainFor p.1.num p.2).isNone))).find? (fun p =>
    decide (4 < (s.chainErased ctx gl p).length) ||
      (gl.g.plan (s.chainPlace gl p).2 (s.chainPlace gl p).1 (s.chainErased ctx gl p)).isSome)

/-- What a running background darn does with its next stitch. -/
theorem State.backgroundChain_eq {ctx : Nat} {d : Darn}
    (hdarn : s.darns.find? (fun d => d.ctx == ctx && d.num == num && d.dest) = some d) (hgl : s.chainGlove ctx = some gl) :
    s.backgroundChain ctx num = match s.nextFill ctx gl d with
      | none => s
      | some p =>
        let v := s.issueChain ctx p.1 p.2 (.background num)
        if (v.chainFor p.1.num p.2).isSome then v else v.afterStitch ctx p.1.num p.2 .failed := by
  simp only [State.backgroundChain, hdarn, hgl]
  rfl

/-- A background darn issues the chain of its next stitch; without a chain the stitch has failed (R202, R213). -/
theorem State.backgroundChain_of_ready {ctx : Nat} {d : Darn} {r : Region} {i : Nat}
    (hdarn : s.darns.find? (fun d => d.ctx == ctx && d.num == num && d.dest) = some d) (hgl : s.chainGlove ctx = some gl)
    (hready : s.nextFill ctx gl d = some (r, i)) :
    let v := s.issueChain ctx r i (.background num)
    s.backgroundChain ctx num = if (v.chainFor r.num i).isSome then v else v.afterStitch ctx r.num i .failed := by
  rw [State.backgroundChain_eq hdarn hgl, hready]

end

/-- Settles O48: each row takes its packet and runs the branch in which every check passes; the background darn finds its stitch. -/
theorem darnCommandsComplete : Obligations.DarnCommandsComplete := by
  unfold Obligations.DarnCommandsComplete
  refine ⟨?_, ?_, ?_, ?_, ?_, ?_⟩
  · intro e c k gl t u w s b key named htakes hopen hnum hk hstopped hgl hid hevac hmode hbase htable hrows hfree rec'
    have hop := State.opDarnStart_of_member hopen hnum hk hstopped hgl hid hevac hmode hbase htable
    have hmember := State.darnMember_of_passed (by rw [hmode]; exact hrows) hfree
    rw [hmode, if_neg Bool.false_ne_true] at hmember
    exact congrArg Host.Outcome.next (State.row_of_takes htakes (hop.trans hmember))
  · intro e c k gl w s b key named htakes hopen hnum hk hstopped hgl hid hevac hmode haddr hbase hrows hfree rec'
    have hop := State.opDarnStart_of_standin hopen hnum hk hstopped hgl hid hevac hmode haddr hbase
    have hmember := State.darnMember_of_passed (by rw [hmode]; exact hrows) hfree
    rw [hmode, if_pos rfl] at hmember
    exact congrArg Host.Outcome.next (State.row_of_takes htakes (hop.trans hmember))
  · intro e c k x t u w s b key htakes hopen hnum hk hstopped hgl hinfo hmode hseat htable hplaced hrows hfree live rec'
    have hop := State.opDarnStart_of_spare hopen hnum hk hstopped hgl hinfo hmode hseat htable
    have hspare := State.darnSpare_of_passed hplaced hrows hfree
    exact congrArg Host.Outcome.next (State.row_of_takes htakes (hop.trans hspare))
  · intro e c k gl w s b key named htakes hopen hk hgl hunit hgroups hfree hrows hverified rec'
    have hop := State.opStandinAssign_of_passed hopen hk hgl hunit hgroups hfree hrows hverified
    exact congrArg Host.Outcome.next (State.row_of_takes htakes hop)
  · intro e c k gl r i s b w v htakes hopen hk hgl hformed hlost hmember hindex hseat hfew
    have hop := State.opDarnStitch_of_present hopen hk hgl hformed hlost hmember hindex hseat hfew
    exact congrArg Host.Outcome.next (State.row_of_takes htakes hop)
  · intro e ctx num d gl r i s b place erased hdarn hgl hready v
    exact congrArg (fun t : State => Host.Outcome.next t.finish) (State.backgroundChain_of_ready hdarn hgl hready)

/-! ### EVACUATE -/

section
variable {s u w : State} {c : Cmd} {k : Coded} {gl : Glove} {x : SeatInfo} {t : List Byte}

/-- The glove once a member is marked lost. -/
def Glove.without (gl : Glove) (i : Nat) : Glove :=
  let bit : BitVec 32 := (1 : BitVec 32) <<< i
  { gl with lostMask := gl.lostMask ||| bit, filling := gl.filling &&& ~~~bit }

/-- A survivor may evacuate a suspect that is another member of its formed, crowned glove, where the loss leaves no stripe with more
erasures than parity (R237, R238). -/
theorem State.evacuateStatus_ok (hk : s.codedOf c.ctx = some k) (hgl : s.gloveOf c.ctx = some gl) (hformed : gl.state.formed = true)
    (hmember : c.u8 16 < gl.g.n) (hother : c.u8 16 ≠ gl.g.me) (hphase : k.phase = .crowned)
    (hfew : s.erasures c.ctx (gl.without (c.u8 16)) ≤ gl.g.m) :
    s.evacuateStatus c = stOk := by
  have hsuspect : ¬(gl.g.n ≤ c.u8 16 ∨ c.u8 16 = gl.g.me) := by simp [hmember, hother]
  simp only [State.evacuateStatus, hk, hgl, hformed, Bool.not_true, Bool.false_eq_true, if_false, if_neg hsuspect, hphase, ne_eq,
    not_true_eq_false]
  exact if_neg (Nat.not_lt.2 hfew)

/-- EVACUATE of such a suspect marks it lost with cause EVACUATED (R237, R238). -/
theorem State.opEvacuate_of_ok (hopen : s.ctxOpen c.ctx = true) (hstatus : s.evacuateStatus c = stOk) :
    s.opEvacuate c = (s.loseMember c.ctx (c.u8 16) lostEvacuated).post c stOk 0 := by
  have hparam : ¬stOk = stBadParam := by decide
  simp only [State.opEvacuate, hopen, hstatus, if_neg hparam, Bool.not_true, Bool.false_eq_true, if_false, if_true]

/-- EVACUATE with SELF sets EVAC on its own chip (R239). -/
theorem State.opEvacuateSelf_of_zero (hzero : c.u8 16 = 0) :
    s.opEvacuateSelf c = (s.modCu (fun x => { x with evac := true })).post c stOk 0 := by
  rw [State.opEvacuateSelf, if_neg (fun h => h hzero)]

/-! ### ADMIT -/

section
variable (hopen : s.ctxOpen c.ctx = true) (hk : s.codedOf c.ctx = some k) (hstopped : k.stopped = false)
include hopen hk hstopped

/-- ADMIT on a member reads its placement table and checks the member's rows (R217, R241). -/
theorem State.opAdmit_of_member (hgl : k.glove = some gl) (hmode : c.modeBit 0 = false) (hid : gl.g.id = c.u16 18)
    (hevac : s.cu.evac = false) (hbase : c.u64 32 = 0) (htable : s.tableRow c.ctx (c.u64 24) gl.g.n 24 = (u, t, none)) :
    s.opAdmit c = u.admitMember c k gl t none := by
  simp [State.opAdmit, hopen, hk, hstopped, hgl, hid, hevac, hmode, hbase, htable]

/-- ADMIT on the new chip reads its placement table and checks the new chip's rows (R217, R241). -/
theorem State.opAdmit_of_new (hgl : k.glove = none) (hinfo : Tab.get s.infos c.ctx = some x) (hmode : c.modeBit 0 = true)
    (hseat : c.u8 16 < x.n) (htable : s.tableRow c.ctx (c.u64 24) x.n 24 = (u, t, none)) :
    s.opAdmit c = u.admitNew c k x t none := by
  simp [State.opAdmit, hopen, hk, hstopped, hgl, hinfo, hmode, Nat.not_le.2 hseat, htable]

end

/-- A member whose rows of R217 all pass starts the ADMIT collective with its record (R218, R241). -/
theorem State.admitMember_of_passed (hfree : s.collOf (admitKey c.ctx gl.g.id) = none)
    (hrows : s.memberRows c.ctx gl k none
      (gl.hosted (c.u8 16) && (s.darnRuns c.ctx (c.u8 16) || s.seatFilled c.ctx gl (c.u8 16)))
      (s.darnRuns c.ctx (c.u8 16) || k.admission.isSome || s.darnsFull) true true t = (w, none)) :
    s.admitMember c k gl t none = (w.startColl c (admitKey c.ctx gl.g.id) gl.g.id gl.g.me gl.head (gl.seatParts (c.u8 16) t)
      (w.seatRecord c.ctx k none gl.g.me 0 (w.placementHash t gl.g.n).toNat noLimit).bytes t).hold c (.admission c.ctx) := by
  simp only [State.admitMember, hfree, Option.isSome_none, Bool.or_false, hrows, Bool.false_eq_true, if_false, State.noteFailed]

/-- A new chip whose rows of R217 all pass starts the ADMIT collective with its record (R218, R241). -/
theorem State.admitNew_of_passed (htable : t ≠ []) (hfree : s.collOf (admitKey c.ctx (c.u16 18)) = none)
    (hrows : s.spareRows c.ctx (c.u8 16) (c.u64 32) k x none (k.admission.isSome || s.darnsFull) t = (w, none)) :
    s.admitNew c k x t none = (w.startColl c (admitKey c.ctx (c.u16 18)) (c.u16 18) (c.u8 16)
      ((otherSeats x (c.u8 16)).head?.getD 0) (seatParts (otherSeats x (c.u8 16)) (c.u8 16) t) (w.spareRecord c k x t).bytes t).hold c
        (.admission c.ctx) := by
  have hplaced : ¬(t.isEmpty = true ∨ false = true) := by simp [htable]
  simp only [State.admitNew, hfree, Option.isSome_none, Bool.or_false, hrows, if_neg hplaced, State.noteFailed]
  rfl

/-! ### The copies of an admission -/

/-- The lane that reads the term of a chain: the page's, where the term lies on this chip. -/
def State.termLane (s : State) (key : Option Nat) : Nat := match key with
  | some p => s.codeLane p
  | none => 0

/-- The stripe of a stitch of the hosting area. -/
def State.hostedStripe (s : State) (gl : Glove) (r : Region) (i : Nat) : Nat :=
  let q := s.seatOf gl r i
  gl.g.stripeFor q.1 q.2.1 q.2.2

/-- A host's next copy: the first stitch still to be copied of whose stripe no copy is under way to the new chip (R242). -/
def State.hostedCopy (s : State) (ctx : Nat) (gl : Glove) (r : Region) : Option Nat :=
  (s.copySet ctx).find? (fun i => !s.sent.any (fun x => x.ctx == ctx && x.msg.type == tDarnDone && x.member == 0xFD &&
    x.msg.chStripe == s.hostedStripe gl r i))

/-- The DARN_DONE that carries a copy to the new chip: a chain of one link, with the crowned step (R242). -/
def copyWire (ctx : Nat) (a : Admission) (gl : Glove) (k : Coded) (stripe : Nat) (tag : Word) (y : List Byte) : Wire :=
  mkWire tDarnDone 0 ctx gl.g.id a.member (chainBody (chainWord stripe [a.member] k.c.toNat 0 false) tag 0) (padTo 4096 y)

/-- Outside the crown guard and the sweep, a host reads its next copy and sends it to the new chip (R206, R242). -/
theorem State.sendCopy_of_next {ctx : Nat} {a : Admission} {r : Region} {i : Nat} {d y : List Byte} {tag : Word} {key : Option Nat}
    (hadmit : s.admitRegion ctx = some (a, gl, r)) (hk : s.codedOf ctx = some k) (hguard : s.inGuard ctx = false)
    (hsweep : k.sweeping = false) (hnext : s.hostedCopy ctx gl r = some i)
    (hterm : s.gloveTerm ctx gl a.member (s.hostedStripe gl r i) = (u, some (d, tag, key)))
    (hidle : (u.inst[keyInst (r.handKey i false)]).test.running = false)
    (hread : u.checked (keyInst (r.handKey i false)) (u.termLane key) pChain d = (w, some y)) :
    s.sendCopy ctx = w.send (keyInst (r.handKey i false)).val ctx 0xFD (placeCoord a.place a.member)
      (copyWire ctx a gl k (s.hostedStripe gl r i) tag y) := by
  have hpaused : ¬(s.inGuard ctx = true ∨ k.sweeping = true) := by simp [hguard, hsweep]
  simp only [State.hostedCopy, State.hostedStripe] at hnext hterm
  cases key <;> simp only [State.termLane] at hread <;>
    simp only [State.sendCopy, hadmit, hk, if_neg hpaused, hnext, hterm, hidle, Bool.false_eq_true, if_false, hread] <;> rfl

end

/-- Settles O49: each row takes its packet and runs the branch in which every check passes; the copy finds its stitch. -/
theorem seatCommandsComplete : Obligations.SeatCommandsComplete := by
  unfold Obligations.SeatCommandsComplete
  refine ⟨?_, ?_, ?_, ?_, ?_⟩
  · intro e c k gl s b bit htakes hopen hk hgl hformed hmember hother hphase hfew
    have hop := State.opEvacuate_of_ok hopen (State.evacuateStatus_ok hk hgl hformed hmember hother hphase hfew)
    exact congrArg Host.Outcome.next (State.row_of_takes htakes hop)
  · intro e c s b htakes hzero
    exact congrArg Host.Outcome.next (State.row_of_takes htakes (State.opEvacuateSelf_of_zero hzero))
  · intro e c k gl t u w s b key htakes hopen hk hstopped hgl hmode hid hevac hbase htable hfree hrows rec'
    have hop := State.opAdmit_of_member hopen hk hstopped hgl hmode hid hevac hbase htable
    have hmember := State.admitMember_of_passed hfree hrows
    exact congrArg Host.Outcome.next (State.row_of_takes htakes (hop.trans hmember))
  · intro e c k x t u w s b key htakes hopen hk hstopped hgl hinfo hmode hseat htable hplaced hfree hrows live rec'
    have hop := State.opAdmit_of_new hopen hk hstopped hgl hinfo hmode hseat htable
    have hnew := State.admitNew_of_passed hplaced hfree hrows
    exact congrArg Host.Outcome.next (State.row_of_takes htakes (hop.trans hnew))
  · intro e ctx a gl r i k d y tag key u w s b stripe lane hadmit hk hguard hsweep hnext hterm hidle hread
    have hsent := State.sendCopy_of_next hadmit hk hguard hsweep hnext hterm hidle hread
    exact congrArg (fun t : State => Host.Outcome.next t.finish) hsent

end Sys2Proof.Machine

/-! PROOFS. Hatboxes and images: HATBOX_WRITE and its configuration (R247, R256, R259), the copy and its seal (R261, R264),
HATBOX_RESTORE (R268 to R274), and the export and import of images (R281 to R285), whose statement fails for two contexts of one number. -/

namespace Sys2Proof.Machine

/-! ### HATBOX_WRITE and CONFIGURE -/

section
variable {s u w : State} {c : Cmd} {k : Coded}

/-- HATBOX_WRITE in WRITE asks for a hatbox of the context's group and waits (R256, R259). -/
theorem State.opHatboxWrite_of_write (hopen : s.ctxOpen c.ctx = true) (hmode : c.mode % 4 = 0) (hk : s.codedOf c.ctx = some k)
    (hstopped : k.stopped = false) (hgroup : k.hb.isSome = true) :
    s.opHatboxWrite c = (s.modCoded c.ctx (fun k => { k with hbReq := true })).hold c (.hbWrite c.ctx false) := by
  have hgrouped : ¬k.hb.isNone = true := by simp [Option.isSome_iff_ne_none.1 hgroup]
  simp only [State.opHatboxWrite, hopen, Bool.not_true, Bool.false_eq_true, if_false, if_pos hmode, State.opHbRequest, hk, hstopped,
    if_neg hgrouped]

/-- HATBOX_WRITE refuses the OP values that name neither WRITE nor CONFIGURE (R481). -/
theorem State.opHatboxWrite_of_other (hopen : s.ctxOpen c.ctx = true) (hmode : 2 ≤ c.mode % 4) : s.opHatboxWrite c = s.badParam c 3 := by
  have hwrite : ¬c.mode % 4 = 0 := by omega
  simp only [State.opHatboxWrite, hopen, Bool.not_true, Bool.false_eq_true, if_false, if_neg hwrite]

/-- A CONFIGURE changes neither base nor sequence length, n or m of the group that stands, which keeps its period limit (log entry 61). -/
def Coded.keepsLimit (k : Coded) (c : Cmd) (seq : Nat) : Bool := match k.hb with
  | some h => h.g.base == c.u64 40 && h.seqLen == seq && h.g.n == c.u8 18 && h.g.m == c.u8 19
  | none => false

/-- The group record with which a member whose local checks pass enters HBCONF (R247). -/
def State.confRecord (s : State) (c : Cmd) (k : Coded) (seq : Nat) (t : List Byte) : GroupRec :=
  { verdict := 1, status := 0, member := c.u8 20, c := k.c.toNat, seq := seq, layout := (s.layoutHash c.ctx).toNat,
    place := (s.placementHash t (c.u8 18)).toNat,
    tlim := if k.keepsLimit c seq then noLimit else (s.hbLimit c.ctx (c.u64 40) seq).getD 0 }

/-- CONFIGURE that passes its local checks starts the HBCONF collective with the group record (R247). -/
theorem State.opHatboxConfigure_of_passed {t : List Byte} (hopen : s.ctxOpen c.ctx = true) (hk : s.codedOf c.ctx = some k)
    (hstopped : k.stopped = false) (hbusy : k.hbBusy = false) (hfree : s.collOf (hbKey c.ctx (c.u16 16)) = none)
    (hmost : c.u8 18 ≤ 64) (htable : s.readPlacement c.ctx (c.u64 48) (c.u8 18) = (u, some t))
    (hcheck : u.confCheck c (seqLength (lanesUpper u.lanesWord) (u.palmCount c.ctx)) t = (w, none)) (hleast : 4 ≤ c.u8 18)
    (hme : c.u8 20 < c.u8 18) :
    s.opHatboxConfigure c = (w.startColl c (hbKey c.ctx (c.u16 16)) (c.u16 16) (c.u8 20) 0
      ((List.range (c.u8 18)).map (fun i => (i, placeCoord t i)))
      (w.confRecord c k (seqLength (lanesUpper u.lanesWord) (u.palmCount c.ctx)) t).bytes t).hold c (.hbConf c.ctx) := by
  have hplaced : ¬(c.u8 18 < 4 ∨ 64 < c.u8 18 ∨ c.u8 18 ≤ c.u8 20) := by omega
  simp only [State.opHatboxConfigure, State.opConfigure, hopen, hk, hstopped, hbusy, hfree, Bool.not_true, Bool.false_eq_true,
    Option.isSome_none, or_self, if_false, if_pos hmost, htable, hcheck, if_neg hplaced]
  rfl

end

/-! ### The copy and its seal -/

/-- The copy takes its next piece: a data piece goes into its slot, and at a stripe whose first contributor is this member the chains of
the stripe's parity seats start (R261). -/
def State.copyOn (s : State) (ctx : Nat) (h : HbGroup) (c : HbCopy) (data : List Byte) (tag : Word) : State :=
  let stripe := stripeOf h.g.n h.g.m h.g.me c.next
  let v := if c.next < h.seqLen then s.storePage (h.pieceKey c.slot false c.next) data (pieceTags false tag) else s
  let w := v.modCopy ctx (fun c => { c with next := c.next + 1 })
  if (h.g.dataMembers stripe).head? = some h.g.me then
    (List.range h.g.m).foldl (fun s j => s.hatboxLink ctx h stripe j c.step data tag zeroPage 0) w
  else w

section
variable {s : State} {ctx : Nat} {h : HbGroup} {c : HbCopy} (hh : s.hbOf ctx = some h) (hc : h.copy = some c)
  (hfw : s.cu.fwFault = false)
include hh hc hfw

/-- A copy that has positions left and waits for no test takes the next one: zeros with no step past the end of the sequence, else what
the palm holds; a stitch that is being filled is darned first, and one that lacks content abandons the copy (R261, R263). -/
theorem State.copyPiece_of_ready {k : Coded} (hk : s.codedOf ctx = some k) (hleft : c.next < h.g.tmax * (h.g.period - 1))
    (hidle : s.pieceTested ctx h c.slot c.next = false) :
    s.copyPiece ctx =
      if h.seqLen ≤ c.next then (s.useGroup ctx h.g).copyOn ctx h c zeroPage 0
      else match (s.useGroup ctx h.g).pieceAt ctx k c.next with
        | (u, .piece data tag) => u.copyOn ctx h c data tag
        | (u, .filling r idx) => u.demandDarn ctx r idx
        | (u, .lacks) => u.abandonCopy ctx hbLacks h.g.me := by
  have hguard : ¬(h.g.tmax * (h.g.period - 1) ≤ c.next ∨ s.cu.fwFault = true ∨ s.pieceTested ctx h c.slot c.next = true) := by
    rw [hfw, hidle]
    simp [hleft]
  simp only [State.copyPiece, hh, hk, hc, if_neg hguard]
  rfl

/-- The complete copy is sealed: the seal record is stored, sent to every other member, and counts toward the quorum (R264). -/
theorem State.writeSeal_of_written (hwritten : h.written c = true) (hfirst : c.sealed = false)
    (hidle : s.testing (h.sealKey c.slot) = false) :
    let page := padTo 4096 (sealBytes ctx c.slot h c.step c.start)
    let u := (s.storePage (h.sealKey c.slot) page noTags).modCopy ctx (fun c =>
      { c with sealed := true, seals := h.g.me :: c.seals.filter (· != h.g.me) })
    s.writeSeal ctx = State.checkQuorum (((List.range h.g.n).filter (fun i => i != h.g.me)).foldl
      (fun s i => s.send cuUnit ctx i (h.g.coord i) (mkWire tSeal 0 ctx h.g.id h.g.me
        (leBytes 8 c.step ++ leBytes 1 (if c.slot then 1 else 0)) page)) u) ctx := by
  have hguard : ¬((!h.written c) = true ∨ c.sealed = true ∨ s.cu.fwFault = true ∨ s.testing (h.sealKey c.slot) = true) := by
    rw [hwritten, hfirst, hfw, hidle]
    simp
  simp only [State.writeSeal, hh, hc, if_neg hguard]

end

/-- Settles O50: the rows run the branches in which every check passes; the copy's next piece lies in the sequence or past its end. -/
theorem hatboxCommandsComplete : Obligations.HatboxCommandsComplete := by
  unfold Obligations.HatboxCommandsComplete
  refine ⟨?_, ?_, ?_, ?_⟩
  · intro e c k s b htakes hopen
    refine ⟨fun hmode hk hstopped hgroup => ?_, fun hmode => ?_⟩
    · have hop := State.opHatboxWrite_of_write hopen hmode hk hstopped hgroup
      exact congrArg Host.Outcome.next (State.row_of_takes htakes hop)
    · exact congrArg Host.Outcome.next (State.row_of_takes htakes (State.opHatboxWrite_of_other hopen hmode))
  · intro e c k t u w s b n seq htakes hopen hk hstopped hbusy hfree hmost htable hcheck hleast hme keeps rec'
    have hop := State.opHatboxConfigure_of_passed hopen hk hstopped hbusy hfree hmost htable hcheck hleast hme
    exact congrArg Host.Outcome.next (State.row_of_takes htakes hop)
  · intro e ctx h k c data tag u s b hh hk hc hleft hfw hidle hpiece hpadding stripe v w
    have hcopied : b.copyPiece ctx = u.copyOn ctx h c data tag := by
      rw [State.copyPiece_of_ready hh hc hfw hk hleft hidle]
      rcases Nat.lt_or_ge c.next h.seqLen with hdata | hpast
      · rw [if_neg (Nat.not_le.2 hdata), hpiece hdata]
      · obtain ⟨rfl, rfl, rfl⟩ := hpadding hpast
        rw [if_pos hpast]
    exact congrArg (fun t : State => Host.Outcome.next t.finish) hcopied
  · intro e ctx h c s b hh hc hwritten hfirst hfw hidle page u
    have hsealed := State.writeSeal_of_written hh hc hfw hwritten hfirst hidle
    exact congrArg (fun t : State => Host.Outcome.next t.finish) hsealed

/-! ### HATBOX_RESTORE -/

/-- A restore at its acceptance: its table and what the vote starts from (R268, R269). -/
def Restore.starting (c : Cmd) (entries : List (Nat × Coord)) (mine now : Nat) : Restore :=
  { want := c.u64 16, entries := entries, mine := mine, report := c.u64 40, voteStart := c.u64 24, decided := none, slot := false,
    next := 0, recs := [], kids := [], sentUp := false, lastWrite := now, header := none }

/-- HATBOX_RESTORE that passes its local checks drops a LOST glove, keeps its table and starts the RESTORE collective with the steps of
its valid seals (R268 to R270). -/
theorem State.opRestore_of_passed {s u v w : State} {c : Cmd} {k : Coded} {h : HbGroup} {bytes : List Byte}
    {entries : List (Nat × Coord)} {mine head x y : Nat} (hopen : s.ctxOpen c.ctx = true) (hk : s.codedOf c.ctx = some k)
    (hh : k.hb = some h) (hphase : k.phase = .crowned) (hlost : ∀ g ∈ k.glove, g.state = .lost) (hcopy : h.copying = false)
    (himage : k.image = none) (hrestore : k.restore = none) (hfree : s.collOf (restoreKey c.ctx (c.u64 16)) = none)
    (htable : s.readTable c.ctx (c.u64 32) = (u, some (bytes, entries)))
    (hmine : (List.range entries.length).filter (fun e => (entries.getD e (0, ⟨0, 0, 0⟩)).1 == h.g.id) = [mine])
    (hhead : h.g.memberAt (entries.getD mine (0, ⟨0, 0, 0⟩)).2 = some head) (hreport : u.bufferOk c.ctx (c.u64 40) 1024 = true)
    (hfirst : (u.dropGlove c.ctx).slotSeal c.ctx h false = (v, x)) (hsecond : v.slotSeal c.ctx h true = (w, y)) :
    s.opRestore c = ((w.modCoded c.ctx (fun k => { k with restore := some (.starting c entries mine w.now) })).startColl c
      (restoreKey c.ctx (c.u64 16)) h.g.id h.g.me head ((List.range h.g.n).map (fun i => (i, h.g.coord i)))
      (restoreRec h.g.me x y) []).hold c (.restore c.ctx) := by
  have hidle : ¬(h.copying = true ∨ k.image.isSome = true ∨ k.restore.isSome = true ∨
      (s.collOf (restoreKey c.ctx (c.u64 16))).isSome = true) := by
    simp [hcopy, himage, hrestore, hfree]
  have hcrowned : ¬k.phase ≠ .crowned := fun hother => hother hphase
  simp only [State.opRestore, hopen, hk, hh, if_neg hcrowned, if_neg hidle, htable, hmine, hhead, hreport, hfirst, hsecond, Bool.not_true,
    Bool.false_eq_true, if_false]
  refine (if_neg ?_).trans rfl
  cases hg : k.glove with
  | none => simp
  | some g => simp [hlost g hg]

/-! ### The pieces of a restore -/

section
variable {s : State} {ctx x : Nat} {h : HbGroup} {k : Coded} {r : Restore} (hfw : s.cu.fwFault = false)
  (hk : s.codedOf ctx = some k) (hh : k.hb = some h) (hr : k.restore = some r) (hx : r.decided = some x)
include hfw hk hh hr hx

/-- The header stitch is the first piece: it is checked, or rebuilt where its member does not hold it (R269, R271, R272). -/
theorem State.restorePiece_of_no_header (hheader : r.header = none)
    (hidle : (s.useGroup ctx h.g).pieceTested ctx h r.slot 0 = false) :
    s.restorePiece ctx = match (s.useGroup ctx h.g).presentPiece ctx h r 0 with
      | (u, some (d, _)) => (u.takeHeader ctx h d).checkRestore ctx
      | (u, none) => u.rebuildPiece ctx h r 0 x := by
  simp only [State.restorePiece, hfw, hk, hh, hr, hx, hheader, hidle, Option.isNone_none, Bool.false_eq_true, if_false, if_true]
    <;> rfl

/-- Behind the header each piece of a palm stitch goes into its left hand, or is rebuilt where its member does not hold it (R271 to
R273). -/
theorem State.restorePiece_of_palm {t : List Byte} (hheader : r.header = some t) (hleft : r.next < h.seqLen)
    (hidle : (s.useGroup ctx h.g).pieceTested ctx h r.slot r.next = false)
    (hpalm : (seqPalm (lanesUpper (s.useGroup ctx h.g).lanesWord) ((s.useGroup ctx h.g).palmCount ctx) r.next).isSome = true) :
    s.restorePiece ctx = match (s.useGroup ctx h.g).presentPiece ctx h r r.next with
      | (u, some (d, tag)) => ((u.restorePalm ctx r.next d tag).modCoded ctx (fun k =>
          { k with restore := k.restore.map (fun r => { r with next := r.next + 1 }) })).checkRestore ctx
      | (u, none) => u.rebuildPiece ctx h r r.next x := by
  have hsome : ¬(seqPalm (lanesUpper (s.useGroup ctx h.g).lanesWord) ((s.useGroup ctx h.g).palmCount ctx) r.next).isNone = true := by
    simp [Option.isSome_iff_ne_none.1 hpalm]
  simp only [State.restorePiece, hfw, hk, hh, hr, hx, hheader, Option.isNone_some, hidle, Bool.false_eq_true, if_false,
    if_neg (Nat.not_le.2 hleft), if_neg hsome]
    <;> rfl

end

/-- Settles O51: the row and each piece run the branch in which every check passes; an absent piece is the header or a data piece. -/
theorem restoreCommandsComplete : Obligations.RestoreCommandsComplete := by
  unfold Obligations.RestoreCommandsComplete
  refine ⟨?_, ?_, ?_, ?_⟩
  · intro e c k h bytes entries mine head x y u v w s b htakes hopen hk hh hphase hlost hcopy himage hrestore hfree htable hmine hhead
      hreport hfirst hsecond r
    have hop := State.opRestore_of_passed hopen hk hh hphase hlost hcopy himage hrestore hfree htable hmine hhead hreport hfirst hsecond
    exact congrArg Host.Outcome.next (State.row_of_takes htakes hop)
  · intro e ctx h k r x d tag u s b w hk hh hr hx hheader hfw hidle hpiece
    have hchecked := State.restorePiece_of_no_header hfw hk hh hr hx hheader hidle
    rw [hpiece] at hchecked
    exact congrArg (fun t : State => Host.Outcome.next t.finish) hchecked
  · intro e ctx h k r x u s b w pos hk hh hr hx hfw hplace hidle habsent
    have hrebuilt : b.restorePiece ctx = u.rebuildPiece ctx h r pos x := by
      cases hheader : r.header with
      | none =>
        have hpos : pos = 0 := by simp [pos, hheader]
        rw [hpos] at hidle habsent ⊢
        rw [State.restorePiece_of_no_header hfw hk hh hr hx hheader hidle, habsent]
      | some t =>
        have hpos : pos = r.next := by simp [pos, hheader]
        obtain ⟨hleft, hpalm⟩ := hplace (by simp [hheader])
        rw [hpos] at hidle habsent ⊢
        rw [State.restorePiece_of_palm hfw hk hh hr hx hheader hleft hidle hpalm, habsent]
    exact congrArg (fun t : State => Host.Outcome.next t.finish) hrebuilt
  · intro e ctx h k r x d t tag u s b w hk hh hr hx hheader hleft hfw hidle hpalm hpiece
    have hplaced := State.restorePiece_of_palm hfw hk hh hr hx hheader hleft hidle hpalm
    rw [hpiece] at hplaced
    exact congrArg (fun t : State => Host.Outcome.next t.finish) hplaced

/-! ### IMAGE_EXPORT and IMAGE_IMPORT -/

section
variable {s u v w x y : State} {e : Ev} {c : Cmd} {k : Coded} {ts : List TileEntry}

/-- An export whose tables pass their checks has its tiles, its digest list and its descriptor (R281). -/
theorem State.exportTables_of_clean {desc list : List Byte}
    (htiles : s.readTiles c.ctx (c.u64 32) (c.u32 56) (c.mode % 4 == 0) = (u, some ts))
    (hbare : c.modeBit 2 = false → c.u64 48 = 0)
    (hlist : 0 < c.u8 61 → u.bufferOk c.ctx (c.u64 40) (16 * c.u8 61) = true)
    (hdesc : c.modeBit 2 = true → u.bufferOk c.ctx (c.u64 48) 48 = true)
    (hreadList : u.bufferRead c.ctx (c.u64 40) (16 * c.u8 61) = (v, some list)) (hclean : digestsClean (c.u8 61) list = true)
    (hreadDesc : v.bufferRead c.ctx (c.u64 48) (if c.modeBit 2 then 48 else 0) = (w, some desc)) :
    s.exportTables c = (w, .ok (ts, list, desc)) := by
  have hnoDesc : ¬((!c.modeBit 2) = true ∧ c.u64 48 ≠ 0) := fun h => h.2 (hbare (by simpa using h.1))
  have hlistOk : ¬(0 < c.u8 61 ∧ (!u.bufferOk c.ctx (c.u64 40) (16 * c.u8 61)) = true) := fun h => by simp [hlist h.1] at h
  have hdescOk : ¬(c.modeBit 2 = true ∧ (!u.bufferOk c.ctx (c.u64 48) 48) = true) := fun h => by simp [hdesc h.1] at h
  simp only [State.exportTables, htiles, if_neg hnoDesc, if_neg hlistOk, if_neg hdescOk, hreadList, hclean, hreadDesc, Bool.not_true,
    Bool.false_eq_true, if_false]

/-- The job of an IMAGE_IMPORT over its tiles, which reads the header and then every record (R284). -/
def importJob (c : Cmd) (ts : List TileEntry) : ImageJob :=
  { isImport := true, step := c.u64 16, handle := BitVec.ofNat 64 (c.u64 24), port := c.u8 44, tiles := ts, source := 0,
    todo := ImagePart.header :: (List.range ts.length).map (fun e => .record e), waiting := none, sentAt := 0, outside := 0,
    descriptor := [], digests := [], cuffIndex := 0, cuffBase := 0, digestBase := 0, header := [], record := [], got := [],
    read := [], misfit := false }

section
variable (hopen : (s.begin e).ctxOpen c.ctx = true) (hk : (s.begin e).codedOf c.ctx = some k) (himage : k.image = none)
  (hrestore : k.restore = none)
include hopen hk himage hrestore

/-- IMAGE_EXPORT that passes its checks keeps its tiles and what is left to send, and waits (R281 to R283). -/
theorem exec_imageExport_of_passed {desc list : List Byte} {outside : Nat} (htakes : (s.begin e).rowTakes c 0x42 true = true)
    (hsource : c.mode % 4 ≤ 2) (hport : c.u8 60 ≤ 5) (hdigests : c.u8 61 ≤ 64)
    (htables : (s.begin e).exportTables c = (w, .ok (ts, list, desc)))
    (hstep : w.exportStep k (c.mode % 4) (c.u64 16) = (x, none))
    (houtside : x.outsideTiles c.ctx k (c.mode % 4) ts = (y, outside)) :
    exec (.imageExport e c) s = .next (State.finish ((y.bump.bump.modCoded c.ctx (fun k =>
      { k with image := some (exportJob c ts outside desc list y.fresh) })).hold c (.imageExport c.ctx))) := by
  have hslot : ¬c.mode % 4 = 3 := by omega
  have hidle : ¬(k.image.isSome = true ∨ k.restore.isSome = true) := by simp [himage, hrestore]
  refine congrArg Host.Outcome.next (State.row_of_takes htakes ?_)
  simp only [State.opImageExport, hopen, hk, if_neg hslot, if_neg (Nat.not_lt.2 hport), if_neg (Nat.not_lt.2 hdigests), if_neg hidle,
    htables, hstep, houtside, Bool.not_true, Bool.false_eq_true, if_false]

/-- IMAGE_IMPORT that passes its checks makes its palm never-written, keeps its tiles and what is left to read, and waits (R284). -/
theorem exec_imageImport_of_passed (htakes : (s.begin e).rowTakes c 0x43 true = true) (hphase : k.phase = .crowned)
    (hglove : k.glove = none) (hport : c.u8 44 ≤ 5)
    (htiles : (s.begin e).readTiles c.ctx (c.u64 32) (c.u32 40) false = (u, some ts)) :
    exec (.imageImport e c) s = .next (State.finish (((u.blankPalm c.ctx).modCoded c.ctx (fun k =>
      { k with image := some (importJob c ts) })).hold c (.imageImport c.ctx))) := by
  have hfree : ¬(k.phase ≠ .crowned ∨ k.glove.isSome = true) := by simp [hphase, hglove]
  have hidle : ¬(k.image.isSome = true ∨ k.restore.isSome = true) := by simp [himage, hrestore]
  refine congrArg Host.Outcome.next (State.row_of_takes htakes ?_)
  simp only [State.opImageImport, hopen, hk, if_neg hfree, if_neg (Nat.not_lt.2 hport), if_neg hidle, htiles, Bool.not_true,
    Bool.false_eq_true, if_false]
  rfl

end

end

/-! ### The messages of an image job -/

/-- A job's message for a part leaves to its storage port, and its answer is awaited (R283). -/
def State.askPart (s : State) (ctx : Nat) (k : Coded) (j : ImageJob) (sub : Nat) (part : Nat × Nat) (payload : List Byte) : State :=
  (s.emit (.storage j.port (mkWire tExport sub ctx 0xFFFF k.storageSeat (exportBody j.handle part.1 part.2 j.port) payload))).modImage
    ctx (fun x => { x with waiting := some part, sentAt := s.now })

/-- Only an evacuated chip keeps a message to the storage port back (R239, R406). -/
theorem State.askStorage_of_active {s : State} (hevac : s.cu.evac = false) (ctx : Nat) (k : Coded) (j : ImageJob)
    (sub : Nat) (part : Nat × Nat) (payload : List Byte) :
    s.askStorage ctx k j sub part.1 part.2 payload = s.askPart ctx k j sub part payload := by
  simp only [State.askStorage, hevac, Bool.false_eq_true, if_false, State.askPart]

section
variable {s : State} {e : Ev} {ctx : Nat} {k : Coded} {j : ImageJob} (hj : k.image = some j)
include hj

section
variable {p : ImagePart} {rest : List ImagePart} (hk : (s.begin e).codedOf ctx = some k) (hfw : (s.begin e).cu.fwFault = false)
  (hwaiting : j.waiting = none) (htodo : j.todo = p :: rest)
include hk hfw hwaiting htodo

/-- An import asks for the next part that it reads (R284): every job that its context holds awaits the part of the one that is found. -/
theorem exec_exportPartSend_of_import (hevac : (s.begin e).cu.evac = false) (himport : j.isImport = true) :
    exec (.exportPartSend e ctx) s = .next (State.finish ((s.begin e).askPart ctx k j 2 (j.wanted p) [])) := by
  have hsent : (s.begin e).sendImage ctx = (s.begin e).askStorage ctx k j 2 (j.wanted p).1 (j.wanted p).2 [] := by
    simp [State.sendImage, hk, hj, hfw, hwaiting, htodo, himport]
  rw [State.askStorage_of_active hevac] at hsent
  exact congrArg (fun t : State => Host.Outcome.next t.finish) hsent

/-- An export sends the next part that it has; from the palm, only of the step that it names and outside the crown guard (R178, R281). -/
theorem exec_exportPartSend_of_export {u : State} {off : Nat} {d : List Byte} (hexport : j.isImport = false)
    (hpalm : j.source = 0 → (s.begin e).inGuard ctx = false ∧ k.c.toNat = j.step)
    (hpart : (s.begin e).imagePart ctx k j p = (u, some (off, d))) (hevac : u.cu.evac = false) :
    exec (.exportPartSend e ctx) s = .next (State.finish (u.askPart ctx k j 0 (off, d.length) (padTo 4096 d))) := by
  have hguard : ¬(j.waiting.isSome = true ∨ (s.begin e).cu.fwFault = true ∨
      (!j.isImport && j.source == 0 && (s.begin e).inGuard ctx) = true) := by
    by_cases hsource : j.source = 0
    · simp [hwaiting, hfw, (hpalm hsource).1]
    · simp [hwaiting, hfw, hsource]
  have hsends : ¬j.isImport = true := by simp [hexport]
  have hstep : ¬(j.source = 0 ∧ k.c.toNat ≠ j.step) := fun h => h.2 (hpalm h.1).2
  have hsent : (s.begin e).sendImage ctx = u.askStorage ctx k j 0 off d.length (padTo 4096 d) := by
    simp only [State.sendImage, hk, hj, if_neg hguard, htodo, if_neg hsends, if_neg hstep, hpart]
  rw [State.askStorage_of_active hevac (part := (off, d.length))] at hsent
  exact congrArg (fun t : State => Host.Outcome.next t.finish) hsent

end

/-- Two milliseconds without the storage port's answer end the job with REMOTE_TIMEOUT (R283, R285); no unit raises the fault of that
name (log entry 85). -/
theorem exec_storageTimeout_of_late {part : Nat × Nat} (hk : (s.at e).checkPairs.checkTs.codedOf ctx = some k)
    (hfw : (s.at e).checkPairs.checkTs.cu.fwFault = false) (hwaiting : j.waiting = some part)
    (hlate : j.sentAt + 2000000 ≤ (s.at e).checkPairs.checkTs.now) :
    exec (.storageTimeout e ctx) s = .next (State.finish (if j.isImport then
      (s.at e).checkPairs.checkTs.failImport ctx stRemoteTimeout else (s.at e).checkPairs.checkTs.endImage ctx stRemoteTimeout 0)) := by
  have hended : (s.at e).checkPairs.checkTs.storageExpired ctx = if j.isImport then
      (s.at e).checkPairs.checkTs.failImport ctx stRemoteTimeout else (s.at e).checkPairs.checkTs.endImage ctx stRemoteTimeout 0 := by
    simp [State.storageExpired, hk, hj, hfw, hwaiting, Config.remoteTime, hlate]
  exact congrArg (fun t : State => Host.Outcome.next t.finish) hended

end

/-! ### Two import jobs under one context number -/

/-- An import that reads next the record of its only tile, which lies at `off` in the image. -/
def recordImport (off : Nat) : ImageJob :=
  { isImport := true, step := 5, handle := 0x99, port := 5, tiles := [{ tile := 0, region := 0, count := 1, first := 0, off := off }],
    source := 0, todo := [.record 0], waiting := none, sentAt := 0, outside := 0, descriptor := [], digests := [], cuffIndex := 0,
    cuffBase := 0, digestBase := 0, header := [], record := [], got := [], read := [], misfit := false }

/-- A coded context 1 whose import reads the record at `off`. -/
def importingCoded (off : Nat) : Coded := { Coded.opened 1 5 0x77 with image := some (recordImport off) }

/-- Two coded contexts of the number 1, whose imports read records at different places. -/
def twoImports : State := { State.reset with coded := [(0, importingCoded 4096), (1, importingCoded 8192)] }

/-- An event that brings nothing of its own. -/
def plainEvent : Ev := { t := 5000, ctl := [], lane := none, news := [] }

/-- What the image job of each coded context awaits. -/
def State.imageWaits (s : State) : List (Option (Nat × Nat)) := s.coded.map (fun p => p.2.image.bind (·.waiting))

/-- Both jobs await the record at 4096, which the first of them asks for. -/
theorem exec_exportPartSend_twoImports :
    ∃ t, exec (.exportPartSend plainEvent 1) twoImports = .next t ∧ t.imageWaits = [some (4096, 64), some (4096, 64)] :=
  ⟨_, rfl, by decide +kernel⟩

/-- Refutes O52: in the clause of EXPORT_PART_SEND the name `j` under modImage is the job that is changed, so each job of the context
awaits its own next part, where the model gives every one the part that the first asks for. The two differ where two coded contexts have
one number, which no hypothesis excludes. -/
theorem not_imageCommandsComplete : ¬ Obligations.ImageCommandsComplete := by
  unfold Obligations.ImageCommandsComplete
  rintro ⟨-, -, hmessages, -⟩
  have hsend := (hmessages plainEvent 1 (importingCoded 4096) (recordImport 4096) (.record 0) [] twoImports (by decide +kernel) rfl rfl
    rfl (by decide +kernel) (by decide +kernel)).1 rfl
  obtain ⟨t, hrun, hwaits⟩ := exec_exportPartSend_twoImports
  rw [Host.Outcome.next.inj (hrun.symm.trans hsend)] at hwaits
  exact absurd hwaits (by decide +kernel)

end Sys2Proof.Machine

/-! PROOFS. Witnesses and slots: WITNESS_ARM on its three roles and the verdict (R311, R321, R322), and the digest and tally slots
armed, released, read and scanned (R287, R295 to R297, R300, R305, R307, R484). -/

namespace Sys2Proof.Machine

/-! ### WITNESS_ARM -/

section
variable {s u v w : State} {c : Cmd} {k : Coded} {gl : Glove} {x : SeatInfo} {labels t : List Byte}

/-- The record with which a role whose checks pass enters the WITNESS collective (R311, R425). -/
def State.armRecord (s : State) (c : Cmd) (k : Coded) (n me role : Nat) (t : List Byte) : CollRec :=
  s.seatRecord c.ctx k none me role (s.placementHash t n).toNat noLimit

/-- A role whose checks pass starts the WITNESS collective while the coordinate-verified flag is set and the key is free (R409, R427). -/
theorem State.startArm_of_passed {n me role : Nat} (hverified : s.cu.fabric.verified = true)
    (hfree : s.collOf (witnessKey c.ctx (c.u64 16) (c.u16 24) (c.u8 27)) = none) :
    s.startArm c k n me role none labels t = (s.startColl c (witnessKey c.ctx (c.u64 16) (c.u16 24) (c.u8 27)) (c.u16 24) me
      (arbiterOf (c.u8 26)) (armParts n t c) (s.armRecord c k n me role t).bytes (labels ++ t)).hold c
        (.witness c.ctx (c.u8 27) (c.mode % 4)) := by
  have hstarts : ¬((!s.cu.fabric.verified) = true ∨
      (s.collOf (witnessKey c.ctx (c.u64 16) (c.u16 24) (c.u8 27))).isSome = true) := by simp [hverified, hfree]
  simp only [State.startArm, if_neg hstarts, State.noteFailed, State.armRecord]

/-- WITNESS_ARM with its fields in range and its labels read goes on as its role: the witness chip, or a member or the suspect (R311). -/
theorem State.opWitnessArm_of_labels (hopen : s.ctxOpen c.ctx = true) (hfields : armBad c = none)
    (hstopped : ∀ x, s.codedOf c.ctx = some x → x.stopped = false) (hlabels : s.readLabels c = (u, some labels)) :
    s.opWitnessArm c = if c.mode % 4 = roleWitness then u.armWitness c none labels else u.armMember c none labels := by
  have hruns : ¬(match s.codedOf c.ctx with
      | some k => k.stopped
      | none => false) = true := by
    cases hk : s.codedOf c.ctx with
    | none => simp
    | some k => simp [hstopped k hk]
  simp only [State.opWitnessArm, hopen, hfields, hlabels, Bool.not_true, Bool.false_eq_true, if_false, Option.isSome_some, if_true,
    Option.getD_some]
  exact if_neg hruns

section
variable (hk : s.codedOf c.ctx = some k) (hfree : s.collOf (witnessKey c.ctx (c.u64 16) (c.u16 24) (c.u8 27)) = none)
include hk hfree

/-- A member or the suspect of the glove named, whose rows of R311 all pass, starts the collective with its own table. -/
theorem State.armMember_of_passed (hgl : s.gloveOf c.ctx = some gl) (hid : gl.g.id = c.u16 24) (hsuspect : c.u8 26 < gl.g.n)
    (hrole : c.mode % 4 = roleSuspect ↔ gl.g.me = c.u8 26) (hrows : s.armRows c k gl (s.reportRow c gl) false = none) :
    s.armMember c none labels = s.startArm c k gl.g.n gl.g.me (if c.mode % 4 = roleSuspect then 3 else 0) none labels gl.g.place := by
  have hfits : ¬(gl.g.n ≤ c.u8 26 ∨ (c.mode % 4 = roleSuspect) ≠ (gl.g.me = c.u8 26)) := by
    simp [Nat.not_le.2 hsuspect, hrole]
  simp only [State.armMember, hk, hgl, hid, ne_eq, not_true_eq_false, if_false, if_neg hfits, hfree, Option.isSome_none, Option.none_or,
    hrows]

/-- The witness chip, whose rows of R311 all pass, starts the collective with the table it reads, as a guest. -/
theorem State.armWitness_of_passed (hinfo : Tab.get s.infos c.ctx = some x) (hsuspect : c.u8 26 < x.n)
    (htable : s.tableRow c.ctx (c.u64 56) x.n 56 = (v, t, none)) (hplaced : t ≠ [])
    (hrows : v.armWitnessRows c k x none false = (w, none)) :
    s.armWitness c none labels = w.startArm c k x.n guestSeat 2 none labels t := by
  have hnonempty : ¬t.isEmpty = true := by simp [hplaced]
  simp only [State.armWitness, hk, hinfo, if_neg (Nat.not_le.2 hsuspect), htable, hfree, Option.isSome_none, Option.none_or, hrows,
    if_neg hnonempty]

end

end

/-! ### WITNESS_VERDICT -/

/-- The suspect roles of a step that wait for their verdict (R321). -/
def State.unjudged (s : State) (ctx x : Nat) : List Witness :=
  (s.witnesses ctx).filter (fun y => y.role == roleSuspect && y.step == x && !y.trail && !y.completed)

/-- A suspect role takes its verdict and completes with its status (R321, R322). -/
def State.judge (ctx v : Nat) (s : State) (x : Witness) : State :=
  (s.modWitness ctx x.w roleSuspect (fun y => { y with verdict := some v })).endWitness ctx x.w roleSuspect
    (if v = 0 then stOk else if v = 1 then stWitnessDisagree else stWitnessUnresolved) (x.result.getD 0xFF)

/-- A verdict in range judges every suspect role that waits; to pass a step under the fuse it needs a result that agrees or puts the
witness in the minority (R321). -/
theorem State.opWitnessVerdict_of_unjudged {s : State} {c : Cmd} {gl : Glove} (hopen : s.ctxOpen c.ctx = true)
    (hgl : s.gloveOf c.ctx = some gl) (hroles : s.unjudged c.ctx (c.u64 16) ≠ []) (hrange : c.u8 24 ≤ 2)
    (hpass : c.u8 24 = 0 → s.cu.fuses.witness = true →
      ∃ x ∈ s.unjudged c.ctx (c.u64 16), x.result = some wAgree ∨ x.result = some wWitnessMinority) :
    s.opWitnessVerdict c = State.post ((s.unjudged c.ctx (c.u64 16)).foldl (State.judge c.ctx (c.u8 24))
      (if c.u8 24 = 2 then s.unresolved c.ctx 3 gl (c.u64 16) else s)) c stOk 0 := by
  have hwaiting : ¬(s.unjudged c.ctx (c.u64 16)).isEmpty = true := by simp [hroles]
  have hallowed : ¬(c.u8 24 = 0 ∧ s.cu.fuses.witness = true ∧ (!(s.unjudged c.ctx (c.u64 16)).any
      (fun x => x.result == some wAgree || x.result == some wWitnessMinority)) = true) := by
    rintro ⟨hzero, hfuse, hnone⟩
    obtain ⟨x, hx, hresult⟩ := hpass hzero hfuse
    have hany : (s.unjudged c.ctx (c.u64 16)).any
        (fun x => x.result == some wAgree || x.result == some wWitnessMinority) = true :=
      List.any_eq_true.2 ⟨x, hx, by simpa using hresult⟩
    simp [hany] at hnone
  unfold State.unjudged at hwaiting hallowed
  simp only [State.opWitnessVerdict, hopen, hgl, Bool.not_true, Bool.false_eq_true, if_false, if_neg hwaiting,
    if_neg (Nat.not_lt.2 hrange), if_neg hallowed]
  rfl

/-- Settles O47: each row takes its packet and runs the branch of its role in which every check passes. -/
theorem witnessCommandsComplete : Obligations.WitnessCommandsComplete := by
  unfold Obligations.WitnessCommandsComplete
  refine ⟨?_, ?_, ?_⟩
  · intro e c k gl labels u s b key htakes hopen hfields hstopped (hmode : c.mode % 4 ≠ roleWitness) hlabels hk hgl hid hsuspect hrole
      hrows hverified hfree rec'
    have hop := State.opWitnessArm_of_labels hopen hfields hstopped hlabels
    rw [if_neg hmode, State.armMember_of_passed hk hfree hgl hid hsuspect hrole hrows, State.startArm_of_passed hverified hfree] at hop
    exact congrArg Host.Outcome.next (State.row_of_takes htakes hop)
  · intro e c k x labels t u v w s b key htakes hopen hfields hstopped (hmode : c.mode % 4 = roleWitness) hlabels hk hinfo hsuspect hfree
      htable hplaced hrows hverified hstill rec'
    have hop := State.opWitnessArm_of_labels hopen hfields hstopped hlabels
    rw [if_pos hmode, State.armWitness_of_passed hk hfree hinfo hsuspect htable hplaced hrows,
      State.startArm_of_passed hverified hstill] at hop
    exact congrArg Host.Outcome.next (State.row_of_takes htakes hop)
  · intro e c gl s b roles htakes hopen hgl hroles hrange hpass u
    have hop := State.opWitnessVerdict_of_unjudged hopen hgl hroles hrange hpass
    exact congrArg Host.Outcome.next (State.row_of_takes htakes hop)

/-! ### Arming and releasing a slot -/

section
variable {s u : State} {c : Cmd}

/-- The shared checks pass for a slot that is free, and for one that its own context releases (R297, R484). -/
theorem State.armCommon_of_passed {held : Option Nat} (hopen : s.ctxOpen c.ctx = true) (hslot : c.u16 16 < slotCount)
    (hheld : ∀ x ∈ held, x = c.ctx ∧ c.modeBit 1 = true) : s.armCommon c held = none := by
  cases held with
  | none => simp [State.armCommon, hopen, Nat.not_le.2 hslot]
  | some x =>
    obtain ⟨hown, hrelease⟩ := hheld x rfl
    simp [State.armCommon, hopen, Nat.not_le.2 hslot, hown, hrelease]

/-- The layout record of a DIGEST_ARM: 32 bytes of the buffer for a WRITE slot, none for another (R287). -/
def State.digestLayout (s : State) (c : Cmd) : State × Option (List Byte) :=
  if !(c.u8 18 == 1) then (s, some [])
  else if s.bufferOk c.ctx (c.u64 56) 32 then s.bufferRead c.ctx (c.u64 56) 32 else (s, none)

/-- A WRITE slot's layout record is what its buffer holds (R287). -/
theorem State.digestLayout_of_write (hkind : c.u8 18 = 1) (hbuffer : s.bufferOk c.ctx (c.u64 56) 32 = true) :
    s.digestLayout c = s.bufferRead c.ctx (c.u64 56) 32 := by simp [State.digestLayout, hkind, hbuffer]

/-- A slot that is not WRITE takes no layout record. -/
theorem State.digestLayout_of_other (hkind : c.u8 18 ≠ 1) : s.digestLayout c = (s, some []) := by simp [State.digestLayout, hkind]

section
variable (hopen : s.ctxOpen c.ctx = true) (hslot : c.u16 16 < slotCount)
include hopen hslot

/-- RELEASE frees a digest slot of the context (R484). -/
theorem State.opDigestArm_of_release {g : Digest} (hg : Tab.get s.digests (c.u16 16) = some g) (hown : g.ctx = c.ctx)
    (hrelease : c.modeBit 1 = true) :
    s.opDigestArm c = State.post { s with digests := Tab.del s.digests (c.u16 16) } c stOk 0 := by
  have hpassed : s.armCommon c ((Tab.get s.digests (c.u16 16)).map (·.ctx)) = none :=
    State.armCommon_of_passed hopen hslot (by simp [hg, hown, hrelease])
  simp only [State.opDigestArm, hpassed, if_pos hrelease]

/-- A free digest slot takes what its packet and its layout record ask for (R287, R297). -/
theorem State.opDigestArm_of_free {l : List Byte} (hg : Tab.get s.digests (c.u16 16) = none) (harm : c.modeBit 1 = false)
    (hlayout : s.digestLayout c = (u, some l)) (hcoded : c.u8 18 = 2 → (u.codedOf c.ctx).isSome = true)
    (hfields : u.digestBad c (digestOf c l) = none) (hroot : c.modeBit 0 = true → u.rootStatus c.ctx = none) :
    s.opDigestArm c = State.post { u with digests := Tab.set u.digests (c.u16 16) (digestOf c l) } c stOk 0 := by
  have hpassed : s.armCommon c ((Tab.get s.digests (c.u16 16)).map (·.ctx)) = none :=
    State.armCommon_of_passed hopen hslot (by simp [hg])
  have hplaced : ¬((digestOf c l).kind = 2 ∧ (u.codedOf c.ctx).isNone = true) := fun ⟨hkind, hnone⟩ =>
    Option.isSome_iff_ne_none.1 (hcoded hkind) (Option.isNone_iff_eq_none.1 hnone)
  have hcrowned : (if (digestOf c l).root = true then u.rootStatus c.ctx else none) = none := ite_eq_right_iff.2 hroot
  rw [State.digestLayout] at hlayout
  simp only [State.opDigestArm, hpassed, harm, Bool.false_eq_true, if_false, hlayout, if_neg hplaced, hfields, hcrowned]

/-- RELEASE frees a tally slot of the context (R484). -/
theorem State.opTallyArm_of_release {t : Tally} (ht : Tab.get s.tallies (c.u16 16) = some t) (hown : t.ctx = c.ctx)
    (hrelease : c.modeBit 1 = true) :
    s.opTallyArm c = State.post { s with tallies := Tab.del s.tallies (c.u16 16) } c stOk 0 := by
  have hpassed : s.armCommon c ((Tab.get s.tallies (c.u16 16)).map (·.ctx)) = none :=
    State.armCommon_of_passed hopen hslot (by simp [ht, hown, hrelease])
  simp only [State.opTallyArm, hpassed, if_pos hrelease]

/-- A free tally slot takes what its packet asks for; ROOT and WEIGHTS need the context in CROWNED (R297, R300, R305). -/
theorem State.opTallyArm_of_free (ht : Tab.get s.tallies (c.u16 16) = none) (harm : c.modeBit 1 = false)
    (hcoded : c.u8 19 ≠ 0 → (s.codedOf c.ctx).isSome = true) (hfields : s.tallyBad c (tallyOf c) = none)
    (hroot : c.modeBit 0 = true ∨ c.u8 19 = 1 → s.rootStatus c.ctx = none) :
    s.opTallyArm c = State.post { s with tallies := Tab.set s.tallies (c.u16 16) (tallyOf c) } c stOk 0 := by
  have hpassed : s.armCommon c ((Tab.get s.tallies (c.u16 16)).map (·.ctx)) = none :=
    State.armCommon_of_passed hopen hslot (by simp [ht])
  have hplaced : ¬((tallyOf c).source ≠ 0 ∧ (s.codedOf c.ctx).isNone = true) := fun ⟨hsource, hnone⟩ =>
    Option.isSome_iff_ne_none.1 (hcoded hsource) (Option.isNone_iff_eq_none.1 hnone)
  have hcrowned : (if ((tallyOf c).root || (tallyOf c).source == 1) = true then s.rootStatus c.ctx else none) = none :=
    ite_eq_right_iff.2 fun h => hroot (by simpa [tallyOf] using h)
  simp only [State.opTallyArm, hpassed, harm, Bool.false_eq_true, if_false, if_neg hplaced, hfields, hcrowned]

end

/-! ### Reading a slot -/

/-- DIGEST_READ of a slot of the context writes its record, clears a clear-on-read slot without a root, and answers PARTIAL for
result 1 (R295, R296). -/
theorem State.opDigestRead_of_own {g : Digest} (hopen : s.ctxOpen c.ctx = true) (hg : Tab.get s.digests (c.u16 16) = some g)
    (hown : g.ctx = c.ctx) (hbuffer : s.bufferOk c.ctx (c.u64 24) 64 = true) :
    let u := s.bufferWrite (c.u64 24) (g.record (c.u16 16) s.now)
    s.opDigestRead c = State.post (if g.clearOnRead && !g.root then
      { u with digests := Tab.set u.digests (c.u16 16) g.cleared } else u) c (if g.result = 1 then stPartial else stOk) g.result := by
  simp only [State.opDigestRead, hopen, hg, hown, hbuffer, Bool.not_true, Bool.false_eq_true, ne_eq, not_true_eq_false, if_false]

/-- TALLY_READ of a slot of the context reads it, or is deferred while the slot's scan runs and no other read waits (R305, R307). -/
theorem State.opTallyRead_of_own {t : Tally} (hopen : s.ctxOpen c.ctx = true) (ht : Tab.get s.tallies (c.u16 16) = some t)
    (hown : t.ctx = c.ctx) (hbuffer : s.bufferOk c.ctx (c.u64 24) 128 = true)
    (hfirst : t.scanning = true → s.hasJob (fun j => j == Job.tallyRead (c.u16 16)) = false) :
    s.opTallyRead c =
      if t.scanning = true then s.postDeferred c (.tallyRead (c.u16 16)) else s.readTally c (c.u16 16) t := by
  simp only [State.opTallyRead, hopen, ht, hown, hbuffer, Bool.not_true, Bool.false_eq_true, ne_eq, not_true_eq_false, if_false]
  refine ite_congr rfl (fun hscan => ?_) (fun _ => rfl)
  simp only [hfirst hscan, Bool.false_eq_true, if_false]

end

/-! ### The scan of a WEIGHTS slot -/

/-- The deferred reads of a slot, each with what the slot then holds (R305). -/
def State.readDeferred (s : State) (slot : Nat) : State :=
  (s.jobs (fun j => j == Job.tallyRead slot)).foldl (fun s p => match Tab.get s.tallies slot with
    | some t => s.readTally p.cmd slot t
    | none => s) s

/-- A scan whose stitches are neither under test nor waiting for a fill ends with the sum over them, and the reads that wait complete
(R305). -/
theorem State.scanDone_of_ready {s : State} {slot : Nat} {t : Tally} (ht : Tab.get s.tallies slot = some t) (hscan : t.scanning = true)
    (hidle : ∀ p ∈ s.weightStitches t, s.testing (p.1.handKey p.2 false) = false)
    (hfilled : ∀ p ∈ s.weightStitches t, (s.stitch p.1.num p.2).fill = false) :
    let r := (s.weightStitches t).foldl (fun acc p => acc.1.scanStitch acc.2 p)
      (s, { t with acc := 0, excluded := 0, scanning := false })
    s.scanDone slot = State.readDeferred { r.1 with tallies := Tab.set r.1.tallies slot r.2 } slot := by
  have hready : ¬((!t.scanning) = true ∨ (s.weightStitches t).any (fun p => s.testing (p.1.handKey p.2 false)) = true) := by
    simp only [hscan, Bool.not_true, Bool.false_eq_true, false_or, List.any_eq_true, not_exists, not_and, Bool.not_eq_true]
    exact hidle
  have hnone : (s.weightStitches t).find? (fun p => (s.stitch p.1.num p.2).fill) = none :=
    List.find?_eq_none.2 fun p hp => by simp [hfilled p hp]
  simp only [State.scanDone, ht, if_neg hready, hnone]
  rfl

/-- Settles O53: each row takes its packet and runs the branch in which every check passes; the scan finds all its stitches in place. -/
theorem slotCommandsComplete : Obligations.SlotCommandsComplete := by
  unfold Obligations.SlotCommandsComplete
  refine ⟨?_, ?_, ?_, ?_, ?_, ?_, ?_⟩
  · intro e c g s b htakes hopen hslot hg hown hrelease
    have hop := State.opDigestArm_of_release hopen hslot hg hown hrelease
    exact congrArg Host.Outcome.next (State.row_of_takes htakes hop)
  · intro e c l u s b htakes hopen hslot hg harm hwrite hother hfields hroot
    refine ⟨?_, rfl⟩
    have hlayout : b.digestLayout c = (u, some l) := by
      rcases Decidable.em (c.u8 18 = 1) with hkind | hkind
      · obtain ⟨hbuffer, hread⟩ := hwrite hkind
        rw [State.digestLayout_of_write hkind hbuffer, hread]
      · obtain ⟨rfl, rfl, -⟩ := hother hkind
        exact State.digestLayout_of_other hkind
    have hcoded : c.u8 18 = 2 → (u.codedOf c.ctx).isSome = true := fun hkind => by
      obtain ⟨rfl, -, hsome⟩ := hother (by omega)
      exact hsome
    have hop := State.opDigestArm_of_free hopen hslot hg harm hlayout hcoded hfields hroot
    exact congrArg Host.Outcome.next (State.row_of_takes htakes hop)
  · intro e c g s b htakes hopen hg hown hbuffer u
    have hop := State.opDigestRead_of_own hopen hg hown hbuffer
    exact congrArg Host.Outcome.next (State.row_of_takes htakes hop)
  · intro e c t s b htakes hopen hslot ht hown hrelease
    have hop := State.opTallyArm_of_release hopen hslot ht hown hrelease
    exact congrArg Host.Outcome.next (State.row_of_takes htakes hop)
  · intro e c s b htakes hopen hslot ht harm hcoded hfields hroot
    have hop := State.opTallyArm_of_free hopen hslot ht harm hcoded hfields hroot
    exact ⟨congrArg Host.Outcome.next (State.row_of_takes htakes hop), rfl⟩
  · intro e c t s b htakes hopen ht hown hbuffer
    refine ⟨fun hdone => ?_, fun hscan hfirst => ?_⟩
    · have hop := State.opTallyRead_of_own hopen ht hown hbuffer (by simp [hdone])
      rw [if_neg (by simp [hdone])] at hop
      exact congrArg Host.Outcome.next (State.row_of_takes htakes hop)
    · have hop := State.opTallyRead_of_own hopen ht hown hbuffer fun _ => hfirst
      rw [if_pos hscan] at hop
      exact congrArg Host.Outcome.next (State.row_of_takes htakes hop)
  · intro e slot t s b ht hscan hidle hfilled r u
    have hdone := State.scanDone_of_ready ht hscan hidle hfilled
    exact congrArg (fun t : State => Host.Outcome.next t.finish) hdone

end Sys2Proof.Machine

/-! PROOFS. Tiles and brims: TILE_PROMOTE by the tile's state at acceptance, TILE_EVICT, the ends of copies and deadlines and the frames
they free (R338 to R345), and BRIM_OPEN and BRIM_ADVANCE with its closing form (R352 to R361). -/

namespace Sys2Proof.Machine

/-! ### TILE_PROMOTE and TILE_EVICT -/

section
variable {s : State} {c : Cmd}

/-- The direct holding takes its reference and its command waits for the copy of the tile (R339, R340). -/
def State.awaitCopy (s : State) (c : Cmd) (region tile : Nat) (shared : Bool) : State :=
  ((s.addRef (.direct c.ctx) region tile).addPromo (.direct c.ctx) region tile (c.u64 24) shared).hold c (.promote region tile c.ctx)

/-- The frames once frame `n` serves a holder again (R340). -/
def State.residentFrames (s : State) (n : Nat) : List Frame :=
  s.frames.map (fun g => if g.num == n then { g with state := .resident } else g)

/-- TILE_PROMOTE of a tile that the context may name, is not lost and is held already or still fits the quota passes every check
(R338, R349). -/
theorem State.opTilePromote_of_passed {p r : Region} (hopen : s.ctxOpen c.ctx = true) (hpool : s.pool = some p)
    (hregion : s.region? (c.u16 16) = some r) (hlower : r.lowerTier = true) (htile : c.u32 20 < r.len / 262144)
    (hallowed : r.owner = c.ctx ∨ r.share = true) (hsound : s.quarantined (c.u16 16) (c.u32 20) = false)
    (hquota : s.holds (.direct c.ctx) (c.u16 16) (c.u32 20) = false → s.upperCharge c.ctx + 1 ≤ s.upperQuota c.ctx) :
    s.opTilePromote c = s.promoteTile c (c.u16 16) (c.u32 20) := by
  have hinside : ¬r.len / tileBytes ≤ c.u32 20 := Nat.not_le.2 htile
  have hshared : ¬(r.owner ≠ c.ctx ∧ (!r.share) = true) := fun ⟨hother, hprivate⟩ =>
    hallowed.elim hother fun hshare => by simp [hshare] at hprivate
  have hfits : ¬((!s.holds (.direct c.ctx) (c.u16 16) (c.u32 20)) = true ∧ s.upperQuota c.ctx < s.upperCharge c.ctx + 1) :=
    fun ⟨hnew, hover⟩ => Nat.not_lt.2 (hquota (by simpa using hnew)) hover
  simp only [State.opTilePromote, hopen, hpool, hregion, hlower, hsound, Bool.not_true, Bool.false_eq_true, if_false, if_neg hinside,
    if_neg hshared, if_neg hfits]

section
variable {region tile : Nat}

/-- A tile that the direct holding has is answered at once (R340). -/
theorem State.promoteTile_of_held (hheld : s.holds (.direct c.ctx) region tile = true) :
    s.promoteTile c region tile = s.post c stOk (s.tileAddr region tile) := by
  simp only [State.promoteTile, hheld, if_true]

section
variable (hnew : s.holds (.direct c.ctx) region tile = false)
include hnew

/-- A RESIDENT frame takes one more reference and is answered as shared (R340). -/
theorem State.promoteTile_of_resident {f : Frame} (hf : s.frameOf region tile = some f) (hstate : f.state = .resident) :
    s.promoteTile c region tile = (s.addRef (.direct c.ctx) region tile).post c stOkShared (s.tileAddr region tile) := by
  simp [State.promoteTile, hnew, hf, hstate]

/-- An IDLE frame becomes RESIDENT again without a copy (R340). -/
theorem State.promoteTile_of_idle {f : Frame} (hf : s.frameOf region tile = some f) (hstate : f.state = .idle) :
    let u := { s.addRef (.direct c.ctx) region tile with frames := s.residentFrames f.num }
    s.promoteTile c region tile = u.post c stOk (u.tileAddr region tile) := by
  simp [State.promoteTile, State.residentFrames, hnew, hf, hstate]

/-- A COPYING frame is waited for, as shared (R340). -/
theorem State.promoteTile_of_copying {f : Frame} (hf : s.frameOf region tile = some f) (hstate : f.state = .copying) :
    s.promoteTile c region tile = s.awaitCopy c region tile true := by
  simp [State.promoteTile, State.awaitCopy, hnew, hf, hstate]

section
variable (hnone : s.frameOf region tile = none)
include hnone

/-- A tile without a frame waits as shared for the frame that an earlier promotion of the tile is given first (R340, R342). -/
theorem State.promoteTile_of_served (hserved : ((serveWaiters s.promos.length s).frameOf region tile).isSome = true) :
    s.promoteTile c region tile = (serveWaiters s.promos.length s).awaitCopy c region tile true := by
  simp only [State.promoteTile, hnew, hnone, hserved, Bool.false_eq_true, if_false, if_true, State.awaitCopy]

/-- A tile without a frame waits for its copy in the frame allocated for it, once the earlier promotions are served (R339, R340). -/
theorem State.promoteTile_of_allocated {t : State} (hfirst : (serveWaiters s.promos.length s).frameOf region tile = none)
    (halloc : (serveWaiters s.promos.length s).allocFrame region tile = some t) :
    s.promoteTile c region tile = t.awaitCopy c region tile false := by
  simp only [State.promoteTile, hnew, hnone, hfirst, halloc, Option.isSome_none, Bool.false_eq_true, if_false, State.awaitCopy]

/-- Without a frame to be had, a promotion with a deadline waits for one (R340). -/
theorem State.promoteTile_of_full (hfirst : (serveWaiters s.promos.length s).frameOf region tile = none)
    (halloc : (serveWaiters s.promos.length s).allocFrame region tile = none) (hdeadline : c.u64 24 ≠ 0) :
    s.promoteTile c region tile = (serveWaiters s.promos.length s).awaitCopy c region tile false := by
  simp only [State.promoteTile, hnew, hnone, hfirst, halloc, hdeadline, Option.isSome_none, Bool.false_eq_true, if_false,
    State.awaitCopy]

end

end

end

/-- TILE_EVICT waits for a promotion of the tile that is in progress (R345). -/
theorem State.opTileEvict_of_promoting (hopen : s.ctxOpen c.ctx = true)
    (hpromoting : s.promoting c.ctx (c.u16 16) (c.u32 20) = true) :
    s.opTileEvict c = s.hold c (.evict (c.u16 16) (c.u32 20) c.ctx) := by
  simp only [State.opTileEvict, hopen, hpromoting, Bool.not_true, Bool.false_eq_true, if_false, if_true]

/-- TILE_EVICT drops the direct reference, and says whether another holder keeps the tile (R345). -/
theorem State.opTileEvict_of_held (hopen : s.ctxOpen c.ctx = true) (hsettled : s.promoting c.ctx (c.u16 16) (c.u32 20) = false)
    (hheld : s.holds (.direct c.ctx) (c.u16 16) (c.u32 20) = true) :
    let u := s.dropRef (.direct c.ctx) (c.u16 16) (c.u32 20)
    s.opTileEvict c = u.post c (if u.referenced (c.u16 16) (c.u32 20) then stOkShared else stOk) 0 := by
  simp only [State.opTileEvict, State.evictTile, hopen, hsettled, hheld, Bool.not_true, Bool.false_eq_true, if_false]

end

/-! ### Copies, deadlines and freed frames -/

section
variable {s : State}

/-- The copy that is served first, with no page under test, ends the tile's promotions when every page was read and written; a page that is
lost stops it (R339, R343). -/
theorem State.copyDone_of_next {region tile : Nat} {r : Region} {f : Frame} (hnext : s.nextCopy = some (region, tile))
    (hr : s.region? region = some r) (hf : s.frameOf region tile = some f) (hidle : s.tileTested r f = false) :
    s.copyDone region tile = if (s.copyTile r f).2 = true then ((s.copyTile r f).1.endCopy region tile).settle.settleEvicts
      else (s.copyTile r f).1.settle.settleEvicts := by
  simp only [State.copyDone, hnext, hr, hf, hidle, ne_eq, not_true_eq_false, Bool.false_eq_true, if_false]
  rcases s.copyTile r f with ⟨u, _ | _⟩ <;> rfl

/-- A direct promotion's commands complete with DEADLINE_MISSED, each with a TIER_DEADLINE that names the tile's region and one tile in
place (R341, R496, log entry 47). -/
def State.missDeadline (s : State) (region tile ctx : Nat) : State :=
  (s.jobs (fun j => j == Job.promote region tile ctx)).foldl (fun t q =>
    (t.raise (q.cmd.ring / 4096 % 16) fTierDeadline (packWord [(0, region), (16, 0x3F), (32, ctx)]) 1).post q.cmd stDeadlineMissed 0) s

section
variable {id : Nat} {p : Promo} (hp : s.promos.find? (fun p => p.id == id) = some p) (hdeadline : p.deadline ≠ 0)
  (hpast : p.deadline ≤ s.now)
include hp hdeadline hpast

/-- A deadline that has passed ends its promotion and drops the reference; a brim's promotion has no command of its own (R341). -/
theorem State.promotionLate_of_brim {n : Nat} (hholder : p.holder = .brim n) :
    s.promotionLate id = ((s.dropPromo p.holder p.region p.tile).dropRef p.holder p.region p.tile).settle.settleEvicts := by
  have hlate : ¬(p.deadline = 0 ∨ s.now < p.deadline) := not_or.2 ⟨hdeadline, Nat.not_lt.2 hpast⟩
  simp only [State.promotionLate, hp, if_neg hlate, hholder]

/-- A deadline that has passed ends its direct promotion, drops the reference and completes the commands that wait (R341). -/
theorem State.promotionLate_of_direct {ctx : Nat} (hholder : p.holder = .direct ctx) :
    s.promotionLate id = (((s.dropPromo p.holder p.region p.tile).dropRef p.holder p.region p.tile).missDeadline p.region p.tile
      ctx).settle.settleEvicts := by
  have hlate : ¬(p.deadline = 0 ∨ s.now < p.deadline) := not_or.2 ⟨hdeadline, Nat.not_lt.2 hpast⟩
  simp only [State.promotionLate, hp, if_neg hlate, hholder, State.missDeadline]

end

/-- With no promotion waiting there is nothing to serve. -/
theorem serveWaiters_of_no_waiter (n : Nat) (hnone : s.waiters = []) : serveWaiters n s = s := by
  cases n with
  | zero => rfl
  | succ n => rw [serveWaiters, hnone, firstPromo]

/-- The only promotion that waits takes the frame that is free (R340, R342). -/
theorem State.frameFreed_of_one_waiter {p : Promo} {t : State} (hone : s.waiters = [p])
    (halloc : s.allocFrame p.region p.tile = some t) (hnone : t.waiters = []) : s.frameFreed = t := by
  have hpos : 0 < s.promos.length := calc
    0 < s.waiters.length := by simp [hone]
    _ ≤ s.promos.length := List.length_filter_le _ _
  obtain ⟨n, hn⟩ := Nat.exists_eq_succ_of_ne_zero (Nat.ne_of_gt hpos)
  simp only [State.frameFreed, hn, serveWaiters, hone, firstPromo, halloc]
  exact serveWaiters_of_no_waiter n hnone

end

/-- Settles O54: each command passes its checks and goes by the tile's state; each event finds its promotion. -/
theorem tileCommandsComplete : Obligations.TileCommandsComplete := by
  unfold Obligations.TileCommandsComplete
  refine ⟨?_, ?_, ?_, ?_, ?_⟩
  · intro e c p r s b region tile h wait htakes hopen hpool hregion hlower htile hallowed hsound
    have hexec : ∀ u, (b.holds h region tile = false → b.upperCharge c.ctx + 1 ≤ b.upperQuota c.ctx) →
        b.promoteTile c region tile = u → exec (.tilePromote e c) s = .next u.finish := fun u hquota hu =>
      congrArg Host.Outcome.next (State.row_of_takes htakes
        ((State.opTilePromote_of_passed hopen hpool hregion hlower htile hallowed hsound hquota).trans hu))
    refine ⟨fun hheld => ?_, fun f hnew hquota hf => ⟨fun hstate => ?_, fun hstate => ?_, fun hstate => ?_⟩,
      fun hnew hquota hnone => ⟨fun hserved => ?_, fun t hfirst halloc => ?_, fun hfirst halloc hdeadline => ?_⟩⟩
    · exact hexec _ (by simp [hheld]) (State.promoteTile_of_held hheld)
    · exact hexec _ (fun _ => hquota) (State.promoteTile_of_resident hnew hf hstate)
    · exact hexec _ (fun _ => hquota) (State.promoteTile_of_idle hnew hf hstate)
    · exact hexec _ (fun _ => hquota) (State.promoteTile_of_copying hnew hf hstate)
    · exact hexec _ (fun _ => hquota) (State.promoteTile_of_served hnew hnone hserved)
    · exact hexec _ (fun _ => hquota) (State.promoteTile_of_allocated hnew hnone hfirst halloc)
    · exact hexec _ (fun _ => hquota) (State.promoteTile_of_full hnew hnone hfirst halloc hdeadline)
  · intro e c s b region tile htakes hopen
    refine ⟨fun hpromoting => ?_, fun hsettled hheld => ?_⟩
    · exact congrArg Host.Outcome.next (State.row_of_takes htakes (State.opTileEvict_of_promoting hopen hpromoting))
    · exact congrArg Host.Outcome.next (State.row_of_takes htakes (State.opTileEvict_of_held hopen hsettled hheld))
  · intro e region tile r f u s b hnext hr hf hidle
    have hdone := State.copyDone_of_next hnext hr hf hidle
    refine ⟨fun hcopy => ?_, fun hcopy => ?_⟩ <;> rw [hcopy] at hdone
    · exact congrArg (fun t : State => Host.Outcome.next t.finish) hdone
    · exact congrArg (fun t : State => Host.Outcome.next t.finish) hdone
  · intro e id p s b hp hdeadline hpast u
    refine ⟨fun n hholder => ?_, fun ctx hholder => ?_⟩
    · exact congrArg (fun t : State => Host.Outcome.next t.finish) (State.promotionLate_of_brim hp hdeadline hpast hholder)
    · exact congrArg (fun t : State => Host.Outcome.next t.finish) (State.promotionLate_of_direct hp hdeadline hpast hholder)
  · intro e s b
    refine ⟨rfl, fun p t hone halloc hnone => ?_⟩
    exact congrArg (fun t : State => Host.Outcome.next t.finish) (State.frameFreed_of_one_waiter hone halloc hnone)

/-! ### Brims -/

section
variable {s : State} {c : Cmd}

/-- The brim that a BRIM_OPEN asks for (R352, R353). -/
def brimAsked (c : Cmd) (tmax : Nat) (gs : List TileGroup) : Brim :=
  { num := c.u8 16, ctx := c.ctx, depth := c.u8 17, wrap := c.modeBit 0, groups := gs, slots := c.u64 40, tmax := tmax,
    reserve := reservation (c.modeBit 0) (c.u8 17) gs, seq := 0, held := [], past := [] }

/-- BRIM_OPEN past its checks opens the brim and promotes its first groups (R352, R353, R356). -/
theorem State.opBrimOpen_of_passed {tmax : Nat} {gs : List TileGroup} {u : State} (hopen : s.ctxOpen c.ctx = true) (hnum : c.u8 16 ≤ 63)
    (hread : s.readGroups c.ctx (c.u64 32) = (u, some (tmax, gs)))
    (hslots : u.plainTable c.ctx (c.u64 40) (c.u8 17 * (16 + 8 * tmax)) = true) (hfree : u.brimOf (c.u8 16) = none)
    (hfields : u.brimBad (c.u8 17) tmax gs = none) (hallowed : ∀ g ∈ gs, u.groupAllowed c.ctx g = true)
    (hquota : u.upperCharge c.ctx + reservation (c.modeBit 0) (c.u8 17) gs ≤ u.upperQuota c.ctx) :
    s.opBrimOpen c = ((List.range (c.u8 17)).foldl (fun t g => t.promoteGroup (brimAsked c tmax gs) g (c.u64 24))
      (State.hold { u with brims := u.brims ++ [brimAsked c tmax gs] } c (.brim (c.u8 16) 0))).settle := by
  have hnamed : gs.any (fun g => !u.groupAllowed c.ctx g) = false := List.any_eq_false.2 fun g hg => by simp [hallowed g hg]
  simp only [State.opBrimOpen, hopen, if_neg (Nat.not_lt.2 hnum), hread, hslots, hfree, hfields, hnamed, if_neg (Nat.not_lt.2 hquota),
    Bool.not_true, Bool.false_eq_true, if_false, Option.isSome_none, brimAsked]

/-- A command that names a brim of its own context acts on it (R485). -/
theorem State.brimFor_of_own {n : Brim} (act : Brim → State) (hopen : s.ctxOpen c.ctx = true) (hn : s.brimOf (c.u8 16) = some n)
    (hown : n.ctx = c.ctx) : s.brimFor c act = act n := by
  simp only [State.brimFor, hopen, hn, hown, Bool.not_true, Bool.false_eq_true, if_false, ne_eq, not_true_eq_false]

end

/-- Settles O55: BRIM_OPEN passes every check, and both forms of BRIM_ADVANCE find a brim of their own context. -/
theorem brimCommandsComplete : Obligations.BrimCommandsComplete := by
  unfold Obligations.BrimCommandsComplete
  refine ⟨?_, ?_, ?_⟩
  · intro e c tmax gs u s b d htakes hopen hnum hread hslots hfree hfields hallowed hquota n
    have hop := State.opBrimOpen_of_passed hopen hnum hread hslots hfree hfields hallowed hquota
    exact congrArg Host.Outcome.next (State.row_of_takes htakes hop)
  · intro e c n s b htakes hopen hn hown
    exact congrArg Host.Outcome.next (State.row_of_takes (op := State.opBrimAdvance) htakes (State.brimFor_of_own _ hopen hn hown))
  · intro e c n s b htakes hopen hn hown
    exact congrArg Host.Outcome.next (State.row_of_takes (op := State.opBrimClose) htakes (State.brimFor_of_own _ hopen hn hown))

end Sys2Proof.Machine

/-! PROOFS. Local protection: what every step keeps of memory and of the complement pairs (R383, R385, R399), memory and fuses at reset,
the page code (R373, R377), the stored page that reads back (R374, R376), and the upkeep of the units (R368, R393 to R397, R554 to
R561). -/

namespace Sys2Proof.Machine

/-! ### What every step keeps -/

/-- Every command works from a state with the memory and the coded contexts of the one that it is given, whatever its event does to the
clock. -/
theorem exec_keeps_from {i : Instr} {s t : State} (ht : exec i s = .next t) :
    ∃ b, Keeps False b t ∧ b.mem = s.mem ∧ b.coded = s.coded := by
  by_cases hreset : ∃ e p, i = .chipReset e p
  · obtain ⟨e, p, rfl⟩ := hreset
    obtain ⟨u, hu, hk⟩ := execChipReset_keeps e p s
    cases hu.symm.trans ht
    exact ⟨s.at e, hk.mono False.elim, rfl, rfl⟩
  by_cases hband : ∃ e, i = .bandAcquire e
  · obtain ⟨e, rfl⟩ := hband
    obtain ⟨u, b, hu, hk, hb⟩ := execBandAcquire_keeps e s
    cases hu.symm.trans ht
    exact ⟨b, hk.mono False.elim, by rcases hb with rfl | rfl <;> exact ⟨rfl, rfl⟩⟩
  · obtain ⟨u, hu, hk⟩ := exec_keeps s i (fun e p h => hreset ⟨e, p, h⟩) (fun e h => hband ⟨e, h⟩)
    cases hu.symm.trans ht
    exact ⟨s.at i.event, hk.mono False.elim, rfl, rfl⟩

/-- So does every step; one that finds no command waiting stands still. -/
theorem step_keeps_from {s t : State} (ht : step s = .next t) : ∃ b, Keeps False b t ∧ b.mem = s.mem ∧ b.coded = s.coded := by
  unfold step at ht
  split at ht
  · cases ht
    exact ⟨s, Keeps.refl s, rfl, rfl⟩
  · obtain ⟨b, hk, hmem, hcoded⟩ := exec_keeps_from ht
    exact ⟨b, hk, hmem, hcoded⟩

/-- Settles O5: every operation of the block keeps memory's canonical form, and so does the step made of them. -/
theorem stepKeepsMemoryCanonical : Obligations.StepKeepsMemoryCanonical := by
  unfold Obligations.StepKeepsMemoryCanonical
  intro s t hwf ht
  obtain ⟨b, hk, hmem, -⟩ := step_keeps_from ht
  exact hk.mem (hmem ▸ hwf)

/-- Settles O6: every operation of the block keeps the complement pairs, and so does the step made of them. -/
theorem stepKeepsComplementPairs : Obligations.StepKeepsComplementPairs := by
  unfold Obligations.StepKeepsComplementPairs
  intro s t hpairs ht
  obtain ⟨b, hk, -, hcoded⟩ := step_keeps_from ht
  refine hk.pairs ?_
  rw [State.pairsOk, hcoded]
  exact hpairs

/-! ### Memory and fuses at reset -/

/-- A byte that no cell lists reads as zero. -/
theorem Mem.byte_of_nil {m : Mem} (h : m.bytes = []) (a : Nat) : m.byte a = 0 := by
  rw [Mem.byte, h]
  rfl

/-- A page that no entry lists was never written. -/
theorem Mem.record_of_nil {m : Mem} (h : m.recs = []) (k : Nat) : m.record k = neverRec := by
  rw [Mem.record, h]
  rfl

/-- Settles O11: the lists of memory are empty at reset. -/
theorem resetModelChoices : Obligations.ResetModelChoices := by
  unfold Obligations.ResetModelChoices
  exact ⟨Mem.byte_of_nil rfl, Mem.record_of_nil rfl, rfl, rfl, rfl⟩

end Sys2Proof.Machine

namespace Sys2Proof.Machine

/-! ### Columns of rows -/

/-- Past a list's end the exclusive or of bytes reads as with zero bytes. -/
@[simp] theorem byteAt_xorBytes (x y : List Byte) (i : Nat) : byteAt (xorBytes x y) i = byteAt x i ^^^ byteAt y i := by
  induction x, y using xorBytes.induct generalizing i with
  | case1 y => simp [xorBytes, byteAt]
  | case2 x xs => simp [xorBytes, byteAt]
  | case3 x xs y ys ih =>
    cases i with
    | zero => rfl
    | succ i => exact ih i

@[simp] theorem length_xorBytes (x y : List Byte) : (xorBytes x y).length = max x.length y.length := by
  induction x, y using xorBytes.induct with
  | case1 y => simp [xorBytes]
  | case2 x xs => simp [xorBytes]
  | case3 x xs y ys ih => simp [xorBytes, ih, Nat.add_max_add_right]

/-- A coefficient takes zero to zero. -/
@[simp] theorem gmul_zero (a : Byte) : gmul a 0#8 = 0#8 := by
  have h := gmul_xor a 0#8 0#8
  rwa [BitVec.xor_self, BitVec.xor_self] at h

@[simp] theorem byteAt_gscale (a : Byte) (l : List Byte) (i : Nat) : byteAt (gscale a l) i = gmul a (byteAt l i) := by
  simp only [byteAt, gscale, List.getD_eq_getElem?_getD, List.getElem?_map]
  cases l[i]? with
  | none => exact (gmul_zero a).symm
  | some b => rfl

@[simp] theorem length_gscale (a : Byte) (l : List Byte) : (gscale a l).length = l.length := List.length_map _

@[simp] theorem byteAt_replicate_zero (n i : Nat) : byteAt (List.replicate n 0#8) i = 0#8 := by
  simp only [byteAt, List.getD_eq_getElem?_getD, List.getElem?_replicate]
  split <;> rfl

/-- Rows of one length are equal when their bytes are. -/
theorem eq_of_byteAt {x y : List Byte} (hlen : x.length = y.length) (h : ∀ i < x.length, byteAt x i = byteAt y i) : x = y := by
  refine List.ext_getElem hlen fun i hx hy => ?_
  simpa [byteAt, hx, hy] using h i hx

theorem getD_eq_getElem {α : Type} {l : List α} {n : Nat} (a : α) (h : n < l.length) : l.getD n a = l[n] := by
  rw [List.getD_eq_getElem?_getD, List.getElem?_eq_getElem h, Option.getD_some]

/-- Byte `i` of every row: one interleave of the page code (R373). -/
def column (rows : List (List Byte)) (i : Nat) : List Byte := rows.map (byteAt · i)

/-- What is folded row by row shows, of one interleave, what is folded byte by byte. -/
theorem foldl_column {α β : Type} {k : α → List Byte → α} {g : β → Byte → β} {i : Nat} {rows : List (List Byte)} {z : α}
    (φ : α → β) (h : ∀ x row, φ (k x row) = g (φ x) (byteAt row i)) : φ (rows.foldl k z) = (column rows i).foldl g (φ z) := by
  rw [column, List.foldl_map]
  exact (List.foldl_hom φ (g₂ := fun x row => g x (byteAt row i)) fun x row => (h x row).symm).symm

/-! ### The syndromes of an interleave -/

/-- One step of the evaluation of an interleave, as a polynomial with its first byte foremost, at the point whose product is `f`. -/
def hornerStep (f : Byte → Byte) (s b : Byte) : Byte := f s ^^^ b

/-- The value of an interleave at the point whose product is `f`. -/
def syndrome (f : Byte → Byte) (bs : List Byte) : Byte := bs.foldl (hornerStep f) 0#8

theorem byteAt_foldl_xorBytes (rows : List (List Byte)) (n i : Nat) :
    byteAt (rows.foldl xorBytes (List.replicate n 0#8)) i = syndrome id (column rows i) := by
  rw [foldl_column (g := hornerStep id) (byteAt · i) fun x row => byteAt_xorBytes x row i, byteAt_replicate_zero, syndrome]

theorem byteAt_foldl_gscale_two (rows : List (List Byte)) (n i : Nat) :
    byteAt (rows.foldl (fun s row => xorBytes (gscale 2 s) row) (List.replicate n 0#8)) i = syndrome (gmul 2) (column rows i) := by
  rw [foldl_column (g := hornerStep (gmul 2)) (i := i) (byteAt · i) fun x row => by simp [hornerStep], byteAt_replicate_zero, syndrome]

/-- The parity register's step on one interleave (R373). -/
def parityByteStep (r : Byte × Byte) (b : Byte) : Byte × Byte := (r.2 ^^^ gmul 3 (r.1 ^^^ b), gmul 2 (r.1 ^^^ b))

/-- The two parity bytes of one interleave. -/
def parityBytes (bs : List Byte) : Byte × Byte := bs.foldl parityByteStep (0#8, 0#8)

theorem byteAt_pageParity (d : List Byte) (i : Nat) :
    (byteAt (pageParity d).1 i, byteAt (pageParity d).2 i) = parityBytes (column (pageRows d) i) := by
  rw [pageParity, foldl_column (i := i) (g := parityByteStep) (fun r : List Byte × List Byte => (byteAt r.1 i, byteAt r.2 i))
    fun r row => by simp [parityStep, parityByteStep]]
  exact congrArg (List.foldl parityByteStep · _) (Prod.ext (byteAt_replicate_zero 32 i) (byteAt_replicate_zero 32 i))

/-- `e` times the `n`-th power of the point whose product is `f`. -/
def timesRoot (f : Byte → Byte) : Nat → Byte → Byte
  | 0, e => e
  | n + 1, e => timesRoot f n (f e)

/-- The product with a root of g(x) = x² + 0x03 x + 0x02 (R373). -/
structure IsRoot (f : Byte → Byte) : Prop where
  add : ∀ x y, f (x ^^^ y) = f x ^^^ f y
  root : ∀ x, f (gmul 3 x) ^^^ gmul 2 x = f (f x)

theorem isRoot_id : IsRoot id :=
  ⟨fun _ _ => rfl, eq_of_additive (fun _ _ => by simp only [id, gmul_xor]; ac_rfl) (fun _ _ => rfl) (by decide +kernel)⟩

theorem isRoot_gmul_two : IsRoot (gmul 2) :=
  ⟨gmul_xor 2, eq_of_additive (fun _ _ => by simp only [gmul_xor]; ac_rfl) (fun _ _ => by simp only [gmul_xor]) (by decide +kernel)⟩

section
variable {f : Byte → Byte} (hf : IsRoot f)
include hf

theorem IsRoot.map_zero : f 0#8 = 0#8 := by
  have h := hf.add 0#8 0#8
  rwa [BitVec.xor_self, BitVec.xor_self] at h

/-- At a root of g the register has the value of the bytes fed, times the square of the root. -/
theorem IsRoot.foldl_parityByteStep (bs : List Byte) (r : Byte × Byte) (s : Byte) (h : f r.1 ^^^ r.2 = f (f s)) :
    f (bs.foldl parityByteStep r).1 ^^^ (bs.foldl parityByteStep r).2 = f (f (bs.foldl (hornerStep f) s)) := by
  induction bs generalizing r s with
  | nil => exact h
  | cons b bs ih =>
    refine ih _ _ ?_
    calc f (r.2 ^^^ gmul 3 (r.1 ^^^ b)) ^^^ gmul 2 (r.1 ^^^ b)
      _ = f r.2 ^^^ (f (gmul 3 (r.1 ^^^ b)) ^^^ gmul 2 (r.1 ^^^ b)) := by rw [hf.add, BitVec.xor_assoc]
      _ = f (f r.1 ^^^ r.2) ^^^ f (f b) := by rw [hf.root]; simp only [hf.add]; ac_rfl
      _ = f (f (f s ^^^ b)) := by rw [h]; simp only [hf.add]

/-- An interleave with its two parity bytes has no syndrome (R377). -/
theorem IsRoot.syndrome_codeword (bs : List Byte) : syndrome f (bs ++ [(parityBytes bs).1, (parityBytes bs).2]) = 0#8 := by
  have hregister : f (parityBytes bs).1 ^^^ (parityBytes bs).2 = f (f (syndrome f bs)) :=
    hf.foldl_parityByteStep bs (0#8, 0#8) 0#8 (by simp [hf.map_zero])
  have hfold : syndrome f (bs ++ [(parityBytes bs).1, (parityBytes bs).2]) =
      f (f (syndrome f bs) ^^^ (parityBytes bs).1) ^^^ (parityBytes bs).2 := List.foldl_append
  rw [hfold, hf.add, ← hregister, BitVec.xor_assoc, BitVec.xor_self]

/-- What is added before some bytes is added behind them, times the root for every one of them. -/
theorem IsRoot.foldl_xor (bs : List Byte) (s e : Byte) :
    bs.foldl (hornerStep f) (s ^^^ e) = bs.foldl (hornerStep f) s ^^^ timesRoot f bs.length e := by
  induction bs generalizing s e with
  | nil => rfl
  | cons b bs ih =>
    have hstep : hornerStep f (s ^^^ e) b = hornerStep f s b ^^^ f e := by
      rw [hornerStep, hornerStep, hf.add]
      ac_rfl
    rw [List.foldl_cons, hstep, ih, List.foldl_cons]
    rfl

theorem IsRoot.foldl_set (bs : List Byte) (s : Byte) {j : Nat} (hj : j < bs.length) (e : Byte) :
    (bs.set j (byteAt bs j ^^^ e)).foldl (hornerStep f) s = bs.foldl (hornerStep f) s ^^^ timesRoot f (bs.length - 1 - j) e := by
  induction bs generalizing s j with
  | nil => exact absurd hj (Nat.not_lt_zero j)
  | cons b bs ih =>
    cases j with
    | zero =>
      have hstep : hornerStep f s (b ^^^ e) = hornerStep f s b ^^^ e := (BitVec.xor_assoc ..).symm
      exact (congrArg (bs.foldl (hornerStep f)) hstep).trans (hf.foldl_xor bs _ e)
    | succ j =>
      have hlen : bs.length - 1 - j = (b :: bs).length - 1 - (j + 1) := by simp only [List.length_cons]; omega
      rw [← hlen]
      exact ih (hornerStep f s b) (Nat.lt_of_succ_lt_succ hj)

/-- An error in one byte adds itself to the syndrome, times the root for every byte behind it (R377). -/
theorem IsRoot.syndrome_set (bs : List Byte) {j : Nat} (hj : j < bs.length) (e : Byte) :
    syndrome f (bs.set j (byteAt bs j ^^^ e)) = syndrome f bs ^^^ timesRoot f (bs.length - 1 - j) e := hf.foldl_set bs 0#8 hj e

end

/-! ### Locating one error -/

theorem gmul_comm (a b : Byte) : gmul a b = gmul b a := by
  have hpow : ∀ i j : Fin 8, gmul (1#8 <<< i.val) (1#8 <<< j.val) = gmul (1#8 <<< j.val) (1#8 <<< i.val) := by decide +kernel
  refine eq_of_additive (f := (gmul · b)) (g := gmul b) (fun _ _ => gmul_xor_left ..) (gmul_xor b) (fun i => ?_) a
  exact eq_of_additive (f := gmul _) (g := (gmul · _)) (gmul_xor _) (fun _ _ => gmul_xor_left ..) (hpow i) b

theorem timesRoot_id (n : Nat) (e : Byte) : timesRoot id n e = e := by
  induction n with
  | zero => rfl
  | succ n ih => exact ih

theorem timesRoot_gmul_two (n : Nat) (e : Byte) : timesRoot (gmul 2) n e = gmul (pow2 n) e := by
  induction n generalizing e with
  | zero => exact (one_gmul e).symm
  | succ n ih => rw [timesRoot, ih, ← gmul_assoc, gmul_comm (pow2 n), pow2]

/-- A factor divides out again. -/
theorem gmul_gmul_ginv (a : Byte) {b : Byte} (hb : b ≠ 0#8) : gmul (gmul a b) (ginv b) = a := by
  rw [gmul_assoc, gmul_comm b, ginv_gmul b hb, gmul_one]

theorem pow2_add (m n : Nat) : pow2 (m + n) = gmul (pow2 m) (pow2 n) := by
  induction m with
  | zero => rw [Nat.zero_add]; exact (one_gmul _).symm
  | succ m ih => rw [Nat.succ_add, pow2, ih, pow2, gmul_assoc]

/-- 0x02 has no smaller order than the codeword's length. -/
theorem pow2_ne : ∀ n < 130, pow2 n ≠ 0#8 ∧ (n ≠ 0 → pow2 n ≠ 1#8) := by decide +kernel

/-- The powers of 0x02 at the 130 positions of a codeword differ (R377). -/
theorem pow2_ne_pow2 {m n : Nat} (hmn : m < n) (hn : n < 130) : pow2 m ≠ pow2 n := by
  intro h
  have hm : pow2 m ≠ 0#8 := (pow2_ne m (by omega)).1
  have hone : pow2 (n - m) = 1#8 := calc
    pow2 (n - m) = gmul (gmul (pow2 (n - m)) (pow2 m)) (ginv (pow2 m)) := (gmul_gmul_ginv _ hm).symm
    _ = gmul (gmul 1#8 (pow2 m)) (ginv (pow2 m)) := by rw [← pow2_add, Nat.sub_add_cancel (Nat.le_of_lt hmn), ← h, one_gmul]
    _ = 1#8 := gmul_gmul_ginv _ hm
  exact (pow2_ne (n - m) (by omega)).2 (by omega) hone

theorem log2Pos_pow2 {l : Nat} (hl : l < 130) : log2Pos (pow2 l) = some l :=
  List.find?_range_eq_some.2 ⟨beq_self_eq_true _, List.mem_range.2 hl, fun _ hj => by simp [pow2_ne_pow2 hj hl]⟩

/-- The correction of an interleave with error `e` at position `l`, if any. -/
def fixOf (l : Nat) (e : Byte) : List (Nat × Byte) := if e = 0#8 then [] else [(l, e)]

/-- From the syndromes of one error its position and its value are found (R377). -/
theorem solveColumn_of_one_error {l : Nat} (hl : l < 130) (e : Byte) : solveColumn [] e (gmul (pow2 l) e) = some (fixOf l e) := by
  by_cases he : e = 0#8
  · subst he
    simp [solveColumn, fixOf]
  · rw [solveColumn, if_neg (fun h => he h.1), if_neg (c := e = 0) he, gmul_gmul_ginv _ he, log2Pos_pow2 hl, fixOf, if_neg he]
    rfl

/-! ### Decoding a page -/

/-- The column of byte corrections that the fixes of the interleaves make in row `j` (R377). -/
def correction (fixes : Nat → List (Nat × Byte)) (j : Nat) : List Byte :=
  (List.range 32).map (fun i => ((fixes i).filter (fun e => e.1 + j == 129)).foldl (fun a e => a ^^^ e.2) 0)

/-- The fix of one error goes to the row that holds it (R377). -/
theorem byteAt_correction_fixOf {row : Nat} (hrow : row < 130) (err : Nat → Byte) {i : Nat} (hi : i < 32) (j : Nat) :
    byteAt (correction (fun i => fixOf (129 - row) (err i)) j) i = if j = row then err i else 0#8 := by
  simp only [byteAt, correction, List.getD_eq_getElem?_getD, List.getElem?_map, List.getElem?_range hi, fixOf]
  by_cases hzero : err i = 0#8
  · simp [hzero]
  · by_cases hj : j = row
    · have hplace : 129 - row + j = 129 := by omega
      simp [hzero, hplace, if_pos hj]
    · have hplace : 129 - row + j ≠ 129 := by omega
      simp [hzero, hplace, hj]

theorem any_fixOf (l : Nat) (e : Byte) : (fixOf l e).any (fun x => x.2 != 0) = (e != 0#8) := by
  by_cases he : e = 0#8 <;> simp [fixOf, he]

theorem allSome_map_some {α β : Type} (g : α → β) (l : List α) : allSome (l.map (fun a => some (g a))) = some (l.map g) := by
  induction l with
  | nil => rfl
  | cons a l ih => rw [List.map_cons, allSome, ih]; rfl

/-- Where every interleave has its fix, each row is corrected (R377). -/
theorem decodeRows_of_solved {rows : List (List Byte)} {fixes : Nat → List (Nat × Byte)}
    (h : ∀ i < 32, solveColumn [] (syndrome id (column rows i)) (syndrome (gmul 2) (column rows i)) = some (fixes i)) :
    decodeRows rows [] = some ((rows.zip (List.range 130)).map (fun p => xorBytes p.1 (correction fixes p.2)),
      (List.range 32).any (fun i => (fixes i).any (fun e => e.2 != 0))) := by
  have hfixes : allSome ((List.range 32).map (fun i =>
      solveColumn [] (syndrome id (column rows i)) (syndrome (gmul 2) (column rows i)))) = some ((List.range 32).map fixes) := by
    rw [← allSome_map_some, List.map_congr_left fun i hi => h i (List.mem_range.1 hi)]
  have hsyndromes (i : Nat) : solveColumn [] (byteAt (rows.foldl xorBytes (List.replicate 32 0)) i)
      (byteAt (rows.foldl (fun s row => xorBytes (gscale 2 s) row) (List.replicate 32 0)) i) =
        solveColumn [] (syndrome id (column rows i)) (syndrome (gmul 2) (column rows i)) :=
    congr (congrArg (solveColumn []) (byteAt_foldl_xorBytes rows 32 i)) (byteAt_foldl_gscale_two rows 32 i)
  simp only [decodeRows, hsyndromes, hfixes, correction, List.map_map, List.any_map]
  rfl

/-- The rows with an error in one byte. -/
def withError (rows : List (List Byte)) (row col : Nat) (e : Byte) : List (List Byte) :=
  rows.set row ((rows.getD row []).set col (byteAt (rows.getD row []) col ^^^ e))

/-- The part of an error in column `col` that falls into interleave `i`. -/
def errorIn (col : Nat) (e : Byte) (i : Nat) : Byte := if i = col then e else 0#8

theorem byteAt_set {r : List Byte} {col : Nat} (hcol : col < r.length) (e : Byte) (i : Nat) :
    byteAt (r.set col (byteAt r col ^^^ e)) i = byteAt r i ^^^ errorIn col e i := by
  by_cases hi : i = col
  · subst hi
    simp [byteAt, errorIn, hcol]
  · simp [byteAt, errorIn, hi, Ne.symm hi]

theorem getD_withError {rows : List (List Byte)} {row : Nat} (hrow : row < rows.length) (col : Nat) (e : Byte) (j : Nat) :
    (withError rows row col e).getD j [] =
      if j = row then (rows.getD row []).set col (byteAt (rows.getD row []) col ^^^ e) else rows.getD j [] := by
  by_cases hj : j = row
  · subst hj
    simp [withError, hrow]
  · simp [withError, hj, Ne.symm hj]

theorem set_getD_self {α : Type} (l : List α) (n : Nat) (a : α) : l.set n (l.getD n a) = l := by
  rcases Nat.lt_or_ge n l.length with h | h
  · rw [getD_eq_getElem _ h, List.set_getElem_self]
  · exact List.set_eq_of_length_le h

theorem withError_zero (rows : List (List Byte)) (row col : Nat) : withError rows row col 0#8 = rows := by
  have hbyte : byteAt (rows.getD row []) col ^^^ 0#8 = (rows.getD row []).getD col 0 := BitVec.xor_zero
  rw [withError, hbyte, set_getD_self, set_getD_self]

/-- An error changes one byte of one row. -/
theorem byteAt_withError {rows : List (List Byte)} {row col : Nat} (hrow : row < rows.length) (hcol : col < (rows.getD row []).length)
    (e : Byte) (j i : Nat) : byteAt ((withError rows row col e).getD j []) i =
      byteAt (rows.getD j []) i ^^^ if j = row then errorIn col e i else 0#8 := by
  rw [getD_withError hrow]
  split
  · next hj => rw [byteAt_set hcol, hj]
  · exact BitVec.xor_zero.symm

theorem length_getD_withError {rows : List (List Byte)} {row : Nat} (hrow : row < rows.length) (col : Nat) (e : Byte) (j : Nat) :
    ((withError rows row col e).getD j []).length = (rows.getD j []).length := by
  rw [getD_withError hrow]
  split
  · next hj => rw [List.length_set, hj]
  · rfl

theorem byteAt_column (rows : List (List Byte)) (i j : Nat) : byteAt (column rows i) j = byteAt (rows.getD j []) i := by
  simp only [byteAt, column, List.getD_eq_getElem?_getD, List.getElem?_map]
  cases rows[j]? <;> rfl

theorem column_withError {rows : List (List Byte)} {row col : Nat} (hcol : col < (rows.getD row []).length) (e : Byte) (i : Nat) :
    column (withError rows row col e) i = (column rows i).set row (byteAt (column rows i) row ^^^ errorIn col e i) := by
  rw [byteAt_column, ← byteAt_set hcol, column, withError, List.map_set, column]

/-- The rows of a page and its two parity rows (R373). -/
def codeword (d : List Byte) : List (List Byte) := pageRows d ++ [(pageParity d).1, (pageParity d).2]

theorem length_codeword (d : List Byte) : (codeword d).length = 130 := by simp [codeword, pageRows]

theorem length_slice (l : List Byte) (off n : Nat) : (slice l off n).length = n := by
  simp only [slice, List.length_append, List.length_replicate, List.length_take]
  omega

theorem length_of_mem_pageRows {d r : List Byte} (h : r ∈ pageRows d) : r.length = 32 := by
  obtain ⟨j, -, rfl⟩ := List.mem_map.1 h
  exact length_slice ..

theorem length_foldl_parityStep {n : Nat} {rows : List (List Byte)} (hrows : ∀ row ∈ rows, row.length = n)
    {r : List Byte × List Byte} (hr : r.1.length = n ∧ r.2.length = n) :
    (rows.foldl parityStep r).1.length = n ∧ (rows.foldl parityStep r).2.length = n := by
  induction rows generalizing r with
  | nil => exact hr
  | cons row rows ih =>
    obtain ⟨hrow, hrest⟩ := List.forall_mem_cons.1 hrows
    exact ih hrest (by simp [parityStep, hr, hrow])

theorem length_pageParity (d : List Byte) : (pageParity d).1.length = 32 ∧ (pageParity d).2.length = 32 :=
  length_foldl_parityStep (fun _ => length_of_mem_pageRows) ⟨List.length_replicate, List.length_replicate⟩

theorem length_of_mem_codeword {d r : List Byte} (h : r ∈ codeword d) : r.length = 32 := by
  obtain ⟨hone, hzero⟩ := length_pageParity d
  rw [codeword, List.mem_append, List.mem_cons, List.mem_singleton] at h
  rcases h with h | h | h
  · exact length_of_mem_pageRows h
  · rw [h, hone]
  · rw [h, hzero]

/-- No interleave of a codeword has a syndrome at a root of g. -/
theorem IsRoot.syndrome_column_codeword {f : Byte → Byte} (hf : IsRoot f) (d : List Byte) (i : Nat) :
    syndrome f (column (codeword d) i) = 0#8 := by
  have hsplit : column (codeword d) i = column (pageRows d) i ++
      [(parityBytes (column (pageRows d) i)).1, (parityBytes (column (pageRows d) i)).2] := by
    rw [← byteAt_pageParity, column, codeword, List.map_append, List.map_cons, List.map_cons, List.map_nil, column]
  rw [hsplit, hf.syndrome_codeword]

/-- A row of a codeword has 32 bytes. -/
theorem length_getD_codeword (d : List Byte) {j : Nat} (hj : j < 130) : ((codeword d).getD j []).length = 32 := by
  have hlt : j < (codeword d).length := by rwa [length_codeword]
  rw [getD_eq_getElem _ hlt, length_of_mem_codeword (List.getElem_mem hlt)]

/-- Exactly the interleaves that hold the error need a fix. -/
theorem any_fixOf_errorIn {col : Nat} (hcol : col < 32) (e : Byte) (l : Nat) :
    (List.range 32).any (fun i => (fixOf l (errorIn col e i)).any (fun x => x.2 != 0)) = (e != 0#8) := by
  rw [Bool.eq_iff_iff]
  simp only [any_fixOf, List.any_eq_true, List.mem_range, bne_iff_ne, errorIn]
  refine ⟨?_, fun he => ⟨col, hcol, by rwa [if_pos rfl]⟩⟩
  rintro ⟨i, -, hi⟩ he
  exact hi (by rw [he, ite_self])

section
variable {row col : Nat} (hrow : row < 130) (hcol : col < 32) (d : List Byte) (e : Byte)
include hrow hcol

/-- An error shows in its interleave's syndromes with the power of its position (R377). -/
theorem IsRoot.syndrome_withError {f : Byte → Byte} (hf : IsRoot f) (i : Nat) :
    syndrome f (column (withError (codeword d) row col e) i) = timesRoot f (129 - row) (errorIn col e i) := by
  have hlen : (column (codeword d) i).length = 130 := by rw [column, List.length_map, length_codeword]
  rw [column_withError (by rwa [length_getD_codeword d hrow]), hf.syndrome_set _ (by omega), hf.syndrome_column_codeword, hlen,
    BitVec.zero_xor]

/-- The corrections take the error out of its row. -/
theorem xorBytes_correction {j : Nat} (hj : j < 130) :
    xorBytes ((withError (codeword d) row col e).getD j []) (correction (fun i => fixOf (129 - row) (errorIn col e i)) j) =
      (codeword d).getD j [] := by
  have hrows : row < (codeword d).length := by rwa [length_codeword]
  have hlen : (xorBytes ((withError (codeword d) row col e).getD j [])
      (correction (fun i => fixOf (129 - row) (errorIn col e i)) j)).length = 32 := by
    rw [length_xorBytes, length_getD_withError hrows, length_getD_codeword d hj, correction, List.length_map, List.length_range, Nat.max_self]
  refine eq_of_byteAt (by rw [hlen, length_getD_codeword d hj]) fun i hi => ?_
  rw [byteAt_xorBytes, byteAt_withError hrows (by rwa [length_getD_codeword d hrow]), byteAt_correction_fixOf hrow _ (hlen ▸ hi),
    BitVec.xor_assoc, BitVec.xor_self, BitVec.xor_zero]

/-- One wrong byte of a codeword is put right, and counts as corrected where it was wrong (R377, R379). -/
theorem decodeRows_withError : decodeRows (withError (codeword d) row col e) [] = some (codeword d, e != 0#8) := by
  have hsolved (i : Nat) : solveColumn [] (syndrome id (column (withError (codeword d) row col e) i))
      (syndrome (gmul 2) (column (withError (codeword d) row col e) i)) = some (fixOf (129 - row) (errorIn col e i)) := by
    rw [isRoot_id.syndrome_withError hrow hcol, isRoot_gmul_two.syndrome_withError hrow hcol, timesRoot_id, timesRoot_gmul_two]
    exact solveColumn_of_one_error (by omega) _
  rw [decodeRows_of_solved fun i _ => hsolved i, any_fixOf_errorIn hcol]
  refine congrArg (fun rows => some (rows, e != 0#8)) (List.ext_getElem (by simp [withError, length_codeword]) fun j hj hjd => ?_)
  have hj130 : j < 130 := by rwa [length_codeword] at hjd
  have hjbad : j < (withError (codeword d) row col e).length := by rwa [withError, List.length_set]
  have hfixed := xorBytes_correction hrow hcol d e hj130
  rw [getD_eq_getElem _ hjbad, getD_eq_getElem _ hjd] at hfixed
  simpa only [List.getElem_map, List.getElem_zip, List.getElem_range] using hfixed

end

/-- Settles O14: a codeword has no syndrome, and one wrong byte leaves one that names its place and its error. -/
theorem pageCodeCorrectsAnyByte : Obligations.PageCodeCorrectsAnyByte := by
  unfold Obligations.PageCodeCorrectsAnyByte
  intro d row col e _ hrow hcol he good bad
  refine ⟨?_, ?_⟩
  · exact (decodeRows_withError hrow hcol d e).trans (congrArg (fun b => some (codeword d, b)) (bne_iff_ne.2 he))
  · have h := decodeRows_withError hrow hcol d 0#8
    rwa [withError_zero] at h

end Sys2Proof.Machine

namespace Sys2Proof

/-! ### Setting an entry of a table -/

theorem Tab.get_set_self {α : Type} (l : List (Nat × α)) (k : Nat) (v : α) : Tab.get (Tab.set l k v) k = some v := by
  induction l with
  | nil => exact if_pos rfl
  | cons p l ih =>
    obtain ⟨j, w⟩ := p
    rw [Tab.set]
    split
    · exact if_pos rfl
    split
    · exact if_pos rfl
    · next hne => rw [Tab.get, if_neg (Ne.symm hne), ih]

theorem Tab.get_set_of_ne {α : Type} (l : List (Nat × α)) {j k : Nat} (v : α) (h : j ≠ k) :
    Tab.get (Tab.set l k v) j = Tab.get l j := by
  have hk : k ≠ j := Ne.symm h
  induction l with
  | nil => exact if_neg hk
  | cons p l ih =>
    obtain ⟨i, w⟩ := p
    rw [Tab.set]
    split
    · exact if_neg hk
    split
    · next heq => rw [Tab.get, if_neg hk, Tab.get, if_neg (heq ▸ hk)]
    · rw [Tab.get, ih, Tab.get]

end Sys2Proof

namespace Sys2Proof.Machine

/-! ### A stored page -/

section
variable (k : Nat) (d : List Byte) (st : Byte) (t : Tags) (p : List Byte × List Byte)

@[simp] theorem mkRec_st : (mkRec k d st t p).st = st := rfl

@[simp] theorem mkRec_stInv : (mkRec k d st t p).stInv = ~~~st := rfl

@[simp] theorem mkRec_par1 : (mkRec k d st t p).par1 = p.1 := rfl

@[simp] theorem mkRec_par0 : (mkRec k d st t p).par0 = p.2 := rfl

/-- A fresh record's CRC is that of the page with the record's metadata (R374). -/
theorem mkRec_crc : (mkRec k d st t p).crc = pageCrc k d (mkRec k d st t p).metaBytes := rfl

end

/-- A metadata burst reads back as the record that it was made of (R371, R372). -/
theorem metaOf_metaBurst (r : PageRec) : metaOf r r.metaBurst = r := by
  have hword (w : Word) : w.toNat < 256 ^ 8 := w.isLt
  have hhalf (w : BitVec 32) : w.toNat < 256 ^ 4 := w.isLt
  have hburst : r.metaBurst = leBytes 8 r.stepTag.toNat ++ (leBytes 8 r.stripeTag.toNat ++ (leBytes 4 r.foldMask.toNat ++
      ([r.st, r.stInv, r.handGen, r.attempt, 0, 0, 0, 0] ++ (leBytes 4 r.crc.toNat ++ [])))) := by
    simp [PageRec.metaBurst, PageRec.metaBytes]
  have hstep : field r.metaBurst 0 8 = r.stepTag.toNat := by rw [hburst, field_leBytes_append _ (hword _)]
  have hstripe : field r.metaBurst 8 8 = r.stripeTag.toNat := by
    rw [hburst, field_append_of_le (by simp), length_leBytes, field_leBytes_append _ (hword _)]
  have hmask : field r.metaBurst 16 4 = r.foldMask.toNat := by
    rw [hburst, field_append_of_le (by simp), field_append_of_le (by simp), length_leBytes, length_leBytes,
      field_leBytes_append _ (hhalf _)]
  have hcrc : field r.metaBurst 28 4 = r.crc.toNat := by
    rw [hburst, field_append_of_le (by simp), field_append_of_le (by simp), field_append_of_le (by simp), field_append_of_le (by simp)]
    simp only [length_leBytes, List.length_cons, List.length_nil]
    exact field_leBytes_append _ (hhalf _)
  have hbytes : byteAt r.metaBurst 20 = r.st ∧ byteAt r.metaBurst 21 = r.stInv ∧ byteAt r.metaBurst 22 = r.handGen ∧
      byteAt r.metaBurst 23 = r.attempt := by
    rw [hburst]
    simp [byteAt]
  obtain ⟨hst, hinv, hhand, hattempt⟩ := hbytes
  simp only [metaOf, hstep, hstripe, hmask, hcrc, hst, hinv, hhand, hattempt, BitVec.ofNat_toNat, BitVec.setWidth_eq]

section
variable {s : State} {k : Nat} {d : List Byte} {t : Tags}

/-- A page whose record is the one its bytes give, and of which the controllers report nothing, reads without a fault and without a
change of state (R376). -/
theorem State.fetchPage_of_intact (hlen : d.length = 4096) (hreports : s.reports k = [])
    (hrec : s.mem.record k = mkRec k d stWritten t (pageParity d)) (hread : s.mem.read (pageAddr k 0) 4096 = d) :
    s.fetchPage k = (s, .page d (mkRec k d stWritten t (pageParity d))) := by
  have hrows : ((pageRows d).zip (List.range 128)).map (fun p => p.1) = pageRows d := List.map_fst_zip (by simp [pageRows])
  have hdecode : s.decodePage k = (s, .page d (mkRec k d stWritten t (pageParity d)), false) := by
    rw [State.decodePage]
    simp only [hreports, List.find?_nil, hrec, metaOf_metaBurst, hread, hrows, List.filter_nil, List.isEmpty_nil, List.any_nil,
      State.countBursts, List.foldl_nil, Bool.false_eq_true, if_false, mkRec_st, mkRec_stInv, mkRec_par1, mkRec_par0, pageRows_flatten hlen]
    rw [if_neg (by decide), if_neg (by decide), if_neg (by decide), if_pos ⟨trivial, trivial, mkRec_crc ..⟩]
  rw [State.fetchPage, hdecode]

/-- A write of as many bytes as are read back is read back. -/
theorem Mem.read_write_self (m : Mem) (a : Nat) : (m.write a d).read a d.length = d := by
  refine List.ext_getElem? fun i => ?_
  rcases Nat.lt_or_ge i d.length with hi | hi
  · rw [Mem.getElem?_read _ a hi, Mem.byte_write_of_mem m d (Nat.le_add_right a i) (Nat.add_lt_add_left hi a), Nat.add_sub_cancel_left,
      List.getElem?_eq_getElem hi, getD_eq_getElem _ hi]
  · rw [List.getElem?_eq_none hi, List.getElem?_eq_none (by simpa [Mem.read] using hi)]

/-- Where no lane errs, a product that may leave its lane leaves it as it is (R402, R405). -/
theorem State.checked_of_no_error {i : Fin 16} {lane product : Nat} (y : List Byte) (hlane : s.ev.lane = none)
    (hworks : (s.inst[i]).halted = false ∨ product = pPage) : s.checked i lane product y = (s, some y) := by
  have hleaves : ((s.inst[i]).halted && product != pPage) = false := by
    rcases hworks with h | rfl
    · rw [h, Bool.false_and]
    · rw [bne_self_eq_false, Bool.and_false]
  rw [State.checked, hleaves, if_neg Bool.false_ne_true, hlane]

/-- Memory with a page stored in it. -/
def Mem.withPage (m : Mem) (k : Nat) (d : List Byte) (t : Tags) : Mem :=
  { m.write (pageAddr k 0) d with
    recs := Tab.set m.recs k (mkRec k d stWritten t (pageParity d)), repairQ := m.repairQ.filter (fun q => q != k) }

/-- A whole page stored without an error changes memory, and takes back the controllers' reports of the page; nothing else (R373, R374). -/
theorem State.storePage_of_no_error (hlane : s.ev.lane = none) (hlen : d.length = 4096) (hcodes : s.codingStopped k = false) :
    s.storePage k d t =
      { s with mem := s.mem.withPage k d t, ev := { s.ev with ctl := s.ev.ctl.filter (fun b => b.page != k) } } := by
  have hpad : padTo 4096 d = d := by
    simp only [padTo, slice, List.drop_zero, List.take_of_length_le (Nat.le_of_eq hlen), hlen, Nat.sub_self, List.replicate_zero,
      List.append_nil]
  have hpar := (length_pageParity d).1
  rw [State.storePage]
  simp only [hpad, hcodes, Bool.false_eq_true, if_false, State.checked_of_no_error _ hlane (.inr rfl), List.take_left' hpar,
    List.drop_left' hpar, Prod.eta]
  rfl

end

/-- Settles O13: the page's bytes and its record are those stored, and its reports are gone, so it reads as intact. -/
theorem storedPageReadsBack : Obligations.StoredPageReadsBack := by
  unfold Obligations.StoredPageReadsBack
  intro s k d t _ hlane hlen hcodes u
  have hu : u = { s with mem := s.mem.withPage k d t, ev := { s.ev with ctl := s.ev.ctl.filter (fun b => b.page != k) } } :=
    State.storePage_of_no_error hlane hlen hcodes
  have hreports : u.reports k = [] := by simp [hu, State.reports, List.filter_filter]
  have hrec : u.mem.record k = mkRec k d stWritten t (pageParity d) := by
    rw [hu, Mem.record, Tab.getD, Mem.withPage, Tab.get_set_self]
    rfl
  have hread : u.mem.read (pageAddr k 0) 4096 = d := by
    rw [hu, ← hlen]
    exact Mem.read_write_self s.mem (pageAddr k 0)
  refine ⟨State.fetchPage_of_intact hlen hreports hrec hread, fun b hb => ?_, fun j hj => ?_, ?_⟩
  · rw [hu]
    refine (Mem.byte_write s.mem (pageAddr k 0) b d).trans (if_neg ?_)
    rwa [hlen]
  · rw [hu, Mem.record, Tab.getD, Mem.withPage, Tab.get_set_of_ne _ _ hj]
    rfl
  · rw [hu]
    exact ⟨rfl, rfl, rfl, rfl, rfl⟩

end Sys2Proof.Machine

namespace Sys2Proof.Machine

/-! ### The correction windows -/

/-- A lane whose window restarts: the limit written meanwhile applies (R368). -/
def Lane.restarted (l : Lane) : Lane := { l with window := 0, rated := false, limit := l.limitNext }

/-- A unit of which every lane's window restarts. -/
def Inst.restarted (x : Inst) : Inst := (List.range 8).foldl (fun x k => x.modLane (laneIdx k) Lane.restarted) x

theorem Inst.restarted_eq (x : Inst) : x.restarted = { x with lanes := x.restarted.lanes } :=
  Inst.modLanes_fold_eq (fun _ => Lane.restarted) _ x

theorem Inst.restarted_lanes (x : Inst) (k : Fin 8) : x.restarted.lanes[k] = Lane.restarted x.lanes[k] :=
  (Inst.modLanes_fold_lanes (fun _ => Lane.restarted) _ x k List.nodup_range fun _ => List.mem_range.1).trans
    (if_pos (List.mem_range.2 k.isLt))

section
variable {s : State}

/-- A window that is over restarts on every lane of the chip (R368, R533). -/
theorem State.restartWindows_of_over (hover : s.cu.ceWindow + 1000000000 ≤ s.now ∨ s.now < s.cu.ceWindow) :
    s.restartWindows = (s.modCu (fun c => { c with ceWindow := s.now })).modInsts (fun _ => Inst.restarted) := by
  have hout : ¬(s.cu.ceWindow ≤ s.now ∧ s.now < s.cu.ceWindow + Config.ceWindow) := fun ⟨hle, hlt⟩ =>
    hover.elim (fun h => Nat.not_lt.2 h hlt) (fun h => Nat.not_lt.2 hle h)
  rw [State.restartWindows]
  exact if_neg hout

/-! ### The scrubber -/

section
variable {i : Fin 16} {idle : Nat} (hservice : inService s.inst[i] = true) (hrest : (s.inst[i]).test.running = false)
  (hgoes : (s.inst[i]).scrub.paused = false) (hidle : (s.inst[i]).scrub.idle ≤ idle)
include hservice hrest hgoes hidle

/-- Nothing keeps the scrubber from a channel that is idle for the threshold (R393, R394). -/
theorem State.scrub_not_barred :
    ¬((!inService s.inst[i]) = true ∨ (s.inst[i]).test.running = true ∨ (s.inst[i]).scrub.paused = true ∨
      idle < (s.inst[i]).scrub.idle) := by
  rw [hservice, hrest, hgoes]
  simpa using hidle

/-- The repair queue goes first (R395, log entry 46). -/
theorem State.scrubRead_of_queued {k : Nat}
    (hk : s.mem.repairQ.find? (fun k => decide (keyInst k = i) && (s.mergeOf k).isNone) = some k) :
    s.scrubRead i idle =
      { s.scrubPage k with mem := { (s.scrubPage k).mem with repairQ := (s.scrubPage k).mem.repairQ.filter (· != k) } } := by
  simp only [State.scrubRead, if_neg (State.scrub_not_barred hservice hrest hgoes hidle), hk]

section
variable (hnone : s.mem.repairQ.find? (fun k => decide (keyInst k = i) && (s.mergeOf k).isNone) = none)
include hnone

/-- With nothing to repair the lap goes on to its next page (R393, R395). -/
theorem State.scrubRead_of_next {k : Nat} (hk : leastPage (s.lapPages i (s.inst[i]).scrub.pos) = some k) :
    s.scrubRead i idle = (s.scrubPage k).passPage i k := by
  simp only [State.scrubRead, if_neg (State.scrub_not_barred hservice hrest hgoes hidle), hnone, hk]

/-- With no page left the lap ends (R393, R397). -/
theorem State.scrubRead_of_last (hlast : s.lapPages i (s.inst[i]).scrub.pos = []) : s.scrubRead i idle = s.endLap i := by
  have hleast : leastPage (s.lapPages i (s.inst[i]).scrub.pos) = none := by
    rw [hlast]
    rfl
  simp only [State.scrubRead, if_neg (State.scrub_not_barred hservice hrest hgoes hidle), hnone, hleast]

end

end

section
variable {i : Fin 16}

/-- A lap that reaches its limit is reported, once (R397). -/
theorem State.lapOver_of_late (hactive : (s.inst[i]).active = true) (hfirst : (s.inst[i]).scrub.lapLate = false)
    (hlate : (s.inst[i]).scrub.lapStart + (s.inst[i]).scrub.lapLimit * 3600000000000 ≤ s.now) :
    s.lapOver i = (s.modScrub i (fun x => { x with lapLate := true })).raise i.val 27 (BitVec.ofNat 64 (s.inst[i]).scrub.pos)
      (BitVec.ofNat 64 (s.inst[i]).scrub.lapStart) := by
  rw [State.lapOver]
  exact if_neg (by simpa using And.intro hactive (And.intro hfirst hlate))

/-! ### In-field tests -/

/-- A scheduled test falls due when the interval has passed (R554). -/
theorem State.fallDue_of_past (hstarted : s.cu.started = true) (hactive : (s.inst[i]).active = true)
    (hpending : (s.inst[i]).test.pending = false) (hrunning : (s.inst[i]).test.running = false)
    (hpast : (if (s.inst[i]).test.last = 0 then (s.inst[i]).test.dueAt else (s.inst[i]).test.last) +
      s.cu.testInterval * 1000000000 ≤ s.now) :
    s.fallDue i = s.modTest i (fun x => { x with pending := true, mode := 0, dueAt := s.now, deferrals := 0 }) := by
  rw [State.fallDue]
  exact if_neg (by simpa [hstarted] using And.intro hactive (And.intro hpending (And.intro hrunning hpast)))

/-- A pending test falls overdue after its deferrals or its four hours (R558). -/
theorem State.fallOverdue_of_past (hpending : (s.inst[i]).test.pending = true) (hfirst : (s.inst[i]).test.overdue = false)
    (hrunning : (s.inst[i]).test.running = false)
    (hpast : 64 ≤ (s.inst[i]).test.deferrals ∨ (s.inst[i]).test.dueAt + 14400000000000 ≤ s.now) :
    s.fallOverdue i = (s.modTest i (fun x => { x with overdue := true })).raise i.val 29
      (BitVec.ofNat 64 (s.inst[i]).test.deferrals) (BitVec.ofNat 64 (s.inst[i]).test.dueAt) := by
  have hdue : ¬((s.inst[i]).test.deferrals < overdueGaps ∧ s.now < (s.inst[i]).test.dueAt + overdueAfter) := fun ⟨hgaps, htime⟩ =>
    hpast.elim (fun h => Nat.not_lt.2 h hgaps) (fun h => Nat.not_lt.2 h htime)
  rw [State.fallOverdue]
  exact if_neg (by simpa using And.intro hpending (And.intro hfirst (And.intro hrunning hdue)))

/-- The results of a test of both parts whose logic part failed (R561). -/
theorem Test.ended_of_failed_logic {x : Test} (hmode : x.mode = 0) (now : Nat) : x.ended false true now =
    { x with lbist := false, mbist := true, okM := true, last := now, running := false, pending := false, overdue := false } := by
  simp [Test.ended, hmode]

/-- The results of a test that passed: the parts that its mode runs (R561). -/
theorem Test.ended_of_passed (x : Test) (now : Nat) : x.ended true true now =
    { x with lbist := x.mode != 2, mbist := x.mode != 1, okL := x.okL || x.mode != 2, okM := x.okM || x.mode != 1, last := now,
             running := false, pending := false, overdue := false } := by
  simp only [Test.ended, Bool.and_true]

/-- Two changes of a unit's test that give the same are one. -/
theorem State.modTest_congr {f g : Test → Test} (h : f (s.inst[i]).test = g (s.inst[i]).test) : s.modTest i f = s.modTest i g := by
  rw [State.modTest, State.modTest, State.modInst, State.modInst, h]

/-- The test of the unit after a change of it. -/
theorem State.modTest_test (f : Test → Test) : ((s.modTest i f).inst[i]).test = f (s.inst[i]).test := by
  rw [State.modTest, State.modInst_inst_self]

/-- A fault of a unit changes its fault registers alone (R497). -/
theorem State.raise_inst (b : Nat) (d0 d1 : Word) :
    s.raise i.val b d0 d1 = s.modInst i (fun x => { x with faults := x.faults.raise i.val (s.mark i.val) b s.now d0 d1 }) := by
  have hi : instIdx i.val = i := Fin.ext (Nat.mod_eq_of_lt i.isLt)
  rw [State.raise, State.raiseAt, State.modFaults, if_pos i.isLt, hi]

/-- The end of a test: the command that ordered it is answered with the parts that passed, and what the test held is served (R486, R561). -/
def State.answerTest (s : State) (i : Fin 16) (status : Nat) : State :=
  (s.endJobs (fun j => j == Job.test i.val) status (flag (s.inst[i]).test.lbist + 2 * flag (s.inst[i]).test.mbist) s.now).retryHeld
    (fun w => w == .test)

/-- A test of both parts whose logic part failed: TEST_FAIL with cause 5, and every coded context stops (R496, R561). -/
def State.failLogic (s : State) (i : Fin 16) : State := ((s.modTest i (fun x => x.ended false true s.now)).failInst i 5 0).stopAll

theorem State.failLogic_lower : ((s.failLogic i).inst[i]).lower = (s.inst[i]).lower := by
  simp only [State.failLogic, State.stopAll, State.failInst, State.raise_inst, State.modTest, State.modInst_inst_self]

theorem State.failLogic_now : (s.failLogic i).now = s.now := by
  simp only [State.failLogic, State.stopAll, State.failInst, State.raise_inst]
  rfl

section
variable (hrunning : (s.inst[i]).test.running = true)
include hrunning

/-- A test that passed leaves its results and is answered (R486, R561). -/
theorem State.endTest_of_passed : s.endTest i true true = (s.modTest i (fun x => x.ended true true s.now)).answerTest i 0 := by
  simp only [State.endTest, hrunning, Bool.not_true, Bool.and_false, Bool.or_false, Bool.false_and, Bool.false_eq_true, if_false,
    State.failParts]
  rfl

/-- A test of both parts whose logic part failed leaves its unit in service, unless that is a lower one under TEST_RUN (R329). -/
theorem State.endTest_of_failed_logic (hmode : (s.inst[i]).test.mode = 0) (hkept : (s.inst[i]).lower = false ∨ s.ordered i = false) :
    s.endTest i false true = (s.failLogic i).answerTest i 0x50 := by
  have hlogic : ((0 : Nat) != 2 && !false) = true := rfl
  have hstays : (s.ordered i && ((s.failLogic i).inst[i]).lower) = false := by
    rw [State.failLogic_lower]
    rcases hkept with h | h
    · rw [h, Bool.and_false]
    · rw [h, Bool.false_and]
  rw [State.failLogic] at hstays
  simp only [State.endTest, hrunning, hmode, State.failParts, hlogic, hstays, Bool.not_true, Bool.and_false, Bool.or_false, Bool.true_and,
    Bool.false_eq_true, if_false, if_true]
  rfl

end

end

end

/-- Settles O57: each event of the upkeep finds nothing that bars it, and takes the branch of its rule. -/
theorem upkeepCommandsComplete : Obligations.UpkeepCommandsComplete := by
  unfold Obligations.UpkeepCommandsComplete
  refine ⟨?_, ?_, ?_, ?_, ?_, ?_, ?_⟩
  · intro e s b hover
    refine ⟨_, congrArg Host.Outcome.next (State.restartWindows_of_over hover), State.modInsts_eq _ _, fun i => ?_⟩
    have hinst := State.modInsts_inst (b.modCu (fun c => { c with ceWindow := b.now })) (fun _ => Inst.restarted) i
    rw [hinst]
    exact ⟨(s.inst[i]).restarted_eq, (s.inst[i]).restarted_lanes⟩
  · intro e i idle s b x waiting hservice hrest hgoes hidle
    refine ⟨fun k hk => ?_, fun k hnone hk => ?_, fun hnone hlast => ?_⟩
    · have h := State.scrubRead_of_queued hservice hrest hgoes hidle hk
      exact congrArg (fun t : State => Host.Outcome.next t.finish) h
    · have h := State.scrubRead_of_next hservice hrest hgoes hidle hnone hk
      exact congrArg (fun t : State => Host.Outcome.next t.finish) h
    · have h := State.scrubRead_of_last hservice hrest hgoes hidle hnone hlast
      exact congrArg (fun t : State => Host.Outcome.next t.finish) h
  · intro e i s b x hactive hfirst hlate
    exact congrArg Host.Outcome.next (State.lapOver_of_late (s := b) hactive hfirst hlate)
  · intro e i s b x hstarted hactive hpending hrunning hpast
    exact congrArg (fun t : State => Host.Outcome.next t.finish) (State.fallDue_of_past (s := b) hstarted hactive hpending hrunning hpast)
  · intro e i s b x hpending hfirst hrunning hpast
    exact congrArg (fun t : State => Host.Outcome.next t.finish) (State.fallOverdue_of_past (s := b) hpending hfirst hrunning hpast)
  · intro e i s b x l m hrunning
    have hended : b.modTest i (fun x => x.ended true true b.now) = b.modTest i (fun x => { x with
        lbist := l, mbist := m, okL := x.okL || l, okM := x.okM || m, last := b.now, running := false, pending := false,
        overdue := false }) := State.modTest_congr (Test.ended_of_passed _ _)
    have h := State.endTest_of_passed (s := b) hrunning
    rw [hended, State.answerTest, State.modTest_test] at h
    exact congrArg (fun t : State => Host.Outcome.next t.finish) h
  · intro e i s b x hrunning hmode hkept u
    have hended : b.modTest i (fun x => x.ended false true b.now) = b.modTest i (fun x => { x with
        lbist := false, mbist := true, okM := true, last := b.now, running := false, pending := false, overdue := false }) :=
      State.modTest_congr (Test.ended_of_failed_logic hmode b.now)
    have hu : b.failLogic i = u := congrArg (fun t : State => (t.failInst i 5 0).stopAll) hended
    have h := State.endTest_of_failed_logic (s := b) hrunning hmode hkept
    rw [State.answerTest, State.failLogic_now, hu] at h
    exact congrArg (fun t : State => Host.Outcome.next t.finish) h

end Sys2Proof.Machine

/-! PROOFS. The power port (R45, R160 to R162, R215, R406, R549 to R551) and remote memory: requests, operations, answers and timeouts
(R384, R436 to R440). -/

namespace Sys2Proof.Machine

/-! ### The power port -/

/-- The peak account changes nothing of the power port but its own intervals (R549). -/
theorem Power.mark_eq (p : Power) (peak : Bool) (now : Nat) : p.mark peak now = { p with spans := (p.mark peak now).spans } := by
  unfold Power.mark
  split <;> split <;> rfl

/-- What a change of the power port makes of the crown unit before the governors take its ceiling (R549). -/
def State.portSet (s : State) (f : Power → Power) : State :=
  s.modCu (fun c => ({ c with power := f c.power } : Cu).mark s.now)

section
variable (s : State) (f : Power → Power)

/-- The governor of an upper unit in service takes the ceiling that a changed power port allows; every other unit stays (R160 to R162). -/
theorem State.setPower_inst (i : Fin 16) :
    (s.setPower f).inst[i] = if (s.inst[i]).lower = true ∨ (!(s.inst[i]).active) = true then s.inst[i] else
      { s.inst[i] with gov := { (s.inst[i]).gov with
        ceiling := (s.portSet f).ceilingNow, boosted := (s.portSet f).cu.boosts, clamped := (s.portSet f).cu.power.clamp,
        rate := Nat.min (s.inst[i]).gov.rate (s.portSet f).ceilingNow } } := by
  rw [State.setPower, State.takeCeiling, State.modInsts_inst]
  rfl

/-- A change of the power port changes the port, the stitch channel's weight and the governors, nothing else (R406). -/
theorem State.setPower_eq :
    s.setPower f = { s with
      inst := (s.setPower f).inst,
      cu := { s.cu with power := (s.portSet f).cu.power, bexliBoost := (s.portSet f).cu.boosts } } := by
  rw [State.setPower, State.takeCeiling, State.modInsts_eq]
  rfl

end

/-- A change of a unit that leaves it as it is changes nothing. -/
theorem State.modInst_of_fixed {s : State} {i : Fin 16} {f : Inst → Inst} (h : f s.inst[i] = s.inst[i]) : s.modInst i f = s := by
  have hset : s.inst.set i.val s.inst[i] = s.inst := Vector.set_getElem_self i.isLt
  rw [State.modInst, h, hset]

/-- The rise of CLAMP meets one unit: its governor's rate is halved, and POWER_CLAMP captures the rate before (R162, R496). -/
def State.clampOne (s : State) (i : Fin 16) : State :=
  if (s.inst[i]).lower = true ∨ (!(s.inst[i]).active) = true then s
  else (s.raise i.val 30 (packWord [(0, (s.inst[i]).gov.rate / 1000000)]) 0).modInst i (fun x =>
    { x with gov := { x.gov with rate := x.gov.rate / 2 } })

/-- What the rise of CLAMP makes of a unit. -/
def Inst.clampHit (i : Fin 16) (start now : Nat) (x : Inst) : Inst :=
  if x.lower = true ∨ (!x.active) = true then x
  else { x with
    gov := { x.gov with rate := x.gov.rate / 2 },
    faults := x.faults.raise i.val start 30 now (packWord [(0, x.gov.rate / 1000000)]) 0 }

theorem State.clampOne_eq (s : State) (i : Fin 16) : s.clampOne i = s.modInst i (Inst.clampHit i (s.mark i.val) s.now) := by
  by_cases hout : (s.inst[i]).lower = true ∨ (!(s.inst[i]).active) = true
  · rw [State.clampOne, if_pos hout, State.modInst_of_fixed (f := Inst.clampHit i _ _) (if_pos hout)]
  · rw [State.clampOne, if_neg hout, State.raise_inst, State.modInst_modInst]
    simp only [State.modInst, Inst.clampHit, if_neg hout]

/-- No unit that CLAMP meets moves the clock or a mark of the capture logs, so all are met at one time. -/
theorem State.clampOne_fold (l : List (Fin 16)) :
    ∀ s : State, l.foldl State.clampOne s = l.foldl (fun t i => t.modInst i (Inst.clampHit i (s.mark i.val) s.now)) s := by
  induction l with
  | nil => exact fun _ => rfl
  | cons i l ih =>
    intro s
    rw [List.foldl_cons, List.foldl_cons, State.clampOne_eq, ih]
    rfl

/-- The chip whose units CLAMP has met. -/
def State.clampMet (s : State) : State := s.modInsts (fun i => Inst.clampHit i (s.mark i.val) s.now)

theorem State.clampMet_eq (s : State) : s.clampMet = { s with inst := s.clampMet.inst } := State.modInsts_eq _ _

theorem State.clampMet_cu (s : State) : s.clampMet.cu = s.cu := by rw [State.clampMet_eq]

theorem State.clampMet_inst (s : State) (i : Fin 16) :
    s.clampMet.inst[i] = Inst.clampHit i (s.mark i.val) s.now s.inst[i] := State.modInsts_inst _ _ i

/-- The port after CLAMP has risen. -/
def Power.clamped (p : Power) : Power := { p with clamp := true }

/-- CLAMP rises: every unit is met, then the governors take the ceiling of the clamped port (R162). -/
theorem State.clampRises_of_unclamped {s : State} (hfree : s.cu.power.clamp = false) :
    s.clampRises = s.clampMet.setPower Power.clamped := by
  have hrises : s.clampRises = (instNums.foldl State.clampOne s).setPower Power.clamped := by
    rw [State.clampRises, if_neg (by rw [hfree]; exact Bool.false_ne_true)]
    rfl
  rw [hrises, State.clampOne_fold]
  rfl

theorem State.portSet_clamped (s : State) :
    (s.portSet Power.clamped).cu.power.clamp = true ∧ (s.portSet Power.clamped).cu.boosts = false ∧
      (s.portSet Power.clamped).ceilingNow = s.normalCeiling / 2 := by
  have hclamp : (s.portSet Power.clamped).cu.power.clamp = true := by
    change (s.cu.power.clamped.mark _ _).clamp = true
    rw [Power.mark_eq]
    rfl
  refine ⟨hclamp, ?_, ?_⟩
  · rw [Cu.boosts, hclamp, Bool.not_true, Bool.and_false]
  · rw [State.ceilingNow, if_pos hclamp]
    rfl

/-- The marks of an event are the units' capture counts before it. -/
theorem State.at_mark (s : State) (e : Ev) (i : Fin 16) : (s.at e).mark i.val = (s.inst[i]).faults.seq := by
  have hi : instIdx i.val = i := Fin.ext (Nat.mod_eq_of_lt i.isLt)
  simp [State.mark, State.faultsOf, hi]

section
variable {s : State} (hfree : s.cu.power.clamp = false)
include hfree

/-- The rise of CLAMP changes the units, the port and the stitch channel's weight, which is boosted no more (R162, R406). -/
theorem State.clampRises_frame :
    s.clampRises.cu.power.clamp = true ∧ s.clampRises.cu = { s.cu with power := s.clampRises.cu.power, bexliBoost := false } ∧
      s.clampRises = { s with inst := s.clampRises.inst, cu := s.clampRises.cu } := by
  obtain ⟨hclamp, hboosts, -⟩ := s.clampMet.portSet_clamped
  have hrises := State.clampRises_of_unclamped hfree
  rw [State.setPower_eq, hboosts, State.clampMet_eq] at hrises
  rw [State.clampMet_eq] at hclamp
  rw [hrises]
  exact ⟨hclamp, rfl, rfl⟩

/-- An active upper unit under CLAMP sends at half its rate, at most at half the normal ceiling, and has raised POWER_CLAMP (R162). -/
theorem State.clampRises_inst_of_governed (i : Fin 16) (hupper : (s.inst[i]).lower = false) (hactive : (s.inst[i]).active = true) :
    s.clampRises.inst[i] = { s.inst[i] with
      gov := { rate := Nat.min ((s.inst[i]).gov.rate / 2) (s.normalCeiling / 2), ceiling := s.normalCeiling / 2, boosted := false,
               clamped := true },
      faults := (s.inst[i]).faults.raise i.val (s.mark i.val) 30 s.now (packWord [(0, (s.inst[i]).gov.rate / 1000000)]) 0 } := by
  obtain ⟨hclamp, hboosts, hceiling⟩ := s.clampMet.portSet_clamped
  have hnormal : s.clampMet.normalCeiling = s.normalCeiling := by
    rw [State.normalCeiling, State.normalCeiling, State.clampMet_cu]
  rw [State.clampRises_of_unclamped hfree, State.setPower_inst, State.clampMet_inst, hclamp, hboosts, hceiling, hnormal]
  generalize s.inst[i] = x at hupper hactive ⊢
  have hin : ¬(x.lower = true ∨ (!x.active) = true) := by simp [hupper, hactive]
  rw [Inst.clampHit, if_neg hin, if_neg hin]

/-- Every other unit keeps its governor and its faults (R162). -/
theorem State.clampRises_inst_of_ungoverned (i : Fin 16) (hout : (s.inst[i]).lower = true ∨ (s.inst[i]).active = false) :
    s.clampRises.inst[i] = s.inst[i] := by
  have hout' : (s.inst[i]).lower = true ∨ (!(s.inst[i]).active) = true := by simpa using hout
  rw [State.clampRises_of_unclamped hfree, State.setPower_inst, State.clampMet_inst, Inst.clampHit, if_pos hout', if_pos hout']

end

/-- Settles O29: each event finds the port in the state that it changes, and the change of the port moves the governors. -/
theorem powerCommandsComplete : Obligations.PowerCommandsComplete := by
  unfold Obligations.PowerCommandsComplete
  refine ⟨?_, ?_, fun e s => rfl, ?_, ?_, ?_⟩
  · intro e s hfree
    obtain ⟨hclamp, hcu, hframe⟩ := State.clampRises_frame (s := s.at e) hfree
    refine ⟨(s.at e).clampRises, rfl, hclamp, fun i => ⟨?_, State.clampRises_inst_of_ungoverned (s := s.at e) hfree i⟩, hframe, hcu⟩
    rintro ⟨hupper, hactive⟩
    have hinst := State.clampRises_inst_of_governed (s := s.at e) hfree i hupper hactive
    rw [State.at_mark] at hinst
    rw [hinst]
    exact ⟨rfl, rfl⟩
  · intro e s hclamp u
    have hfalls : (s.at e).clampFalls = u.modInsts (fun i x => if x.lower ∨ !x.active then x
        else { x with gov := { x.gov with rate := u.sendRate i.val false } }) :=
      if_neg (by simp [hclamp])
    exact congrArg (fun t : State => Host.Outcome.next t.finish) hfalls
  · intro e s hgrant u
    have hfalls : (s.at e).grantFalls = (u.setPower (fun p => { p with grant := false })).keepBoost :=
      if_neg (by simp [hgrant])
    exact congrArg Host.Outcome.next hfalls
  · intro e s hfree hused
    have hreached : (s.at e).peakReached = (s.at e).setPower (fun p => { p with limited := true, boostReq := false }) :=
      if_neg (by simp [hfree, hused])
    exact congrArg Host.Outcome.next hreached
  · intro e s hlimited hused
    have hcleared : (s.at e).peakCleared = ((s.at e).setPower (fun p => { p with limited := false })).findBoost :=
      if_neg (by simp [hlimited, hused])
    exact congrArg Host.Outcome.next hcleared

/-! ### Remote memory -/

/-- A change of a unit's fault registers is a change of that unit's. -/
theorem State.faultsOf_modFaults (s : State) (u : Nat) (g : Faults → Faults) : (s.modFaults u g).faultsOf u = g (s.faultsOf u) := by
  by_cases hu : u < 16
  · rw [State.modFaults, if_pos hu, State.faultsOf, State.faultsOf, if_pos hu, if_pos hu, State.modInst_inst_self]
  · rw [State.modFaults, if_neg hu, State.faultsOf, State.faultsOf, if_neg hu, if_neg hu]
    rfl

/-- A fault raised stands in its unit (R497). -/
theorem State.raise_bit (s : State) (u : Nat) {b : Nat} (hb : b < 34) (d0 d1 : Word) :
    ((s.raise u b d0 d1).faultsOf u).bits.getLsbD b = true := by
  rw [State.raise, State.raiseAt, State.faultsOf_modFaults, Faults.raise]
  simp [hb]

/-- A request that its handle permits leaves for the handle's chip, and is remembered (R437). -/
theorem State.remoteRequest_of_permitted {s : State} {n : Nat} {q : Req}
    (hpermits : s.remoteRefused (s.handle n) q (!q.data.isEmpty) = false)
    (hpair : (s.handle n).keyInv = ~~~(s.handle n).key) :
    s.remoteRequest n q =
      { s.emit (.remoteOp (s.handle n).coord
          { id := s.serial, src := s.cu.fabric.coord, write := !q.data.isEmpty, region := (s.handle n).region, off := q.addr,
            len := q.len, key := (s.handle n).key, data := q.data }) with
        serial := s.serial + 1,
        remotes := s.remotes ++
          [{ id := s.serial, handle := n, write := !q.data.isEmpty, off := q.addr, req := q, at' := s.now }] } := by
  have hsource : ¬srcPadun < q.src := by
    intro hpadun
    have hhost : srcHost < q.src := Nat.lt_trans (by decide) hpadun
    simp [State.remoteRefused, hhost] at hpermits
  have hagrees : (s.handle n).pairOk = true := by rw [Handle.pairOk, hpair, beq_self_eq_true]
  simp only [State.remoteRequest, if_neg hsource, hpermits, hagrees, Bool.not_true, Bool.false_eq_true, if_false]

section
variable {s : State} {op : RemoteOp} {g : Region} (hg : s.region? op.region = some g) (hpair : g.keyInv = ~~~g.key)
include hg hpair

/-- An operation with the region's key that no rule denies is served as a request of PADUN (R438). -/
theorem State.remoteOperation_of_keyed (hkey : g.key ≠ 0) (hmatch : g.key = op.key) (hpermits : s.remoteDenied op g = false) :
    let u : State := { s with serial := s.serial + 1, remoteIn := s.remoteIn ++ [(2 ^ 64 + s.serial, op)] }
    s.remoteOperation op = if op.write then u.serveWrite (remoteReq op g (2 ^ 64 + s.serial)) false
      else u.serveRead (remoteReq op g (2 ^ 64 + s.serial)) := by
  have hkeyed : ¬(g.key = 0 ∨ g.key ≠ op.key) := not_or.2 ⟨hkey, not_not.2 hmatch⟩
  simp only [State.remoteOperation, hg, hpair, ne_eq, not_true_eq_false, if_false, hpermits, Bool.false_eq_true]
  rw [if_neg hkeyed]
  rfl

/-- An operation without the region's key is rejected, and nothing else comes of it (R438). -/
theorem State.remoteOperation_of_unkeyed (hkey : g.key = 0 ∨ g.key ≠ op.key) : s.remoteOperation op = s.rejectOp op false := by
  simp only [State.remoteOperation, hg, hpair, ne_eq, not_true_eq_false, if_false]
  exact if_pos hkey

end

/-- A rejected operation is answered KEY_REJECT, and its serving unit raises the fault of that name (R438, R496). -/
theorem State.rejectOp_effect (s : State) (op : RemoteOp) (pair : Bool) :
    (s.rejectOp op pair).out = .remoteReply op.src op.id 0x16 ⟨[], false⟩ :: s.out ∧ (s.rejectOp op pair).mem = s.mem ∧
      ((s.rejectOp op pair).faultsOf (s.opInst op)).bits.getLsbD 22 = true := by
  refine ⟨?_, ?_, State.raise_bit _ _ (by decide) _ _⟩
  · rw [State.rejectOp, State.raise_eq]
    rfl
  · rw [State.rejectOp, State.raise_eq]
    rfl

section
variable {s : State} {id : Nat} {x : Remote} (hx : s.remoteOf id = some x)
include hx

/-- An answer OK ends the request: a write, or a read with the data and its poison indication (R384, R439, R440). -/
theorem State.remoteAnswer_of_ok (data : RemoteData) :
    s.remoteAnswer id 0 data = (s.dropRemote id).emit
      (if x.write then .remoteDone x.req.id 0 else .readData x.req.id (padTo x.req.len data.bytes) data.mark) := by
  have hok : (0 : Byte).toNat = stOk := rfl
  have haccepted : stOk ≠ stKeyReject := by decide
  simp only [State.remoteAnswer, hx, hok, if_neg haccepted, if_true]
  cases x.write <;> rfl

/-- Two milliseconds without an answer end the request, and its unit raises REMOTE_TIMEOUT (R439, R440). -/
theorem State.remoteTimeout_of_late (hlate : x.at' + 2000000 ≤ s.now) :
    s.remoteTimeout id = State.raise ((s.dropRemote id).emit
        (if x.write then .remoteDone x.req.id 0x43 else .readData x.req.id (poison x.req.len) true))
      (x.handle % 16) fRemote (packWord [(0, x.handle), (16, if x.write then 1 else 0)]) (BitVec.ofNat 64 x.off) := by
  have htime : ¬s.now < x.at' + Config.remoteTime := Nat.not_lt.2 hlate
  simp only [State.remoteTimeout, hx, if_neg htime]
  cases x.write <;> rfl

end

/-- Settles O38: each event takes the branch in which every check of R437 to R440 has passed, or the one that it fails. -/
theorem remoteCommandsComplete : Obligations.RemoteCommandsComplete := by
  unfold Obligations.RemoteCommandsComplete
  refine ⟨?_, ?_, ?_, ?_, ?_⟩
  · intro e h r s b q x hpermits hpair
    exact congrArg Host.Outcome.next (State.remoteRequest_of_permitted (s := b) (q := q) hpermits hpair)
  · intro e op g s b hg hpair hkey hmatch hpermits id u
    have hserved := State.remoteOperation_of_keyed hg hpair hkey hmatch hpermits
    exact congrArg (fun t : State => Host.Outcome.next t.finish) hserved
  · intro e op g s b hg hpair hkey
    have hrejected := State.remoteOperation_of_unkeyed hg hpair hkey
    obtain ⟨hout, hmem, hbit⟩ := State.rejectOp_effect b op false
    have hinst : b.opInst op = (keyInst (offKey g.lower (g.base + op.off))).val := by rw [State.opInst, hg]
    rw [hinst] at hbit
    exact ⟨_, congrArg (fun t : State => Host.Outcome.next t.finish) hrejected, hout, hmem, hbit⟩
  · intro e id data x s hx
    exact congrArg Host.Outcome.next (State.remoteAnswer_of_ok (s := s.at e) hx data)
  · intro e id x s hx hlate
    have hended := State.remoteTimeout_of_late (s := s.at e) hx hlate
    refine ⟨_, congrArg Host.Outcome.next hended, ?_, ?_, ?_, State.raise_bit _ _ (by decide) _ _⟩
    all_goals
      rw [State.raise_eq]
      rfl

end Sys2Proof.Machine

/-! PROOFS. The messages that arrive from other chips: DELTA and the messages of chains (R151 to R156, R204 to R210), of agreements and of
the hatbox (R194, R261, R264, R428), of witnesses and of the storage port (R283, R316, R318), with their answers (R413, R414, R435). -/

namespace Sys2Proof.Machine

/-! ### Messages that arrive -/

/-- A message of a row's own type is acted on, and the event ends (R411). -/
theorem State.arrive_of_type {s t : State} {e : Ev} {m : Wire} {type : Nat} {act : State → State} (htype : m.type = type)
    (hact : act (s.begin e) = t) : s.arrive e m type act = t.finish := by
  have hfits : Wire.fits m type = true := by simp [Wire.fits, htype]
  rw [State.arrive, if_pos hfits, hact]

/-- One that no check of R414 drops as well; after FW_FAULT a DELTA_ACK alone (R30). -/
theorem State.arrive_of_undropped {s t : State} {e : Ev} {src : Coord} {m : Wire} {type : Nat} {act : State → State}
    (htype : m.type = type) (hfw : (s.begin e).cu.fwFault = false ∨ m.type = tDeltaAck) (hdrop : (s.begin e).dropReason src m = none)
    (hact : act (s.begin e) = t) :
    s.arrive e m type (fun s => s.guarded src m act) = t.finish := by
  have hheard : ¬((s.begin e).cu.fwFault = true ∧ m.type ≠ tDeltaAck) := by
    rcases hfw with h | h <;> simp [h]
  refine State.arrive_of_type htype ?_
  rw [State.guarded, if_neg hheard, hdrop]
  exact hact

section
variable {s : State} {src : Coord} {m : Wire}

/-! ### Arriving stitch messages -/

section
variable {gl : Glove} {k : Coded} {r : Region} {idx : Nat}
  (hgl : s.gloveOf m.cCtx = some gl) (hk : s.codedOf m.cCtx = some k)
  (hseat : s.seatAt m.cCtx gl (parityHolder gl.g.n gl.g.m (m.bodyField 0x0D 4) (m.bodyField 0x11 1)) true
    (m.bodyField 0x0D 4 / gl.g.period) = some (r, idx))
include hgl hseat

/-- A DELTA that is no repeat, for a parity stitch that is not under test, is decided by R151. -/
theorem State.deltaMessage_of_first (hfirst : s.repeated src m = false)
    (hrunning : (s.inst[keyInst (r.handKey idx false)]).test.running = false) : s.deltaMessage src m = s.decideDelta src m := by
  simp only [State.deltaMessage, hgl, hfirst, hseat, Bool.false_eq_true, if_false]
  rw [if_neg (by rw [hrunning]; exact Bool.false_ne_true)]

include hk

/-- A DELTA of the open step and attempt is folded while no sweep and no discard runs (R151). -/
theorem State.decideDelta_of_step (hsub : m.sub = 0) (hj : m.bodyField 0x11 1 < gl.g.m) (hstripe : m.bodyField 0x0D 4 < gl.g.stripes)
    (hd : m.bodyField 0x12 1 < gl.g.k) (hstep : m.stepField % 2 ^ 56 = k.c.toNat + 1) (hattempt : m.stepField / 2 ^ 56 = k.attempt)
    (hsweep : k.sweeping = false) (hphase : k.phase ≠ .discarding) :
    s.decideDelta src m =
      s.foldDelta src m gl (parityHolder gl.g.n gl.g.m (m.bodyField 0x0D 4) (m.bodyField 0x11 1)) r idx false := by
  have hplace : ¬(gl.g.m ≤ m.bodyField 0x11 1 ∨ gl.g.stripes ≤ m.bodyField 0x0D 4 ∨ gl.g.k ≤ m.bodyField 0x12 1) := by omega
  have hform : ¬m.sub = 2 := by omega
  have hlate : ¬k.c.toNat + 1 ≤ k.c.toNat := by omega
  have hskew : ¬k.c.toNat + 2 ≤ k.c.toNat + 1 := by omega
  have hheld : ¬(k.sweeping = true ∨ k.phase = .discarding) := by simp [hsweep, hphase]
  simp only [State.decideDelta, hgl, hk, if_neg hplace, hseat, if_neg hform, hstep, if_neg hlate, if_neg hskew, hattempt, if_true,
    if_neg hheld]

end

/-- A DELTA meets the fold entry of its stitch: it is folded in once, and acknowledged (R151, R154, R156). -/
theorem State.foldDelta_of_entry {u : State} {gl : Glove} {holder : Nat} {r : Region} {idx : Nat} {f : Fold}
    (hheld : s.foldFailed m.cCtx r idx = false) (hgot : s.getFold m.cCtx r idx false = (u, .entry f)) :
    s.foldDelta src m gl holder r idx false = if f.mask.getLsbD (m.bodyField 0x12 1) then u.ackDelta src m holder
      else State.ackDelta (u.putFold (keyInst (r.handKey idx false)) { f with
        bytes := xorBytes f.bytes (padTo 4096 m.payload),
        tag := f.tag ^^^ wmul (tagWeight gl.g.tagKey (m.bodyField 0x11 1) (m.bodyField 0x0D 4) (m.bodyField 0x12 1))
          (BitVec.ofNat 64 (m.bodyField 0x13 8) ^^^ BitVec.ofNat 64 (m.stepField % 2 ^ 56)),
        mask := f.mask ||| ((1 : BitVec 32) <<< m.bodyField 0x12 1) }) src m holder := by
  have hfolds : ¬((!false) = true ∧ s.foldFailed m.cCtx r idx = true) := by simp [hheld]
  simp only [State.foldDelta, if_neg hfolds, hgot]

section
variable (hready : s.chainWaits m = false)
include hready

/-- A chain's check request is answered and remembered (R209). -/
theorem State.takeRequest_of_check (hsub : m.sub = 3) : s.takeRequest src m = (s.answerCheck src m).remember src m := by
  simp only [State.takeRequest, hready, hsub, Bool.false_eq_true, if_false, if_true]

/-- A chain's request that this chip serves is remembered (R204). -/
theorem State.takeRequest_of_served {t : State} (hsub : m.sub = 0) (hfirst : s.repeated src m = false) (hruns : s.chainsOver m = false)
    (ht : (if m.chHb then s.contributePiece m else s.contribute m) = t)
    (hserved : t.serial ≠ s.serial ∨ t.stitchQ.length ≠ s.stitchQ.length) : s.takeRequest src m = t.remember src m := by
  have hnoCheck : ¬m.sub = 3 := by omega
  have hacted : ¬(t.serial = s.serial ∧ t.stitchQ.length = s.stitchQ.length) := fun h => hserved.elim (· h.1) (· h.2)
  simp only [State.takeRequest, hready, if_neg hnoCheck, hfirst, hruns, ht, if_neg hacted, Bool.false_eq_true, if_false]

/-- A partial sum is acknowledged, remembered and contributed to (R205). -/
theorem State.takePart_of_sum (hsub : m.sub = 0) (hfirst : s.repeated src m = false)
    (hslot : m.chHb = true → (s.hbSlotStep m.cCtx).isSome = true) :
    s.takePart src m = if m.chHb then ((s.ackChain src m).remember src m).contributePiece m
      else ((s.ackChain src m).remember src m).contribute m := by
  have hserves : ¬(s.chainWaits m = true ∨ m.chHb = true ∧ (s.hbSlotStep m.cCtx).isNone = true) := by
    rintro (hwaits | ⟨hhb, hnone⟩)
    · exact Bool.false_ne_true (hready.symm.trans hwaits)
    · exact absurd (hslot hhb) (by simp [Option.isNone_iff_eq_none.1 hnone])
  simp only [State.takePart, hsub, if_true, hfirst, Bool.false_eq_true, if_false, if_neg hserves]

end

/-- An acknowledgement of a chain's message frees it (R207). -/
theorem State.takePart_of_ack (hsub : m.sub = 1) :
    s.takePart src m = (s.copyAcked src m).answered src m [(tDarnPart, 0), (tDarnDone, 0), (tDarnReq, 0)] := by
  simp only [State.takePart, hsub, if_neg Nat.one_ne_zero, if_true]

/-- The result of a chain whose destination is not under test is acknowledged and ends the chain (R210). -/
theorem State.takeDone_of_chain {c : Chain} (hfirst : s.repeated src m = false) (hc : s.chainNow m = some c)
    (hready : s.destWaits c = false) :
    let d : Chain := { c with result := some (padTo 4096 m.payload, m.solve, m.checkAcc) }
    s.takeDone src m = ((((s.ackChain src m).remember src m).dropSent (fun x => x.ctx == m.cCtx && x.msg.type == tDarnReq &&
      x.msg.sub == 0 && x.msg.chain == m.chain)).modChain c (fun _ => d)).finishChain d := by
  simp only [State.takeDone, hfirst, hc, hready, Bool.false_eq_true, if_false]

end

/-- Settles O59: each message passes the checks of R414, and is handled by the branch that its step, its chain and its repeat leave. -/
theorem stitchMessagesComplete : Obligations.StitchMessagesComplete := by
  unfold Obligations.StitchMessagesComplete
  refine ⟨?_, ?_, ?_, ?_, ?_⟩
  · intro e src m gl k r idx f u s b ctx stripe j d holder unit htype hsub hfw hdrop hfirst hgl hk hj hstripe hd hseat hrunning hstep
      hattempt hsweep hphase hheld hgot tau
    have hact : b.deltaMessage src m = _ := (State.deltaMessage_of_first hgl hseat hfirst hrunning).trans
      ((State.decideDelta_of_step hgl hk hseat hsub hj hstripe hd hstep hattempt hsweep hphase).trans
        (State.foldDelta_of_entry hheld hgot))
    refine ⟨fun hnew => ?_, fun hold => ?_⟩
    · rw [if_neg (by rw [hnew]; exact Bool.false_ne_true)] at hact
      exact congrArg Host.Outcome.next (State.arrive_of_undropped htype (.inl hfw) hdrop hact)
    · rw [if_pos hold] at hact
      exact congrArg Host.Outcome.next (State.arrive_of_undropped htype (.inl hfw) hdrop hact)
  · intro e src m s b htype hdrop
    exact congrArg Host.Outcome.next (State.arrive_of_undropped (act := fun s => s.ackMessage src m) htype (.inr htype) hdrop rfl)
  · intro e src m s b htype hfw hdrop hready
    refine ⟨fun hsub => ?_, ?_⟩
    · exact congrArg Host.Outcome.next
        (State.arrive_of_undropped htype (.inl hfw) hdrop (State.takeRequest_of_check hready hsub))
    · intro hsub hfirst hruns t hserved
      exact congrArg Host.Outcome.next
        (State.arrive_of_undropped htype (.inl hfw) hdrop (State.takeRequest_of_served hready hsub hfirst hruns rfl hserved))
  · intro e src m s b htype hfw hdrop
    refine ⟨?_, fun hsub => ?_⟩
    · intro hsub hfirst hready hslot t
      exact congrArg Host.Outcome.next
        (State.arrive_of_undropped htype (.inl hfw) hdrop (State.takePart_of_sum hready hsub hfirst hslot))
    · exact congrArg Host.Outcome.next (State.arrive_of_undropped htype (.inl hfw) hdrop (State.takePart_of_ack hsub))
  · intro e src m c s b htype hfw hdrop hfirst hc hready d u
    exact congrArg Host.Outcome.next
      (State.arrive_of_undropped htype (.inl hfw) hdrop (State.takeDone_of_chain hfirst hc hready))

/-! ### Arriving messages of agreements, of the hatbox and of the storage port -/

/-- An answer leaves; nothing else of the chip changes. -/
theorem State.reply_eq (s : State) (dst : Coord) (w : Wire) :
    s.reply dst w = { s with loop := (s.reply dst w).loop, out := (s.reply dst w).out } := by
  unfold State.reply State.carry
  split <;> rfl

section
variable (s : State) (dst src : Coord) (w m : Wire)

/-- What is answered and remembered leaves the collectives and the groups as they are. -/
theorem State.collOf_reply_remember (k : CollKey) : ((s.reply dst w).remember src m).collOf k = s.collOf k := by
  rw [State.reply_eq]
  rfl

theorem State.hbOf_reply_remember (ctx : Nat) : ((s.reply dst w).remember src m).hbOf ctx = s.hbOf ctx := by
  rw [State.reply_eq]
  rfl

end

section
variable {s : State} {src : Coord} {m : Wire}

section
variable {c : Coll} (hc : s.collOf m.key = some c)
include hc

/-- A VOTE or CROWN of an accepted key that no check drops is acknowledged, remembered and acted on (R413, R414, R428, R435). -/
theorem State.hearColl_of_accepted (hsub : m.sub = 0) (hlegal : m.legal = true) (hcrc : m.seal.crc = m.crc)
    (hfw : s.cu.fwFault = false) (hdrop : s.collDrop src m c = none) (hfirst : s.repeated src m = false) :
    s.hearColl src m = ((s.ackColl src m).remember src m).actColl m := by
  have haccepted : s.accepted m.key = true := by rw [State.accepted, hc]; rfl
  have hkept : s.keyDrop src m = none := by rw [State.keyDrop, hc]; exact hdrop
  have hintact : ¬(m.seal.crc != m.crc) = true := by simp [hcrc]
  simp only [State.hearColl, hfw, State.collMessage, if_neg hintact, hlegal, hsub, if_neg Nat.zero_ne_one, haccepted, hkept, hfirst,
    Bool.not_true, Bool.false_eq_true, if_false, if_true]

/-- A VOTE gives its member's record to the gatherer (R428). -/
theorem State.actColl_of_vote {r : List Byte} (htype : m.type = tVote) (hphase : c.key.phase ≠ phRestore) (hme : c.me = c.gatherer)
    (hr : Tab.get (pageRecords c.key.phase m.payload) m.cMember = some r) :
    s.actColl m = s.modColl c.key (fun x => { x with recs := Tab.set x.recs m.cMember (cleanRecord c.key.phase false r) }) := by
  have hnoTree : ¬(c.key.phase = phRestore ∧ m.cGlove = 0xFFFF) := fun h => hphase h.1
  simp only [State.actColl, hc, htype, if_true, State.takeCollVote, if_neg hnoTree, hme, ne_eq, not_true_eq_false, if_false, hr]

/-- A CROWN concludes the collective with its records and its block (R428). -/
theorem State.actColl_of_crown (htype : m.type = tCrown) (hphase : c.key.phase ≠ phRestore) :
    s.actColl m = s.conclude c (pageRecords c.key.phase m.payload) (readBlock m.payload) := by
  have hnoTree : ¬(c.key.phase = phRestore ∧ m.cGlove = 0xFFFF) := fun h => hphase h.1
  have hnoVote : ¬m.type = tVote := by rw [htype]; decide
  simp only [State.actColl, hc, if_neg hnoVote, State.takeDecision, if_neg hnoTree]

end

section
variable (hsub : m.sub = 0) (hfirst : s.repeated src m = false)
include hsub hfirst

/-- An ABORT of phase 0 marks the member that it names lost by notice (R194). -/
theorem State.abortMessage_of_loss (htype : m.type = tAbort) (hphase : m.phase = 0) :
    s.abortMessage src m = ((s.reply src (m.answer tAbort 1 (s.myMember m.cCtx false))).remember src m).loseMember m.cCtx
      (m.bodyField 0x0F 1) 3 := by
  have hglove : Wire.toHatbox m = false := by
    rw [Wire.toHatbox, htype, hphase]
    rfl
  simp only [State.abortMessage, hsub, if_neg Nat.zero_ne_one, hfirst, Bool.false_eq_true, if_false, hphase, if_true, hglove]
  rfl

/-- A SEAL is acknowledged, remembered and counted (R264). -/
theorem State.sealMessage_of_first :
    s.sealMessage src m = ((s.reply src (m.answer tSeal 1 (s.myMember m.cCtx true))).remember src m).takeSeal m := by
  simp only [State.sealMessage, hsub, if_neg Nat.zero_ne_one, hfirst, Bool.false_eq_true, if_false]

/-- A WITNESS_DIGEST is acknowledged, remembered and kept (R316, R318). -/
theorem State.digestMessage_of_first :
    s.digestMessage src m = ((s.reply src (m.answer tWitness 1 (s.myMember m.cCtx false))).remember src m).takeWitnessDigest m := by
  simp only [State.digestMessage, hsub, if_neg Nat.zero_ne_one, hfirst, Bool.false_eq_true, if_false]

/-- A HATBOX_PART that is acted on is acknowledged and remembered (R261). -/
theorem State.takeHatbox_of_taken {u : State} (hevac : s.cu.evac = false) (hguard : s.inGuard m.cCtx = false)
    (htaken : s.takeHatboxPart m = (u, true)) :
    s.takeHatbox src m = (u.reply src (m.answer tHatbox 1 (u.myMember m.cCtx true))).remember src m := by
  simp only [State.takeHatbox, hsub, if_neg Nat.zero_ne_one, hfirst, hevac, hguard, or_self, Bool.false_eq_true, if_false, htaken]

end

/-- The last part of a chain is stored as the parity piece of its holder (R261). -/
theorem State.takeHatboxPart_of_last {h : HbGroup} {k : Coded} {c : HbCopy} {j : Nat} (hlast : m.last = true)
    (hh : s.hbOf m.cCtx = some h) (hk : s.codedOf m.cCtx = some k) (hc : h.copy = some c) (hstep : c.step % 4 = m.chStep)
    (hseat : h.g.seatIn h.g.me m.chStripe = .parity j)
    (hrunning : s.testing (h.pieceKey c.slot true (m.chStripe / h.g.period)) = false) :
    s.takeHatboxPart m =
      ((s.storePage (h.pieceKey c.slot true (m.chStripe / h.g.period)) m.payload (pieceTags true m.solve)).modCopy m.cCtx
        (fun c => { c with parity := c.parity + 1 }), true) := by
  simp only [State.takeHatboxPart, hh, hk, hc, hstep, ne_eq, not_true_eq_false, if_false, hlast, if_true, hseat, hrunning,
    Bool.false_eq_true]

/-- A valid SEAL of the copy in progress counts its member toward the quorum (R264). -/
theorem State.takeSeal_of_valid {h : HbGroup} {c : HbCopy} (hh : s.hbOf m.cCtx = some h) (hc : h.copy = some c)
    (hstep : m.stepField = c.step) (hslot : (m.bodyField 0x0D 1 == 1) = c.slot) (hok : sealOk h c.slot m.payload = true)
    (hsealed : sealStep m.payload = c.step) (hmember : field m.payload 0x0C 1 = m.cMember) :
    s.takeSeal m = (s.modCopy m.cCtx (fun c => { c with
      seals := if c.seals.contains m.cMember then c.seals else c.seals ++ [m.cMember] })).checkQuorum m.cCtx := by
  have hvalid : m.stepField = c.step ∧ (m.bodyField 0x0D 1 == 1) = c.slot ∧ sealOk h (m.bodyField 0x0D 1 == 1) m.payload = true ∧
      sealStep m.payload = c.step ∧ field m.payload 0x0C 1 = m.cMember := ⟨hstep, hslot, by rw [hslot]; exact hok, hsealed, hmember⟩
  simp only [State.takeSeal, hh, hc, if_pos hvalid]

section
variable {k : Coded} {j : ImageJob} (hlegal : m.legal = true) (hcrc : m.seal.crc = m.crc) (htype : m.type = tExport)
  (hfw : s.cu.fwFault = false) (hk : s.codedOf m.cCtx = some k) (hj : k.image = some j) (hglove : m.cGlove = 0xFFFF)
  (hmember : m.cMember = 0xFF) (hhandle : m.bodyField 0x05 8 = j.handle.toNat) (hport : m.bodyField 0x17 1 = j.port)
  (hwaiting : j.waiting = some (m.bodyField 0x0D 8, m.bodyField 0x15 2))
include hlegal hcrc htype hfw hk hj hglove hmember hhandle hport hwaiting

/-- The part that a job awaits, from its own storage port: an export takes its acknowledgement, an import its data (R414, R422). -/
theorem State.takeExportPart_of_awaited :
    s.takeExportPart m =
      if m.sub = 1 ∧ (!j.isImport) = true then
        (s.modImage m.cCtx (fun j => { j with waiting := none, todo := j.todo.drop 1 })).checkImage m.cCtx
      else if m.sub = 0 ∧ j.isImport = true then
        ((s.emit (.storage j.port (m.answer tExport 1 k.storageSeat))).takeImageData m.cCtx j
          (slice m.payload 0 (m.bodyField 0x15 2))).checkImage m.cCtx
      else s := by
  have hintact : ¬(m.seal.crc != m.crc) = true := by simp [hcrc]
  have hrow : ¬((!m.legal) = true ∨ m.type ≠ tExport) := by simp [hlegal, htype]
  have hnamed : ¬(m.cGlove ≠ 0xFFFF ∨ m.cMember ≠ 0xFF ∨ m.bodyField 0x05 8 ≠ j.handle.toNat ∨ m.bodyField 0x17 1 ≠ j.port) := by
    simp [hglove, hmember, hhandle, hport]
  simp only [State.takeExportPart, hfw, Bool.false_eq_true, if_neg hintact, if_neg hrow, hk, hj, if_neg hnamed, hwaiting, ne_eq,
    not_true_eq_false, if_false]

end

end

/-- Settles O60: each message passes the checks of R414, is acknowledged and remembered, and has the one effect of its type. -/
theorem agreementMessagesComplete : Obligations.AgreementMessagesComplete := by
  unfold Obligations.AgreementMessagesComplete
  refine ⟨?_, ?_, ?_, ?_, ?_, ?_⟩
  · intro e src m c s b u hsub hlegal hcrc hfw hc hdrop hfirst
    have hheard := State.hearColl_of_accepted hc hsub hlegal hcrc hfw hdrop hfirst
    have hu : u.collOf m.key = some c := (State.collOf_reply_remember b src src _ m m.key).trans hc
    refine ⟨fun r htype hphase hme hr => ?_, fun htype hphase => ?_⟩
    · have hact := hheard.trans (State.actColl_of_vote hu htype hphase hme hr)
      exact congrArg Host.Outcome.next (State.arrive_of_type htype hact)
    · have hact := hheard.trans (State.actColl_of_crown hu htype hphase)
      exact congrArg Host.Outcome.next (State.arrive_of_type htype hact)
  · intro e src m s b htype hsub hphase hfw hdrop hfirst
    exact congrArg Host.Outcome.next
      (State.arrive_of_undropped htype (.inl hfw) hdrop (State.abortMessage_of_loss hsub hfirst htype hphase))
  · intro e src m h k c j s b stripe htype hsub hlast hfw hdrop hfirst hevac hguard hh hk hc hstep hseat hrunning u
    have htaken := State.takeHatboxPart_of_last hlast hh hk hc hstep hseat hrunning
    exact congrArg Host.Outcome.next
      (State.arrive_of_undropped htype (.inl hfw) hdrop (State.takeHatbox_of_taken hsub hfirst hevac hguard htaken))
  · intro e src m h c s b u htype hsub hfw hdrop hfirst hh hc hstep hslot hok hsealed hmember
    have hu : u.hbOf m.cCtx = some h := (State.hbOf_reply_remember b src src _ m m.cCtx).trans hh
    have hact : b.sealMessage src m = _ := (State.sealMessage_of_first hsub hfirst).trans
      (State.takeSeal_of_valid hu hc hstep hslot hok hsealed hmember)
    exact congrArg Host.Outcome.next (State.arrive_of_undropped htype (.inl hfw) hdrop hact)
  · intro e src m s b u n htype hsub hfw hdrop hfirst
    have hheard : b.digestMessage src m = u.takeWitnessDigest m := State.digestMessage_of_first hsub hfirst
    refine ⟨fun hlen => ?_, fun hlen => ?_⟩
    · rw [State.takeWitnessDigest, if_pos hlen] at hheard
      exact congrArg Host.Outcome.next (State.arrive_of_undropped htype (.inl hfw) hdrop hheard)
    · rw [State.takeWitnessDigest, if_neg (by rw [hlen]; exact Bool.false_ne_true)] at hheard
      exact congrArg Host.Outcome.next (State.arrive_of_undropped htype (.inl hfw) hdrop hheard)
  · intro e m k j s b off count htype hlegal hcrc hk hj hglove hfw hmember hhandle hport hwaiting
    have hact := State.takeExportPart_of_awaited hlegal hcrc htype hfw hk hj hglove hmember hhandle hport hwaiting
    refine ⟨fun hsub hexport => ?_, fun hsub himport => ?_⟩
    · rw [if_pos ⟨hsub, by rw [hexport]; rfl⟩] at hact
      exact congrArg Host.Outcome.next (State.arrive_of_type htype hact)
    · rw [if_neg (fun h => Nat.zero_ne_one (hsub.symm.trans h.1)), if_pos ⟨hsub, himport⟩] at hact
      exact congrArg Host.Outcome.next (State.arrive_of_type htype hact)

end Sys2Proof.Machine

/-! PROOFS. The step and the end of an event: what a step takes from the queue, what the end of an event does where nothing waits, and the
state after reset (R492, R501, R511, R515, R539). -/

namespace Sys2Proof.Machine

/-! ### The queue -/

/-- Every command answers a next state, with the queue that it was given. -/
theorem exec_next_of_queue (i : Instr) (s : State) : ∃ t, exec i s = .next t ∧ t.pending = s.pending := by
  by_cases hreset : ∃ e p, i = .chipReset e p
  · obtain ⟨e, p, rfl⟩ := hreset
    obtain ⟨t, ht, hk⟩ := execChipReset_keeps e p s
    exact ⟨t, ht, hk.pending⟩
  by_cases hband : ∃ e, i = .bandAcquire e
  · obtain ⟨e, rfl⟩ := hband
    obtain ⟨t, b, ht, hk, hb⟩ := execBandAcquire_keeps e s
    exact ⟨t, ht, by rcases hb with rfl | rfl <;> exact hk.pending⟩
  · obtain ⟨t, ht, hk⟩ := exec_keeps s i (fun e p h => hreset ⟨e, p, h⟩) (fun e h => hband ⟨e, h⟩)
    exact ⟨t, ht, hk.pending⟩

theorem step_of_cons {s : State} {c : Instr} {rest : List Instr} (h : s.pending = c :: rest) :
    step s = exec c { s with pending := rest } := by
  rw [step, h]

theorem step_of_nil {s : State} (h : s.pending = []) : step s = .next s := by
  rw [step, h]

/-- Settles O1: a step is defined by the front of the queue. -/
theorem stepRunsFrontCommand : Obligations.StepRunsFrontCommand := by
  unfold Obligations.StepRunsFrontCommand
  exact fun _ _ _ => step_of_cons

/-- Settles O2: what every command keeps, it keeps in a next state. -/
theorem everyCommandCompletes : Obligations.EveryCommandCompletes := by
  unfold Obligations.EveryCommandCompletes
  intro c s
  obtain ⟨t, ht, -⟩ := exec_next_of_queue c s
  exact ⟨t, ht⟩

/-- Settles O3: the command runs on the queue's rest and leaves it. -/
theorem stepConsumesOneCommand : Obligations.StepConsumesOneCommand := by
  unfold Obligations.StepConsumesOneCommand
  refine ⟨fun s t c rest hqueue ht => ?_, fun s => step_of_nil⟩
  obtain ⟨u, hu, hpending⟩ := exec_next_of_queue c { s with pending := rest }
  cases hu.symm.trans ((step_of_cons hqueue).symm.trans ht)
  exact hpending

/-! ### The end of a quiet event -/

/-- A fold whose every step leaves the state as it is leaves it as it is. -/
theorem foldl_eq_self {α β : Type} {f : β → α → β} {s : β} {l : List α} (h : ∀ x ∈ l, f s x = s) : l.foldl f s = s := by
  induction l with
  | nil => rfl
  | cons x l ih =>
    obtain ⟨hx, hl⟩ := List.forall_mem_cons.1 h
    rw [List.foldl_cons, hx, ih hl]

/-- A coded context that is found is listed. -/
theorem State.exists_mem_of_codedOf {s : State} {ctx : Nat} {k : Coded} (h : s.codedOf ctx = some k) : ∃ p ∈ s.coded, p.2 = k := by
  obtain ⟨p, hp, hk⟩ := Option.map_eq_some_iff.1 h
  exact ⟨p, List.mem_of_find?_eq_some hp, hk⟩

/-- What a quiet state says of each list that the end of an event works through. -/
structure State.Rests (s : State) : Prop where
  doorbells : s.cu.doorbells = []
  pends : s.pends = []
  kept : s.kept = []
  loop : s.loop = []
  stitchQ : s.stitchQ = []
  colls : s.colls = []
  darns : s.darns = []
  heldRegs : s.heldRegs = []
  heldDeltas : s.heldDeltas = []
  remoteIn : s.remoteIn = []
  boostReq : s.cu.power.boostReq = false
  dueTests : s.dueTests = []
  full : ∀ m ∈ s.mem.merge, m.bytes.length ≠ 4096
  victim : ∀ i ∈ instNums, s.mergeVictim i = none
  fill : ∀ r ∈ s.regions, r.fill.any (fun f => f.todo.isEmpty) = false
  held : ∀ h ∈ s.heldReqs, h.why ≠ .filling ∧ h.why ≠ .fill
  coded : ∀ p ∈ s.coded, p.2.vote = none ∧ p.2.image = none ∧ p.2.lossSeen = false

theorem State.Rests.of_quiet {s : State} (h : s.quiet = true) : s.Rests := by
  simp only [State.quiet, State.mergeRests, State.fillsRest, Bool.and_eq_true, List.isEmpty_iff, List.all_eq_true, bne_iff_ne,
    Bool.not_eq_true', Option.isNone_iff_eq_none] at h
  obtain ⟨⟨⟨⟨⟨⟨⟨⟨⟨⟨⟨⟨⟨⟨hbells, hpends⟩, hkept⟩, hloop⟩, hqueue⟩, hcolls⟩, hdarns⟩, hregs⟩, hdeltas⟩, hremote⟩, hboost⟩, htests⟩, hfull, hvictim⟩,
    hfill, hheld⟩, hcoded⟩ := h
  refine ⟨hbells, hpends, hkept, hloop, hqueue, hcolls, hdarns, hregs, hdeltas, hremote, hboost, htests, hfull, hvictim, hfill, hheld,
    fun p hp => ?_⟩
  obtain ⟨⟨hvote, himage⟩, hloss⟩ := hcoded p hp
  exact ⟨hvote, himage, hloss⟩

/-- No doorbell waits to be acted on. -/
theorem State.actDoorbells_of_nil {s : State} (h : s.cu.doorbells = []) : s.actDoorbells = s := by
  rw [State.actDoorbells, h]
  split
  · rfl
  · exact congrArg (fun l => { s with cu := { s.cu with doorbells := l } }) h.symm

/-- Held requests of other reasons stay held, in their order. -/
theorem State.retryHeld_of_other {s : State} {why : Wait → Bool} (h : ∀ x ∈ s.heldReqs, why x.why = false) : s.retryHeld why = s := by
  have hgo : s.heldReqs.filter (fun x => why x.why) = [] := List.filter_eq_nil_iff.2 fun x hx => by simp [h x hx]
  have hstay : s.heldReqs.filter (fun x => !why x.why) = s.heldReqs := List.filter_eq_self.2 fun x hx => by simp [h x hx]
  rw [State.retryHeld, List.partition_eq_filter_filter, hgo]
  exact congrArg (fun l => { s with heldReqs := l }) hstay

namespace State.Rests

variable {s : State} (h : s.Rests)
include h

/-- No glove has lost content (R198). -/
theorem gradeNow : s.gradeNow = s := by
  have hnone : s.coded.filter (fun p => p.2.lossSeen) = [] := List.filter_eq_nil_iff.2 fun p hp => by
    obtain ⟨-, -, hloss⟩ := h.coded p hp
    simp [hloss]
  rw [State.gradeNow, State.gradeLosses, hnone, List.foldl_nil, ite_self]

/-- No message was kept (R431). -/
theorem takeKept : s.takeKept = s := by
  rw [State.takeKept, h.kept]
  exact congrArg (fun l => { s with kept := l }) h.kept.symm

theorem skewKept : s.skewKept = s := by
  rw [State.skewKept, h.kept]
  rfl

theorem settleDeltas : s.settleDeltas = s := by
  rw [State.settleDeltas, h.heldDeltas]
  rfl

theorem pumpColls : s.pumpColls = s := by
  rw [State.pumpColls, h.colls]
  rfl

/-- No coded context votes. -/
theorem vote {ctx : Nat} {k : Coded} (hk : s.codedOf ctx = some k) : k.vote = none := by
  obtain ⟨p, hp, rfl⟩ := State.exists_mem_of_codedOf hk
  obtain ⟨hvote, -, -⟩ := h.coded p hp
  exact hvote

theorem tryCast (ctx : Nat) : s.tryCast ctx = s := by
  unfold State.tryCast
  split
  · next hk _ => simp only [h.vote hk]
  · rfl

theorem pumpVotes : s.pumpVotes = s := foldl_eq_self fun p _ => by
  rw [State.pumpVote, h.tryCast]
  split
  · next hk _ => simp only [h.vote hk]
  · rfl

theorem retryStitches : s.retryStitches = s := by
  rw [State.retryStitches, h.pends]
  rfl

theorem settleDarns : s.settleDarns = s := by
  rw [State.settleDarns, h.darns]
  rfl

theorem settleWitnesses : s.settleWitnesses = s := by
  rw [State.settleWitnesses, h.darns]
  rfl

/-- No coded context exports an image (R282). -/
theorem yieldExports : s.yieldExports = s := foldl_eq_self fun p hp => by
  obtain ⟨-, himage, -⟩ := h.coded p hp
  simp only [himage]

theorem settleCloses : s.settleCloses = s := by
  rw [State.settleCloses, h.pends]
  rfl

theorem startFree : s.startFree = s := by
  rw [State.startFree, h.dueTests]
  rfl

/-- Neither a darn nor a backlog has asked for boost (R161, R215). -/
theorem keepBoost : s.keepBoost = s := by
  have hdarn : s.boostDarn = false := by simp [State.boostDarn, h.darns]
  rw [State.keepBoost, hdarn, h.boostReq, if_neg Bool.false_ne_true, if_neg Bool.false_ne_true]

theorem pump : s.pump = s := by
  simp only [State.pump, h.takeKept, h.skewKept, h.settleDeltas, h.pumpColls, h.pumpVotes, h.retryStitches, h.settleDarns,
    h.settleWitnesses, h.yieldExports, h.settleCloses, h.startFree, h.keepBoost, ite_self]

/-- No merge entry is full and no buffer holds too many (R389). -/
theorem settleMerge : s.settleMerge = s := by
  have hfull : (s.mem.merge.map (·.page)).foldl (fun s k => s.commitFull k) s = s := foldl_eq_self fun k _ => by
    unfold State.commitFull
    split
    next m _ hm _ => rw [if_neg fun hlen => h.full m (List.mem_of_find?_eq_some hm) hlen.1]
    next => rfl
  have hvictim : instNums.findSome? (fun i => s.mergeVictim i) = none := List.findSome?_eq_none_iff.2 h.victim
  have hsettled : ∀ n, settleEntries n s = s := fun n => by
    cases n with
    | zero => rfl
    | succ n => simp only [settleEntries, hvictim]
  rw [State.settleMerge]
  exact (congrArg (fun t : State => settleEntries t.mem.merge.length t) hfull).trans (hsettled _)

theorem sendWaiting : s.sendWaiting = s := by
  rw [State.sendWaiting, h.stitchQ]
  exact congrArg (fun l => { s with stitchQ := l }) h.stitchQ.symm

/-- No fill has ended, and no request waits for one (R387). -/
theorem settleFills : s.settleFills = s := by
  have hnone : s.regions.filter (fun r => r.fill.any (fun f => f.todo.isEmpty)) = [] := List.filter_eq_nil_iff.2 fun r hr => by
    rw [h.fill r hr]
    exact Bool.false_ne_true
  rw [State.settleFills, hnone]
  exact State.retryHeld_of_other fun x hx => beq_eq_false_iff_ne.2 (h.held x hx).1

/-- No request waits for a darn (R198, R212). -/
theorem releaseFills : s.releaseFills = s := by
  have hwhy : ∀ x ∈ s.heldReqs, (x.why == .fill) = false := fun x hx => beq_eq_false_iff_ne.2 (h.held x hx).2
  rw [State.releaseFills, List.partition_eq_filter_filter, List.filter_eq_nil_iff.2 fun x hx => by simp [hwhy x hx],
    List.filter_eq_self.2 fun x hx => by simp [hwhy x hx]]
  rfl

theorem settleUnits : s.settleUnits = s := by
  rw [State.settleUnits, h.settleMerge, h.sendWaiting, h.settleFills, h.releaseFills]

theorem settleEvicts : s.settleEvicts = s := by
  rw [State.settleEvicts, h.pends]
  rfl

theorem releaseRegs : s.releaseRegs = s := by
  rw [State.releaseRegs, h.heldRegs]
  rfl

theorem answerOps : s.answerOps = s := by
  rw [State.answerOps, h.remoteIn]
  rfl

/-- Each part of the end of an event finds nothing to do. -/
theorem settleAll : s.settleAll = s := by
  rw [State.settleAll, State.actDoorbells_of_nil h.doorbells, h.gradeNow, h.pump, h.gradeNow, h.settleUnits, h.settleEvicts, h.releaseRegs,
    h.answerOps]

/-- No message of the chip to itself waits either, so the first round is the last. -/
theorem finishLoop (n : Nat) : Machine.finishLoop n s = s := by
  cases n with
  | zero => exact h.settleAll
  | succ n => simp only [Machine.finishLoop, h.settleAll, h.loop]

end State.Rests

/-- Settles O9: a quiet state rests, and the end of an event leaves a state that rests. -/
theorem quietEventEnds : Obligations.QuietEventEnds := by
  unfold Obligations.QuietEventEnds
  exact fun s hquiet => (State.Rests.of_quiet hquiet).finishLoop _

/-! ### The state after reset -/

/-- Settles O7: reset lists nothing. -/
theorem resetMeetsInvariants : Obligations.ResetMeetsInvariants := by
  unfold Obligations.ResetMeetsInvariants
  exact ⟨rfl, rfl, by decide, rfl⟩

/-- Every unit's fault registers are reset (R501). -/
theorem State.faultsOf_reset (u : Nat) : State.reset.faultsOf u = Faults.reset := by
  rw [State.faultsOf]
  split
  · simp [State.reset, Inst.reset]
  · rfl

theorem State.inst_reset (i : Fin 16) : State.reset.inst[i] = Inst.reset := by
  simp [State.reset]

/-- No unit is pending, whatever its route. -/
theorem State.irq_reset : State.reset.irq = false := by
  simp [State.irq, State.unitPending, State.faultsOf_reset, Faults.reset]

/-- Settles O10: each register is read from the reset record. -/
theorem resetGivesStatedValues : Obligations.ResetGivesStatedValues := by
  unfold Obligations.ResetGivesStatedValues
  refine ⟨fun u _ => ?_, rfl, State.irq_reset, fun n _ => BitVec.getLsbD_zero, rfl, rfl, rfl, rfl, rfl, rfl, rfl, rfl, rfl, rfl, rfl, rfl, rfl,
    rfl, rfl, rfl, rfl, rfl, rfl, rfl, rfl, rfl, rfl, rfl, fun i => ?_⟩
  · rw [State.faultsOf_reset]
    exact ⟨rfl, rfl, rfl, rfl, rfl⟩
  · rw [State.inst_reset]
    exact ⟨rfl, rfl, rfl⟩

end Sys2Proof.Machine

/-! PROOFS. The fault registers: what a raised fault sets and captures (R497, R504, R505), and the writes that clear, set and rearm them
(R13, R496, R498, R501, R509, R557). -/

namespace Sys2Proof.Machine

/-! ### The fault registers of one unit -/

theorem instIdx_of_lt {u : Nat} (h : u < 16) : (instIdx u).val = u := Nat.mod_eq_of_lt h

/-- A change of a unit's fault registers leaves every other unit's. -/
theorem State.faultsOf_modFaults_of_ne (s : State) {u v : Nat} (g : Faults → Faults) (hu : u ≤ 16) (hv : v ≤ 16) (h : v ≠ u) :
    (s.modFaults u g).faultsOf v = s.faultsOf v := by
  rcases Nat.lt_or_ge u 16 with hu16 | hu16
  · rw [State.modFaults, if_pos hu16, State.faultsOf, State.faultsOf]
    split
    · next hv16 =>
      have hne : instIdx v ≠ instIdx u := fun he => h (by rw [← instIdx_of_lt hv16, he, instIdx_of_lt hu16])
      rw [State.modInst_inst_other _ _ _ _ hne]
    · rfl
  · have hv16 : v < 16 := by omega
    rw [State.modFaults, if_neg (Nat.not_lt.2 hu16), State.faultsOf, State.faultsOf, if_pos hv16, if_pos hv16]
    rfl

/-- The fault registers of a unit after one of its faults. -/
theorem State.faultsOf_raise (s : State) (u b : Nat) (d0 d1 : Word) :
    (s.raise u b d0 d1).faultsOf u = (s.faultsOf u).raise u (s.mark u) b s.now d0 d1 := s.faultsOf_modFaults u _

theorem State.faultsOf_raise_of_ne (s : State) {u v : Nat} (b : Nat) (d0 d1 : Word) (hu : u ≤ 16) (hv : v ≤ 16) (h : v ≠ u) :
    (s.raise u b d0 d1).faultsOf v = s.faultsOf v := s.faultsOf_modFaults_of_ne _ hu hv h

/-! ### The capture log -/

theorem logLength_eq (u : Nat) : logLength u = 16 ∨ logLength u = 64 := by
  unfold logLength
  split
  · exact .inl rfl
  · exact .inr rfl

/-- SEQ numbers run modulo 2^31, which the length of a log divides (R504). -/
theorem mod_seq_mod_logLength (n u : Nat) : n % 2 ^ 31 % logLength u = n % logLength u :=
  Nat.mod_mod_of_dvd n (by rcases logLength_eq u with h | h <;> rw [h] <;> decide)

/-- The log with the captures of `l` under the SEQ numbers from `low + k` on (R504). -/
def logCaptures (u low k : Nat) (l : List Capture) (log : List (Nat × Capture)) : List (Nat × Capture) :=
  (l.zipIdx k).foldl (fun log p => Tab.set log ((low + p.2) % 2 ^ 31 % logLength u) { p.1 with seq := (low + p.2) % 2 ^ 31 }) log

theorem logCaptures_cons (u low k : Nat) (c : Capture) (l : List Capture) (log : List (Nat × Capture)) :
    logCaptures u low k (c :: l) log = logCaptures u low (k + 1) l
      (Tab.set log ((low + k) % 2 ^ 31 % logLength u) { c with seq := (low + k) % 2 ^ 31 }) := rfl

/-- An entry that no capture takes stays. -/
theorem get_logCaptures_of_ne {u low k n : Nat} {l : List Capture} {log : List (Nat × Capture)}
    (h : ∀ i < l.length, n ≠ (low + k + i) % logLength u) : Tab.get (logCaptures u low k l log) n = Tab.get log n := by
  induction l generalizing k log with
  | nil => rfl
  | cons c l ih =>
    have hfirst : n ≠ (low + k) % 2 ^ 31 % logLength u := by
      rw [mod_seq_mod_logLength]
      exact h 0 (Nat.succ_pos _)
    have hrest : ∀ i < l.length, n ≠ (low + (k + 1) + i) % logLength u := fun i hi => by
      have hi' := h (i + 1) (Nat.succ_lt_succ hi)
      rwa [show low + (k + 1) + i = low + k + (i + 1) by omega]
    rw [logCaptures_cons, ih hrest, Tab.get_set_of_ne _ _ hfirst]

/-- Captures that fit in the log each stand in the entry that their SEQ names. -/
theorem get_logCaptures {u low k i : Nat} {l : List Capture} {log : List (Nat × Capture)} (hfit : l.length ≤ logLength u)
    (hi : i < l.length) : Tab.get (logCaptures u low k l log) ((low + k + i) % logLength u) =
      some { l[i] with seq := (low + k + i) % 2 ^ 31 } := by
  induction l generalizing k log i with
  | nil => exact absurd hi (Nat.not_lt_zero i)
  | cons c l ih =>
    have hlen : l.length + 1 ≤ logLength u := hfit
    cases i with
    | zero =>
      have hothers : ∀ j < l.length, (low + k + 0) % logLength u ≠ (low + (k + 1) + j) % logLength u := fun j hj => by
        rcases logLength_eq u with h | h <;> rw [h] at hlen ⊢ <;> omega
      rw [logCaptures_cons, get_logCaptures_of_ne hothers, Nat.add_zero, mod_seq_mod_logLength, Tab.get_set_self]
      rfl
    | succ i =>
      have hnext := ih (k := k + 1) (i := i) (log := Tab.set log ((low + k) % 2 ^ 31 % logLength u) { c with seq := (low + k) % 2 ^ 31 })
        (Nat.le_of_succ_le hlen) (Nat.lt_of_succ_lt_succ hi)
      rw [show low + (k + 1) + i = low + k + (i + 1) by omega] at hnext
      rw [logCaptures_cons, hnext]
      rfl

/-! ### The captures of one command -/

/-- The capture that a unit makes next, under the SEQ number that stands (R503, R504). -/
def Faults.next (f : Faults) (u code stamp : Nat) (d0 d1 : Word) : Capture :=
  { code := code, unit := u, seq := f.seq % 2 ^ 31, stamp := stamp, d0 := d0, d1 := d1 }

/-- A capture placed among those of its command is one more. -/
theorem placeCapture_perm (c : Capture) (l : List Capture) : (placeCapture c l).Perm (c :: l) := by
  have hl : l.takeWhile (fun x => decide (x.code ≤ c.code)) ++ l.dropWhile (fun x => decide (x.code ≤ c.code)) = l :=
    List.takeWhile_append_dropWhile
  have hmiddle := List.perm_middle (a := c) (l₁ := l.takeWhile (fun x => decide (x.code ≤ c.code)))
    (l₂ := l.dropWhile (fun x => decide (x.code ≤ c.code)))
  rwa [hl] at hmiddle

theorem length_placeCapture (c : Capture) (l : List Capture) : (placeCapture c l).length = l.length + 1 :=
  (placeCapture_perm c l).length_eq

theorem placeCapture_cons (c x : Capture) (l : List Capture) :
    placeCapture c (x :: l) = if x.code ≤ c.code then x :: placeCapture c l else c :: x :: l := by
  by_cases hx : x.code ≤ c.code <;> simp [placeCapture, hx]

/-- Captures in ascending code stay so (R504). -/
theorem placeCapture_ascending (c : Capture) {l : List Capture} (h : l.Pairwise (fun x y => x.code ≤ y.code)) :
    (placeCapture c l).Pairwise (fun x y => x.code ≤ y.code) := by
  induction l with
  | nil => exact List.pairwise_singleton _ c
  | cons x l ih =>
    obtain ⟨hx, hl⟩ := List.pairwise_cons.1 h
    rw [placeCapture_cons]
    split
    · next hle =>
      refine List.pairwise_cons.2 ⟨fun y hy => ?_, ih hl⟩
      rcases List.mem_cons.1 ((placeCapture_perm c l).mem_iff.1 hy) with rfl | hy
      · exact hle
      · exact hx y hy
    · next hgt =>
      refine List.pairwise_cons.2 ⟨fun y hy => ?_, h⟩
      rcases List.mem_cons.1 hy with rfl | hy
      · omega
      · exact Nat.le_trans (by omega) (hx y hy)

section
variable {f : Faults} {u m n code stamp : Nat} {d0 d1 : Word} (hseq : f.seq = m + n)
include hseq

/-- The captures since SEQ was `m`, where the count has not passed 2^31. -/
theorem Faults.count_of_seq (hn : n < 2 ^ 31) : f.count m = n := by
  rw [Faults.count, hseq]
  omega

/-- Those that the log still holds stand in the entries of their SEQ numbers (R504). -/
theorem Faults.since_of_seq (hn : n < 2 ^ 31) (hfit : n ≤ logLength u) :
    f.since u m = (List.range n).filterMap (fun i => Tab.get f.log ((m + i) % logLength u)) := by
  have hmin : Nat.min (f.count m) (logLength u) = n := by
    rw [Faults.count_of_seq hseq hn]
    exact Nat.min_eq_left hfit
  have hentry : ∀ i, (f.seq + 2 ^ 31 - n + i) % logLength u = (m + i) % logLength u := fun i => by
    rw [hseq, ← mod_seq_mod_logLength, ← mod_seq_mod_logLength (m + i)]
    exact congrArg (· % logLength u) (by omega)
  simp only [Faults.since, hmin, hentry]

/-- A capture joins those of its command: they stand in the entries from SEQ `m` on (R504). -/
theorem Faults.capture_log (hold : (f.since u m).length = n) :
    (f.capture u m code stamp d0 d1).log = logCaptures u (m + 2 ^ 31) 0
      (placeCapture (f.next u code stamp d0 d1) (f.since u m)) f.log := by
  have hlow : f.seq + 2 ^ 31 + 1 - (n + 1) = m + 2 ^ 31 := by omega
  simp only [Faults.capture, length_placeCapture, hold, hlow]
  rfl

end

/-- A list read off index by index. -/
theorem filterMap_range_eq {α : Type} {g : Nat → Option α} {l : List α} (h : ∀ i < l.length, g i = l[i]?) :
    (List.range l.length).filterMap g = l := by
  induction l using List.reverseRecOn with
  | nil => rfl
  | append_singleton l x ih =>
    have hinit : ∀ i < l.length, g i = l[i]? := fun i hi => by
      rw [h i (by simp; omega), List.getElem?_append_left hi]
    have hlast : g l.length = some x := by
      rw [h l.length (by simp), List.getElem?_concat_length]
    rw [List.length_append, List.length_singleton, List.range_succ, List.filterMap_append, ih hinit]
    simp [hlast]

/-- The captures of a list under the SEQ numbers from `m` on. -/
def numbered (m : Nat) (l : List Capture) : List Capture := l.zipIdx.map (fun p => { p.1 with seq := m + p.2 })

theorem length_numbered (m : Nat) (l : List Capture) : (numbered m l).length = l.length := by simp [numbered]

theorem getElem?_numbered {m i : Nat} {l : List Capture} (hi : i < l.length) :
    (numbered m l)[i]? = some { l[i] with seq := m + i } := by simp [numbered, hi]

/-- What does not read SEQ is the same of each capture. -/
theorem map_numbered {α : Type} {g : Capture → α} (hg : ∀ (c : Capture) (q : Nat), g { c with seq := q } = g c) (m : Nat) (l : List Capture) :
    (numbered m l).map g = l.map g := by
  have hfst : l.map g = (l.zipIdx.map Prod.fst).map g := by rw [List.zipIdx_map_fst]
  rw [hfst, numbered, List.map_map, List.map_map]
  exact List.map_congr_left fun p _ => hg p.1 _

theorem map_seq_numbered (m : Nat) (l : List Capture) : (numbered m l).map (·.seq) = (List.range l.length).map (fun i => m + i) := by
  have hsnd : List.range l.length = l.zipIdx.map Prod.snd := by rw [List.zipIdx_map_snd, List.range_eq_range']
  rw [hsnd, numbered, List.map_map, List.map_map]
  rfl

theorem numbered_ascending {m : Nat} {l : List Capture} (h : l.Pairwise (fun x y => x.code ≤ y.code)) :
    (numbered m l).Pairwise (fun x y => x.code ≤ y.code) := by
  have hcode : (l.map (·.code)).Pairwise (· ≤ ·) := List.pairwise_map.2 h
  rw [← map_numbered (fun _ _ => rfl) m] at hcode
  exact List.pairwise_map.1 hcode

/-- After a capture the command's captures are those before it and the new one, in its place, with SEQ numbers from `m` on (R504). -/
theorem Faults.since_capture {f : Faults} {u m n code stamp : Nat} {d0 d1 : Word} (hseq : f.seq = m + n) (hbound : m + n + 1 < 2 ^ 31)
    (hfit : n < logLength u) (hold : (f.since u m).length = n) :
    (f.capture u m code stamp d0 d1).since u m = numbered m
      (placeCapture (f.next u code stamp d0 d1) (f.since u m)) := by
  have hnext : (f.capture u m code stamp d0 d1).seq = m + (n + 1) := by
    change (f.seq + 1) % 2 ^ 31 = m + (n + 1)
    omega
  rw [Faults.since_of_seq hnext (by omega) hfit, Faults.capture_log hseq hold]
  generalize hall : placeCapture (f.next u code stamp d0 d1) (f.since u m) = all
  have hlen : all.length = n + 1 := by rw [← hall, length_placeCapture, hold]
  have hrange : n + 1 = (numbered m all).length := by rw [length_numbered, hlen]
  rw [hrange]
  refine filterMap_range_eq fun i hi => ?_
  rw [length_numbered] at hi
  have hget := get_logCaptures (u := u) (low := m + 2 ^ 31) (k := 0) (log := f.log) (by omega) hi
  have hentry : (m + 2 ^ 31 + 0 + i) % logLength u = (m + i) % logLength u := by
    rw [← mod_seq_mod_logLength, ← mod_seq_mod_logLength (m + i)]
    exact congrArg (· % logLength u) (by omega)
  have hnumber : (m + 2 ^ 31 + 0 + i) % 2 ^ 31 = m + i := by omega
  rw [hentry, hnumber] at hget
  rw [hget, getElem?_numbered hi]

/-! ### A raised fault -/

/-- The first capture of a command stands in the entry that SEQ names, and no other entry changes (R504). -/
theorem Faults.capture_log_first (f : Faults) (u code stamp : Nat) (d0 d1 : Word) :
    (f.capture u f.seq code stamp d0 d1).log = Tab.set f.log (f.seq % logLength u)
      (f.next u code stamp d0 d1) := by
  have hnone : f.since u f.seq = [] := by
    rw [Faults.since_of_seq (n := 0) rfl (by decide) (Nat.zero_le _)]
    rfl
  have hlow : (f.seq + 2 ^ 31 + 0) % 2 ^ 31 = f.seq % 2 ^ 31 := by omega
  rw [Faults.capture_log (n := 0) rfl (by rw [hnone]; rfl), hnone]
  change Tab.set f.log ((f.seq + 2 ^ 31 + 0) % 2 ^ 31 % logLength u)
    { f.next u code stamp d0 d1 with seq := (f.seq + 2 ^ 31 + 0) % 2 ^ 31 } = _
  rw [hlow, mod_seq_mod_logLength]
  rfl

/-- It takes the first-fault capture only while that is clear (R505). -/
theorem Faults.capture_first_first (f : Faults) (u code stamp : Nat) (d0 d1 : Word) :
    (f.capture u f.seq code stamp d0 d1).first = if f.first = none then
      some (f.next u code stamp d0 d1) else f.first := by
  have hcount : f.count f.seq = 0 := Faults.count_of_seq (n := 0) rfl (by decide)
  simp only [Faults.capture, Faults.firstWith, hcount]
  cases hfirst : f.first with
  | none => rfl
  | some x => simp

/-- Settles O20: a raise is one change of its unit's registers, and the first capture of a command is one entry of the log. -/
theorem raiseSetsBitAndCaptures : Obligations.RaiseSetsBitAndCaptures := by
  unfold Obligations.RaiseSetsBitAndCaptures
  intro s u b d0 d1 hu f c t g
  have hg : g = f.raise u (s.mark u) b s.now d0 d1 := s.faultsOf_raise u b d0 d1
  have ht : t = { s with inst := t.inst, cu := t.cu } := s.raise_eq u b d0 d1
  refine ⟨by rw [hg]; rfl, by rw [hg]; rfl, by rw [hg]; rfl, fun v hv hne => s.faultsOf_raise_of_ne b d0 d1 hu hv hne, by rw [ht],
    by rw [ht], by rw [ht], by rw [ht], by rw [ht], fun hmark => ?_⟩
  have hlog : g.log = Tab.set f.log (f.seq % logLength u) c := by
    rw [hg, hmark]
    exact f.capture_log_first u b s.now d0 d1
  rw [show (if u < 16 then 16 else 64) = logLength u from rfl, hlog, hg, hmark]
  exact ⟨Tab.get_set_self _ _ _, fun n hn => Tab.get_set_of_ne _ _ hn, f.capture_first_first u b s.now d0 d1⟩

section
variable {f : Faults} {m n : Nat} {c x : Capture} (hseq : f.seq = m + n) (hbound : m + n + 1 < 2 ^ 31) (hfirst : f.first = some x)
include hseq hbound hfirst

/-- The first-fault capture that was filled before the command stays (R505). -/
theorem Faults.firstWith_of_before (hbefore : x.seq < m) : f.firstWith m c = x := by
  have hcount : f.count m = n := Faults.count_of_seq hseq (by omega)
  simp only [Faults.firstWith, hfirst, hcount]
  refine if_neg fun h => ?_
  obtain ⟨hin, -⟩ := h
  omega

/-- One that the command filled ends with the lower code (R505). -/
theorem Faults.firstWith_of_since (hle : m ≤ x.seq) (hlt : x.seq < f.seq) :
    f.firstWith m c = if c.code < x.code then { c with seq := x.seq } else x := by
  have hcount : f.count m = n := Faults.count_of_seq hseq (by omega)
  have hin : (x.seq + 2 ^ 31 - m) % 2 ^ 31 < n := by omega
  simp only [Faults.firstWith, hfirst, hcount, hin, true_and]

end

/-- Settles O21: a capture takes its place among those of its command, and the first-fault capture follows the lowest code. -/
theorem capturesOfOneCommandAscend : Obligations.CapturesOfOneCommandAscend := by
  unfold Obligations.CapturesOfOneCommandAscend
  intro s u b d0 d1 hu m f old c hbound hseq hfit hold hascending g new
  have hg : g = f.raise u m b s.now d0 d1 := s.faultsOf_raise u b d0 d1
  have hnew : new = numbered m (placeCapture c old) := by
    have h := Faults.since_capture (code := b) (stamp := s.now) (d0 := d0) (d1 := d1) hseq hbound hfit hold
    exact (congrArg (fun x : Faults => x.since u m) hg).trans h
  have hgseq : g.seq = m + (f.count m + 1) := by
    have h : g.seq = (f.seq + 1) % 2 ^ 31 := by rw [hg]; rfl
    omega
  have hfirst : g.first = some (f.firstWith m c) := by rw [hg]; rfl
  have hlen : (placeCapture c old).length = f.count m + 1 := by rw [length_placeCapture, hold]
  refine ⟨Faults.count_of_seq hgseq (by omega), ?_, ?_, ?_, ?_, fun hnone => ?_, fun x hx hbefore => ?_, fun x hx hle hlt => ?_⟩
  · rw [hnew, length_numbered, hlen]
  · rw [hnew]
    exact numbered_ascending (placeCapture_ascending c hascending)
  · rw [hnew, map_seq_numbered, hlen]
  · rw [hnew, map_numbered (fun _ _ => rfl)]
    exact (placeCapture_perm c old).map _
  · rw [hfirst, Faults.firstWith, hnone]
  · rw [hfirst, Faults.firstWith_of_before hseq hbound hx hbefore]
  · rw [hfirst, Faults.firstWith_of_since hseq hbound hx hle hlt]

/-! ### Writes to the fault registers -/

/-- A change of one unit's fault registers leaves those of the sixteen others. -/
theorem State.faultsOf_modFaults_of_unit (s : State) {u v : Fin 17} (g : Faults → Faults) (h : v ≠ u) :
    (s.modFaults u.val g).faultsOf v.val = s.faultsOf v.val :=
  s.faultsOf_modFaults_of_ne g (Nat.le_of_lt_succ u.isLt) (Nat.le_of_lt_succ v.isLt) fun hv => h (Fin.ext hv)

section
variable {s : State} {u : Fin 17} {o : Nat} {value : Word} {act : State}

/-- A unit that is not under test takes the write (R557). -/
theorem State.writeFaultReg_of_free (hfree : u.val < 16 → (s.inst[instIdx u.val]).test.running = false) :
    s.writeFaultReg u o value act = act := by
  rw [State.writeFaultReg]
  split
  · next hu => rw [State.heldBy, hfree hu, if_neg Bool.false_ne_true]
  · rfl

/-- A unit under test holds it (R557). -/
theorem State.writeFaultReg_of_tested (hu : u.val < 16) (htested : (s.inst[instIdx u.val]).test.running = true) :
    s.writeFaultReg u o value act = { s with heldRegs := s.heldRegs ++ [(instOff (instIdx u.val) o, value)] } := by
  rw [State.writeFaultReg, if_pos hu, State.heldBy, htested, if_pos rfl]

end

/-- A single bit of a word. -/
theorem getLsbD_one_shiftLeft {w n : Nat} (hn : n < w) (b : Nat) : ((1 : BitVec w) <<< b).getLsbD n = decide (n = b) := by
  have hpow : (1 : BitVec w) <<< b = BitVec.twoPow w b := (BitVec.twoPow_eq w b).symm
  rw [hpow, BitVec.getLsbD_twoPow]
  by_cases h : n = b
  · simp [← h, hn]
  · simp [h, Ne.symm h]

/-- A write that clears bits of a unit's fault register spares those raised in the same PCLK (R498). -/
theorem State.clearFaults_bit (s : State) (u : Nat) (bits : Word) (raised : BitVec 34) {b : Nat} (hb : b < 34) :
    ((s.clearFaults u bits raised).faultsOf u).bits.getLsbD b =
      ((s.faultsOf u).bits.getLsbD b && !(bits.getLsbD b && !raised.getLsbD b)) := by
  rw [State.clearFaults, State.faultsOf_modFaults]
  simp [hb]

/-- What differs from a raise in the units' registers alone differs so from the state before it. -/
theorem State.eq_units_of_raise {s t : State} {u b : Nat} {d0 d1 : Word}
    (h : t = { s.raise u b d0 d1 with cu := t.cu, inst := t.inst }) : t = { s with cu := t.cu, inst := t.inst } :=
  h.trans (congrArg (fun x : State => { x with cu := t.cu, inst := t.inst }) (s.raise_eq u b d0 d1))

/-- Faults raised one after another each set their bit, and leave the masks, the other units and all but the registers (R497). -/
theorem State.raises_effect (u : Nat) (hu : u ≤ 16) (l : List Nat) (s : State) :
    let t := l.foldl (fun s b => s.raise u b 0 0) s
    (∀ b < 34, (t.faultsOf u).bits.getLsbD b = ((s.faultsOf u).bits.getLsbD b || decide (b ∈ l))) ∧
      (t.faultsOf u).mask = (s.faultsOf u).mask ∧ (∀ v ≤ 16, v ≠ u → t.faultsOf v = s.faultsOf v) ∧
      t = { s with cu := t.cu, inst := t.inst } := by
  induction l generalizing s with
  | nil => exact ⟨fun _ _ => by simp, rfl, fun _ _ _ => rfl, rfl⟩
  | cons c l ih =>
    obtain ⟨hbits, hmask, hothers, hframe⟩ := ih (s.raise u c 0 0)
    have hraised := s.faultsOf_raise u c 0 0
    refine ⟨fun b hb => ?_, ?_, fun v hv hne => ?_, ?_⟩
    · have hbit : ((s.raise u c 0 0).faultsOf u).bits.getLsbD b = ((s.faultsOf u).bits.getLsbD b || decide (b = c)) := by
        rw [hraised]
        exact (BitVec.getLsbD_or ..).trans (congrArg _ (getLsbD_one_shiftLeft hb c))
      refine (hbits b hb).trans ?_
      rw [hbit, Bool.or_assoc]
      simp
    · exact hmask.trans (by rw [hraised]; rfl)
    · exact (hothers v hv hne).trans (s.faultsOf_raise_of_ne c 0 0 hu hv hne)
    · exact State.eq_units_of_raise hframe

/-- The faults that a write to FAULT_SET raises (R496, R501). -/
theorem decide_mem_setFaults (u b : Nat) (bits : Word) (hb : b < 34) :
    decide (b ∈ (List.range 34).filter (fun b => bits.getLsbD b && raisable u b)) = (bits.getLsbD b && raisable u b) := by
  simp [hb]

/-- One bit written to FAULT_SET raises its one fault. -/
theorem State.setFaults_of_one (s : State) {u b : Nat} (hb : b < 34) (hraisable : raisable u b = true) :
    s.setFaults u ((1 : Word) <<< b) = s.raise u b 0 0 := by
  have hone : (List.range 34).filter (fun n => ((1 : Word) <<< b).getLsbD n && raisable u n) = [b] := by
    have hsame : (List.range 34).filter (fun n => ((1 : Word) <<< b).getLsbD n && raisable u n) = (List.range 34).filter (fun n => n == b) :=
      List.filter_congr fun n hn => by
        rw [getLsbD_one_shiftLeft (Nat.lt_trans (List.mem_range.1 hn) (by decide))]
        by_cases h : n = b
        · subst h; simp [hraisable]
        · simp [h]
    rw [hsame, List.filter_beq, List.count_eq_one_of_mem List.nodup_range (List.mem_range.2 hb)]
    rfl
  rw [State.setFaults, hone]
  rfl

/-- Latches cleared one after another: the latch of an input of the list whose bit is written is clear, and nothing else changes (R509). -/
theorem State.clearLatches_fold (bits : Word) (l : List Nat) (hl : ∀ k ∈ l, k < 8) (s : State) :
    let t := l.foldl (fun s k => if bits.getLsbD k then s.modHwarn (laneIdx k) (fun h => { h with latch := false }) else s) s
    t = { s with cu := { s.cu with hwarn := t.cu.hwarn } } ∧ ∀ n : Fin 8, t.cu.hwarn[n] =
      { s.cu.hwarn[n] with latch := (s.cu.hwarn[n]).latch && !(bits.getLsbD n.val && decide (n.val ∈ l)) } := by
  induction l generalizing s with
  | nil => exact ⟨rfl, fun n => by simp⟩
  | cons k l ih =>
    obtain ⟨hk, hl⟩ := List.forall_mem_cons.1 hl
    cases hbit : bits.getLsbD k with
    | false =>
      obtain ⟨hframe, hlatch⟩ := ih hl s
      simp only [List.foldl_cons, hbit, Bool.false_eq_true, if_false]
      refine ⟨hframe, fun n => (hlatch n).trans ?_⟩
      by_cases hn : n.val = k
      · simp [hn, hbit]
      · simp [hn]
    | true =>
      obtain ⟨hframe, hlatch⟩ := ih hl (s.modHwarn (laneIdx k) (fun h => { h with latch := false }))
      simp only [List.foldl_cons, hbit, if_true]
      refine ⟨hframe, fun n => (hlatch n).trans ?_⟩
      by_cases hn : n.val = k
      · subst hn
        simp [State.modHwarn, laneIdx, hbit, Nat.mod_eq_of_lt hk]
      · have hne : k ≠ n.val := fun h => hn h.symm
        simp [State.modHwarn, laneIdx, Nat.mod_eq_of_lt hk, hn, hne]

/-- Settles O31: each write changes the registers of its one unit, or is held by the unit's test. -/
theorem faultRegisterCommandsComplete : Obligations.FaultRegisterCommandsComplete := by
  unfold Obligations.FaultRegisterCommandsComplete
  refine ⟨?_, ?_, ?_, ?_, ?_, ?_⟩
  · intro e u bits raised s hfree
    have hnext := State.writeFaultReg_of_free (s := s.at e) (u := u) (o := 0x100) (value := bits)
      (act := (s.at e).clearFaults u.val bits raised) hfree
    refine ⟨_, congrArg Host.Outcome.next hnext, fun b hb => (s.at e).clearFaults_bit u.val bits raised hb, ?_,
      fun v hv => State.faultsOf_modFaults_of_unit _ _ hv, State.modFaults_eq _ _ _⟩
    rw [State.clearFaults, State.faultsOf_modFaults]
    rfl
  · intro e u bits s hfree
    have hnext := State.writeFaultReg_of_free (s := s.at e) (u := u) (o := 0x110) (value := bits)
      (act := (s.at e).setFaults u.val bits) hfree
    obtain ⟨hbits, hmask, hothers, hframe⟩ := State.raises_effect u.val (Nat.le_of_lt_succ u.isLt)
      ((List.range 34).filter (fun b => bits.getLsbD b && raisable u.val b)) (s.at e)
    refine ⟨_, congrArg Host.Outcome.next hnext, fun b hb => (hbits b hb).trans ?_, hmask, fun v hv => ?_, hframe⟩
    · rw [decide_mem_setFaults u.val b bits hb]
      rfl
    · exact hothers v.val (Nat.le_of_lt_succ v.isLt) fun h => hv (Fin.ext h)
  · intro e u b s hfree hb hraisable
    have hnext := State.writeFaultReg_of_free (s := s.at e) (u := u) (o := 0x110) (value := (1 : Word) <<< b)
      (act := (s.at e).setFaults u.val ((1 : Word) <<< b)) hfree
    exact congrArg Host.Outcome.next (hnext.trans ((s.at e).setFaults_of_one hb hraisable))
  · intro e u s hfree
    have hnext := State.writeFaultReg_of_free (s := s.at e) (u := u) (o := 0x118) (value := 1 <<< 63)
      (act := (s.at e).rearm u.val) hfree
    refine ⟨_, congrArg Host.Outcome.next hnext, ?_, fun v hv => State.faultsOf_modFaults_of_unit _ _ hv, State.modFaults_eq _ _ _⟩
    rw [State.rearm, State.faultsOf_modFaults]
    rfl
  · intro e u bits raised s i hu htested
    exact ⟨congrArg Host.Outcome.next (State.writeFaultReg_of_tested (s := s.at e) hu htested),
      congrArg Host.Outcome.next (State.writeFaultReg_of_tested (s := s.at e) hu htested),
      congrArg Host.Outcome.next (State.writeFaultReg_of_tested (s := s.at e) hu htested)⟩
  · intro e bits s
    obtain ⟨hframe, hlatch⟩ := State.clearLatches_fold bits (List.range 8) (fun _ => List.mem_range.1) (s.at e)
    refine ⟨_, rfl, fun n => (hlatch n).trans ?_, hframe⟩
    simp

end Sys2Proof.Machine

/-! PROOFS. The firmware and its watchdog (R28, R29, R31, R507, R537), the band input (R177, R542, R566 to R568) and the health inputs (R256,
R562 to R564). -/

namespace Sys2Proof.Machine

/-! ### The firmware and the watchdog -/

section
variable {s : State}

/-- The released CU takes one whole image (R537). -/
theorem State.takeImage_of_whole {image : List Byte} (hreleased : s.cu.released = true) (hstate : s.cu.fw.state = 0)
    (hnone : s.cu.fw.image = none) (hwhole : image.length = 262144) :
    s.takeImage image = s.modCu (fun c => { c with fw := { c.fw with image := some image } }) := by
  rw [State.takeImage]
  exact if_neg (by simp [hreleased, hstate, hnone, hwhole, imageBytes])

/-- The start measures the image and arms the watchdog (R507, R537). -/
theorem State.startFirmware_of_image {image : List Byte} (hstate : s.cu.fw.state = 0) (himage : s.cu.fw.image = some image) :
    s.startFirmware = (s.modCu (fun c => { c with fw := { c.fw with meas := sha384 image, state := 2, service := s.clock } })).completeStart := by
  simp only [State.startFirmware, himage]
  exact if_neg (not_not.2 hstate)

/-- A service restarts the count of a watchdog that runs (R28). -/
theorem State.serviceDog_of_running (hstate : s.cu.fw.state = 2) :
    s.serviceDog = s.modCu (fun c => { c with fw := { c.fw with service := s.clock } }) := by
  rw [State.serviceDog]
  exact if_pos hstate

/-- The CU after FW_FAULT, before the commands that need it are ended (R29). -/
def State.dogFault (s : State) (pc : Word) : State :=
  (s.modCu (fun c => { c with fwFault := true, fw := { c.fw with state := 3 } })).raise 16 31 (BitVec.ofNat 64 s.cu.fw.service) pc

/-- 10 ms without a service raise FW_FAULT and end the commands that need the CU (R28, R31). -/
theorem State.dogBarks_of_late {pc : Word} (hstate : s.cu.fw.state = 2) (hlate : s.cu.fw.service + 10000000 ≤ s.clock) :
    s.dogBarks pc = (s.pends.filter (s.dogFault pc).needsCu).foldl (fun t p => t.post p.cmd 0xFF 0) (s.dogFault pc) := by
  have hpends : (s.dogFault pc).pends = s.pends := by
    rw [State.dogFault, State.raise_eq]
    rfl
  rw [← hpends]
  exact if_neg (not_or.2 ⟨not_not.2 hstate, Nat.not_lt.2 hlate⟩)

end

/-- Settles O24: each event of the firmware finds it in the state that its rule names. -/
theorem firmwareCommandsComplete : Obligations.FirmwareCommandsComplete := by
  unfold Obligations.FirmwareCommandsComplete
  refine ⟨fun e image s hreleased hstate hnone hwhole => ?_, fun e image s hstate himage => ?_, fun e s hstate => ?_,
    fun e pc s hstate hlate => ?_⟩
  · exact congrArg Host.Outcome.next (State.takeImage_of_whole (s := s.at e) hreleased hstate hnone hwhole)
  · exact congrArg (fun t : State => Host.Outcome.next t.finish) (State.startFirmware_of_image (s := s.at e) hstate himage)
  · exact congrArg Host.Outcome.next (State.serviceDog_of_running (s := s.at e) hstate)
  · exact congrArg Host.Outcome.next (State.dogBarks_of_late (s := s.at e) (pc := pc) hstate hlate)

/-! ### The band input -/

/-- The counter may be acquired: for the first time after every unit has ended its training, or to end a band fault (R542, R568). -/
def State.MayAcquire (s : State) : Prop :=
  if s.cu.band.acquired then s.cu.band.fault = true else s.cu.released = true ∧ ∀ i : Fin 16, (s.inst[i]).trainedUp = true

/-- The CU with the band counter acquired. -/
def Cu.acquired (c : Cu) : Cu := { c with band := { c.band with acquired := true, valid := true, fault := false } }

/-- An acquisition takes the input's count and clears FAULT (R542, R568). -/
theorem State.acquireBand_of_may {s : State} {t : Nat} (h : s.MayAcquire) :
    s.acquireBand t = (({ s with clock := t } : State).modCu Cu.acquired).completeStart := by
  have hready : (if s.cu.band.acquired then s.cu.band.fault
      else s.cu.released && instNums.all (fun i => (s.inst[i]).trainedUp)) = true := by
    rw [State.MayAcquire] at h
    split at h
    · next hacquired => rw [if_pos hacquired, h]
    · next hfirst =>
      obtain ⟨hreleased, htrained⟩ := h
      rw [if_neg hfirst, hreleased, Bool.true_and]
      exact List.all_eq_true.2 fun i _ => htrained i
  simp only [State.acquireBand, hready]
  rfl

/-- A fault of a band that had none is raised with the last good count and the count that broke the rule, and the contexts in DECIDED flip
(R177, R566, R567). -/
theorem State.faultBand_of_good {s : State} {bad : Nat} {validFell : Bool} (hacquired : s.cu.band.acquired = true)
    (hgood : s.cu.band.fault = false) :
    s.faultBand bad validFell = (State.raise { s with cu := { s.cu with
      band := { s.cu.band with fault := true, good := s.clock, valid := s.cu.band.valid && !validFell } } } 16 25
        (BitVec.ofNat 64 s.clock) (BitVec.ofNat 64 bad)).flipDecided := by
  have hnow : s.now = s.clock := by rw [State.now, if_pos hacquired]
  rw [State.faultBand]
  simp only [hnow]
  exact if_neg (by simp [hacquired, hgood])

/-- Settles O26: an acquisition that may be made is made, and a fault or a stall of a good band is raised. -/
theorem bandCommandsComplete : Obligations.BandCommandsComplete := by
  unfold Obligations.BandCommandsComplete
  refine ⟨fun e s hmay => ?_, ?_, ?_⟩
  · exact congrArg (fun t : State => Host.Outcome.next t.finish) (State.acquireBand_of_may (s := s.at e) hmay)
  · intro e bad validFell s b hacquired hgood w
    exact congrArg (fun t : State => Host.Outcome.next t.finish) (State.faultBand_of_good hacquired hgood)
  · intro e s b hacquired hgood w
    have hnow : b.now = b.clock := by rw [State.now, if_pos hacquired]
    have hstall : b.stallBand = _ := State.faultBand_of_good (bad := b.now) (validFell := false) hacquired hgood
    rw [hnow, Bool.not_false, Bool.and_true] at hstall
    exact congrArg (fun t : State => Host.Outcome.next t.finish) hstall

/-! ### The health inputs -/

/-- Two changes of one health input are one. -/
theorem State.modHwarn_modHwarn (s : State) (n : Fin 8) (f g : Hwarn → Hwarn) :
    (s.modHwarn n f).modHwarn n g = s.modHwarn n (fun h => g (f h)) := by
  simp [State.modHwarn, State.modCu]

section
variable {s : State} {n : Fin 8}

/-- A rise of an unmasked input latches, and asks every hatbox for a copy unless the input is no trigger (R256, R562). -/
theorem State.hwarnEdge_of_rise (hlow : (s.cu.hwarn[n]).level = false) (hmasked : (s.cu.hwarn[n]).stuck = false)
    (hfw : s.cu.fwFault = false) :
    s.hwarnEdge n true = if s.cu.trigMask.getLsbD n.val then s.modHwarn n (fun h => { h with level := true, since := s.clock, latch := true })
      else (s.modHwarn n (fun h => { h with level := true, since := s.clock, latch := true })).warnHatbox := by
  simp only [State.hwarnEdge, hlow, hmasked, State.modHwarn_modHwarn]
  simp [State.modHwarn, hfw]

/-- A fall of an input moves its level alone (R562). -/
theorem State.hwarnEdge_of_fall (hhigh : (s.cu.hwarn[n]).level = true) :
    s.hwarnEdge n false = s.modHwarn n (fun h => { h with level := false, since := s.clock }) := by
  rw [State.hwarnEdge]
  exact if_neg (by simpa using hhigh)

/-- Ten seconds high mask an input (R564). -/
theorem State.hwarnStuck_of_long (hhigh : (s.cu.hwarn[n]).level = true) (hfree : (s.cu.hwarn[n]).stuck = false)
    (hlong : (s.cu.hwarn[n]).since + 10000000000 ≤ s.clock) :
    s.hwarnStuck n = (s.modHwarn n (fun h => { h with stuck := true })).raise 16 26 (BitVec.ofNat 64 n.val)
      (BitVec.ofNat 64 (s.cu.hwarn[n]).since) := by
  rw [State.hwarnStuck]
  exact if_neg (by simpa [Config.hwarnStuck] using And.intro hhigh (And.intro hfree hlong))

/-- One second low unmasks it (R564). -/
theorem State.hwarnUnstuck_of_long (hlow : (s.cu.hwarn[n]).level = false) (hmasked : (s.cu.hwarn[n]).stuck = true)
    (hlong : (s.cu.hwarn[n]).since + 1000000000 ≤ s.clock) :
    s.hwarnUnstuck n = s.modHwarn n (fun h => { h with stuck := false }) := by
  rw [State.hwarnUnstuck]
  exact if_neg (by simpa [Config.hwarnClear] using And.intro hlow (And.intro hmasked hlong))

end

/-- Settles O28: each event of an input finds the level and the mask that its rule names; a glitch only counts. -/
theorem healthCommandsComplete : Obligations.HealthCommandsComplete := by
  unfold Obligations.HealthCommandsComplete
  refine ⟨fun e n s hlow hfree hfw => ?_, fun e n s hhigh => ?_, fun e n s => rfl, fun e n s hhigh hfree hlong => ?_,
    fun e n s hlow hmasked hlong => ?_⟩
  · exact congrArg Host.Outcome.next (State.hwarnEdge_of_rise (s := s.at e) hlow hfree hfw)
  · exact congrArg Host.Outcome.next (State.hwarnEdge_of_fall (s := s.at e) hhigh)
  · exact congrArg Host.Outcome.next (State.hwarnStuck_of_long (s := s.at e) hhigh hfree hlong)
  · exact congrArg Host.Outcome.next (State.hwarnUnstuck_of_long (s := s.at e) hlow hmasked hlong)

end Sys2Proof.Machine

/-! PROOFS. The register map: the enables of lanes and units (R527 to R530), handles, cuff snapshots and registers held with a complement
(R399, R400, R495, R518, R525, R526). -/

namespace Sys2Proof.Machine

/-! ### A word by its bits -/

/-- The number below 2^n with the bits that `p` gives. -/
def numOfBits (p : Nat → Bool) (n : Nat) : Nat := ((List.range n).map (fun k => if p k then 2 ^ k else 0)).sum

theorem numOfBits_succ (p : Nat → Bool) (n : Nat) : numOfBits p (n + 1) = numOfBits p n + if p n then 2 ^ n else 0 := by
  simp [numOfBits, List.range_succ]

theorem numOfBits_congr {p q : Nat → Bool} {n : Nat} (h : ∀ k < n, p k = q k) : numOfBits p n = numOfBits q n := by
  rw [numOfBits, numOfBits, List.map_congr_left fun k hk => by rw [h k (List.mem_range.1 hk)]]

theorem numOfBits_lt (p : Nat → Bool) (n : Nat) : numOfBits p n < 2 ^ n := by
  induction n with
  | zero => exact Nat.one_pos
  | succ n ih =>
    rw [numOfBits_succ, Nat.pow_succ]
    split <;> omega

theorem testBit_numOfBits (p : Nat → Bool) {n k : Nat} (hk : k < n) : (numOfBits p n).testBit k = p k := by
  induction n with
  | zero => exact absurd hk (Nat.not_lt_zero k)
  | succ n ih =>
    have hlow : (numOfBits p n).testBit n = false := Nat.testBit_lt_two_pow (numOfBits_lt p n)
    rw [numOfBits_succ, Nat.add_comm]
    rcases Nat.lt_or_eq_of_le (Nat.le_of_lt_succ hk) with hlt | rfl
    · rw [← ih hlt]
      split
      · exact Nat.testBit_two_pow_add_gt hlt _
      · rw [Nat.zero_add]
    · cases hp : p k with
      | true => rw [if_pos rfl, Nat.testBit_two_pow_add_eq, hlow, Bool.not_false]
      | false => rw [if_neg Bool.false_ne_true, Nat.zero_add, hlow]

/-- A bit as the register rules write it. -/
theorem bit_numOfBits (p : Nat → Bool) {n k : Nat} (hk : k < n) : (numOfBits p n / 2 ^ k % 2 == 1) = p k := by
  have h := testBit_numOfBits p hk
  rwa [Nat.testBit_eq_decide_div_mod_eq] at h

/-- The bits with one of them set or cleared. -/
def withBit (p : Nat → Bool) (b : Nat) (on : Bool) : Nat → Bool := fun k => if k = b then on else p k

theorem withBit_self (p : Nat → Bool) (b : Nat) (on : Bool) : withBit p b on b = on := if_pos rfl

theorem withBit_of_ne {p : Nat → Bool} {b k : Nat} {on : Bool} (h : k ≠ b) : withBit p b on k = p k := if_neg h

theorem numOfBits_withBit (p : Nat → Bool) {n b : Nat} (on : Bool) (hb : b < n) :
    numOfBits (withBit p b on) n + (if p b then 2 ^ b else 0) = numOfBits p n + if on then 2 ^ b else 0 := by
  induction n with
  | zero => exact absurd hb (Nat.not_lt_zero b)
  | succ n ih =>
    rw [numOfBits_succ, numOfBits_succ]
    rcases Nat.lt_or_eq_of_le (Nat.le_of_lt_succ hb) with hlt | rfl
    · rw [withBit_of_ne (Nat.ne_of_gt hlt)]
      have hprev := ih hlt
      omega
    · have hlow : numOfBits (withBit p b on) b = numOfBits p b := numOfBits_congr fun k hk => withBit_of_ne (Nat.ne_of_lt hk)
      rw [withBit_self, hlow]
      omega

/-! ### PDN_ENABLE -/

/-- What is requested in service: the lanes below 8, and the unit (R527). -/
def Inst.wants (x : Inst) (k : Nat) : Bool := if k < 8 then (x.lanes[laneIdx k]).en.wanted else x.en.wanted

theorem Inst.wants_lane (x : Inst) (k : Fin 8) : x.wants k.val = (x.lanes[k]).en.wanted := by
  have hk : laneIdx k.val = k := Fin.ext (Nat.mod_eq_of_lt k.isLt)
  rw [Inst.wants, if_pos k.isLt]
  exact congrArg (fun j : Fin 8 => (x.lanes[j]).en.wanted) hk

theorem Inst.wants_whole (x : Inst) : x.wants 8 = x.en.wanted := if_neg (Nat.lt_irrefl 8)

/-- PDN_ENABLE of a unit in service reads what is requested (R527). -/
theorem State.instReg_enable {s : State} {i : Fin 16} (hactive : (s.inst[i]).active = true) :
    (s.instReg i 0x008).toNat = numOfBits (s.inst[i]).wants 9 := by
  have hlanes : (s.inst[i]).laneEn = numOfBits (s.inst[i]).wants 8 := by
    rw [Inst.laneEn, if_pos hactive]
    exact congrArg List.sum (List.map_congr_left fun k hk => by rw [Inst.wants, if_pos (List.mem_range.1 hk)])
  have hword : s.instReg i 0x008 = BitVec.ofNat 64 (numOfBits (s.inst[i]).wants 9) := by
    have hreg : s.instReg i 0x008 = packWord [(0, (s.inst[i]).laneEn), (8, flag (s.inst[i]).en.wanted)] := rfl
    rw [hreg, hlanes, numOfBits_succ _ 8, Inst.wants_whole, packWord]
    cases (s.inst[i]).en.wanted <;> simp [flag]
  have hlt := numOfBits_lt (s.inst[i]).wants 9
  rw [hword, BitVec.toNat_ofNat, Nat.mod_eq_of_lt (Nat.lt_trans hlt (by decide))]

/-- A write that changes one bit of it, while no test holds one (R527). -/
theorem State.enableWith_of_none_held {s : State} {i : Fin 16} {b : Nat} (on : Bool) (hactive : (s.inst[i]).active = true)
    (hheld : s.heldRegs = []) (hb : b < 9) : s.enableWith i b on = numOfBits (withBit (s.inst[i]).wants b on) 9 := by
  have hvalue : s.enableWith i b on =
      (if numOfBits (s.inst[i]).wants 9 / 2 ^ b % 2 = 1 then numOfBits (s.inst[i]).wants 9 - 2 ^ b else numOfBits (s.inst[i]).wants 9) +
        if on then 2 ^ b else 0 := by
    simp only [State.enableWith, hheld, State.instReg_enable hactive]
    cases on <;> rfl
  have hbit := bit_numOfBits (s.inst[i]).wants hb
  have hsum := numOfBits_withBit (s.inst[i]).wants on hb
  rw [hvalue]
  cases hp : (s.inst[i]).wants b with
  | true =>
    rw [hp, beq_iff_eq] at hbit
    rw [hp, if_pos rfl] at hsum
    rw [if_pos hbit]
    have hge : 2 ^ b ≤ numOfBits (s.inst[i]).wants 9 := Nat.ge_two_pow_of_testBit ((testBit_numOfBits _ hb).trans hp)
    omega
  | false =>
    rw [hp, beq_eq_false_iff_ne] at hbit
    rw [hp, if_neg Bool.false_ne_true] at hsum
    rw [if_neg hbit]
    omega

/-- An object that is asked for what is already requested stays in its state (R528). -/
theorem Enable.request_wanted (e : Enable) : e.request e.wanted = some e := by
  cases e <;> rfl

/-- A unit with every lane and itself in a given enable state, and the status of the last write clear (R527, R528). -/
def Inst.withEnables (x : Inst) (lane : Fin 8 → Enable) (whole : Enable) : Inst :=
  { x with lanes := Vector.ofFn (fun k => { x.lanes[k] with en := lane k }), en := whole, enBusy := false, enRefused := false }

theorem Inst.withEnables_eq {x : Inst} {lane : Fin 8 → Enable} {whole e : Enable} {l : Vector Lane 8} (he : whole = e)
    (hl : Vector.ofFn (fun k => { x.lanes[k] with en := lane k }) = l) :
    x.withEnables lane whole = { x with lanes := l, en := e, enBusy := false, enRefused := false } := by
  rw [Inst.withEnables, he, hl]

/-- The lanes changed one after another, each to its own state. -/
theorem Inst.modLanes_enables {x : Inst} {en : Nat → Option Enable} {lane : Fin 8 → Enable} (h : ∀ k : Fin 8, en k.val = some (lane k)) :
    (List.range 8).foldl (fun x k => x.modLane (laneIdx k) (fun l => { l with en := (en k).getD l.en })) x =
      { x with lanes := Vector.ofFn (fun k => { x.lanes[k] with en := lane k }) } := by
  have hlanes : ((List.range 8).foldl (fun x k => x.modLane (laneIdx k) (fun l => { l with en := (en k).getD l.en })) x).lanes =
      Vector.ofFn (fun k => { x.lanes[k] with en := lane k }) := Vector.ext fun k hk => by
    have hone := Inst.modLanes_fold_lanes (fun k l => { l with en := (en k).getD l.en }) (List.range 8) x ⟨k, hk⟩ List.nodup_range
      (fun _ => List.mem_range.1)
    rw [if_pos (List.mem_range.2 hk), h ⟨k, hk⟩] at hone
    rw [Vector.getElem_ofFn]
    exact hone
  rw [Inst.modLanes_fold_eq, hlanes]

/-- Changes of a unit that agree on it are one change. -/
theorem State.modInst_congr {s : State} {i : Fin 16} {f g : Inst → Inst} (h : f s.inst[i] = g s.inst[i]) : s.modInst i f = s.modInst i g := by
  rw [State.modInst, State.modInst, h]

/-- A write that R529 does not refuse, and that changes something, takes every object to its next state (R528, R530). -/
theorem State.writeEnable_of_taken {s : State} {i : Fin 16} {v : Nat} {lane : Fin 8 → Enable} {whole : Enable}
    (htaken : s.enableRefused i v = false) (hnew : s.enableAgain i v = false)
    (hlane : ∀ k : Fin 8, ((s.inst[i]).lanes[k]).en.request (v / 2 ^ k.val % 2 == 1) = some (lane k))
    (hwhole : (s.inst[i]).en.request (v / 256 % 2 == 1) = some whole) :
    s.writeEnable i v =
      if (s.inst[i]).en = .off ∧ whole = .on then (s.modInst i (·.withEnables lane whole)).rebuildStale i
      else s.modInst i (·.withEnables lane whole) := by
  have hlane' : ∀ k : Fin 8, ((s.inst[i]).lanes[laneIdx k.val]).en.request (v / 2 ^ k.val % 2 == 1) = some (lane k) := fun k => by
    have hk : laneIdx k.val = k := Fin.ext (Nat.mod_eq_of_lt k.isLt)
    exact (congrArg (fun j : Fin 8 => ((s.inst[i]).lanes[j]).en.request (v / 2 ^ k.val % 2 == 1)) hk).trans (hlane k)
  have hbusy : (List.range 8).any (fun k => (((s.inst[i]).lanes[laneIdx k]).en.request (v / 2 ^ k % 2 == 1)).isNone) = false :=
    List.any_eq_false.2 fun k hk => by
      rw [hlane' ⟨k, List.mem_range.1 hk⟩]
      exact Bool.false_ne_true
  have hnext : s.modInst i (fun x => (List.range 8).foldl
      (fun x k => x.modLane (laneIdx k) (fun l => { l with en :=
        (((s.inst[i]).lanes[laneIdx k]).en.request (v / 2 ^ k % 2 == 1)).getD l.en }))
      { x with en := whole, enBusy := false, enRefused := false }) = s.modInst i (·.withEnables lane whole) :=
    State.modInst_congr (Inst.modLanes_enables (x := { s.inst[i] with en := whole, enBusy := false, enRefused := false }) hlane')
  simp only [State.writeEnable, htaken, hnew, hwhole, hbusy, Option.isNone_some, Bool.or_false, Option.getD_some, hnext,
    Bool.false_eq_true, if_false]
  simp

/-- The write of one bit to a unit in service: the other objects keep their states, and the write is not a further one of what stands
(R466, R528). -/
theorem State.writeEnableBit_of_one {s : State} {i : Fin 16} {b : Nat} {on : Bool} {lane : Fin 8 → Enable} {whole : Enable}
    (hrest : (s.inst[i]).test.running = false) (hactive : (s.inst[i]).active = true) (hheld : s.heldRegs = []) (hb : b < 9)
    (hchange : (s.inst[i]).wants b ≠ on) (htaken : s.enableRefused i (s.enableWith i b on) = false)
    (hlane : ∀ k : Fin 8, ((s.inst[i]).lanes[k]).en.request (withBit (s.inst[i]).wants b on k.val) = some (lane k))
    (hwhole : (s.inst[i]).en.request (withBit (s.inst[i]).wants b on 8) = some whole) :
    s.writeEnableBit i b on =
      if (s.inst[i]).en = .off ∧ whole = .on then (s.modInst i (·.withEnables lane whole)).rebuildStale i
      else s.modInst i (·.withEnables lane whole) := by
  have hvalue := State.enableWith_of_none_held on hactive hheld hb
  have hnew : s.enableAgain i (s.enableWith i b on) = false := by
    have hne : s.enableWith i b on ≠ (s.instReg i 0x008).toNat := fun h => by
      rw [hvalue, State.instReg_enable hactive] at h
      have hbit := congrArg (fun v => v.testBit b) h
      simp only [testBit_numOfBits _ hb, withBit_self] at hbit
      exact hchange hbit.symm
    rw [State.enableAgain, beq_eq_false_iff_ne.2 hne, Bool.false_and]
  rw [State.writeEnableBit, State.heldBy, hrest, if_neg Bool.false_ne_true]
  refine State.writeEnable_of_taken htaken hnew (fun k => ?_) ?_
  · rw [hvalue, bit_numOfBits _ (Nat.lt_succ_of_lt k.isLt)]
    exact hlane k
  · rw [hvalue, show (256 : Nat) = 2 ^ 8 from rfl, bit_numOfBits _ (by decide)]
    exact hwhole

section
variable {s : State} {i : Fin 16} {on : Bool} (hrest : (s.inst[i]).test.running = false) (hactive : (s.inst[i]).active = true)
  (hheld : s.heldRegs = [])
include hrest hactive hheld

/-- A lane whose bit changes goes to its next state, and nothing else of its unit does (R528). -/
theorem State.writeEnableBit_of_lane {k : Fin 8} {a e : Enable} (hk : ((s.inst[i]).lanes[k]).en = a) (hchange : a.wanted ≠ on)
    (htaken : s.enableRefused i (s.enableWith i k.val on) = false) (hnext : a.request on = some e) :
    s.writeEnableBit i k.val on = s.modInst i (fun x =>
      { x with lanes := x.lanes.set k.val { x.lanes[k] with en := e }, enBusy := false, enRefused := false }) := by
  have hlane : ∀ j : Fin 8, ((s.inst[i]).lanes[j]).en.request (withBit (s.inst[i]).wants k.val on j.val) =
      some (if j = k then e else ((s.inst[i]).lanes[j]).en) := fun j => by
    by_cases hj : j = k
    · rw [hj, withBit_self, if_pos rfl, hk, hnext]
    · rw [withBit_of_ne fun h => hj (Fin.ext h), Inst.wants_lane, Enable.request_wanted, if_neg hj]
  have hwhole : (s.inst[i]).en.request (withBit (s.inst[i]).wants k.val on 8) = some (s.inst[i]).en := by
    rw [withBit_of_ne (Nat.ne_of_gt k.isLt), Inst.wants_whole, Enable.request_wanted]
  have hstays : ¬((s.inst[i]).en = .off ∧ (s.inst[i]).en = .on) := fun ⟨hoff, hon⟩ => by
    rw [hoff] at hon
    cases hon
  rw [State.writeEnableBit_of_one hrest hactive hheld (Nat.lt_succ_of_lt k.isLt) (by rwa [Inst.wants_lane, hk]) htaken hlane hwhole,
    if_neg hstays]
  refine State.modInst_congr (Inst.withEnables_eq rfl (Vector.ext fun j hj => ?_))
  rw [Vector.getElem_ofFn, Vector.getElem_set]
  by_cases h : k.val = j
  · subst h
    simp
  · simp [h, Fin.ext_iff, Ne.symm h]

/-- A unit whose bit changes goes to its next state, its lanes keep theirs, and a return from OFF rebuilds its stale pages (R329, R530). -/
theorem State.writeEnableBit_of_whole {a e : Enable} (hi : (s.inst[i]).en = a) (hchange : a.wanted ≠ on)
    (htaken : s.enableRefused i (s.enableWith i 8 on) = false) (hnext : a.request on = some e) :
    s.writeEnableBit i 8 on =
      if a = .off ∧ e = .on then
        (s.modInst i (fun x => { x with en := e, enBusy := false, enRefused := false })).rebuildStale i
      else s.modInst i (fun x => { x with en := e, enBusy := false, enRefused := false }) := by
  have hlane : ∀ j : Fin 8, ((s.inst[i]).lanes[j]).en.request (withBit (s.inst[i]).wants 8 on j.val) =
      some ((s.inst[i]).lanes[j]).en := fun j => by
    rw [withBit_of_ne (Nat.ne_of_lt j.isLt), Inst.wants_lane, Enable.request_wanted]
  have hwhole : (s.inst[i]).en.request (withBit (s.inst[i]).wants 8 on 8) = some e := by rw [withBit_self, hi, hnext]
  have hmod : s.modInst i (·.withEnables (fun j => ((s.inst[i]).lanes[j]).en) e) =
      s.modInst i (fun x => { x with en := e, enBusy := false, enRefused := false }) := State.modInst_congr
    (Inst.withEnables_eq rfl (Vector.ext fun j hj => by rw [Vector.getElem_ofFn]; rfl))
  rw [State.writeEnableBit_of_one hrest hactive hheld (by decide) (by rwa [Inst.wants_whole, hi]) htaken hlane hwhole, hmod, hi]

end

/-- The end of a stop: OFF, or ON where the object was deferred (R528, R530). -/
def Enable.stopped : Enable → Enable
  | .stopping => .off
  | .deferred => .on
  | e => e

theorem Enable.stopped_of_settled {e : Enable} (hstopping : e ≠ .stopping) (hdeferred : e ≠ .deferred) : e.stopped = e := by
  cases e with
  | off | on => rfl
  | stopping => exact absurd rfl hstopping
  | deferred => exact absurd rfl hdeferred

/-- The end of a lane's stop (R528). -/
theorem State.laneStopped_eq (s : State) (i : Fin 16) (k : Fin 8) :
    s.laneStopped i k = s.modInst i (fun x => { x with lanes := x.lanes.set k.val { x.lanes[k] with en := (x.lanes[k]).en.stopped } }) := by
  have hlane : ∀ l : Lane, (if l.en = .stopping then { l with en := .off } else if l.en = .deferred then { l with en := .on } else l) =
      { l with en := l.en.stopped } := fun l => by
    split
    · next h => rw [h, Enable.stopped]
    split
    · next h => rw [h, Enable.stopped]
    · next hstopping hdeferred => rw [Enable.stopped_of_settled hstopping hdeferred]
  exact State.modInst_congr (by rw [Inst.modLane, hlane])

/-- The end of a unit's stop, once its tracked transfers have completed (R530). -/
theorem State.instStopped_of_idle {s : State} {i : Fin 16} (hidle : s.tracked i = 0) :
    s.instStopped i = s.modInst i (fun x => { x with en := x.en.stopped }) := by
  rw [State.instStopped, if_neg (not_not.2 hidle)]
  refine State.modInst_congr ?_
  split
  · next h => rw [h, Enable.stopped]
  split
  · next h => rw [h, Enable.stopped]
  · next hstopping hdeferred => rw [Enable.stopped_of_settled hstopping hdeferred]

/-- Settles O32: a write that changes one bit takes its one object to the next state, and the end of a stop takes it out of STOPPING. -/
theorem enableCommandsComplete : Obligations.EnableCommandsComplete := by
  unfold Obligations.EnableCommandsComplete
  refine ⟨?_, ?_, ?_, ?_, fun e i k s => ?_, fun e i s hidle => ?_⟩
  · intro e i k s x hrest hactive hheld hon htaken
    have hnext := State.writeEnableBit_of_lane (s := s.at e) hrest hactive hheld hon (by decide) htaken rfl
    exact congrArg Host.Outcome.next hnext
  · intro e i k s x hrest hactive hheld hoff htaken
    rcases hoff with hoff | hstopping
    · change (((s.at e).inst[i]).lanes[k]).en = .off at hoff
      have hnext := State.writeEnableBit_of_lane (s := s.at e) hrest hactive hheld hoff (by decide) htaken rfl
      refine congrArg Host.Outcome.next (hnext.trans (State.modInst_congr ?_))
      rw [if_pos hoff]
    · change (((s.at e).inst[i]).lanes[k]).en = .stopping at hstopping
      have hnext := State.writeEnableBit_of_lane (s := s.at e) hrest hactive hheld hstopping (by decide) htaken rfl
      refine congrArg Host.Outcome.next (hnext.trans (State.modInst_congr ?_))
      rw [if_neg (by rw [hstopping]; decide)]
  · intro e i s x hrest hactive hheld hon htaken
    have hnext := State.writeEnableBit_of_whole (s := s.at e) hrest hactive hheld hon (by decide) htaken rfl
    exact congrArg Host.Outcome.next hnext
  · intro e i s x hrest hactive hheld hoff htaken
    have hnext := State.writeEnableBit_of_whole (s := s.at e) hrest hactive hheld hoff (by decide) htaken rfl
    exact congrArg Host.Outcome.next hnext
  · refine congrArg Host.Outcome.next (((s.at e).laneStopped_eq i k).trans (State.modInst_congr ?_))
    cases ((s.inst[i]).lanes[k]).en <;> rfl
  · refine congrArg Host.Outcome.next ((State.instStopped_of_idle (s := s.at e) hidle).trans (State.modInst_congr ?_))
    cases (s.inst[i]).en <;> rfl

/-! ### Handles -/

/-- A handle entry with one of its words written (R525). -/
def Handle.setWord (x : Handle) (w : Fin 4) (v : Word) : Handle :=
  if w = 0 then { x with attr := v &&& 0xB0FFFFFFFFFFFFFF } else if w = 1 then { x with target := v }
  else if w = 2 then { x with key := v } else { x with keyInv := v }

/-- VALID is a field of H_ATTR that exists (R525). -/
theorem getLsbD_attrMask (v : Word) : (v &&& attrMask).getLsbD 63 = v.getLsbD 63 := by
  have hmask : attrMask.getLsbD 63 = true := by decide
  rw [BitVec.getLsbD_and, hmask, Bool.and_true]

section
variable {s : State} {n : Nat}

/-- A word of an invalid handle is written as it is given, where a target keeps its range and a handle that becomes valid holds a key with its
complement (R493, R525, R526). -/
theorem State.writeHandle_of_invalid {w : Fin 4} {v : Word} (hinvalid : (s.handle n).valid = false)
    (htarget : w = 1 → v.toNat % 2 ^ 48 ≤ 2 ^ 37) (hkeyed : w = 0 → v.getLsbD 63 = true → (s.handle n).keyInv = ~~~(s.handle n).key) :
    s.writeHandle n w.val v = s.modCu (fun c => { c with handles := Tab.set c.handles n ((s.handle n).setWord w v) }) := by
  match w with
  | 0 =>
    have hpair : (v.getLsbD 63 && !(s.handle n).pairOk) = false := by
      cases hv : v.getLsbD 63 with
      | false => rfl
      | true => rw [Handle.pairOk, hkeyed rfl hv, beq_self_eq_true, Bool.not_true, Bool.and_false]
    simp only [State.writeHandle, hinvalid, getLsbD_attrMask, hpair, Bool.false_and]
    rfl
  | 1 =>
    simp only [State.writeHandle, hinvalid]
    exact if_neg (Nat.not_lt.2 (htarget rfl))
  | 2 | 3 =>
    simp only [State.writeHandle, hinvalid]
    rfl

theorem State.handle_set_self (x : Handle) : (s.modCu (fun c => { c with handles := Tab.set c.handles n x })).handle n = x := by
  rw [State.handle, Tab.getD]
  exact congrArg (fun o => o.getD Handle.reset) (Tab.get_set_self s.cu.handles n x)

theorem State.handle_set_of_ne {j : Nat} (x : Handle) (h : j ≠ n) :
    (s.modCu (fun c => { c with handles := Tab.set c.handles n x })).handle j = s.handle j := by
  rw [State.handle, State.handle, Tab.getD, Tab.getD]
  exact congrArg (fun o => o.getD Handle.reset) (Tab.get_set_of_ne s.cu.handles x h)

end

/-! ### Registers of a context block -/

section
variable {s : State} {b : Fin 4} {k : Coded} (hk : Tab.get s.coded b.val = some k)
include hk

/-- A read of CU_CTX_CUFF0 takes a snapshot of a cuff record that passes R91, and answers its first word (R518). -/
theorem State.snapshotCuff_of_ok (hok : ∀ r, k.ownCuff = some r → cuffOk r = true) :
    s.snapshotCuff b.val = (s.modCoded k.ctx (fun x => { x with snapshot := padTo 256 (k.ownCuff.getD []) })).emit
      (.regValue (0x1100 + 0x200 * b.val) (BitVec.ofNat 64 (field (padTo 256 (k.ownCuff.getD [])) 0 8))) := by
  have hgood : k.ownCuff.any (fun r => !cuffOk r) = false := by
    cases hr : k.ownCuff with
    | none => rfl
    | some r => simp [hok r hr]
  have hoff : 0x1000 + 0x200 * b.val + 0x100 = 0x1100 + 0x200 * b.val := by omega
  simp only [State.snapshotCuff, hk, hgood, hoff, Bool.false_eq_true, if_false]

/-- C of a context block is broken where it disagrees with its complement (R399, R495). -/
theorem State.pairBroken_of_c (hbroken : k.cInv ≠ ~~~k.c) : s.pairBroken (0x1008 + 0x200 * b.val) = some (2, k.ctx, 0) := by
  have hb := b.isLt
  have hrange : 0x1000 ≤ 0x1008 + 0x200 * b.val ∧ 0x1008 + 0x200 * b.val < 0x1800 := by omega
  have hblock : (0x1008 + 0x200 * b.val - 0x1000) / 0x200 = b.val := by omega
  have hreg : (0x1008 + 0x200 * b.val) % 0x200 = 8 := by omega
  rw [State.pairBroken, if_pos hrange, hblock, hk]
  exact if_pos ⟨hreg, hbroken⟩

end

/-- A register whose pair agrees, or that has none, reads its value (R495). -/
theorem State.readPaired_of_agreeing {s : State} {off : Nat} (h : s.pairBroken off = none) :
    s.readPaired off = s.emit (.regValue off (s.readReg off)) := by
  rw [State.readPaired, h]

/-- A C or S that disagrees reads all ones and stops its context (R400, R495). -/
theorem State.readPaired_of_broken_step {s : State} {off ctx d1 : Nat} (h : s.pairBroken off = some (2, ctx, d1)) :
    s.readPaired off = (s.stopCtx ctx 2).emit (.regValue off (~~~(0 : Word))) := by
  rw [State.readPaired, h]
  rfl

/-- Settles O33: an invalid handle takes the word, and a read finds the record or the pair as its hypothesis says. -/
theorem handleAndPairCommandsComplete : Obligations.HandleAndPairCommandsComplete := by
  unfold Obligations.HandleAndPairCommandsComplete
  refine ⟨?_, ?_, ?_, ?_⟩
  · intro e h w v s x hinvalid htarget hkeyed
    have hnext := State.writeHandle_of_invalid (s := s.at e) (n := h.val) hinvalid htarget hkeyed
    exact ⟨_, congrArg Host.Outcome.next hnext, rfl, State.handle_set_self _, fun n hn => State.handle_set_of_ne _ hn⟩
  · intro e b k s u hk hok
    exact congrArg (fun t : State => Host.Outcome.next t.finish) (State.snapshotCuff_of_ok (s := u) hk hok)
  · intro e off s u hagrees
    exact congrArg (fun t : State => Host.Outcome.next t.finish) (State.readPaired_of_agreeing (s := u) hagrees)
  · intro e b k s u hk hbroken
    have hread := State.readPaired_of_broken_step (State.pairBroken_of_c (s := u) hk hbroken)
    exact congrArg (fun t : State => Host.Outcome.next t.finish) hread

end Sys2Proof.Machine

/-! PROOFS. The commands of contexts (R400, R470, R471), of the chip's own service (R393, R454, R455, R468, R486 to R488, R520), and the command
rings (R31, R446 to R466, R543, R577). -/

namespace Sys2Proof.Machine

/-! ### CTX_OPEN and CTX_CLOSE -/

section
variable {s : State} {c : Cmd}

/-- The coded context that CTX_OPEN makes, stopped where the CU has stopped its number before (R400, R470). -/
def State.openedCoded (s : State) (c : Cmd) : Coded :=
  { Coded.opened c.ctx (BitVec.ofNat 64 (c.u64 32)) (BitVec.ofNat 128 (field c.bytes 16 16)) with
    stopped := s.cu.stoppedCtxs.contains c.ctx }

section
variable (hfirst : ∀ p ∈ s.pends, p.job = .deferred → p.cmd.opcode = 1 → p.cmd.ctx ≠ c.ctx)
include hfirst

/-- No other CTX_OPEN of the number waits (R465). -/
theorem State.not_opening : s.pends.any (fun p => p.job == .deferred && p.cmd.opcode == 1 && p.cmd.ctx == c.ctx &&
    !(p.cmd.ring == c.ring && p.cmd.count == c.count)) = false := by
  refine List.any_eq_false.2 fun p hp h => ?_
  simp only [Bool.and_eq_true, beq_iff_eq] at h
  obtain ⟨⟨⟨hjob, hopcode⟩, hctx⟩, -⟩ := h
  exact hfirst p hp hjob hopcode hctx

variable (hfree : Tab.get s.ctxs c.ctx = none)
include hfree

/-- A free number opens as an uncoded context (R470). -/
theorem State.opCtxOpen_of_uncoded (hmode : c.modeBit 0 = false) (hlow : c.u64 16 = 0) (hhigh : c.u64 24 = 0) (hstep : c.u64 32 = 0) :
    s.opCtxOpen c = State.post { s with ctxs := Tab.set s.ctxs c.ctx { closing := false, coded := false, upper := 0, lowerQ := 0 } } c 0 0 := by
  simp only [State.opCtxOpen, State.not_opening hfirst, hfree, hmode, hlow, hhigh, hstep]
  rfl

/-- A free number opens as a coded context in the lowest free block (R470). -/
theorem State.opCtxOpen_of_coded {block : Nat} (hmode : c.modeBit 0 = true) (hblock : s.freeBlock = some block) (hstep : c.u64 32 < 2 ^ 56) :
    s.opCtxOpen c = State.post { s with
      ctxs := Tab.set s.ctxs c.ctx { closing := false, coded := true, upper := 0, lowerQ := 0 },
      coded := Tab.set s.coded block (s.openedCoded c) } c 0 0 := by
  have hrange : ¬(2 ^ 56 ≤ c.u64 32 ∨ (!true && c.u64 32 != 0) = true) := by simpa using hstep
  simp only [State.opCtxOpen, State.not_opening hfirst, hfree, hmode, hblock, if_neg hrange]
  rfl

end

/-- An idle open context in no glove is closing, and the command waits for its end (R471). -/
theorem State.opCtxClose_of_idle {x : Ctx} (hx : Tab.get s.ctxs c.ctx = some x) (hopen : x.closing = false)
    (hglove : s.gloveOf c.ctx = none) (hidle : s.ctxBusy c.ctx = false) :
    s.opCtxClose c = State.hold { s with ctxs := Tab.set s.ctxs c.ctx { x with closing := true } } c (.ctxClose c.ctx) := by
  have hctx : s.ctxOpen c.ctx = true := by simp [State.ctxOpen, hx, hopen]
  simp only [State.opCtxClose, hctx, hglove, hidle, hx]
  rfl

end

/-- A context that has just been opened stands crowned at its step, with every pair in agreement (R399, R470). -/
theorem Coded.opened_pairsOk (ctx : Nat) (step : Word) (key : BitVec 128) (stopped : Bool) :
    Coded.pairsOk { Coded.opened ctx step key with stopped := stopped } = true := by
  simp [Coded.pairsOk, Coded.opened]

/-- Settles O40: each row takes its packet and runs the branch of its operation in which every check passes. -/
theorem contextCommandsComplete : Obligations.ContextCommandsComplete := by
  unfold Obligations.ContextCommandsComplete
  refine ⟨?_, ?_, ?_⟩
  · intro e c s b htakes hfirst hfree hmode hlow hhigh hstep
    have hop := State.opCtxOpen_of_uncoded hfirst hfree hmode hlow hhigh hstep
    exact congrArg Host.Outcome.next (State.row_of_takes htakes hop)
  · intro e c block s b htakes hfirst hfree hmode hblock hrange step k
    have hop := State.opCtxOpen_of_coded hfirst hfree hmode hblock hrange
    exact ⟨congrArg Host.Outcome.next (State.row_of_takes htakes hop), rfl, rfl, rfl, Coded.opened_pairsOk _ _ _ _, rfl, rfl, rfl⟩
  · intro e c x s b htakes hx hopen hglove hidle
    have hop := State.opCtxClose_of_idle hx hopen hglove hidle
    exact congrArg Host.Outcome.next (State.row_of_takes htakes hop)

/-! ### Chip service -/

section
variable {s : State} {c : Cmd}

/-- FENCE_SIGNAL sets or clears a fence that its ring may name (R454, R455). -/
theorem State.opFenceSignal_of_allowed (hallowed : s.fenceAllowed c.ring (c.u16 16) = true) (hfence : c.u16 16 < 8192) :
    s.opFenceSignal c = State.post (if c.modeBit 0 then s.clearFence (c.u16 16) else s.setFence (c.u16 16)) c 0 0 := by
  simp only [State.opFenceSignal, hallowed, if_neg (Nat.not_le.2 hfence)]
  rfl

/-- MEASURE_GET writes the measurement into a buffer of its context (R487). -/
theorem State.opMeasureGet_of_buffer (hopen : s.ctxOpen c.ctx = true) (hbuffer : s.bufferOk c.ctx (c.u64 16) 64 = true) :
    s.opMeasureGet c = (s.bufferWrite (c.u64 16) s.measurement).post c 0 0 := by
  rw [State.opMeasureGet, hopen, hbuffer]
  rfl

/-! ### SEAL_SET -/

/-- The log entry of a change from an old value (R520). -/
def State.sealEntry (s : State) (c : Cmd) (old : Nat) : SealLog :=
  { stamp := s.now, requester := BitVec.ofNat 64 (c.u64 24), change := packWord [(0, c.mode % 4), (8, old), (16, c.u8 16)] }

section
variable (hmode : c.mode % 4 = 0) (hlow : 1 ≤ c.u8 16) (hhigh : c.u8 16 ≤ 4)
include hmode hlow hhigh

/-- M_MIN set to the value that it has stays, and the changes left are answered (R488). -/
theorem State.opSealSet_of_same (hsame : c.u8 16 = s.cu.fuses.mMin) : s.opSealSet c = s.post c 0 s.cu.fuses.mMinLeft := by
  simp only [State.opSealSet, hmode, Fuses.setting, if_true]
  rw [if_neg (by decide), if_neg (by decide), if_neg (by omega), if_pos hsame]
  rfl

/-- A new M_MIN is set and logged, and a lower one spends a change (R488, R519, R520). -/
theorem State.opSealSet_of_mMin (hnew : c.u8 16 ≠ s.cu.fuses.mMin) (hlog : s.cu.fuses.log.length < 32)
    (hleft : c.u8 16 < s.cu.fuses.mMin → 0 < s.cu.fuses.mMinLeft) :
    let left := if c.u8 16 < s.cu.fuses.mMin then s.cu.fuses.mMinLeft - 1 else s.cu.fuses.mMinLeft
    s.opSealSet c = (s.modCu (fun x => { x with fuses := { s.cu.fuses with
      mMin := c.u8 16, mMinLeft := left, log := s.cu.fuses.log ++ [s.sealEntry c s.cu.fuses.mMin] } })).post c 0 left := by
  simp only [State.opSealSet, State.sealEntry, hmode, Fuses.setting, if_true]
  rw [if_neg (by decide), if_neg (by decide), if_neg (by omega), if_neg hnew, if_neg (by omega)]
  rfl

end

/-- A new witness flag is set, logged and spends a change (R488, R519, R520). -/
theorem State.opSealSet_of_witness (hmode : c.mode % 4 = 1) (hrange : c.u8 16 ≤ 1) (hnew : c.u8 16 ≠ flag s.cu.fuses.witness)
    (hlog : s.cu.fuses.log.length < 32) (hleft : 0 < s.cu.fuses.witnessLeft) :
    s.opSealSet c = (s.modCu (fun x => { x with fuses := { s.cu.fuses with
      witness := c.u8 16 == 1, witnessLeft := s.cu.fuses.witnessLeft - 1,
      log := s.cu.fuses.log ++ [s.sealEntry c (flag s.cu.fuses.witness)] } })).post c 0 (s.cu.fuses.witnessLeft - 1) := by
  have hsetting : s.cu.fuses.setting 1 = (flag s.cu.fuses.witness, s.cu.fuses.witnessLeft) := rfl
  simp only [State.opSealSet, State.sealEntry, hmode, hsetting]
  rw [if_neg (by decide), if_neg (by decide), if_neg (by omega), if_neg hnew, if_neg (by omega)]
  rfl

/-- SCRUB_CTRL pauses, resumes or restarts the lap, and answers where it was (R393). -/
theorem State.opScrubCtrl_eq : s.opScrubCtrl c = if c.mode % 4 = 3 then s.badParam c 3
    else (s.modScrub (instIdx (c.ring / 4096)) (fun x => if c.mode % 4 = 2 then { x with pos := 0, lapStart := s.now, lapLate := false }
      else { x with paused := c.mode % 4 == 0 })).post c 0 (s.inst[instIdx (c.ring / 4096)]).scrub.pos := by
  have hmode : c.mode % 4 = 0 ∨ c.mode % 4 = 1 ∨ c.mode % 4 = 2 ∨ c.mode % 4 = 3 := by omega
  rcases hmode with h | h | h | h <;> simp only [State.opScrubCtrl, h] <;> rfl

/-- TEST_RUN makes the test of its ring's unit due, where none is and CLAMP is clear (R486, R554). -/
theorem State.opTestRun_of_free (hmode : c.mode % 4 ≤ 2) (hrunning : (s.inst[instIdx (c.ring / 4096)]).test.running = false)
    (hpending : (s.inst[instIdx (c.ring / 4096)]).test.pending = false) (hclamp : s.cu.power.clamp = false) :
    s.opTestRun c = (s.modTest (instIdx (c.ring / 4096)) (fun x =>
      { x with pending := true, mode := c.mode % 4, dueAt := s.now, deferrals := 0 })).hold c (.test (instIdx (c.ring / 4096)).val) := by
  have hparts : c.mode % 4 ≠ 3 := by omega
  simp only [State.opTestRun, if_neg hparts, hrunning, hpending, hclamp]
  rfl

end

/-- Settles O56: each row takes its packet, and every form of its operation is one branch. -/
theorem serviceCommandsComplete : Obligations.ServiceCommandsComplete := by
  unfold Obligations.ServiceCommandsComplete
  refine ⟨?_, ?_, ?_, ?_, ?_, ?_⟩
  · intro e c s b htakes
    exact congrArg Host.Outcome.next (State.row_of_takes htakes rfl)
  · intro e c s b htakes hallowed hfence
    exact congrArg Host.Outcome.next (State.row_of_takes htakes (State.opFenceSignal_of_allowed hallowed hfence))
  · intro e c s b htakes hopen hbuffer
    exact congrArg Host.Outcome.next (State.row_of_takes htakes (State.opMeasureGet_of_buffer hopen hbuffer))
  · intro e c s b f v entry htakes
    refine ⟨fun hmode hlow hhigh hsame => ?_, fun hmode hlow hhigh hnew hlog hleft => ?_, fun hmode hrange hnew hlog hleft => ?_,
      fun hmode => ?_, fun hmode => ?_⟩
    · exact congrArg Host.Outcome.next (State.row_of_takes htakes (State.opSealSet_of_same hmode hlow hhigh hsame))
    · exact congrArg Host.Outcome.next (State.row_of_takes htakes (State.opSealSet_of_mMin hmode hlow hhigh hnew hlog hleft))
    · exact congrArg Host.Outcome.next (State.row_of_takes htakes (State.opSealSet_of_witness hmode hrange hnew hlog hleft))
    · have hop : b.opSealSet c = b.post c 0x51 0 := by
        simp only [State.opSealSet, hmode]
        rfl
      exact congrArg Host.Outcome.next (State.row_of_takes htakes hop)
    · have hop : b.opSealSet c = b.badParam c 3 := by
        simp only [State.opSealSet, hmode]
        rfl
      exact congrArg Host.Outcome.next (State.row_of_takes htakes hop)
  · intro e c s b i htakes
    exact congrArg Host.Outcome.next (State.row_of_takes htakes State.opScrubCtrl_eq)
  · intro e c s b i htakes hmode hrunning hpending hclamp
    exact congrArg Host.Outcome.next (State.row_of_takes htakes (State.opTestRun_of_free hmode hrunning hpending hclamp))

/-! ### What Padun's own writes leave of the rings -/

/-- What a completion finds as it was after Padun has written memory: the rings, the waiting commands and the fences. -/
structure RingFrame (b s : State) : Prop where
  rings : s.rings = b.rings
  pends : s.pends = b.pends
  fences : s.cu.fences = b.cu.fences

theorem RingFrame.refl (s : State) : RingFrame s s := ⟨rfl, rfl, rfl⟩

theorem RingFrame.trans {a b c : State} (h : RingFrame a b) (g : RingFrame b c) : RingFrame a c :=
  ⟨g.rings.trans h.rings, g.pends.trans h.pends, g.fences.trans h.fences⟩

/-- A fold whose every step keeps the rings keeps them. -/
theorem RingFrame.foldl {α : Type} {f : State → α → State} (hf : ∀ s x, RingFrame s (f s x)) (l : List α) (s : State) :
    RingFrame s (l.foldl f s) := by
  induction l generalizing s with
  | nil => exact .refl s
  | cons x l ih => exact (hf s x).trans (ih (f s x))

theorem RingFrame.ite {p : Prop} [Decidable p] {b s t : State} (hs : RingFrame b s) (ht : RingFrame b t) : RingFrame b (if p then s else t) := by
  split
  · exact hs
  · exact ht

section
variable (s : State)

theorem State.modInst_ringFrame (i : Fin 16) (f : Inst → Inst) : RingFrame s (s.modInst i f) := ⟨rfl, rfl, rfl⟩

/-- The fault registers are no ring's. -/
theorem State.raise_ringFrame (u b : Nat) (d0 d1 : Word) : RingFrame s (s.raise u b d0 d1) := by
  rw [State.raise, State.raiseAt, State.modFaults]
  exact .ite ⟨rfl, rfl, rfl⟩ ⟨rfl, rfl, rfl⟩

/-! The lane work of a page's parity (R402 to R405). -/

theorem State.haltCoding_ringFrame (i : Fin 16) (lane : Nat) : RingFrame s (s.haltCoding i lane) := by
  have hraise := (s.modInst i (fun x => { x with halted := true })).raise_ringFrame i.val fTest 7 (BitVec.ofNat 64 lane)
  exact ⟨hraise.rings, hraise.pends, hraise.fences⟩

theorem State.retireLane_ringFrame (i : Fin 16) (lane : Nat) : RingFrame s (s.retireLane i lane) := by
  have hretired := s.modInst_ringFrame i (fun x => x.modLane (laneIdx lane) (fun l => { l with retired := true }))
  exact .ite (hretired.trans (State.haltCoding_ringFrame _ i lane)) hretired

theorem State.checked_ringFrame (i : Fin 16) (lane product : Nat) (y : List Byte) : RingFrame s (s.checked i lane product y).1 := by
  unfold State.checked
  split
  · exact .refl s
  split
  · exact .refl s
  · next e _ =>
    let t : State := { s with ev := { s.ev with lane := none } }
    have ht : RingFrame s t := ⟨rfl, rfl, rfl⟩
    have hfault : ∀ outcome, RingFrame s (t.shadowFault i lane (neighbourLane t.inst[i] lane) outcome product) := fun outcome =>
      ht.trans (t.raise_ringFrame _ _ _ _)
    dsimp only
    split
    · exact ht
    split
    · have hflagged := (hfault 1).trans (State.modInst_ringFrame _ i (fun x => x.modLane (laneIdx lane) (fun l => { l with flagged := true })))
      exact .ite (hflagged.trans (State.retireLane_ringFrame _ i lane)) hflagged
    split
    · exact (hfault 2).trans (State.retireLane_ringFrame _ i lane)
    · have hretired := (hfault 3).trans (State.retireLane_ringFrame _ i lane)
      split
      · exact hretired
      · exact hretired.trans (State.haltCoding_ringFrame _ i lane)

/-- A whole page is written (R373, R374). -/
theorem State.storePage_ringFrame (k : Nat) (data : List Byte) (t : Tags) : RingFrame s (s.storePage k data t) := by
  have hchecked := s.checked_ringFrame (keyInst k) (s.codeLane k) pPage ((pageParity (padTo 4096 data)).1 ++ (pageParity (padTo 4096 data)).2)
  unfold State.storePage
  dsimp only
  split
  · exact .refl s
  split
  · next heq => rwa [heq] at hchecked
  · next heq =>
    rw [heq] at hchecked
    exact hchecked.trans ⟨rfl, rfl, rfl⟩

/-! Reading a page (R36, R368 to R380). -/

theorem State.countCe_ringFrame (i : Fin 16) (lane n : Nat) : RingFrame s (s.countCe i lane n) := by
  unfold State.countCe
  dsimp only
  split
  · exact .refl s
  · have hcounted := s.modInst_ringFrame i
    exact .ite ((hcounted _).trans (State.raise_ringFrame _ _ _ _ _)) (hcounted _)

theorem State.countBursts_ringFrame (k : Nat) (bs : List Burst) (pass : Bool) : RingFrame s (s.countBursts k bs pass) :=
  RingFrame.foldl (fun s _ => .ite (s.countCe_ringFrame _ _ 1) (.ite (s.raise_ringFrame _ _ _ _) (.refl s))) bs s

theorem State.corrected_ringFrame (k : Nat) : RingFrame s (s.corrected k) := by
  have hraised := (s.modInst_ringFrame (keyInst k) (fun x => { x with pageCe := satAdd 32 x.pageCe 1 })).trans
    (State.raise_ringFrame _ (keyInst k).val fPageCe (BitVec.ofNat 64 (keyPage k))
      ((s.modInst (keyInst k) (fun x => { x with pageCe := satAdd 32 x.pageCe 1 })).pageLocator k))
  exact .ite hraised (hraised.trans ⟨rfl, rfl, rfl⟩)

theorem State.uncorrectable_ringFrame (k : Nat) : RingFrame s (s.uncorrectable k) :=
  (s.modInst_ringFrame (keyInst k) _).trans (State.raise_ringFrame _ _ _ _ _)

theorem State.decodePage_ringFrame (k : Nat) : RingFrame s (s.decodePage k).1 := by
  have hcount := s.countBursts_ringFrame k
  have hbad : ∀ bs, RingFrame s ((s.countBursts k bs false).uncorrectable k) := fun bs =>
    (hcount bs false).trans (State.uncorrectable_ringFrame _ k)
  unfold State.decodePage
  dsimp only
  split
  · exact hbad _
  split
  · exact hcount _ false
  split
  · exact hcount _ false
  split
  · exact hbad _
  split
  · exact hcount _ false
  split
  · exact hbad _
  split
  · exact .ite ((hcount _ false).trans (State.corrected_ringFrame _ k)) (hcount _ false)
  · exact hbad _

/-! Padun's write (R386 to R391). -/

theorem State.patchPage_ringFrame (k : Nat) (f : List Byte → List Byte) : RingFrame s (s.patchPage k f) := by
  have hfetched : RingFrame s (s.fetchPage k).1 := s.decodePage_ringFrame k
  unfold State.patchPage
  split
  · next heq =>
    rw [heq] at hfetched
    exact (hfetched.trans (State.modInst_ringFrame _ (keyInst k) _)).trans (State.storePage_ringFrame _ _ _ _)
  · next heq =>
    rw [heq] at hfetched
    exact hfetched.trans (State.modInst_ringFrame _ (keyInst k) _)
  · next heq => rwa [heq] at hfetched
  · next heq =>
    rw [heq] at hfetched
    exact hfetched.trans (State.storePage_ringFrame _ _ _ _)

theorem State.evictPlain_ringFrame (k : Nat) : RingFrame s (s.evictPlain k) := by
  unfold State.evictPlain
  split
  · exact .refl s
  · have hdropped : RingFrame s (s.dropMerge k) := ⟨rfl, rfl, rfl⟩
    exact hdropped.trans (State.patchPage_ringFrame _ _ _)

theorem State.fillOne_ringFrame (r : Region) (f : Fill) (k : Nat) : RingFrame s (s.fillOne r f k) := by
  have hstored : RingFrame s (if r.kind.pageCoded then s.storePage k (patternPage f.pattern) noTags
      else s.storePass k 0 (patternPage f.pattern)) := .ite (s.storePage_ringFrame _ _ _) ⟨rfl, rfl, rfl⟩
  exact hstored.trans ⟨rfl, rfl, rfl⟩

theorem State.fillTo_ringFrame (k : Nat) : RingFrame s (s.fillTo k) := by
  unfold State.fillTo
  split
  · exact .refl s
  · next r _ =>
    split
    · exact .refl s
    · next f _ => exact .ite (RingFrame.foldl (fun s q => s.fillOne_ringFrame r f q) _ s) (.refl s)

/-- Padun's writes of memory leave the rings, the waiting commands and the fences as they are. -/
theorem State.padunWrite_ringFrame (a : Nat) (data : List Byte) : RingFrame s (s.padunWrite a data) := by
  refine RingFrame.foldl (fun s p => (s.fillTo_ringFrame p.1).trans ?_) _ s
  dsimp only
  split
  · exact .refl _
  · refine .ite ⟨rfl, rfl, rfl⟩ (.ite ?_ (.ite ?_ ⟨rfl, rfl, rfl⟩))
    · have hdropped : RingFrame (s.fillTo p.1) ((s.fillTo p.1).dropMerge p.1) := ⟨rfl, rfl, rfl⟩
      exact hdropped.trans (State.storePage_ringFrame _ _ _ _)
    · exact (State.evictPlain_ringFrame _ _).trans (State.patchPage_ringFrame _ _ _)

end

/-! ### The final completion of a command -/

/-- The entry as it stands in its ring: at POSTED, with its PHASE (R462). -/
def Completion.placed (c : Completion) (r : Ring) : Completion :=
  { c with index := r.posted, flags := c.flags + BitVec.ofNat 8 (phaseBit r.posted r.log2) }

/-- The ring with one more entry posted (R463). -/
def Ring.advanced (r : Ring) : Ring := { r with posted := (r.posted + 1) % 2 ^ 32 }

/-- Memory holds the entry. -/
def State.entered (s : State) (c : Completion) (r : Ring) : State :=
  s.padunWrite (r.cqBase + 32 * (r.posted % 2 ^ r.log2)) (c.placed r).toBytes

/-- Memory holds the entry, and the ring has advanced. -/
def State.enteredRing (s : State) (c : Completion) (r : Ring) : State :=
  { s.entered c r with rings := Tab.set s.rings c.ring r.advanced }

section
variable {s : State} {c : Completion} {r : Ring} (hr : Tab.get s.rings c.ring = some r)
include hr

/-- An entry reaches a held ring: memory, the ring and the descriptor take it, and it leaves (R463, R577). -/
theorem State.putEntry_of_held : s.putEntry c r.cqBase r.log2 r.posted =
    ((s.enteredRing c r).writeCount c.ring 0x1C r.advanced.posted).emit (.completion (c.placed r)) := by
  have hrings : (s.entered c r).rings = s.rings := (s.padunWrite_ringFrame _ _).rings
  have hmod : (s.entered c r).modRing c.ring (fun q => { q with posted := r.advanced.posted }) = s.enteredRing c r := by
    rw [State.modRing, hrings, hr]
    rfl
  rw [← hmod]
  rfl

/-- It stands at POSTED, which advances by one, and neither the waiting commands nor the fences change (R463). -/
theorem State.putEntry_effect :
    let t := s.putEntry c r.cqBase r.log2 r.posted
    t.pends = s.pends ∧ t.cu.fences = s.cu.fences ∧ t.out.head? = some (.completion (c.placed r)) ∧
      Tab.get t.rings c.ring = some r.advanced := by
  have hentered : RingFrame s (s.entered c r) := s.padunWrite_ringFrame _ _
  have hcount : RingFrame (s.enteredRing c r) ((s.enteredRing c r).writeCount c.ring 0x1C r.advanced.posted) :=
    State.padunWrite_ringFrame _ _ _
  simp only [State.putEntry_of_held hr, State.emit_fields, List.head?_cons, hcount.rings, hcount.pends, hcount.fences, true_and]
  rw [State.enteredRing]
  exact ⟨hentered.pends, hentered.fences, Tab.get_set_self _ _ _⟩

end

/-- An entry leaves with everything that the command gave it; on a held ring at POSTED, which advances by one (R462, R463). -/
theorem State.writeEntry_effect (s : State) (c : Completion) :
    let t := s.writeEntry c
    t.pends = s.pends ∧ t.cu.fences = s.cu.fences ∧
      ∃ x : Completion, t.out.head? = some (.completion x) ∧ x = { c with index := x.index, flags := x.flags } ∧
        ∀ r, Tab.get s.rings c.ring = some r → x.index = r.posted ∧
          Tab.get t.rings c.ring = some { r with posted := (r.posted + 1) % 2 ^ 32 } := by
  unfold State.writeEntry
  cases hr : Tab.get s.rings c.ring with
  | none => exact ⟨rfl, rfl, c, rfl, rfl, fun r h => by cases h⟩
  | some r =>
    obtain ⟨hpends, hfences, hout, hring⟩ := State.putEntry_effect hr
    refine ⟨hpends, hfences, c.placed r, hout, rfl, fun q hq => ?_⟩
    cases hq
    exact ⟨rfl, hring⟩

/-- A fence that is set is SET, and no other changes (R454). -/
theorem State.fenceSet_setFence (s : State) (m : Nat) {n : Nat} (hn : n < 8192) :
    (s.setFence m).fenceSet n = (s.fenceSet n || n == m) := by
  have hbit : (s.setFence m).fenceSet n = (s.cu.fences ||| ((1 : BitVec 8192) <<< m)).getLsbD n := rfl
  rw [hbit, BitVec.getLsbD_or, getLsbD_one_shiftLeft hn]
  rfl

/-- Among the fences that exist, the one that a command names is its signal fence (R454). -/
theorem fenceOf_any (c : Cmd) {n : Nat} (hn : n < 8192) : (fenceOf c).any (fun m => n == m) = (c.signals && n == c.signalFence) := by
  unfold fenceOf
  cases c.signals with
  | false => rfl
  | true =>
    by_cases hm : c.signalFence < 8192
    · simp [hm]
    · have hne : n ≠ c.signalFence := by omega
      simp [hm, hne]

/-- The completion entry that a command's post makes (R462). -/
def State.postEntry (s : State) (c : Cmd) (status result : Nat) : Completion :=
  cmdEntry c (cmdUnit c) status result 0xFF s.now (fenceOf c) true (match s.pendOf c with
    | some p => p.second
    | none => false)

section
variable {s : State} {c : Cmd} {status result : Nat}

/-- After FW_FAULT a command that needs the CU only waits no more (R31). -/
theorem State.post_of_fwFault (hfw : s.cu.fwFault = true) (hscope : cuScope c = true) : s.post c status result = s.dropPend c := by
  rw [State.post, State.postAt]
  exact if_pos (by rw [hscope, Bool.and_true]; exact hfw)

section
variable (hposts : (s.cu.fwFault && cuScope c) = false)
include hposts

/-- Otherwise the entry is written, then the fence is set (R454, R463). -/
theorem State.post_of_posting : s.post c status result = match fenceOf c with
    | some n => ((s.dropPend c).writeEntry (s.postEntry c status result)).setFence n
    | none => (s.dropPend c).writeEntry (s.postEntry c status result) := by
  rw [State.post, State.postAt]
  exact if_neg (by rw [Bool.not_eq_true]; exact hposts)

/-- The state that a post leaves is the written one but for the fences, and of these its signal fence alone is new (R454). -/
theorem State.post_fence :
    let w := (s.dropPend c).writeEntry (s.postEntry c status result)
    (s.post c status result).pends = w.pends ∧ (s.post c status result).out = w.out ∧ (s.post c status result).rings = w.rings ∧
      ∀ n < 8192, (s.post c status result).fenceSet n = (w.fenceSet n || (c.signals && n == c.signalFence)) := by
  intro w
  rw [State.post_of_posting hposts]
  have hany := fun n hn => fenceOf_any c (n := n) hn
  cases hf : fenceOf c with
  | none =>
    rw [hf] at hany
    exact ⟨rfl, rfl, rfl, fun n hn => by rw [← hany n hn]; exact (Bool.or_false _).symm⟩
  | some m =>
    rw [hf] at hany
    exact ⟨rfl, rfl, rfl, fun n hn => by rw [← hany n hn]; exact w.fenceSet_setFence m hn⟩

/-- The final completion of a command (R454, R462, R463). -/
theorem State.post_effect :
    let t := s.post c status result
    t.pends = s.pends.filter (fun p => !(p.cmd.ring == c.ring && p.cmd.count == c.count)) ∧
    (∀ n < 8192, t.fenceSet n = (s.fenceSet n || (c.signals && n == c.signalFence))) ∧
    ∃ x : Completion, t.out.head? = some (.completion x) ∧
      x = { s.postEntry c status result with index := x.index, flags := x.flags } ∧
      ∀ r, Tab.get s.rings c.ring = some r → x.index = r.posted ∧
        Tab.get t.rings c.ring = some { r with posted := (r.posted + 1) % 2 ^ 32 } := by
  intro t
  obtain ⟨hpends, hout, hrings, hfence⟩ := State.post_fence (status := status) (result := result) hposts
  obtain ⟨hdropped, hfences, x, hhead, hx, hring⟩ := (s.dropPend c).writeEntry_effect (s.postEntry c status result)
  refine ⟨hpends.trans hdropped, fun n hn => (hfence n hn).trans ?_, x, hout ▸ hhead, hx, fun r hr => ?_⟩
  · rw [State.fenceSet, hfences]
    rfl
  · obtain ⟨hindex, hposted⟩ := hring r hr
    exact ⟨hindex, (congrArg (fun l => Tab.get l c.ring) hrings).trans hposted⟩

end

end

/-! ### Doorbells -/

section
variable {s : State} {v : Word}

/-- Before start-up is complete a doorbell waits (R543). -/
theorem State.doorbell_of_unstarted (hreleased : s.cu.released = true) (hstarted : s.cu.started = false) :
    s.doorbell v = s.modCu (fun c => { c with doorbells := c.doorbells ++ [v.toNat % 65536] }) := by
  rw [State.doorbell, hreleased, if_neg (by decide), State.actDoorbells, State.commandsRun]
  exact if_pos (by simp [hstarted])

/-- A doorbell that no other precedes is acted on at once (R447). -/
theorem State.doorbell_of_running (hreleased : s.cu.released = true) (hrun : s.commandsRun = true) (hnone : s.cu.doorbells = []) :
    s.doorbell v = s.ringDoorbell (v.toNat % 65536) := by
  let t := s.modCu (fun c => { c with doorbells := c.doorbells ++ [v.toNat % 65536] })
  have hbells : t.cu.doorbells = [v.toNat % 65536] := congrArg (· ++ [v.toNat % 65536]) hnone
  have hcleared : t.modCu (fun c => { c with doorbells := [] }) = s :=
    congrArg (fun l => { s with cu := { s.cu with doorbells := l } }) hnone.symm
  have hact : t.actDoorbells = s.ringDoorbell (v.toNat % 65536) := by
    have hrun' : t.commandsRun = true := hrun
    rw [State.actDoorbells, hrun', hbells, hcleared]
    rfl
  rw [State.doorbell, hreleased]
  exact hact

/-- A ring that the CU does not hold is taken as its valid descriptor gives it (R446, R447, R577). -/
theorem State.ringDoorbell_of_valid {u : State} {ring : Nat} {d : List Byte} (hunheld : Tab.get s.rings ring = none)
    (hdesc : s.readDesc ring = (u, some d)) (hvalid : u.descOk d (field d 0x14 4) (field d 0x1C 4) = true) :
    s.ringDoorbell ring = { u with rings := Tab.set u.rings ring (ringOf d (field d 0x14 4) (field d 0x1C 4)) } := by
  simp only [State.ringDoorbell, hdesc, hunheld, descField]
  exact if_pos hvalid

end

/-! ### Fetch and acceptance -/

section
variable {s : State} {ring : Nat} {r : Ring}

/-- A packet with a wrong CRC ends with BAD_PACKET, and none of its fences is set (R452). -/
theorem Ring.fetchFault_of_crc {c : Cmd} (hcrc : c.crcOk = false) : r.fetchFault c = some (0x10, 12, false) := by
  rw [Ring.fetchFault, hcrc]
  rfl

section
variable {u : State} {bytes : List Byte} (hring : Tab.get s.rings ring = some r) (hrun : s.commandsRun = true) (henable : r.enable = true)
  (hstalled : r.stalled = false) (hnone : r.fetched = none) (hhead : r.head ≠ r.tail)
  (hservice : inService s.inst[instIdx (ring / 4096)] = true) (hroom : s.ringRoom ring r = true)
  (hread : s.padunRead (r.base + 64 * (r.head % 2 ^ r.log2)) 64 r.owner = (u, some bytes))

include hrun henable hstalled hnone hhead hservice in
/-- Nothing keeps the ring's unit from its next packet (R448). -/
theorem State.fetch_not_barred : ¬((!s.commandsRun) = true ∨ (!r.enable) = true ∨ r.stalled = true ∨ r.fetched.isSome = true ∨
    r.head = r.tail ∨ (!inService s.inst[instIdx (ring / 4096)]) = true) := by
  simp only [hrun, henable, hstalled, hnone, hhead, hservice]
  decide

include hring hrun henable hstalled hnone hhead hservice hroom hread

/-- The packet at HEAD of a ring with room is fetched when it passes the checks (R448, R452). -/
theorem State.packetFetch_of_passed (hpassed : r.fetchFault { ring := ring, count := r.head, bytes := bytes } = none) :
    s.packetFetch ring = u.modRing ring (fun x => { x with fetched := some { ring := ring, count := r.head, bytes := bytes } }) := by
  have hopen := State.fetch_not_barred hrun henable hstalled hnone hhead hservice
  simp only [State.packetFetch, hring, if_neg hopen, hroom, Bool.not_true, Bool.false_eq_true, if_false, hread, hpassed]

/-- It ends at the first check that it fails (R452). -/
theorem State.packetFetch_of_failed {status detail : Nat} {set : Bool}
    (hfailed : r.fetchFault { ring := ring, count := r.head, bytes := bytes } = some (status, detail, set)) :
    s.packetFetch ring = u.endAtFetch { ring := ring, count := r.head, bytes := bytes } status detail
      (if set then r.validFence { ring := ring, count := r.head, bytes := bytes } else none) := by
  have hopen := State.fetch_not_barred hrun henable hstalled hnone hhead hservice
  simp only [State.packetFetch, hring, if_neg hopen, hroom, Bool.not_true, Bool.false_eq_true, if_false, hread, hfailed]

end

/-- The fetched packet whose fence and barrier are met, with a transfer where it needs one, is accepted (R449, R457, R461). -/
theorem State.commandAccept_of_ready {c : Cmd} (hring : Tab.get s.rings ring = some r) (hc : r.fetched = some c)
    (hrun : s.commandsRun = true) (hfence : c.waits = true → s.fenceSet c.waitFence = true)
    (hbarrier : c.barrier = true → ∀ p ∈ s.pends, p.cmd.ring ≠ c.ring)
    (htransfer : needsTransfer c = true → s.tracked (instIdx (c.ring / 4096)) < Config.trackedMax) :
    s.commandAccept ring = (s.passHead ring).runOp c := by
  have hmay : s.mayAccept c = true := by
    have hmet : (!c.waits || s.fenceSet c.waitFence) = true := by
      cases hw : c.waits with
      | false => rfl
      | true => exact hfence hw
    have hclear : (!c.barrier || !s.pends.any (fun p => p.cmd.ring == c.ring)) = true := by
      cases hb : c.barrier with
      | false => rfl
      | true => simpa using hbarrier hb
    have hfree : (!needsTransfer c || decide (s.tracked (instIdx (c.ring / 4096)) < Config.trackedMax)) = true := by
      cases hn : needsTransfer c with
      | false => rfl
      | true => exact decide_eq_true (htransfer hn)
    rw [State.mayAccept, hmet, hclear, hfree]
    rfl
  simp only [State.commandAccept, hring, Option.bind_some, hc, hrun, hmay, Bool.and_self, if_true]

/-- A deferred command runs once its object has shut down (R466). -/
theorem State.deferredStart_of_done {count : Nat} {p : Pend}
    (hp : s.pends.find? (fun p => p.cmd.ring == ring && p.cmd.count == count && p.job == .deferred) = some p)
    (hfw : s.cu.fwFault = false) (hhalt : s.cu.debugHalted = false) (hdone : s.shutting p.cmd = false) :
    s.deferredStart ring count = s.runOp p.cmd := by
  simp only [State.deferredStart, hp]
  exact if_neg (by simp [hfw, hhalt, hdone])

end

/-- Settles O39: each event of a ring passes the checks of its rule; a post is its entry, its fence and the end of its wait. -/
theorem ringCommandsComplete : Obligations.RingCommandsComplete := by
  unfold Obligations.RingCommandsComplete
  refine ⟨?_, ?_, ?_, ?_, ?_, ?_, ?_⟩
  · intro e v s hreleased hstarted
    exact congrArg Host.Outcome.next (State.doorbell_of_unstarted (s := s.at e) hreleased hstarted)
  · intro e v d u s hreleased hrun hnone hunheld hdesc hvalid
    have hrings := State.doorbell_of_running (s := s.at e) (v := v) hreleased hrun hnone
    exact congrArg Host.Outcome.next (hrings.trans (State.ringDoorbell_of_valid (s := s.at e) hunheld hdesc hvalid))
  · intro e ring r bytes u s hring hrun henable hstalled hnone hhead hservice hroom hread c
    refine ⟨fun hpassed => ?_, fun hcrc => ?_⟩
    · exact congrArg Host.Outcome.next
        (State.packetFetch_of_passed (s := s.at e) hring hrun henable hstalled hnone hhead hservice hroom hread hpassed)
    · exact congrArg Host.Outcome.next (State.packetFetch_of_failed (s := s.at e) hring hrun henable hstalled hnone hhead hservice hroom hread
        (Ring.fetchFault_of_crc hcrc))
  · intro e ring r c s b hring hc hrun hfence hbarrier htransfer
    have hact := State.commandAccept_of_ready hring hc hrun hfence hbarrier htransfer
    exact congrArg (fun t : State => Host.Outcome.next t.finish) hact
  · intro e ring count p s b hp hfw hhalt hdone
    exact congrArg (fun t : State => Host.Outcome.next t.finish) (State.deferredStart_of_done hp hfw hhalt hdone)
  · intro s c status result hposts t
    obtain ⟨hpends, hfence, x, hout, hx, hring⟩ := State.post_effect (status := status) (result := result) hposts
    exact ⟨hpends, hfence, x, hout, congrArg (·.ring) hx, congrArg (·.status) hx, congrArg (·.opcode) hx, congrArg (·.context) hx,
      congrArg (·.tag) hx, congrArg (·.slot) hx, congrArg (·.result) hx, congrArg (·.stamp) hx, congrArg (·.detail) hx, hring⟩
  · intro s c status result hfw hscope
    exact State.post_of_fwFault hfw hscope

end Sys2Proof.Machine

/-! PROOFS. What waits in the units: held writes, parity folds and merge entries (R77, R328, R389). -/

namespace Sys2Proof.Machine

/-- The oldest write held for a pairing entry is served again once its unit has one free (R77). -/
theorem State.applyHeldWrite_of_room {s : State} {i : Fin 16} {h : Held} (hheld : s.heldReqs.find? (fun h => h.why == .pairing i.val) = some h)
    (hroom : (s.roomForPair i).isSome = true) :
    s.applyHeldWrite i = State.serveWrite { s with heldReqs := delFirst (fun h => h.why == .pairing i.val) s.heldReqs } h.req true := by
  have hsome : ¬ (s.roomForPair i).isNone = true := by simpa [Option.isSome_iff_ne_none] using hroom
  simp only [State.applyHeldWrite, hheld, if_neg hsome]

/-- The oldest queued delta of a unit that no test runs in is folded into the page that it reads, and its writes complete (R328). -/
theorem State.foldOldest_of_read {s u : State} {i : Fin 16} {f : TierFold} {d : List Byte} (hfree : (s.inst[i]).test.running = false)
    (hfold : s.tierFolds.find? (fun f => decide (keyInst f.page = i)) = some f)
    (hread : State.rawTier { s with tierFolds := delFirst (fun f => decide (keyInst f.page = i)) s.tierFolds } f.page = (u, some d)) :
    s.foldOldest i = (u.storePage f.page (xorBytes d f.delta) noTags).writesDone f.reqs := by
  simp only [State.foldOldest, hfree, hfold, Bool.false_eq_true, if_false, State.applyFold, hread]

/-- A merge entry that has been idle for 1 µs is evicted (R389). -/
theorem State.evictIdle_of_idle {s : State} {page : Nat} {m : Merge} (hm : s.mergeOf page = some m) (hidle : m.last + 1000 ≤ s.now) :
    s.evictIdle page = s.evict page := by
  simp only [State.evictIdle, hm, Config.mergeIdle]
  exact if_neg (Nat.not_lt.2 hidle)

/-- Settles O37: each event finds its work first in line and nothing that keeps it back. -/
theorem deferredMemoryCommandsComplete : Obligations.DeferredMemoryCommandsComplete := by
  unfold Obligations.DeferredMemoryCommandsComplete
  refine ⟨fun e i h s hheld hroom => ?_, fun e i f d u s hfree hfold hread => ?_, fun e page m s hm hidle => ?_⟩
  · exact congrArg (fun t : State => Host.Outcome.next t.finish) (State.applyHeldWrite_of_room hheld hroom)
  · exact congrArg (fun t : State => Host.Outcome.next t.finish) (State.foldOldest_of_read hfree hfold hread)
  · exact congrArg (fun t : State => Host.Outcome.next t.finish) (State.evictIdle_of_idle hm hidle)

end Sys2Proof.Machine

/-! PROOFS. The commands of the step cycle: STEP_OPEN, DRAIN_CLOSE, CROWN and ROLLBACK (R79 to R85, R141 to R143, R164 to R172, R190,
R191). -/

namespace Sys2Proof.Machine

theorem State.hold_cu (s : State) (c : Cmd) (j : Job) : (s.hold c j).cu = s.cu := by
  unfold State.hold
  split <;> rfl

/-! ### Opening and closing a step -/

/-- The chip as a step opens: where no context has a step under way, the Bexli weight of the CU takes effect (R98, R571). -/
def State.weighedIdle (s : State) : State :=
  if s.coded.all (fun p => p.2.phase == Phase.crowned) then s.modCu (fun c => { c with bexliWeight := c.weight }) else s

/-- A context as its step `step` opens with its drain window `window`, of which `target` percent lead to the governors' target, from
`start` (R83, R85, R142, R143). -/
def Coded.stepOpened (k : Coded) (step : Word) (start window target : Nat) : Coded :=
  { k with s := step, sInv := ~~~step, port := step, portInv := ~~~step, phase := .opened, drainStart := start,
           drainDeadline := start + window, govTarget := start + window * target / 100, deadlinePast := false, drained := false,
           sent := [], formed := [], lostInStep := false, rolling := false }

theorem State.weighedIdle_window (s : State) : s.weighedIdle.cu.drainWindow = s.cu.drainWindow ∧
    s.weighedIdle.cu.drainTarget = s.cu.drainTarget := by
  unfold State.weighedIdle
  split <;> exact ⟨rfl, rfl⟩

section
variable {s : State} {c : Cmd} {k : Coded} (hopen : s.ctxOpen c.ctx = true) (hk : s.codedOf c.ctx = some k)
include hopen hk

/-- A crowned context that takes steps opens step C + 1 where nothing withholds it (R83, R141 to R143). -/
theorem State.opStepOpen_of_crowned
    (hsteps : (s.gloveOf c.ctx).any (fun gl => gl.state.steps) = true ∨ k.asWitness.isSome = true) (hstopped : k.stopped = false)
    (hphase : k.phase = .crowned) (hnext : c.u64 16 = k.c.toNat + 1) (hrange : c.u64 16 < 2 ^ 56) (hswept : k.sweeping = false)
    (hband : s.bandOk = true) (hfree : s.stepWithheld c.ctx k = false) :
    s.opStepOpen c = ((s.weighedIdle.modCoded c.ctx (fun k => k.stepOpened (BitVec.ofNat 64 (c.u64 16))
      (if c.u64 24 = 0 then s.now else c.u64 24) s.cu.drainWindow s.cu.drainTarget)).restartRooted c.ctx).post c 0 (c.u64 16) := by
  obtain ⟨hwindow, htarget⟩ := s.weighedIdle_window
  have hstep : ¬(c.u64 16 ≠ k.c.toNat + 1 ∨ 2 ^ 56 ≤ c.u64 16) := by omega
  have hnone : ¬(k.phase = .discarding ∨ k.sweeping = true ∨ (!s.bandOk) = true ∨ s.stepWithheld c.ctx k = true) := by
    simp [hphase, hswept, hband, hfree]
  have hidle : ¬(k.phase ≠ .crowned ∧ k.phase ≠ .discarding) := fun h => h.1 hphase
  rw [← hwindow, ← htarget]
  cases hgl : s.gloveOf c.ctx with
  | none =>
    have hwitness : k.asWitness.isSome = true := hsteps.resolve_left (by simp [hgl])
    simp only [State.opStepOpen, hopen, hk, hgl, hwitness, hstopped, if_neg hstep, if_neg hnone, if_neg hidle, Bool.not_true,
      Bool.false_or, Bool.false_eq_true, if_false]
    rfl
  | some gl =>
    have htakes : (gl.state.steps || k.asWitness.isSome) = true := by simpa [hgl] using hsteps
    simp only [State.opStepOpen, hopen, hk, hgl, htakes, hstopped, if_neg hstep, if_neg hnone, if_neg hidle, Bool.not_true,
      Bool.false_eq_true, if_false]
    rfl

/-- DRAIN_CLOSE of the open step closes it, forms every delta that has a write and waits for the drain (R79, R80, R164). -/
theorem State.opDrainClose_of_opened (hphase : k.phase = .opened) (hstep : c.u64 16 = k.s.toNat) :
    let w := (s.applyPairingWrites c.ctx).modCoded c.ctx (fun k => { k with phase := .closed })
    s.opDrainClose c = State.hold (State.formAll { w with pairs := w.pairs.filter (fun p => p.ctx != c.ctx || p.cover != 0) }) c
      (.drainClose c.ctx) := by
  simp [State.opDrainClose, hopen, hk, hphase, hstep]

/-! ### The vote of a closed step -/

/-- The vote on a closed step as CROWN begins it (R166 to R172): the chip is entry `mine` of the table, and its window closes at `close`
by the timing registers of `r`. -/
def CrownVote.begun (k : Coded) (gl : Glove) (entries : List (Nat × Coord)) (mine : Nat) (table : List Byte) (start : Nat) (r : Cu) :
    CrownVote :=
  { step := k.stepField, parts := gl.live, entries := entries, mine := mine, tableHash := sha384Word table,
    base := start + r.voteTimeout, tmo := r.voteTimeout, d := r.crownDist, guard := r.crownGuard, cast := none, holdFrom := none,
    witnessUntil := 0, testHold := 0, drainedAt := if k.drained then k.drainedAt else 0, recs := [], kids := [], sentUp := none,
    ended := false, skew := false, badTable := false }

/-- CROWN of a closed step whose table names the glove once puts it into VOTING (R166 to R172, R476). -/
theorem State.opCrown_of_closed {gl : Glove} {bytes : List Byte} {entries : List (Nat × Coord)} {mine : Nat} {u : State}
    (hgl : s.gloveOf c.ctx = some gl) (hstopped : k.stopped = false) (hphase : k.phase = .closed) (hstep : c.u64 16 = k.s.toNat)
    (htable : s.readTable c.ctx (c.u64 32) = (u, some (bytes, entries)))
    (hmine : (List.range entries.length).filter (fun e => (entries.getD e (0, ⟨0, 0, 0⟩)).1 == gl.g.id) = [mine]) :
    let v := CrownVote.begun k gl entries mine bytes (if c.u64 24 = 0 then k.drainDeadline else c.u64 24) u.cu
    s.opCrown c = ((u.endCrown c.ctx ((k.vote.map (·.step)).getD v.step)).modCoded c.ctx (fun k =>
      { k with phase := .voting, vote := some v })).hold c (.crown c.ctx) := by
  simp only [State.opCrown, hopen, hk, hgl, hstopped, hphase, hstep, htable, hmine, Bool.not_true, Bool.false_eq_true, if_false, ne_eq,
    not_true_eq_false]
  rfl

/-! ### Rollback, by the phase of the context -/

theorem State.opRollback_of_crowned (hphase : k.phase = .crowned) : s.opRollback c = s.post c 0 0 := by
  simp [State.opRollback, hopen, hk, hphase, stOk]

theorem State.opRollback_of_open (hphase : k.phase = .opened ∨ k.phase = .closed) :
    s.opRollback c = (s.hold c (.rollback c.ctx)).beginDiscard c.ctx s.now := by
  rcases hphase with hphase | hphase <;> simp [State.opRollback, hopen, hk, hphase]

theorem State.opRollback_of_discarding (hphase : k.phase = .discarding) : s.opRollback c = s.hold c (.rollback c.ctx) := by
  simp [State.opRollback, hopen, hk, hphase]

theorem State.opRollback_of_voting (hphase : k.phase = .voting) :
    s.opRollback c = (s.modCoded c.ctx (fun k => { k with rolling := true })).hold c (.rollback c.ctx) := by
  simp [State.opRollback, hopen, hk, hphase]

/-- ROLLBACK of a voted step casts NO (R190). -/
theorem State.opRollback_of_voted {gl : Glove} (hphase : k.phase = .voted) (hgl : s.gloveOf c.ctx = some gl)
    (hevac : s.cu.evac = false) : s.opRollback c =
      ((s.modCoded c.ctx (fun k => { k with rolling := true })).hold c (.rollback c.ctx)).castVote c.ctx gl .no 0x14 := by
  simp [State.opRollback, hopen, hk, hphase, hgl, State.hold_cu, hevac, stBusy]

/-- ROLLBACK of an undecided step ends its vote and discards it (R190). -/
theorem State.opRollback_of_undecided (hphase : k.phase = .undecided) :
    s.opRollback c = ((s.modCoded c.ctx (fun k => k.modVote (fun v => { v with ended := true }))).hold c (.rollback c.ctx)).beginDiscard
      c.ctx s.now := by
  simp [State.opRollback, hopen, hk, hphase]

theorem State.opRollback_of_decided (hphase : k.phase = .decided) : s.opRollback c = s.post c 0x14 0 := by
  simp [State.opRollback, hopen, hk, hphase, stBusy]

end

/-- Settles O43: each row takes its packet and runs the branch of its operation in which every check passes; ROLLBACK goes by the phase. -/
theorem stepCommandsComplete : Obligations.StepCommandsComplete := by
  unfold Obligations.StepCommandsComplete
  refine ⟨?_, ?_, ?_, ?_⟩
  · intro e c k s b htakes hopen hk hsteps hstopped hphase hnext hrange hswept hband hfree start w
    have hop := State.opStepOpen_of_crowned hopen hk hsteps hstopped hphase hnext hrange hswept hband hfree
    exact congrArg Host.Outcome.next (State.row_of_takes htakes hop)
  · intro e c k s b htakes hopen hk hphase hstep w v
    exact congrArg Host.Outcome.next (State.row_of_takes htakes (State.opDrainClose_of_opened hopen hk hphase hstep))
  · intro e c k gl bytes entries mine u s b htakes hopen hk hgl hstopped hphase hstep htable hmine v
    have hop := State.opCrown_of_closed hopen hk hgl hstopped hphase hstep htable hmine
    exact congrArg Host.Outcome.next (State.row_of_takes htakes hop)
  · intro e c k s b htakes hopen hk
    refine ⟨fun hphase => ?_, fun hphase => ?_, fun hphase => ?_, fun hphase => ?_, fun gl hphase hgl hevac => ?_, fun hphase => ?_,
      fun hphase => ?_⟩
    · exact congrArg Host.Outcome.next (State.row_of_takes htakes (State.opRollback_of_crowned hopen hk hphase))
    · exact congrArg Host.Outcome.next (State.row_of_takes htakes (State.opRollback_of_open hopen hk hphase))
    · exact congrArg Host.Outcome.next (State.row_of_takes htakes (State.opRollback_of_discarding hopen hk hphase))
    · exact congrArg Host.Outcome.next (State.row_of_takes htakes (State.opRollback_of_voting hopen hk hphase))
    · exact congrArg Host.Outcome.next (State.row_of_takes htakes (State.opRollback_of_voted hopen hk hphase hgl hevac))
    · exact congrArg Host.Outcome.next (State.row_of_takes htakes (State.opRollback_of_undecided hopen hk hphase))
    · exact congrArg Host.Outcome.next (State.row_of_takes htakes (State.opRollback_of_decided hopen hk hphase))

end Sys2Proof.Machine

/-! PROOFS. The time of an event: no work on memory, and no completion of a command, moves the band count (R47, R568). -/

namespace Sys2Proof.Machine

theorem State.foldl_now {α : Type} {f : State → α → State} (hf : ∀ s x, (f s x).now = s.now) (l : List α) (s : State) :
    (l.foldl f s).now = s.now :=
  List.foldlRecOn (motive := fun t : State => t.now = s.now) l f rfl fun t ht x _ => (hf t x).trans ht

section
variable (s : State)

@[simp] theorem State.modInst_now (i : Fin 16) (f : Inst → Inst) : (s.modInst i f).now = s.now := rfl

@[simp] theorem State.modCoded_now (ctx : Nat) (f : Coded → Coded) : (s.modCoded ctx f).now = s.now := rfl

@[simp] theorem State.raise_now (u b : Nat) (d0 d1 : Word) : (s.raise u b d0 d1).now = s.now := by
  unfold State.raise State.raiseAt State.modFaults
  split <;> rfl

/-! The lane work of a page's parity (R402 to R405). -/

@[simp] theorem State.haltCoding_now (i : Fin 16) (lane : Nat) : (s.haltCoding i lane).now = s.now :=
  State.raise_now (s.modInst i (fun x => { x with halted := true })) i.val fTest 7 (BitVec.ofNat 64 lane)

@[simp] theorem State.retireLane_now (i : Fin 16) (lane : Nat) : (s.retireLane i lane).now = s.now := by
  unfold State.retireLane
  dsimp only
  split <;> simp

@[simp] theorem State.shadowFault_now (i : Fin 16) (lane nb outcome product : Nat) :
    (s.shadowFault i lane nb outcome product).now = s.now := State.raise_now ..

@[simp] theorem State.checked_now (i : Fin 16) (lane product : Nat) (y : List Byte) : (s.checked i lane product y).1.now = s.now := by
  unfold State.checked
  dsimp only
  have hev : ({ s with ev := { s.ev with lane := none } } : State).now = s.now := rfl
  split
  · rfl
  split
  · rfl
  split
  · exact hev
  split
  · split <;> simp [hev]
  split
  · simp [hev]
  · split <;> simp [hev]

@[simp] theorem State.storePage_now (k : Nat) (data : List Byte) (t : Tags) : (s.storePage k data t).now = s.now := by
  have hchecked := s.checked_now (keyInst k) (s.codeLane k) pPage ((pageParity (padTo 4096 data)).1 ++ (pageParity (padTo 4096 data)).2)
  unfold State.storePage
  dsimp only
  split
  · rfl
  split
  · next heq => rwa [heq] at hchecked
  · next heq =>
    rw [heq] at hchecked
    exact hchecked

/-! Reading a page (R36, R368 to R380). -/

@[simp] theorem State.countCe_now (i : Fin 16) (lane n : Nat) : (s.countCe i lane n).now = s.now := by
  unfold State.countCe
  dsimp only
  split
  · rfl
  · split <;> simp

@[simp] theorem State.countBursts_now (k : Nat) (bs : List Burst) (pass : Bool) : (s.countBursts k bs pass).now = s.now :=
  State.foldl_now (fun s b => by
    dsimp only
    split
    · simp
    · split <;> simp) bs s

@[simp] theorem State.corrected_now (k : Nat) : (s.corrected k).now = s.now := by
  have hraised := State.raise_now (s.modInst (keyInst k) (fun x => { x with pageCe := satAdd 32 x.pageCe 1 })) (keyInst k).val fPageCe
    (BitVec.ofNat 64 (keyPage k)) ((s.modInst (keyInst k) (fun x => { x with pageCe := satAdd 32 x.pageCe 1 })).pageLocator k)
  unfold State.corrected
  dsimp only
  split
  · exact hraised
  · exact hraised

@[simp] theorem State.uncorrectable_now (k : Nat) : (s.uncorrectable k).now = s.now := by simp [State.uncorrectable]

@[simp] theorem State.decodePage_now (k : Nat) : (s.decodePage k).1.now = s.now := by
  unfold State.decodePage
  dsimp only
  split
  · simp
  split
  · simp
  split
  · simp
  split
  · simp
  split
  · simp
  split
  · simp
  split
  · split <;> simp
  · simp

@[simp] theorem State.fetchPage_now (k : Nat) : (s.fetchPage k).1.now = s.now := s.decodePage_now k

/-! Padun's write (R386 to R391). -/

@[simp] theorem State.patchPage_now (k : Nat) (f : List Byte → List Byte) : (s.patchPage k f).now = s.now := by
  have hfetched := s.fetchPage_now k
  unfold State.patchPage
  split <;> next heq => simpa [heq, State.partialInit] using hfetched

@[simp] theorem State.dropMerge_now (k : Nat) : (s.dropMerge k).now = s.now := rfl

@[simp] theorem State.evictPlain_now (k : Nat) : (s.evictPlain k).now = s.now := by
  unfold State.evictPlain
  split <;> simp

@[simp] theorem State.storePass_now (k off : Nat) (d : List Byte) : (s.storePass k off d).now = s.now := rfl

theorem State.fillOne_now (r : Region) (f : Fill) (k : Nat) : (s.fillOne r f k).now = s.now := by
  have hstored : (if r.kind.pageCoded then s.storePage k (patternPage f.pattern) noTags
      else s.storePass k 0 (patternPage f.pattern)).now = s.now := by
    split <;> simp
  exact hstored

@[simp] theorem State.fillTo_now (k : Nat) : (s.fillTo k).now = s.now := by
  unfold State.fillTo
  split
  · rfl
  · next r _ =>
    split
    · rfl
    · next f _ =>
      split
      · exact State.foldl_now (fun s q => s.fillOne_now r f q) _ s
      · rfl

@[simp] theorem State.mergeInto_now (k off : Nat) (d : List Byte) (reqs : List Nat) : (s.mergeInto k off d reqs).now = s.now := rfl

@[simp] theorem State.padunWrite_now (a : Nat) (data : List Byte) : (s.padunWrite a data).now = s.now := by
  unfold State.padunWrite
  refine State.foldl_now (fun s p => ?_) _ s
  dsimp only
  split
  · simp
  split
  · simp
  split
  · simp
  · split <;> simp

/-! The completion of commands (R454, R463). -/

@[simp] theorem State.modRing_now (ring : Nat) (f : Ring → Ring) : (s.modRing ring f).now = s.now := by
  unfold State.modRing
  split <;> rfl

@[simp] theorem State.emit_now (o : Out) : (s.emit o).now = s.now := rfl

@[simp] theorem State.putEntry_now (c : Completion) (cqBase log2 posted : Nat) : (s.putEntry c cqBase log2 posted).now = s.now := by
  simp [State.putEntry, State.writeCount]

@[simp] theorem State.writeEntry_now (c : Completion) : (s.writeEntry c).now = s.now := by
  unfold State.writeEntry
  split <;> simp

@[simp] theorem State.dropPend_now (c : Cmd) : (s.dropPend c).now = s.now := rfl

@[simp] theorem State.setFence_now (n : Nat) : (s.setFence n).now = s.now := rfl

@[simp] theorem State.postAt_now (c : Cmd) (status result detail stamp : Nat) : (s.postAt c status result detail stamp).now = s.now := by
  unfold State.postAt
  dsimp only
  split
  · simp
  · split <;> simp

@[simp] theorem State.endJobs_now (p : Job → Bool) (status result stamp : Nat) : (s.endJobs p status result stamp).now = s.now := by
  unfold State.endJobs
  exact State.foldl_now (fun s q => by rw [State.postAt_now]) _ s

end

end Sys2Proof.Machine

/-! PROOFS. The crown and its timers (R64, R66, R84, R139, R180 to R183, R186, R189, R242, R399, R559, R576). -/

namespace Sys2Proof.Machine

/-! ### The coded context of a number -/

theorem State.ctx_of_codedOf {s : State} {ctx : Nat} {k : Coded} (hk : s.codedOf ctx = some k) : k.ctx = ctx := by
  obtain ⟨p, hp, rfl⟩ := Option.map_eq_some_iff.1 hk
  have hctx : (p.2.ctx == ctx) = true := List.find?_some (p := fun q : Nat × Coded => q.2.ctx == ctx) hp
  exact eq_of_beq hctx

theorem State.codedOf_congr {s t : State} (h : t.coded = s.coded) (ctx : Nat) : t.codedOf ctx = s.codedOf ctx := by
  rw [State.codedOf, State.codedOf, h]

/-- A change of a coded context that keeps its number is what is then found under the number. -/
theorem State.codedOf_modCoded_self (s : State) {ctx : Nat} {f : Coded → Coded} (hf : ∀ k, (f k).ctx = k.ctx) :
    (s.modCoded ctx f).codedOf ctx = (s.codedOf ctx).map f := by
  simp only [State.codedOf, State.modCoded_fields]
  induction s.coded with
  | nil => rfl
  | cons p l ih =>
    rw [List.map_cons]
    by_cases hp : (p.2.ctx == ctx) = true
    · have hfp : ((f p.2).ctx == ctx) = true := by rwa [hf]
      rw [if_pos hp, List.find?_cons_of_pos (by exact hfp), List.find?_cons_of_pos (by exact hp)]
      rfl
    · rw [if_neg hp, List.find?_cons_of_neg (by exact hp), List.find?_cons_of_neg (by exact hp)]
      exact ih

theorem State.codedOf_raise (s : State) (u b : Nat) (d0 d1 : Word) (ctx : Nat) : (s.raise u b d0 d1).codedOf ctx = s.codedOf ctx := by
  rw [State.raise_eq]
  rfl

/-- A context as it stands once value `v` has stopped it (R400). -/
def Coded.stoppedFor (k : Coded) (v : Nat) : Coded :=
  if k.found.contains v then k else { k with stopped := true, found := v :: k.found }

theorem Coded.mem_found_stoppedFor (k : Coded) (v : Nat) : v ∈ (k.stoppedFor v).found := by
  unfold Coded.stoppedFor
  split
  · next h => exact List.contains_iff_mem.1 h
  · exact List.mem_cons_self

theorem Coded.stoppedFor_s (k : Coded) (v : Nat) : (k.stoppedFor v).s = k.s := by
  unfold Coded.stoppedFor
  split <;> rfl

theorem State.codedOf_stopCtx {s : State} {ctx : Nat} {k : Coded} (hk : s.codedOf ctx = some k) (v : Nat) :
    (s.stopCtx ctx v).codedOf ctx = some (k.stoppedFor v) := by
  simp only [State.stopCtx, hk, Coded.stoppedFor]
  split
  · exact hk
  · rw [State.codedOf_modCoded_self _ (by exact fun _ => rfl), State.codedOf_raise, hk]
    rfl

/-! ### The crown takes effect -/

/-- The check of C and S changes neither (R399). -/
theorem State.codedOf_checkSteps {s : State} {ctx : Nat} {k : Coded} (hk : s.codedOf ctx = some k) :
    ∃ k', (s.checkSteps ctx).codedOf ctx = some k' ∧ k'.s = k.s := by
  simp only [State.checkSteps, hk]
  split
  · exact ⟨k, hk, rfl⟩
  · exact ⟨_, State.codedOf_stopCtx hk 2, k.stoppedFor_s 2⟩

/-- The check of a bank changes no context: a record that fails it only raises a fault (R91). -/
theorem State.checkBank_coded (s : State) (ctx : Nat) (l : List (Nat × List Byte)) : (s.checkBank ctx l).1.coded = s.coded := by
  unfold State.checkBank
  refine List.foldlRecOn (motive := fun acc : State × List (Nat × List Byte) => acc.1.coded = s.coded) l _ rfl fun acc hacc p _ => ?_
  split
  · exact hacc
  · rw [State.raise_eq]
    exact hacc

/-- A context at its crown (R84, R139, R180 to R182): C = S, CROWNED at `T` with attempt 0 and the bank of the decision. -/
def Coded.crownedAt (k : Coded) (T : Nat) (bank : List (Nat × List Byte)) : Coded :=
  { (k.setC k.s).setBank k.s.toNat bank with
    phase := .crowned, attempt := 0, byCrown := true, expect := k.sent, crownTime := T, sweeping := true, drained := false,
    groupsHash := 0, hostedHash := [], restored := none, lostInStep := false, badHand := false, unfolded := [], rolling := false,
    decision := none, vote := none, witness := k.witness.filter (fun x => !x.completed) }

/-- The CU at a crown at `T`: the gap since the crown before it is known from the second one on (R243). -/
def Cu.crownedAt (c : Cu) (T : Nat) : Cu :=
  { c with lastCrown := some T, gapOpen := true,
           gap := match c.gapOpen, c.lastCrown with
             | true, some u => some (T - u)
             | _, _ => c.gap }

/-- The chip at the crown of a context at `T`. -/
def State.crownedAt (s : State) (ctx T : Nat) (bank : List (Nat × List Byte)) : State :=
  (s.modCoded ctx (·.crownedAt T bank)).modCu (·.crownedAt T)

theorem Coded.setBank_ctx (k : Coded) (n : Nat) (b : List (Nat × List Byte)) : (k.setBank n b).ctx = k.ctx := by
  unfold Coded.setBank
  split <;> rfl

theorem State.codedOf_crownedAt {s : State} {ctx T : Nat} {bank : List (Nat × List Byte)} {k : Coded} (hk : s.codedOf ctx = some k) :
    (s.crownedAt ctx T bank).codedOf ctx = some (k.crownedAt T bank) := by
  have hctx : ∀ k : Coded, (k.crownedAt T bank).ctx = k.ctx := fun k => (k.setC k.s).setBank_ctx k.s.toNat bank
  have hmod := State.codedOf_modCoded_self s (ctx := ctx) hctx
  rw [hk] at hmod
  exact hmod

theorem Coded.crownedAt_c (k : Coded) (T : Nat) (bank : List (Nat × List Byte)) : (k.crownedAt T bank).c = k.s :=
  (k.setC k.s).setBank_c k.s.toNat bank

theorem Coded.crownedAt_cInv (k : Coded) (T : Nat) (bank : List (Nat × List Byte)) : (k.crownedAt T bank).cInv = ~~~k.s :=
  (k.setC k.s).setBank_cInv k.s.toNat bank

theorem Coded.crownedAt_s (k : Coded) (T : Nat) (bank : List (Nat × List Byte)) : (k.crownedAt T bank).s = k.s :=
  (k.setC k.s).setBank_s k.s.toNat bank

section
variable {s : State} {ctx T : Nat} {k : Coded} {d : Decision} (hk : s.codedOf ctx = some k) (hphase : k.phase = .decided)
  (hd : k.decision = some d) (htime : d.time = some T)
include hk hphase hd htime

/-- Nothing of the crown happens before T (R180). -/
theorem State.crownDue_of_early (hearly : s.now < T) : s.crownDue ctx = s := by
  simp only [State.crownDue, hk, hphase, hd, Option.bind_some, htime, if_pos hearly]

/-- At T the context is crowned with the records of the decision that pass R91; CROWN completes with the stamp T, and the hatbox and the
handover that are due start (R180 to R182, R243, R258). -/
theorem State.crownDue_of_come {gl : Glove} {bank : List (Nat × List Byte)} {v : State} (hgl : s.gloveOf ctx = some gl) (hcome : T ≤ s.now)
    (hbank : (s.checkSteps ctx).checkBank ctx d.bank = (v, bank)) :
    let w := ((v.crownedAt ctx T bank).crownWeights ctx).endJobs (fun j => j == .crown ctx) 0 (crownResult d) T
    s.crownDue ctx = (if d.hbStart then w.startHatbox ctx d.hbSlot T else w).beginHandover ctx := by
  have hnow : s.crownDue ctx = s.crownNow ctx := by
    simp only [State.crownDue, hk, hphase, hd, Option.bind_some, htime, if_neg (Nat.not_lt.2 hcome)]
  rw [hnow]
  simp only [State.crownNow, hk, hgl, hd, htime, Option.getD_some, hbank]
  rfl

end

/-- Settles O45: the decided context's T has come or not, and neither check before the crown changes S. -/
theorem crownTakesEffectCompletes : Obligations.CrownTakesEffectCompletes := by
  unfold Obligations.CrownTakesEffectCompletes
  refine ⟨?_, ?_⟩
  · intro e ctx T k gl d bank v s b hk hgl hphase hd htime hcome hbank u w
    have hcrown := State.crownDue_of_come hk hphase hd htime hgl hcome hbank
    obtain ⟨k₁, hk₁, hs₁⟩ := State.codedOf_checkSteps hk
    have hcoded : v.coded = (b.checkSteps ctx).coded := by
      have hkept := State.checkBank_coded (b.checkSteps ctx) ctx d.bank
      rwa [hbank] at hkept
    have hk₂ : u.codedOf ctx = some (k₁.crownedAt T bank) :=
      State.codedOf_crownedAt ((State.codedOf_congr hcoded ctx).trans hk₁)
    refine ⟨congrArg (fun t : State => Host.Outcome.next t.finish) hcrown, _, hk₂, ?_, ?_, ?_, rfl, rfl, rfl, rfl, rfl, rfl⟩
    · rw [Coded.crownedAt_s, hs₁]
    · rw [Coded.crownedAt_c, hs₁]
    · rw [Coded.crownedAt_cInv, hs₁]
  · intro e ctx T k d s b hk hphase hd htime hearly
    exact congrArg (fun t : State => Host.Outcome.next t.finish) (State.crownDue_of_early hk hphase hd htime hearly)

/-! ### The sweep -/

theorem State.stitch_modStitch_self (s : State) (r i : Nat) (f : Stitch → Stitch) : (s.modStitch r i f).stitch r i = f (s.stitch r i) := by
  rw [State.stitch, (State.modStitch_fields s r i f).2.2.2.2.2.2.2.2.2.2.1, Tab.getD]
  split
  · next hmapped => rw [hmapped, Tab.del, Tab.get_filter_of_neg (by simp), Option.getD_none]
  · rw [Tab.get_set_self, Option.getD_some]

/-- The sweep of an entry whose crowned hand is known (R66, R180): it names that hand, is untouched, and has content. -/
theorem State.stitch_sweepStitch {s u : State} {r : Region} {idx : Nat} {right : Bool} (mark : Bool)
    (hhand : s.crownedHand r idx = (u, some right)) : (s.sweepStitch mark r idx).stitch r.num idx =
      { u.stitch r.num idx with hand := handBits right, touch := false, lacks := false, copy := (u.stitch r.num idx).copy || mark } := by
  rw [State.sweepStitch, hhand]
  exact State.stitch_modStitch_self u r.num idx _

/-- A region hosts the member whose seat is under admission by the chip (R242). -/
def Coded.hostsAdmitted (k : Coded) (r : Region) : Bool := match k.admission with
  | some a => !a.isNew && r.kind == .hosting a.member
  | none => false

/-- The message is a copy in flight of a stitch of the seat under admission (R242). -/
def Coded.copiesAdmitted (k : Coded) (ctx : Nat) (x : Sent) : Bool := x.ctx == ctx && x.msg.type == tDarnDone && match k.admission with
  | some a => !a.isNew && x.msg.chSeat 0 == a.member && x.member == 0xFD
  | none => false

theorem Coded.hostsAdmitted_eq (k : Coded) : k.hostsAdmitted = fun r => k.admission.any (fun a => !a.isNew && r.kind == .hosting a.member) :=
  funext fun r => by
    rw [Coded.hostsAdmitted]
    cases k.admission <;> rfl

theorem Coded.copiesAdmitted_eq (k : Coded) (ctx : Nat) : k.copiesAdmitted ctx = fun x =>
    x.ctx == ctx && x.msg.type == tDarnDone && k.admission.any (fun a => !a.isNew && x.msg.chSeat 0 == a.member && x.member == 0xFD) :=
  funext fun x => by
    rw [Coded.copiesAdmitted]
    cases k.admission <;> rfl

/-- The end of a sweep that runs (R64, R183, R242). -/
theorem State.finishSweep_of_sweeping {s : State} {ctx : Nat} {k : Coded} (hk : s.codedOf ctx = some k) (hsweep : k.sweeping = true) :
    let w := s.writeFolds ctx
    let u := (w.touched ctx).foldl (fun t p => t.sweepStitch (k.hostsAdmitted p.1) p.1 p.2) w
    s.finishSweep ctx = (((u.dropSent (k.copiesAdmitted ctx)).modCoded ctx (fun k => { k with sweeping := false })).testGap).retryDeltas := by
  have hruns : ¬(!k.sweeping) = true := by simp [hsweep]
  simp only [State.finishSweep, hk, if_neg hruns]
  rfl

/-! ### The bounds of a vote and of a hold -/

section
variable {s : State} {ctx : Nat} {k : Coded} {gl : Glove} {v : CrownVote} (hk : s.codedOf ctx = some k) (hgl : s.gloveOf ctx = some gl)
  (hv : k.vote = some v)
include hk hgl hv

/-- A voted member without a decision by its close and the vote timeout is UNDECIDED (R189). -/
theorem State.passUndecided_of_late (hended : v.ended = false) (hlate : v.close gl + v.tmo ≤ s.now) (hphase : k.phase = .voted) :
    s.passUndecided ctx = ((s.modCoded ctx (fun k => { k with phase := .undecided })).raise 16 24
      (packWord [(0, 0xFFFF), (16, 1), (32, ctx)]) v.step).endJobs (fun j => j == .crown ctx) 0x44 0 s.now := by
  have hguard : ¬(k.phase ≠ .voted ∨ v.ended = true ∨ s.now < v.close gl + v.tmo) := by simp [hphase, hended, hlate]
  simp only [State.passUndecided, hk, hgl, hv, if_neg hguard, State.raise_now, State.modCoded_now]
  rfl

/-- A voting member by then discards its step (R576). -/
theorem State.passVoting_of_late (hended : v.ended = false) (hlate : v.close gl + v.tmo ≤ s.now) (hphase : k.phase = .voting) :
    s.passVoting ctx = (((s.modCoded ctx (fun k => k.modVote (fun v => { v with ended := true }))).raise 16 24
      (packWord [(0, 0xFFFF), (16, 1), (32, ctx)]) v.step).endJobs (fun j => j == .crown ctx) 0x44 0 s.now).beginDiscard ctx s.now := by
  have hguard : ¬(v.ended = true ∨ s.now < v.close gl + v.tmo ∨
      (!(k.phase == .voting || (v.cast == some .no && k.phase != .voted && k.phase != .undecided))) = true) := by
    simp [hphase, hended, hlate]
  simp only [State.passVoting, hk, hgl, hv, if_neg hguard, if_pos hphase, State.endJobs_now, State.raise_now, State.modCoded_now]
  rfl

/-- A hatbox hold ends at its bound: the copy is abandoned (R186). -/
theorem State.boundHatbox_of_past {since : Nat} (hcast : v.cast = some .hold) (hsince : v.holdFrom = some since)
    (hhold : k.hatboxHold = true) (hpast : since + 2000000000 ≤ s.now) : s.boundHatbox ctx = s.abandonCopy ctx hbBound gl.g.me := by
  have hguard : ¬((!k.hatboxHold) = true ∨ s.now < since + Config.hatboxHold) := by simp [hhold, Config.hatboxHold, hpast]
  simp only [State.boundHatbox, hk, hgl, hv, hcast, hsince, if_neg hguard]

/-- A suspect role that has not completed ends unresolved (R186). -/
def State.endSuspect (ctx : Nat) (s : State) (x : Witness) : State :=
  if x.completed then s else s.endWitness ctx x.w roleSuspect 0x37 (x.result.getD 0xFF)

/-- A context whose suspect roles of the step have the verdict "unresolved". -/
def Coded.suspectsUnresolved (k : Coded) : Coded :=
  { k with witness := k.witness.map (fun x => if x.role == roleSuspect && x.step == k.s.toNat then { x with verdict := some 2 } else x) }

/-- A witness hold ends at its bound: every suspect role of the step is unresolved (R186). -/
theorem State.boundWitness_of_past {since : Nat} (hcast : v.cast = some .hold) (hsince : v.holdFrom = some since)
    (hhold : k.witnessHold = true) (hpast : v.witnessUntil ≤ s.now) : s.boundWitness ctx =
      (k.suspectRoles.foldl (State.endSuspect ctx) (s.unresolved ctx 2 gl k.s.toNat)).modCoded ctx Coded.suspectsUnresolved := by
  have hguard : ¬((!k.witnessHold) = true ∨ s.now < v.witnessUntil) := by simp [hhold, hpast]
  simp only [State.boundWitness, hk, hgl, hv, hcast, hsince, if_neg hguard]
  rfl

end

/-- A test that runs on a crown's hold is abandoned from T − G on (R186, R559). -/
theorem State.boundTest_of_near {s : State} {ctx : Nat} {k : Coded} {d : Decision} (hk : s.codedOf ctx = some k)
    (hd : k.decision = some d) (hnear : (d.time).getD 0 ≤ s.now + k.voteGuard s.cu.crownGuard) : s.boundTest ctx = s.abandonTests := by
  simp only [State.boundTest, hk, hd, if_neg (Nat.not_lt.2 hnear)]

/-- Settles O46: each timer finds its cause due; the sweep ends as its definition says, each entry by its crowned hand. -/
theorem crownTimersComplete : Obligations.CrownTimersComplete := by
  unfold Obligations.CrownTimersComplete
  refine ⟨?_, ?_, ?_, ?_, ?_⟩
  · intro e ctx k s b hk hsweep hosted w u v
    have hdone := State.finishSweep_of_sweeping hk hsweep
    rw [Coded.hostsAdmitted_eq, Coded.copiesAdmitted_eq] at hdone
    exact congrArg (fun t : State => Host.Outcome.next t.finish) hdone
  · intro s mark right r idx u hhand
    exact State.stitch_sweepStitch mark hhand
  · intro e ctx k gl v s b hk hgl hv hended hlate
    refine ⟨fun hphase => ?_, fun hphase => ?_⟩
    · exact congrArg (fun t : State => Host.Outcome.next t.finish) (State.passUndecided_of_late hk hgl hv hended hlate hphase)
    · exact congrArg (fun t : State => Host.Outcome.next t.finish) (State.passVoting_of_late hk hgl hv hended hlate hphase)
  · intro e ctx since k gl v s b hk hgl hv hcast hsince
    refine ⟨fun hhold hpast => ?_, fun hhold hpast => ?_⟩
    · exact congrArg (fun t : State => Host.Outcome.next t.finish) (State.boundHatbox_of_past hk hgl hv hcast hsince hhold hpast)
    · exact congrArg (fun t : State => Host.Outcome.next t.finish) (State.boundWitness_of_past hk hgl hv hcast hsince hhold hpast)
  · intro e ctx k d s b hk hd hnear
    exact congrArg (fun t : State => Host.Outcome.next t.finish) (State.boundTest_of_near hk hd hnear)

end Sys2Proof.Machine

/-! PROOFS. Regions and quotas: REGION_MAP, REGION_UNMAP, REGION_FILL and QUOTA_SET (R52, R63, R331, R347, R382, R386, R387, R472,
R473). -/

namespace Sys2Proof.Machine

/-! ### Regions -/

/-- The quota of a TIER region's half holds what its context has and the new region (R347). -/
def State.quotaHolds (s : State) (c : Cmd) : Prop :=
  (c.modeBit 4 = false → s.upperCharge c.ctx + c.u64 24 / 262144 ≤ s.upperQuota c.ctx) ∧
    (c.modeBit 4 = true → s.lowerCharge c.ctx + c.u64 24 / 262144 ≤ s.lowerQuota c.ctx)

section
variable {s : State} {c : Cmd}

/-- A REGION_MAP that passes every check maps the free number and answers it (R52, R63, R347, R472). -/
theorem State.opRegionMap_of_passed {kind : Kind} {n : Nat} (hagain : s.mapAgain c = false) (hunmapping : s.unmappingUnder c = [])
    (hopen : s.ctxOpen c.ctx = true) (hkind : kindOf (c.mode % 8) = some kind)
    (htwo : kind.twoHanded = true → (s.codedOf c.ctx).isSome = true ∧ s.gloveOf c.ctx = none) (hbad : s.mapBad c (mapRequest c kind 0) = none)
    (hquota : kind = .tier → s.quotaHolds c) (hfree : s.freeRegion = some n) :
    s.opRegionMap c = (s.addRegion { mapRequest c kind 0 with num := n }).post c 0 n := by
  have hwhole : ¬(kind.twoHanded && ((s.codedOf c.ctx).isNone || (s.gloveOf c.ctx).isSome)) = true := by
    intro h
    obtain ⟨hhanded, hout⟩ := Bool.and_eq_true_iff.1 h
    obtain ⟨hcoded, hglove⟩ := htwo hhanded
    simp [hglove, Option.isSome_iff_ne_none.1 hcoded] at hout
  have hunder : ∀ upper, upper = (kind == .tier && !c.modeBit 4) → ¬(kind == .tier && decide
      ((if upper then s.upperQuota c.ctx else s.lowerQuota c.ctx) <
        if upper then s.upperCharge c.ctx + c.u64 24 / 262144 else s.lowerCharge c.ctx + c.u64 24 / 262144)) = true := by
    rintro upper rfl h
    obtain ⟨htier, hover⟩ := Bool.and_eq_true_iff.1 h
    obtain rfl := eq_of_beq htier
    obtain ⟨hupper, hlower⟩ := hquota rfl
    cases hmode : c.modeBit 4 with
    | false =>
      have := hupper hmode
      simp [hmode] at hover
      omega
    | true =>
      have := hlower hmode
      simp [hmode] at hover
      omega
  simp only [State.opRegionMap, hagain, hunmapping, hopen, hkind, if_neg hwhole, hbad, hfree, List.isEmpty_nil, Bool.not_true,
    Bool.false_eq_true, if_false]
  exact if_neg (hunder _ rfl)

/-- REGION_UNMAP of a region of its context that nothing uses takes it away, or marks it until the fill that runs in it ends (R473). -/
theorem State.opRegionUnmap_of_free {r : Region} (hopen : s.ctxOpen c.ctx = true) (hr : s.region? (c.u16 16) = some r)
    (hmappable : r.kind.mappable = true) (howner : r.owner = c.ctx) (hfirst : r.unmapping = false)
    (hglove : r.kind.twoHanded = true → s.gloveOf c.ctx = none) (htiles : r.lowerTier = true → s.tilesInUse r.num = false) :
    s.opRegionUnmap c = if r.fill = none then (s.removeRegion r.num).post c 0 0
      else (s.modRegion r.num (fun r => { r with unmapping := true })).hold c (.regionUnmap r.num) := by
  have hloose : ¬(r.kind.twoHanded = true ∧ (s.gloveOf c.ctx).isSome = true) := fun ⟨hhanded, hin⟩ => by
    simp [hglove hhanded] at hin
  have hidle : ¬(r.lowerTier = true ∧ s.tilesInUse r.num = true) := fun ⟨hlower, hused⟩ => by
    simp [htiles hlower] at hused
  cases hfill : r.fill <;>
    simp [State.opRegionUnmap, hopen, hr, hmappable, howner, hfirst, hloose, hidle, hfill, stOk]

/-- REGION_FILL of a one-handed region of its context starts its fill, or waits for the one that runs (R386, R387). -/
theorem State.opRegionFill_of_free {r : Region} (hopen : s.ctxOpen c.ctx = true) (hr : s.region? (c.u16 16) = some r)
    (hmappable : r.kind.mappable = true) (howner : r.owner = c.ctx) (hone : r.kind.twoHanded = false) (htiles : s.tilesInUse r.num = false) :
    s.opRegionFill c = if r.fill = none then (s.hold c (.regionFill r.num)).startFill r (BitVec.ofNat 64 (c.u64 24))
      else s.hold c (.regionFill r.num) := by
  cases hfill : r.fill <;> simp [State.opRegionFill, hopen, hr, hmappable, howner, hone, htiles, hfill]

end

/-- The next page of a unit in a fill that runs (R387). -/
theorem State.fillPage_of_next {s : State} {num k : Nat} {i : Fin 16} {r : Region} {f : Fill} (hr : s.region? num = some r)
    (hf : r.fill = some f) (hk : f.todo.find? (fun k => keyInst k = i) = some k) : s.fillPage num i = s.fillOne r f k := by
  simp only [State.fillPage, hr, hf, hk]

/-! ### Quotas -/

/-- The form of a command that its row takes. -/
theorem State.form_of_rowTakes {s : State} {c : Cmd} {code : Nat} {form : Bool} (h : s.rowTakes c code form = true) : form = true := by
  cases form with
  | true => rfl
  | false => simp [State.rowTakes] at h

/-- QUOTA_SET of an open context (R347). -/
theorem State.opQuotaSet_of_open {s : State} {c : Cmd} {x : Ctx} (hmode : c.modeBit 0 = false) (hx : Tab.get s.ctxs (c.u8 16) = some x)
    (hopen : x.closing = false) :
    s.opQuotaSet c = State.post { s with ctxs := Tab.set s.ctxs (c.u8 16) { x with upper := c.u32 24, lowerQ := c.u32 28 } } c 0 0 := by
  have hctx : s.ctxOpen (c.u8 16) = true := by simp [State.ctxOpen, hx, hopen]
  simp [State.opQuotaSet, hmode, hctx, hx, stOk]

/-- The chip without its tile pool. -/
def State.poolless (s : State) : State := { s with frames := [], regions := s.regions.filter (fun r => !(r.kind == .pool)) }

/-- The chip with the pool that QUOTA_SET gives, under number `n`: a fresh area, or none where its length is zero (R331). -/
def State.pooled (s : State) (c : Cmd) (n : Nat) : State :=
  if c.u64 40 = 0 then s.poolless else s.poolless.addRegion (areaOf n .pool false 0xFF (c.u64 32) (c.u64 40))

/-- The number of the pool that QUOTA_SET gives: the old one's, or a free one. -/
def State.poolNumber (s : State) : Option Nat := match s.pool with
  | some r => some r.num
  | none => s.freeRegion

/-- QUOTA_SET in mode POOL of a sound area replaces an idle pool and serves the promotions that wait (R331). -/
theorem State.opQuotaPool_of_passed {s : State} {c : Cmd} {n : Nat} (hmode : c.modeBit 0 = true) (hidle : ∀ f ∈ s.frames, f.state = .idle)
    (hn : s.poolNumber = some n) (hbase : c.u64 32 % 262144 = 0) (hlen : c.u64 40 % 262144 = 0) (hmax : c.u64 40 ≤ 2 ^ 38)
    (harea : 0 < c.u64 40 → c.u64 32 + c.u64 40 ≤ tierBytes false ∧
      s.rangeTaken false (c.u64 32) (c.u64 40) (fun r => r.kind == .pool) = false) :
    s.opQuotaPool c = (serveWaiters (s.pooled c n).promos.length (s.pooled c n)).post c 0 0 := by
  have hsize : ¬(c.u64 40 % tileBytes ≠ 0 ∨ 2 ^ 38 < c.u64 40) := fun h => h.elim (fun hne => hne hlen) (Nat.not_lt.2 hmax)
  have hplace : ¬(0 < c.u64 40 ∧ (tierBytes false < c.u64 32 + c.u64 40 ∨
      s.rangeTaken false (c.u64 32) (c.u64 40) (fun r => r.kind == .pool) = true)) := by
    rintro ⟨hpos, hout⟩
    obtain ⟨hfits, hfree⟩ := harea hpos
    rw [hfree] at hout
    exact hout.elim (Nat.not_lt.2 hfits) Bool.false_ne_true
  have hframes : ¬s.frames.any (fun f => f.state != .idle) = true := by
    simpa using hidle
  have haligned : ¬c.u64 32 % tileBytes ≠ 0 := fun h => h hbase
  have hgiven : (!c.modeBit 0) = false := by simp [hmode]
  rw [State.opQuotaPool]
  simp only [hgiven, Bool.false_eq_true, if_false, if_neg haligned, if_neg hsize, if_neg hplace, if_neg hframes]
  unfold State.poolNumber at hn
  cases hpool : s.pool with
  | none =>
    rw [hpool] at hn
    simp only [hn]
    rfl
  | some r =>
    rw [hpool] at hn
    cases hn
    rfl

/-- Settles O41: each row takes its packet and runs the branch of its operation in which every check passes; a page of a fill is the next. -/
theorem regionCommandsComplete : Obligations.RegionCommandsComplete := by
  unfold Obligations.RegionCommandsComplete
  refine ⟨?_, ?_, ?_, ?_, ?_, ?_⟩
  · intro e c kind n s b r htakes hagain hunmapping hopen hkind htwo hbad hquota hfree
    have hop := State.opRegionMap_of_passed hagain hunmapping hopen hkind htwo hbad hquota hfree
    exact congrArg Host.Outcome.next (State.row_of_takes htakes hop)
  · intro e c r s b htakes hopen hr hmappable howner hfirst hglove htiles
    have hop := State.opRegionUnmap_of_free hopen hr hmappable howner hfirst hglove htiles
    exact congrArg Host.Outcome.next (State.row_of_takes htakes hop)
  · intro e c r s b htakes hopen hr hmappable howner hone htiles
    have hop := State.opRegionFill_of_free hopen hr hmappable howner hone htiles
    exact congrArg Host.Outcome.next (State.row_of_takes htakes hop)
  · intro e num k i r f s b hr hf hk u
    exact congrArg (fun t : State => Host.Outcome.next t.finish) (State.fillPage_of_next hr hf hk)
  · intro e c x s b htakes hx hopen
    have hmode : c.modeBit 0 = false := by simpa using State.form_of_rowTakes htakes
    exact congrArg Host.Outcome.next (State.row_of_takes htakes (State.opQuotaSet_of_open hmode hx hopen))
  · intro e c n s b v u htakes hidle hn hbase hlen hmax harea
    have hop := State.opQuotaPool_of_passed (State.form_of_rowTakes htakes) hidle hn hbase hlen hmax harea
    exact congrArg Host.Outcome.next (State.row_of_takes htakes hop)

end Sys2Proof.Machine

/-! PROOFS. Reads and writes of the network (R70 to R73, R179, R385, R386). -/

namespace Sys2Proof.Machine

/-! ### A range within one page -/

theorem rangeParts_of_page {lower : Bool} {off n : Nat} (hpos : 0 < n) (hpage : off % 4096 + n ≤ 4096) :
    rangeParts lower off n = [(offKey lower off, off % 4096, 0, n)] := by
  have hmin : Nat.min n (4096 - off % 4096) = n := Nat.min_eq_left (by omega)
  simp [rangeParts, pageParts, hmin, Nat.pos_iff_ne_zero.1 hpos]

theorem slice_whole (d : List Byte) : slice d 0 d.length = d := by
  simp [slice]

/-- The bytes of a page from an offset on are those of memory from its address on. -/
theorem Mem.slice_read_page (m : Mem) (k : Nat) {off n : Nat} (h : off + n ≤ 4096) :
    slice (m.read (pageAddr k 0) 4096) off n = m.read (pageAddr k off) n := by
  have hlen : ∀ a n, (m.read a n).length = n := fun a n => by simp [Mem.read]
  have htaken : ((m.read (pageAddr k 0) 4096).drop off).take n = m.read (pageAddr k off) n := by
    refine List.ext_getElem? fun i => ?_
    rw [List.getElem?_take]
    split
    · next hi =>
      rw [List.getElem?_drop, Mem.getElem?_read _ _ (by omega), Mem.getElem?_read _ _ hi, pageAddr, pageAddr, Nat.add_zero, Nat.add_assoc]
    · next hi => rw [List.getElem?_eq_none (by rw [hlen]; omega)]
  rw [slice, htaken, hlen, Nat.sub_self, List.replicate_zero, List.append_nil]

/-! ### What nothing refuses or holds -/

/-- Nothing counts a read of an area that has no hands (R179). -/
theorem State.countGuard_of_one_handed {s : State} {q : Req} {g : Region} (hg : s.regionAt q.lower q.addr = some g)
    (hhands : g.kind.twoHanded = false) : s.countGuard q = s := by
  simp [State.countGuard, hg, hhands]

/-- The guard's count of a read changes only instances (R179). -/
theorem State.countGuard_eq (s : State) (q : Req) : s.countGuard q = { s with inst := (s.countGuard q).inst } := by
  unfold State.countGuard
  split
  · rfl
  · split
    · exact State.modInsts_fold_eq (fun _ x => { x with guardRead := satAdd 32 x.guardRead 1 }) _ s
    · rfl

/-- A part of a PASS region that no fill is to write waits for nothing (R387, R557). -/
theorem State.blocked_of_pass (s : State) {g : Region} (hkind : g.kind = .pass) (hfill : g.fill = none) (k : Nat) (write : Bool) :
    s.blocked g k write = none := by
  simp [State.blocked, State.testHolds, State.fillPending, Region.lowerTier, Kind.stateArea, Kind.twoHanded, hkind, hfill]

theorem State.firstBlock_of_free {s : State} {g : Region} {parts : List (Nat × Nat × Nat × Nat)} {write : Bool}
    (h : ∀ p ∈ parts, s.blocked g p.1 write = none) : s.firstBlock g parts write = none := by
  have hnone : parts.find? (fun p => (s.blocked g p.1 write).isSome) = none :=
    List.find?_eq_none.2 fun p hp => by simp [h p hp]
  rw [State.firstBlock, hnone]

section
variable {s : State} {q : Req} {g : Region} (hsrc : q.src ≤ 4) (hg : s.regionAt q.lower q.addr = some g)
  (hwhole : rangeWhole g q.addr q.len = true)
include hsrc hg hwhole

/-- A read that R70 to R73 permit and nothing holds is served part by part. -/
theorem State.serveRead_of_permitted (hctx : ctxAllowed g q.src q.ctx false = true)
    (hread : (rangeParts q.lower q.addr q.len).all (fun p => s.mayRead g p.1 q.src q.ctx) = true)
    (hfree : s.firstBlock g (rangeParts q.lower q.addr q.len) false = none) : s.serveRead q = s.readParts g q := by
  have hknown : ¬srcPadun < q.src := Nat.not_lt.2 hsrc
  simp only [State.serveRead, if_neg hknown, hg, hwhole, hctx, hread, hfree, Bool.not_true, Bool.or_self, Bool.false_eq_true, if_false]

/-- A write that R70 to R72 permit and nothing holds is served, by the hands of its area. -/
theorem State.serveWrite_of_permitted (again : Bool) (hruns : s.updateStopped q = false) (hctx : ctxAllowed g q.src q.ctx true = true)
    (hwrite : (rangeParts q.lower q.addr q.len).all (fun p => s.mayWrite g p.1 q.src) = true)
    (hfree : s.firstBlock g (rangeParts q.lower q.addr q.len) true = none) :
    s.serveWrite q again = if g.kind.twoHanded then s.writePalm g q false again else s.writeParts g q := by
  have hknown : ¬srcPadun < q.src := Nat.not_lt.2 hsrc
  simp only [State.serveWrite, hruns, if_neg hknown, hg, hwhole, hctx, hwrite, hfree, Bool.not_true, Bool.or_self, Bool.false_eq_true, if_false]

end

/-! ### Requests of a PASS region -/

section
variable {s : State} {q : Req} {g : Region} (hsrc : q.src ≤ 4) (hg : s.regionAt q.lower q.addr = some g) (hkind : g.kind = .pass)
  (hfill : g.fill = none) (hpos : 0 < q.len) (hpage : q.addr % 4096 + q.len ≤ 4096)

include hkind in
theorem rangeWhole_of_pass {off n : Nat} (hin : off + n ≤ g.base + g.len) : rangeWhole g off n = true := by
  simp [rangeWhole, Region.span, Kind.twoHanded, hkind, hin]

/-- A page of a PASS region of which the controllers report nothing reads as it is stored (R36). -/
theorem State.fetchPass_of_no_report {s : State} {k off n : Nat} (hctl : s.ev.ctl = []) :
    s.fetchPass k off n = (s, s.mem.read (pageAddr k 0) 4096, false) := by
  simp [State.fetchPass, State.reports, State.countBursts, hctl]

include hkind hpos hpage in
theorem State.readParts_of_pass (hctl : s.ev.ctl = []) : s.readParts g q =
    s.emit (.readData q.id (s.mem.read (pageAddr (offKey q.lower q.addr) (q.addr % 4096)) q.len) false) := by
  simp only [State.readParts, rangeParts_of_page hpos hpage, List.foldl_cons, List.foldl_nil, State.readPart, hkind, Kind.twoHanded,
    Kind.pageCoded, State.fetchPass_of_no_report hctl, Mem.slice_read_page _ _ hpage, Bool.false_eq_true, if_false, List.nil_append,
    Bool.or_self]

include hsrc hg hkind hfill hpos hpage in
/-- A read within one page of a PASS region answers the stored bytes (R70, R385). -/
theorem State.serveRead_of_pass (hin : q.addr + q.len ≤ g.base + g.len) (hctx : ctxAllowed g q.src q.ctx false = true)
    (hctl : s.ev.ctl = []) : (s.countGuard q).serveRead q =
      s.emit (.readData q.id (s.mem.read (pageAddr (offKey q.lower q.addr) (q.addr % 4096)) q.len) false) := by
  have hhands : g.kind.twoHanded = false := by rw [hkind]; rfl
  have hread : (rangeParts q.lower q.addr q.len).all (fun p => s.mayRead g p.1 q.src q.ctx) = true := by
    simp [State.mayRead, hkind, srcPadun, hsrc]
  have hfree := State.firstBlock_of_free (parts := rangeParts q.lower q.addr q.len) fun p _ => s.blocked_of_pass hkind hfill p.1 false
  rw [State.countGuard_of_one_handed hg hhands,
    State.serveRead_of_permitted hsrc hg (rangeWhole_of_pass hkind hin) hctx hread hfree, State.readParts_of_pass hkind hpos hpage hctl]

include hsrc hg hkind hfill hpos hpage in
/-- A write within one page of a PASS region stores its bytes and is answered (R70, R385, R386). -/
theorem State.serveWrite_of_pass (hruns : s.updateStopped q = false) (hkmc : q.src ≠ 3) (hfinal : q.final = false)
    (hlen : q.len = q.data.length) (hin : q.addr + q.len ≤ g.base + g.len) (hctx : ctxAllowed g q.src q.ctx true = true) :
    s.serveWrite q false =
      (s.storePass (offKey q.lower q.addr) (q.addr % 4096) q.data).emit (.writeDone q.id true) := by
  have hhands : ¬g.kind.twoHanded = true := by rw [hkind]; exact Bool.false_ne_true
  have hwrite : (rangeParts q.lower q.addr q.len).all (fun p => s.mayWrite g p.1 q.src) = true := by
    simp [State.mayWrite, hkind, srcPadun, srcKmc, hsrc, hkmc]
  have hfree := State.firstBlock_of_free (parts := rangeParts q.lower q.addr q.len) fun p _ => s.blocked_of_pass hkind hfill p.1 true
  rw [State.serveWrite_of_permitted hsrc hg (rangeWhole_of_pass hkind hin) false hruns hctx hwrite hfree, if_neg hhands]
  rw [hlen] at hpos hpage
  simp [State.writeParts, rangeParts_of_page hpos hpage, State.observe, hfinal, State.writePart, hkind, Kind.pageCoded, hlen, slice_whole]

end

/-! ### Refused requests -/

/-- A refused request is answered, raises ACCESS in the serving unit, and leaves memory as it is (R70, R500). -/
theorem State.refuse_effect (s : State) (q : Req) (write : Bool) (cause : Nat) :
    (s.refuse q write cause).out = (if write then .writeDone q.id false else .readData q.id (poison q.len) true) :: s.out ∧
      (s.refuse q write cause).mem = s.mem ∧
      ((s.refuse q write cause).faultsOf (keyInst (offKey q.lower q.addr)).val).bits.getLsbD 33 = true := by
  refine ⟨?_, ?_, State.raise_bit _ _ (by decide) _ _⟩
  · rw [State.refuse, State.access, State.raise_eq]
    cases write <;> rfl
  · rw [State.refuse, State.access, State.raise_eq]
    cases write <;> rfl

section
variable {s : State} {q : Req} (hout : 4 < q.src ∨ s.regionAt q.lower q.addr = none)
include hout

/-- A read of an unknown source, or to an address of no region, is refused. -/
theorem State.serveRead_of_outside : ∃ cause, s.serveRead q = s.refuse q false cause := by
  by_cases hsrc : srcPadun < q.src
  · exact ⟨6, by simp only [State.serveRead, if_pos hsrc]⟩
  · have hnone := hout.resolve_left hsrc
    exact ⟨1, by simp only [State.serveRead, if_neg hsrc, hnone]⟩

/-- The update unit is known and writes regions, so no broken port stops a write of these. -/
theorem State.updateStopped_of_outside : s.updateStopped q = false := by
  rcases hout with hsrc | hnone
  · have hother : (q.src == srcUpdate) = false := beq_false_of_ne (by unfold srcUpdate; omega)
    rw [State.updateStopped, hother, Bool.false_and]
  · rw [State.updateStopped, hnone, Bool.and_false]

/-- So is such a write. -/
theorem State.serveWrite_of_outside (again : Bool) : ∃ cause, s.serveWrite q again = s.refuse q true cause := by
  have hruns := State.updateStopped_of_outside hout
  by_cases hsrc : srcPadun < q.src
  · exact ⟨6, by simp only [State.serveWrite, hruns, if_pos hsrc, Bool.false_eq_true, if_false]⟩
  · have hnone := hout.resolve_left hsrc
    exact ⟨1, by simp only [State.serveWrite, hruns, if_neg hsrc, hnone, Bool.false_eq_true, if_false]⟩

end

/-- Settles O35: each request is permitted and free, or its source or its address is outside the table of R70. -/
theorem networkCommandsComplete : Obligations.NetworkCommandsComplete := by
  unfold Obligations.NetworkCommandsComplete
  refine ⟨?_, ?_, ?_, ?_, ?_⟩
  · intro e r g s q b hsrc hg hwhole hctx hread hfree
    exact congrArg (fun t : State => Host.Outcome.next t.finish) (State.serveRead_of_permitted (q := q) hsrc hg hwhole hctx hread hfree)
  · intro e r g s b hsrc hg hkind hfill hin hctx hpos hpage hctl
    exact congrArg (fun t : State => Host.Outcome.next t.finish)
      (State.serveRead_of_pass (q := Req.net r) hsrc hg hkind hfill hpos hpage hin hctx hctl)
  · intro e r g s b hruns hsrc hkmc hg hkind hfill hfinal hin hctx hpos hpage a
    refine ⟨_, congrArg (fun t : State => Host.Outcome.next t.finish)
      (State.serveWrite_of_pass (q := Req.sized (Req.net r)) hsrc hg hkind hfill hpos hpage hruns hkmc hfinal rfl hin hctx), rfl, rfl⟩
  · intro e r s b hout
    have hcount := b.countGuard_eq (Req.net r)
    have hstill : 4 < (Req.net r).src ∨ (b.countGuard (Req.net r)).regionAt (Req.net r).lower (Req.net r).addr = none := by
      rw [hcount]
      exact hout
    obtain ⟨cause, hrefused⟩ := State.serveRead_of_outside hstill
    obtain ⟨houts, hmem, hfault⟩ := (b.countGuard (Req.net r)).refuse_effect (Req.net r) false cause
    refine ⟨_, congrArg (fun t : State => Host.Outcome.next t.finish) hrefused, ?_, ?_, hfault⟩
    · rw [houts, hcount]
      rfl
    · rw [hmem, hcount]
  · intro e r s b hout
    obtain ⟨cause, hrefused⟩ := State.serveWrite_of_outside (q := Req.sized (Req.net r)) hout false
    exact ⟨_, congrArg (fun t : State => Host.Outcome.next t.finish) hrefused,
      b.refuse_effect (Req.sized (Req.net r)) true cause⟩

end Sys2Proof.Machine

/-! PROOFS. The update unit's reads and writes of a stitch of the open step (R38, R65, R75, R76, R392, R399, R400). -/

namespace Sys2Proof.Machine

/-! ### A stitch of an upper STATE region -/

/-- A request lies within the crowned left hand of stitch `idx` of an upper STATE region that no fill is to write. -/
structure InStitch (g : Region) (idx : Nat) (q : Req) : Prop where
  kind : g.kind = .state
  lower : g.lower = q.lower
  upper : g.lower = false
  len : g.len % 4096 = 0
  base : g.base % 4096 = 0
  inside : idx < g.len / 4096
  key : g.handKey idx false < 2 ^ 51
  fill : g.fill = none
  owner : q.ctx = g.owner
  place : q.addr / 4096 = g.base / 4096 + idx
  pos : 0 < q.len
  page : q.addr % 4096 + q.len ≤ 4096

namespace InStitch
variable {g : Region} {idx : Nat} {q : Req} (h : InStitch g idx q)
include h

theorem twoHanded : g.kind.twoHanded = true := by rw [h.kind]; rfl

/-- The page of the request is the left hand's. -/
theorem offKey_eq : offKey q.lower q.addr = g.handKey idx false := by
  have hbase := h.base
  have hplace := h.place
  rw [Region.handKey, ← h.lower, offKey, offKey, hplace]
  congr 1
  rw [if_neg Bool.false_ne_true]
  omega

theorem rangeParts_eq : rangeParts q.lower q.addr q.len = [(g.handKey idx false, q.addr % 4096, 0, q.len)] := by
  rw [rangeParts_of_page h.pos h.page, h.offKey_eq]

theorem stitchOf_eq : g.stitchOf (g.handKey idx false) = (idx, false) := by
  have hbase := h.base
  have hlen := h.len
  have hinside := h.inside
  have hkey : g.handKey idx false = g.base / 4096 + idx := by
    rw [Region.handKey, offKey, pageKey, h.upper, if_neg Bool.false_ne_true, if_neg Bool.false_ne_true]
    omega
  have hupper : ¬keyLower (g.handKey idx false) = true := by
    rw [keyLower, decide_eq_true_eq]
    exact Nat.not_le.2 h.key
  have hoff : keyPage (g.handKey idx false) * 4096 - g.base = idx * 4096 := by
    rw [keyPage, if_neg hupper, hkey]
    omega
  rw [Region.stitchOf, hoff, if_pos (by omega), Nat.mul_div_cancel _ (by decide)]

theorem rangeWhole : Machine.rangeWhole g q.addr q.len = true := by
  have hbase := h.base
  have hlen := h.len
  have hinside := h.inside
  have hplace := h.place
  have hpage := h.page
  have hhand : q.addr + q.len ≤ g.base + g.len := by omega
  have hspan : q.addr + q.len ≤ g.base + 2 * g.len := by omega
  simp [Machine.rangeWhole, Region.span, h.twoHanded, hhand, hspan]

theorem ctxAllowed (src : Nat) (write : Bool) : Machine.ctxAllowed g src q.ctx write = true := by
  simp [Machine.ctxAllowed, h.owner]

/-- Nothing holds a request of a stitch that is in place, in a unit that is not under test (R212, R387, R557). -/
theorem firstBlock {s : State} (hfree : (s.inst[keyInst (g.handKey idx false)]).test.running = false)
    (hstitch : (s.stitch g.num idx).fill = false) (write : Bool) :
    s.firstBlock g (rangeParts q.lower q.addr q.len) write = none := by
  refine State.firstBlock_of_free fun p hp => ?_
  rw [h.rangeParts_eq, List.mem_singleton] at hp
  subst hp
  have huntested : s.testing (g.handKey idx false) = false := hfree
  simp [State.blocked, State.testHolds, huntested, State.fillPending, h.fill, h.stitchOf_eq, hstitch]

end InStitch

/-! ### Reading a hand that was never written -/

/-- A page that was never written, and of which the controllers report nothing, reads as never written and changes nothing (R376). -/
theorem State.fetchPage_of_never {s : State} {k : Nat} (hrec : Tab.get s.mem.recs k = none) (hctl : s.ev.ctl = []) :
    s.fetchPage k = (s, .never) := by
  have hnever : s.mem.record k = neverRec := by rw [Mem.record, Tab.getD, hrec, Option.getD_none]
  have hdecode : s.decodePage k = (s, .never, false) := by
    rw [State.decodePage]
    simp only [State.reports, hctl, List.filter_nil, List.find?_nil, hnever, metaOf_metaBurst]
    rw [if_neg (by decide), if_pos (by decide)]
    rfl
  rw [State.fetchPage, hdecode]

/-- An entry that names the left hand is served from it, or from the right one while the sweep of its crown runs (R62, R180). -/
theorem State.crownedHand_of_left {s : State} {g : Region} {idx : Nat} (hresolved : (s.stitch g.num idx).unres = false)
    (hhand : (s.stitch g.num idx).hand = 2) : s.crownedHand g idx = (s, some (s.servedFlipped g idx)) := by
  simp [State.crownedHand, hresolved, hhand]

/-- The crowned hand of an entry as a REGION_MAP leaves it is the left one (R62, R63). -/
theorem State.crownedHand_of_mapped {s : State} {g : Region} {idx : Nat} (hstitch : s.stitch g.num idx = Stitch.mapped) :
    s.crownedHand g idx = (s, some false) := by
  have hunflipped : s.servedFlipped g idx = false := by
    unfold State.servedFlipped
    split
    · simp [hstitch, Stitch.mapped]
    · rfl
  rw [State.crownedHand_of_left (by rw [hstitch]; rfl) (by rw [hstitch]; rfl), hunflipped]

theorem State.readCrowned_of_never {s : State} {g : Region} {idx : Nat} (hstitch : s.stitch g.num idx = Stitch.mapped)
    (hrec : Tab.get s.mem.recs (g.handKey idx false) = none) (hctl : s.ev.ctl = []) : s.readCrowned g idx = (s, .never) := by
  have hcontent : ¬(s.stitch g.num idx).lacks = true := by rw [hstitch]; exact Bool.false_ne_true
  simp only [State.readCrowned, if_neg hcontent, State.crownedHand_of_mapped hstitch, State.fetchPage_of_never hrec hctl]

section
variable {s : State} {g : Region} {idx : Nat} {q : Req} (h : InStitch g idx q) (hsrc : q.src = 1)
  (hg : s.regionAt q.lower q.addr = some g) (hopen : s.stepOpen g.owner = true)
  (hfree : (s.inst[keyInst (g.handKey idx false)]).test.running = false) (hstitch : s.stitch g.num idx = Stitch.mapped)
include h hsrc hg hopen hfree hstitch

/-- A read of a left hand that was never written answers zeros and keeps them for pairing (R75, R76). -/
theorem State.serveRead_of_never (hguard : s.inGuard g.owner = false) (hrec : Tab.get s.mem.recs (g.handKey idx false) = none)
    (hctl : s.ev.ctl = []) : (s.countGuard q).serveRead q =
      (s.keepRead g idx q.tag zeroPage).emit (.readData q.id (List.replicate q.len 0) false) := by
  have hcount : s.countGuard q = s := by simp [State.countGuard, hg, hguard]
  have hread : (rangeParts q.lower q.addr q.len).all (fun p => s.mayRead g p.1 q.src q.ctx) = true := by
    simp [State.mayRead, h.kind, hsrc, srcPadun]
  have hblock := h.firstBlock hfree (by rw [hstitch]; rfl) false
  rw [hcount, State.serveRead_of_permitted (by omega) hg h.rangeWhole (h.ctxAllowed _ _) hread hblock]
  simp only [State.readParts, h.rangeParts_eq, List.foldl_cons, List.foldl_nil, State.readPart, h.twoHanded, h.stitchOf_eq, hsrc, hopen,
    State.readCrowned_of_never hstitch hrec hctl, List.nil_append]
  simp [hstitch, Stitch.mapped, srcUpdate]

end

/-! ### The coverage of a write -/

theorem getLsbD_coverBits {off n i : Nat} (hi : i < 4096) : (coverBits off n).getLsbD i = (decide (off ≤ i) && decide (i - off < n)) := by
  rw [coverBits, BitVec.getLsbD_ofNat, ← Nat.shiftLeft_eq, Nat.testBit_shiftLeft, Nat.testBit_two_pow_sub_one]
  simp [hi]

/-- A write of a part of the page leaves the stitch partly written (R79). -/
theorem coverBits_ne_allOnes {off n : Nat} (hpart : n < 4096) : coverBits off n ≠ BitVec.allOnes 4096 := by
  intro hfull
  have hbit : ∀ i < 4096, (decide (off ≤ i) && decide (i - off < n)) = true := fun i hi => by
    rw [← getLsbD_coverBits hi, hfull, BitVec.getLsbD_allOnes, decide_eq_true hi]
  rcases Nat.eq_zero_or_pos off with rfl | hoff
  · have hlast := hbit n hpart
    simp at hlast
  · have hfirst := hbit 0 (by decide)
    simp at hfirst
    omega

/-! ### The merge entry of a partial write -/

theorem Tab.length_set_le {α : Type} (l : List (Nat × α)) (k : Nat) (v : α) : (Tab.set l k v).length ≤ l.length + 1 := by
  induction l with
  | nil => exact Nat.le_refl _
  | cons p l ih =>
    obtain ⟨j, w⟩ := p
    rw [Tab.set]
    split
    · exact Nat.le_refl _
    split
    · exact Nat.le_succ _
    · exact Nat.succ_le_succ ih

theorem length_foldl_set_le (off : Nat) (cells : List (Byte × Nat)) (l : List (Nat × Byte)) :
    (cells.foldl (fun l p => Tab.set l (off + p.2) p.1) l).length ≤ l.length + cells.length := by
  induction cells generalizing l with
  | nil => exact Nat.le_refl _
  | cons p cells ih =>
    have hset := Tab.length_set_le l (off + p.2) p.1
    have hrest := ih (Tab.set l (off + p.2) p.1)
    rw [List.foldl_cons, List.length_cons]
    omega

/-- Memory whose merge buffer holds one entry alone. -/
def State.withMerge (s : State) (m : Merge) : State := { s with mem := { s.mem with merge := [m] } }

/-- The merge entry of the bytes `d`, written now from offset `off` of page `k`. -/
def State.freshMerge (s : State) (k off : Nat) (d : List Byte) : Merge :=
  { page := k, bytes := (d.zip (List.range d.length)).foldl (fun l p => Tab.set l (off + p.2) p.1) [], last := s.now, waiting := [] }

theorem State.freshMerge_bytes_length (s : State) (k off : Nat) (d : List Byte) : (s.freshMerge k off d).bytes.length ≤ d.length := by
  have hle := length_foldl_set_le off (d.zip (List.range d.length)) []
  rwa [List.length_zip, List.length_range, Nat.min_self, List.length_nil, Nat.zero_add] at hle

theorem State.mergeInto_of_empty {s : State} (hempty : s.mem.merge = []) (k off : Nat) (d : List Byte) :
    s.mergeInto k off d [] = s.withMerge (s.freshMerge k off d) := by
  simp only [State.mergeInto, State.mergeOf, State.dropMerge, hempty, List.find?_nil, List.filter_nil, List.nil_append]
  rfl

/-- Part of a page of an open hand waits in a merge entry of its own (R148, R388, R389). -/
theorem State.mergeOpen_of_part {s : State} {g : Region} {k off : Nat} {d : List Byte} (hpart : d.length < 4096)
    (hempty : s.mem.merge = []) : s.mergeOpen g k off d = s.withMerge (s.freshMerge k off d) := by
  have hbytes : (s.freshMerge k off d).bytes.length ≠ 4096 :=
    Nat.ne_of_lt (Nat.lt_of_le_of_lt (s.freshMerge_bytes_length k off d) hpart)
  have hfound : (s.withMerge (s.freshMerge k off d)).mergeOf k = some (s.freshMerge k off d) := by
    simp [State.withMerge, State.mergeOf, State.freshMerge]
  simp [State.mergeOpen, Nat.ne_of_lt hpart, State.mergeInto_of_empty hempty, hfound, hbytes]

/-! ### The paired write -/

theorem State.endGap_eq (s : State) : s.endGap = { s with cu := s.endGap.cu } := by
  unfold State.endGap
  split <;> rfl

/-- The pairing entry of a write of `d` from offset `off` of its page (R76). -/
def Pair.written (p : Pair) (off : Nat) (d : List Byte) : Pair :=
  { p with cur := overlay p.cur off d, cover := p.cover ||| coverBits off d.length }

/-- A pair that covered nothing covers the bytes of its first write. -/
theorem Pair.written_of_first {p : Pair} (hcover : p.cover = 0) (off : Nat) (d : List Byte) :
    p.written off d = { p with cur := overlay p.cur off d, cover := coverBits off d.length } := by
  have hcovered : p.cover ||| coverBits off d.length = coverBits off d.length := by rw [hcover]; exact BitVec.zero_or
  rw [Pair.written, hcovered]

/-- The chip whose one pairing entry is `q`, its stitch touched and the observed gap at an end (R65, R76, R556). -/
def State.touchedFor (s : State) (region idx : Nat) (q : Pair) : State :=
  (State.modStitch { s with pairs := [q] } region idx (fun x => { x with touch := true })).endGap

theorem State.touchedFor_eq (s : State) (region idx : Nat) (q : Pair) : s.touchedFor region idx q =
    { s with pairs := [q], cu := (s.touchedFor region idx q).cu, stitches := (s.touchedFor region idx q).stitches } := by
  rw [State.touchedFor, State.endGap_eq]
  rfl

theorem State.stitch_touchedFor {s : State} {region idx : Nat} (hstitch : s.stitch region idx = Stitch.mapped) (q : Pair) :
    (s.touchedFor region idx q).stitch region idx = { Stitch.mapped with touch := true } := by
  have hset := State.stitch_modStitch_self { s with pairs := [q] } region idx (fun x => { x with touch := true })
  rw [State.touchedFor, State.endGap_eq, ← hstitch]
  exact hset

/-- A write of an open hand through the chip's one pairing entry, which it leaves not full (R65, R76). -/
theorem State.writeOpen_of_single {s : State} {g : Region} {idx off : Nat} {d : List Byte} {p : Pair} {right : Bool} (hpairs : s.pairs = [p])
    (hhand : (s.touchedFor g.num idx (p.written off d)).crownedHand g idx = (s.touchedFor g.num idx (p.written off d), some right))
    (hpartly : (p.written off d).full = false) :
    s.writeOpen g idx off d p = (s.touchedFor g.num idx (p.written off d)).mergeOpen g (g.handKey idx (!right)) off d := by
  simp only [State.touchedFor, Pair.written] at hhand hpartly ⊢
  simp only [State.writeOpen, hpairs, updFirst, beq_self_eq_true, if_true, hhand, hpartly, Bool.false_eq_true, if_false]

section
variable {s : State} {g : Region} {idx off : Nat} {d : List Byte} {p : Pair} (hpart : d.length < 4096)
  (hstitch : s.stitch g.num idx = Stitch.mapped) (hpairs : s.pairs = [p]) (hcover : p.cover = 0) (hempty : s.mem.merge = [])
include hpart hstitch hpairs hcover hempty

/-- A partial write of an open hand whose pair covers nothing yet: its bytes wait in the merge buffer, and no delta is formed (R79). -/
theorem State.writeOpen_of_part : ∃ m, s.writeOpen g idx off d p = (s.touchedFor g.num idx (p.written off d)).withMerge m := by
  have htouched := State.stitch_touchedFor hstitch (p.written off d)
  have hhand := State.crownedHand_of_left (s := s.touchedFor g.num idx (p.written off d)) (g := g) (by rw [htouched]; rfl)
    (by rw [htouched]; rfl)
  have hopen : (s.touchedFor g.num idx (p.written off d)).mem.merge = [] := by rw [State.touchedFor_eq]; exact hempty
  have hpartly : (p.written off d).full = false := by
    rw [Pair.written_of_first hcover]
    exact beq_false_of_ne (coverBits_ne_allOnes hpart)
  exact ⟨_, (State.writeOpen_of_single hpairs hhand hpartly).trans (State.mergeOpen_of_part hpart hopen)⟩

/-- What it leaves (R65, R76, R392). -/
theorem State.writeOpen_effect : let t := s.writeOpen g idx off d p
    t.out = s.out ∧ t.mem.bytes = s.mem.bytes ∧ t.mem.recs = s.mem.recs ∧ t.mem.merge.length = 1 ∧
      t.stitch g.num idx = { Stitch.mapped with touch := true } ∧ t.pairs = [p.written off d] := by
  obtain ⟨m, hm⟩ := State.writeOpen_of_part (off := off) hpart hstitch hpairs hcover hempty
  intro t
  have ht : t = (s.touchedFor g.num idx (p.written off d)).withMerge m := hm
  rw [ht]
  refine ⟨?_, ?_, ?_, rfl, State.stitch_touchedFor hstitch _, ?_⟩
  all_goals
    rw [State.touchedFor_eq]
    rfl

end

section
variable {s : State} {g : Region} {idx : Nat} {q : Req} {p : Pair} (h : InStitch g idx q) (hlen : q.len = q.data.length)
  (hstitch : s.stitch g.num idx = Stitch.mapped) (hpairs : s.pairs = [p]) (hregion : p.region = g.num) (hidx : p.idx = idx)
  (htag : p.tag = q.tag) (hcover : p.cover = 0)
include h hlen hstitch hpairs hregion hidx htag hcover

/-- A write to a stitch that the read of its own tag has paired is answered, and goes to its open hand (R76). -/
theorem State.writePalm_of_paired (hfinal : q.final = false) : s.writePalm g q false false =
    (s.emit (.writeDone q.id true)).writeOpen g idx (q.addr % 4096) q.data p := by
  have hunwritten : s.pairOf g.num idx = none := by
    have hnothing : (p.region == g.num && p.idx == idx && p.cover != 0) = false := by
      rw [hcover, bne_self_eq_false, Bool.and_false]
    rw [State.pairOf, hpairs, List.find?_singleton, hnothing, if_neg Bool.false_ne_true]
  have hsame : s.pairs.find? (fun x => x.region == g.num && x.idx == idx && x.tag == q.tag) = some p := by
    simp [hpairs, hregion, hidx, htag]
  have hcontent : (s.stitch g.num idx).lacks = false := by rw [hstitch]; rfl
  have haccepts : s.stitchRefuses g idx q.tag = false := by
    rw [State.stitchRefuses, hunwritten, hstitch]
    rfl
  have hpair : s.pairForWrite g idx q.tag false = (s, .pair p) := by
    simp only [State.pairForWrite, State.crownedHand_of_mapped hstitch, hcontent, hunwritten, hsame, Bool.false_eq_true, if_false]
  have hparts : (rangeParts q.lower q.addr q.len).map (fun p => ((g.stitchOf p.1).1, p.2.1, slice q.data p.2.2.1 p.2.2.2)) =
      [(idx, q.addr % 4096, q.data)] := by
    rw [h.rangeParts_eq, List.map_singleton, h.stitchOf_eq, hlen, slice_whole]
  simp only [State.writePalm, hparts, List.any_cons, List.any_nil, haccepts, Bool.or_self, Bool.false_eq_true, if_false, List.foldl_cons,
    List.foldl_nil, hpair, State.observe, hfinal]
  have hkept : (s.emit (.writeDone q.id true)).pairs.find? (fun x => x.region == g.num && x.idx == idx && x.tag == q.tag) = some p := hsame
  rw [hkept]

end

section
variable {s : State} {g : Region} {idx : Nat} {q : Req} (h : InStitch g idx q) (hsrc : q.src = 1)
  (hg : s.regionAt q.lower q.addr = some g)
include h hsrc hg

/-- A write of a stitch of an open step is the palm's, on a chip that takes state writes, while the port agrees (R38, R70). -/
theorem State.serveWrite_of_open (hport : ∀ x, s.codedOf g.owner = some x → x.portInv = ~~~x.port) (hopen : s.stepOpen g.owner = true)
    (hevac : s.cu.evac = false) (hfw : s.cu.fwFault = false)
    (hfree : (s.inst[keyInst (g.handKey idx false)]).test.running = false) (hstitch : s.stitch g.num idx = Stitch.mapped) :
    s.serveWrite q false = s.writePalm g q false false := by
  have hruns : s.updateStopped q = false := by
    have hagrees : (s.codedOf g.owner).any (fun k => !k.portOk) = false := by
      cases hk : s.codedOf g.owner with
      | none => rfl
      | some k => simp [Coded.portOk, hport k hk]
    simp only [State.updateStopped, hg, hagrees, Bool.and_false]
  have hwrite : (rangeParts q.lower q.addr q.len).all (fun p => s.mayWrite g p.1 q.src) = true := by
    simp [State.mayWrite, State.isPalm, h.kind, hsrc, srcUpdate, hopen, hevac, hfw]
  have hblock := h.firstBlock hfree (by rw [hstitch]; rfl) true
  rw [State.serveWrite_of_permitted (by omega) hg h.rangeWhole false hruns (h.ctxAllowed _ _) hwrite hblock, if_pos h.twoHanded]

end

/-! ### The step and key port (R38, R399) -/

/-- A port that agrees stops no context. -/
theorem State.checkPort_of_agreeing {s : State} {ctx : Nat} (hport : ∀ x, s.codedOf ctx = some x → x.portInv = ~~~x.port) :
    s.checkPort ctx = s := by
  unfold State.checkPort
  split
  · next k hk => rw [if_pos (by simp [Coded.portOk, hport k hk])]
  · rfl

/-- A context whose port disagrees after its check has been stopped for it (R400, R499). -/
theorem State.found_of_checkPort {s : State} {ctx : Nat} {k : Coded} (hk : (s.checkPort ctx).codedOf ctx = some k)
    (hbroken : k.portInv ≠ ~~~k.port) : 3 ∈ k.found := by
  cases hbefore : s.codedOf ctx with
  | none =>
    simp only [State.checkPort, hbefore] at hk
    simp at hk
  | some x =>
    simp only [State.checkPort, hbefore] at hk
    split at hk
    · next hok =>
      obtain rfl := Option.some.inj (hbefore.symm.trans hk)
      exact absurd (eq_of_beq hok) hbroken
    · obtain rfl := Option.some.inj ((State.codedOf_stopCtx hbefore 3).symm.trans hk)
      exact x.mem_found_stoppedFor 3

/-- The update unit's write of a context whose port disagrees is not taken (R38). -/
theorem State.serveWrite_of_broken_port {s : State} {q : Req} {g : Region} {k : Coded} (again : Bool) (hsrc : q.src = 1)
    (hg : s.regionAt q.lower q.addr = some g) (hk : s.codedOf g.owner = some k) (hbroken : k.portInv ≠ ~~~k.port) :
    s.serveWrite q again = s := by
  have hstopped : s.updateStopped q = true := by
    simp [State.updateStopped, hsrc, srcUpdate, hg, hk, Coded.portOk, hbroken]
  rw [State.serveWrite, if_pos hstopped]

/-- A request of the update unit is served, a write once the port has been checked (R38, R70). -/
theorem exec_updateRead {e : Ev} {r : Req} {s : State} (hsrc : r.src = 1) :
    exec (.updateRead e r) s = .next (((s.at e).checkPairs.checkTs.arriveRead (Req.net r)).finish) :=
  congrArg (fun t : State => Host.Outcome.next t.finish) (if_pos hsrc)

theorem exec_updateWrite {e : Ev} {r : Req} {s : State} (hsrc : r.src = 1) :
    exec (.updateWrite e r) s =
      .next (((s.at e).checkPairs.checkTs.checkPort r.ctx).serveWrite (Req.sized (Req.net r)) false).finish :=
  congrArg (fun t : State => Host.Outcome.next t.finish) (if_pos hsrc)

/-- Settles O36: the read finds a hand that was never written, the write goes to the pair's open hand, and a broken port takes no write. -/
theorem updateCommandsComplete : Obligations.UpdateCommandsComplete := by
  unfold Obligations.UpdateCommandsComplete
  refine ⟨?_, ?_, ?_⟩
  · intro e r g idx s b k hsrc hg hkind hlower hupper hlen hbase hinside hkey hfill howner hplace hpos hpage hopen hguard hfree hstitch hrec
      hctl
    have hin : InStitch g idx (Req.net r) := ⟨hkind, hlower, hupper, hlen, hbase, hinside, hkey, hfill, howner, hplace, hpos, hpage⟩
    have hread := State.serveRead_of_never hin hsrc hg hopen hfree hstitch hguard hrec hctl
    rw [exec_updateRead hsrc]
    exact congrArg (fun t : State => Host.Outcome.next t.finish) hread
  · intro e r g idx p s b k hsrc hport hg hkind hlower hupper hlen hbase hinside hkey hfill howner hfinal hplace hpos hpart hpage hopen
      hevac hfw hfree hstitch hpairs hregion hidx htag hcover hempty
    have hin : InStitch g idx (Req.sized (Req.net r)) :=
      ⟨hkind, hlower, hupper, hlen, hbase, hinside, hkey, hfill, howner, hplace, hpos, hpage⟩
    have hagrees : ∀ x, b.codedOf r.ctx = some x → x.portInv = ~~~x.port := by
      rw [howner]
      exact hport
    have hserved := State.serveWrite_of_open hin hsrc hg hport hopen hevac hfw hfree hstitch
    rw [State.writePalm_of_paired hin rfl hstitch hpairs hregion hidx htag hcover hfinal] at hserved
    obtain ⟨hout, hbytes, hrecs, hmerge, htouched, hpaired⟩ := State.writeOpen_effect (s := b.emit (.writeDone (r.id % 2 ^ 64) true))
      (off := r.addr % 4096) hpart hstitch hpairs hcover hempty
    refine ⟨_, ?_, hout, hbytes, hrecs, hmerge, htouched, ?_⟩
    · rw [exec_updateWrite hsrc, State.checkPort_of_agreeing hagrees]
      exact congrArg (fun t : State => Host.Outcome.next t.finish) hserved
    · rw [hpaired, Pair.written_of_first hcover]
  · intro e r g k s b hsrc hg howner hk hbroken
    have hk' : b.codedOf g.owner = some k := by rw [howner]; exact hk
    refine ⟨?_, State.found_of_checkPort hk hbroken⟩
    rw [exec_updateWrite hsrc]
    exact congrArg (fun t : State => Host.Outcome.next t.finish)
      (State.serveWrite_of_broken_port (q := Req.sized (Req.net r)) false hsrc hg hk' hbroken)

end Sys2Proof.Machine
